-- ==== Sys2Proof/Word.lean ====
section
/-! DEFINITION. The word types of the device and their plainest arithmetic. -/

namespace Sys2Proof

/-- A 64-bit integer register, edge, predicate-extended value or register-page word (R3, R56). -/
abbrev Word := BitVec 64

/-- One byte. -/
abbrev Byte := BitVec 8

/-- A 256-bit vector register (R223). -/
abbrev VWord := BitVec 256

/-- A 64-byte line, its byte at the lowest address in bits [7:0] (R3). -/
abbrev Line := BitVec 512

/-- A physical stop, 0–191 (R8). -/
abbrev Stop := Fin 192

/-- A network interface: 0–191 the port-0 NI of that stop, 192 the NI of the Patrol, 193 the NI of the Lift (R11). -/
abbrev NiId := Fin 194

/-- Bits [lo + w - 1 : lo] of a natural number. -/
def bitsOf (v lo w : Nat) : Nat := (v >>> lo) % 2 ^ w

/-- One bit of a natural number. -/
def bitOf (v n : Nat) : Bool := Nat.testBit v n

/-- A Bool as a number. -/
def b2n (b : Bool) : Nat := if b then 1 else 0

/-- A Nat as a 64-bit word. -/
def wd (n : Nat) : Word := BitVec.ofNat 64 n

/-- The value of the low `w` bits of `v`, as a signed number. -/
def sext (v w : Nat) : Int :=
  let m := v % 2 ^ w
  if 2 * m < 2 ^ w then (m : Int) else (m : Int) - (2 ^ w : Nat)

/-- The low `w` bits of a signed number. -/
def toBits (x : Int) (w : Nat) : Nat := (x % (2 ^ w : Nat)).toNat

end Sys2Proof
end

