-- ==== Sys2Proof/CommandTypes.lean ====
section
/-! DEFINITION. The operands of commands: requesters, pages, operations, flits, transaction-layer packets and the like. -/

namespace Sys2Proof

/-- Who makes a page access or a write of a register field (R38): the Patrol, the Lift's own logic counted as the Patrol
firmware's agent never, a core of a tile stop, or a hub for an inbound request. (DESIGN CHOICE, assumption 95) -/
structure Who where
  /-- The requester is the Patrol. -/
  patrol : Bool
  /-- Piste of the requester (R38). -/
  piste : Nat
  /-- The NI the request starts from. -/
  ni : NiId
  /-- Level of the carve that issued it, for a tile's own core (R297, R298): 0 U, 1 S, 2 H. -/
  lvl : Nat
deriving DecidableEq, Repr

/-- The Patrol as a requester: its NI is number 192. -/
def Who.isPatrol : Who := ⟨true, 0, 192, 2⟩

/-- The kind of an access that reaches a register page (R39). -/
inductive PgKind where
  /-- A single read or write of `size` bytes. -/
  | single (write : Bool) (size : Nat)
  /-- A line fill or other cacheable request. -/
  | line
  /-- A write-combined burst. -/
  | burst
  /-- An atomic operation. -/
  | atomic
  /-- A vector access. -/
  | vector
deriving DecidableEq, Repr

/-- A register page: physical stop and slot (R30). -/
structure PageRef where
  stop : Stop
  slot : Fin 256
deriving DecidableEq, Repr

/-- The response to a request (R27, R467), with the LINK_LOST completion of R599. -/
inductive Resp where
  | ok | unmapped | denied | closed | pageError | linkLost
deriving DecidableEq, Repr

/-- The STATUS code of a response (R467); LINK_LOST is made by the requester's own NI and has no code on the mesh. -/
def Resp.code : Resp → Nat
  | .ok => 0 | .unmapped => 1 | .denied => 2 | .closed => 3 | .pageError => 4 | .linkLost => 5

/-- The KIND code of R217 for an error response. -/
def Resp.kind : Resp → Nat
  | .ok => 0 | .unmapped => 1 | .denied => 2 | .closed => 3 | .pageError => 4 | .linkLost => 10

/-- An operation's fields beside its opcode (R113): guard, D, A, B, F, and the payload of an IMX in the slot before it
(R119). An exit's AN and OFS are bits [21:0], the concatenation of D, A, B and F (R149). -/
structure Op where
  p : BitVec 3
  d : BitVec 6
  a : BitVec 6
  b : BitVec 6
  f : BitVec 4
  imx : Option (BitVec 26)
deriving DecidableEq, Repr

/-- A flit (R465). Class 0 REQ, 1 RSP, 2 SNP, 3 CTL; `op` is the operation code of R466; `be` names the bytes. `hop` is the
number of routers after the source it has reached, by which the next code of its route is found. In a response `be` holds
the class of the request it answers, and in a request `grant` says that it travels on a shared ticket (R477): both are
what the two NIs know, put beside the flit. -/
structure Flit where
  op : Nat
  cls : Nat
  src : NiId
  dst : NiId
  tag : Nat
  epoch : Bool
  piste : Nat
  key : Nat
  spec : Bool
  poison : Nat
  status : Resp
  noalloc : Bool
  pin : Bool
  addr : Nat
  be : Nat
  tkt : Bool
  grant : Bool
  cal : Bool
  dlvc : Bool
  route : Nat
  hop : Nat
  payload : Line
deriving DecidableEq, Repr

/-- What a sweep read finds (R375, R404, R416): nothing, a corrected error, an uncorrectable data error, or an
uncorrectable tag or directory error. -/
inductive EccFound where
  | clean | corrected | uncorrectable | tagFatal
deriving DecidableEq, Repr

/-- A CXL.cache request of a device (R442). -/
structure CacheReq where
  id : Nat
  line : Nat
  /-- 0 read shared, 1 read own, 2 read current, 3 write back, 4 clean evict, 5 an opcode outside the subset. -/
  kind : Nat
  data : Line
  poison : Bool
deriving DecidableEq, Repr

/-- A CXL.mem response (R452): data or a completion, with the poison and metadata a device returns. -/
structure MemRsp where
  hasData : Bool
  data : Line
  poison : Bool
deriving DecidableEq, Repr

/-- A device's answer to an H2D snoop (R442). -/
structure SnpRsp where
  hasData : Bool
  data : Line
  poison : Bool
  /-- The device keeps a shared copy. -/
  keepS : Bool
deriving DecidableEq, Repr

/-- Kinds of inbound transaction-layer packet (R509). -/
inductive TlpKind where
  | memRd | memWr | atomFetchAdd | atomSwap | atomCas | cfg | io | msg
deriving DecidableEq, Repr

/-- An inbound transaction-layer packet. -/
structure Tlp where
  kind : TlpKind
  addr : Nat
  /-- Length in bytes. -/
  len : Nat
  rid : Nat
  tag : Nat
  data : List Byte
  ep : Bool
  /-- Address type bits: 0 untranslated, 1 translation request, 2 translated. -/
  at_ : Nat
  relaxed : Bool
  /-- ID-based ordering. -/
  ido : Bool
  pasid : Bool
deriving DecidableEq, Repr

/-- A completion of an outbound request (R508). Status 0 SC, 1 UR, 2 CA, 3 RRS. -/
structure Cpl where
  status : Nat
  data : List Byte
  ep : Bool
  /-- Relaxed ordering: it may pass earlier writes (R511). -/
  relaxed : Bool
deriving DecidableEq, Repr

/-- Inputs a slot shift chain frame samples for one slot (R513, R514). -/
structure SlotIn where
  prsntN : Bool
  mrlN : Bool
  attnN : Bool
  pgood : Bool
  pfaultN : Bool
  emil : Bool
deriving DecidableEq, Repr

/-- A denial that is reported to the Patrol (R538). -/
structure Viol where
  piste : Fin 64
  stop : Stop
  op : Nat
  pa : Nat
deriving DecidableEq, Repr

/-- A firmware call as the Patrol receives it (R288, R551): the calling tile or the composer at PF0, its piste and level,
the sequence number and the request words. -/
structure Call where
  /-- Logical tile of the caller; `none` is PF0 of the boot endpoint. -/
  lt : Option Nat
  /-- Hub of a PF0 caller. -/
  hub : Fin 8
  piste : Fin 64
  lvl : Nat
  seq : Nat
  args : List Word
deriving DecidableEq, Repr

/-- A wake event at the Lift (R567). -/
inductive WakeEv where
  /-- A tile's LEC would present a source. -/
  | tile (lt : Nat)
  /-- A package wake source by number, level or edge as LIFT_WAKE_CFG says. -/
  | source (n : Fin 8)
deriving DecidableEq, Repr

/-- A participant of a Lift handshake (R570, R577, R583): kind 0 tile, 1 hub, 2 NMC, and a reason. -/
structure Refuser where
  kind : Nat
  index : Nat
  reason : Nat
deriving DecidableEq, Repr

/-- An error report of a block (R579): class 0 CE, 1 UCR, 2 FATAL. -/
structure ErrReport where
  cls : Nat
  page : PageRef
  pa : Option Nat
deriving DecidableEq, Repr

/-- Why cold reset is entered (R640). -/
inductive ResetCause where
  | pwrOkLow | sysResetLong | railMonitor
deriving DecidableEq, Repr

/-- What the Patrol ROM finds at boot (R643-R646): outcomes of self-test and training, and what the flash holds. -/
structure BootIn where
  selfTest : Bool
  /-- SFDP of the boot flash offers 8D-8D-8D (R633). -/
  sfdp8d : Bool
  /-- What the flash holds from offset 0x0000_0000 and from offset 0x0100_0000 (R553, R554). -/
  imageA : List Byte
  imageB : List Byte
  /-- Fewer than 160 tiles pass the tile test (step 6), and the hubs that fail theirs (step 7). -/
  tilesFail : Bool
  hubsFail : List Nat
  /-- The fuse integrity check fails (step 4). -/
  fusesFail : Bool
  /-- NMCs whose training fails, by number. -/
  trainFail : List Nat
  /-- Boot loader bytes for LT0. -/
  loader : List Byte
deriving DecidableEq, Repr

/-- IEEE 1149.1 instructions (R635). -/
inductive JtagOp where
  | bypass | idcode | samplePreload | extest
deriving DecidableEq, Repr

/-- Debug port operations on a tile (R543). -/
inductive DbgOp where
  | halt | resume | singleStride
  | readG (n : Fin 32)
  | writeG (n : Fin 32) (v : Word)
deriving DecidableEq, Repr

end Sys2Proof
end

