-- ==== Sys2Proof/Syntax.lean ====
section
/-! DEFINITION. The commands of the device: one constructor for each row of the opcode table, in the table's order. -/

namespace Sys2Proof

/-- The commands. -/
inductive Instr where
  /-- REGISTER_WRITE (R6): A write to a register page field with no row of its own applies each field's access rule, discarding and recording forbidden changes. -/
  | registerWrite (w : Who) (pa : Nat) (k : PgKind) (v : Word)
  /-- PAGE_ERR_INJ (R36): Writing 1 to a PAGE_ERR_INJ bit sets the matching PAGE_ERR bit through the real error path, with its event and machine-check record. -/
  | pageErrInj (w : Who) (pg : PageRef) (v : Word)
  /-- PAGE_ENABLE_SET (R37): Setting PAGE_CTL.ENABLE starts the block as its page type defines. -/
  | pageEnableSet (w : Who) (pg : PageRef)
  /-- PAGE_ENABLE_CLEAR (R37): Clearing PAGE_CTL.ENABLE on a running block asks it to stop at the point its type defines, or is discarded where forbidden. -/
  | pageEnableClear (w : Who) (pg : PageRef)
  /-- BLOCK_STOPPED (R37): A block whose ENABLE was cleared reaches its stop point and PAGE_STAT.BUSY clears. -/
  | blockStopped (pg : PageRef)
  /-- CARVE_FETCH (R52): Fetch reads a carve, checks its header, translation and lines, and holds any failure in its station. -/
  | carveFetch (st : Stop)
  /-- RENAME (R57): Rename allocates a station, physical registers and a VCFG copy for one carve per core cycle, or stalls. -/
  | rename (st : Stop)
  /-- DISPATCH (R63): Each free track takes the oldest READY or RESUMABLE carve, restoring the state of a resumed carve. -/
  | dispatch (st : Stop)
  /-- STRIDE_ISSUE (R64): A track issues the next stride of its carve once nothing holds it, all present operations together. -/
  | strideIssue (st : Stop) (trk : Fin 2)
  /-- LODGE (R66): A stride stalled on an interlock beyond LODGE_THRESH with another carve ready saves its track state into the station and frees the track. -/
  | lodge (st : Stop) (trk : Fin 2)
  /-- RESULT_LAND (R90): An interlocked result lands in its destination, releasing stalled strides and making lodged carves RESUMABLE. -/
  | resultLand (st : Stop) (stn : Fin 16) (tag : Nat)
  /-- CARVE_COMMIT (R70): The oldest CLOSED carve commits, making its registers architectural, releasing its stores and freeing its station. -/
  | carveCommit (st : Stop)
  /-- OLDEST_QUEUE_SQUASH (R72): When the oldest carve lacks queue entries held by younger carves, the core squashes every younger carve in the next cycle. -/
  | oldestQueueSquash (st : Stop)
  /-- FAULT_RAISE (R79): A held fault is raised when its carve is oldest, squashing younger carves and committing the partial state. -/
  | faultRaise (st : Stop)
  /-- GROOM_EN (R109): A write of CORE_TIME_CTL.GROOM_EN requests entry to or exit from groomed mode at the next commit. -/
  | groomEn (w : Who) (st : Stop) (v : Bool)
  /-- CHECK_EN (R109): A write of CORE_TIME_CTL.CHECK_EN requests entry to or exit from contract-check mode at the next commit. -/
  | checkEn (w : Who) (st : Stop) (v : Bool)
  /-- SPECULATIVE_REISSUE (R168): A read refused while speculative is reissued without the mark when its carve becomes oldest. -/
  | speculativeReissue (st : Stop) (lq : Nat)
  /-- RINK_FLUSH (R173): Writing CORE_FLOW_CTL.RINK_FLUSH discards the rink capture and ends streaming. -/
  | rinkFlush (w : Who) (st : Stop)
  /-- PRED_FLUSH (R173): Writing CORE_FLOW_CTL.PRED_FLUSH clears the direction tables, target buffer and return stack. -/
  | predFlush (w : Who) (st : Stop)
  /-- ALU (R124): Opcode 0x00 computes the integer function F selects into D. -/
  | alu (st : Stop) (trk : Fin 2) (sl : Fin 4) (o : Op)
  /-- SHIFT (R125): Opcode 0x01 computes the shift, count or extension F selects into D. -/
  | shift (st : Stop) (trk : Fin 2) (sl : Fin 4) (o : Op)
  /-- MUL (R127): Opcode 0x02 computes the multiply F selects with latency 3. -/
  | mul (st : Stop) (trk : Fin 2) (sl : Fin 4) (o : Op)
  /-- DIV (R128): Opcode 0x03 computes a divide or remainder, interlocked and occupying the divider. -/
  | div (st : Stop) (trk : Fin 2) (sl : Fin 4) (o : Op)
  /-- ADDI (R126): Adds the sign-extended immediate to A. -/
  | addi (st : Stop) (trk : Fin 2) (sl : Fin 4) (o : Op)
  /-- ANDI (R126): ANDs the sign-extended immediate with A. -/
  | andi (st : Stop) (trk : Fin 2) (sl : Fin 4) (o : Op)
  /-- ORI (R126): ORs the sign-extended immediate with A. -/
  | ori (st : Stop) (trk : Fin 2) (sl : Fin 4) (o : Op)
  /-- XORI (R126): XORs the sign-extended immediate with A. -/
  | xori (st : Stop) (trk : Fin 2) (sl : Fin 4) (o : Op)
  /-- SLLI (R126): Shifts A left by imm[5:0]. -/
  | slli (st : Stop) (trk : Fin 2) (sl : Fin 4) (o : Op)
  /-- SRLI (R126): Shifts A right with zero fill by imm[5:0]. -/
  | srli (st : Stop) (trk : Fin 2) (sl : Fin 4) (o : Op)
  /-- SRAI (R126): Shifts A right with sign fill by imm[5:0]. -/
  | srai (st : Stop) (trk : Fin 2) (sl : Fin 4) (o : Op)
  /-- RORI (R126): Rotates A right by imm[5:0]. -/
  | rori (st : Stop) (trk : Fin 2) (sl : Fin 4) (o : Op)
  /-- CMP (R129): Opcode 0x20 sets predicate D from the register comparison F selects. -/
  | cmp (st : Stop) (trk : Fin 2) (sl : Fin 4) (o : Op)
  /-- CMPEQI (R130): Sets predicate D when A equals the sign-extended immediate. -/
  | cmpeqi (st : Stop) (trk : Fin 2) (sl : Fin 4) (o : Op)
  /-- CMPNEI (R130): Sets predicate D when A differs from the sign-extended immediate. -/
  | cmpnei (st : Stop) (trk : Fin 2) (sl : Fin 4) (o : Op)
  /-- CMPLTI (R130): Sets predicate D when A is signed-less than the immediate. -/
  | cmplti (st : Stop) (trk : Fin 2) (sl : Fin 4) (o : Op)
  /-- CMPGEI (R130): Sets predicate D when A is signed-greater or equal to the immediate. -/
  | cmpgei (st : Stop) (trk : Fin 2) (sl : Fin 4) (o : Op)
  /-- CMPLTUI (R130): Sets predicate D when A is unsigned-less than the sign-extended immediate. -/
  | cmpltui (st : Stop) (trk : Fin 2) (sl : Fin 4) (o : Op)
  /-- CMPGEUI (R130): Sets predicate D when A is unsigned-greater or equal to the sign-extended immediate. -/
  | cmpgeui (st : Stop) (trk : Fin 2) (sl : Fin 4) (o : Op)
  /-- PLOG (R131): Opcode 0x27 computes the predicate logic or conversion F selects. -/
  | plog (st : Stop) (trk : Fin 2) (sl : Fin 4) (o : Op)
  /-- LI (R132): Loads the sign-extended immediate into D. -/
  | li (st : Stop) (trk : Fin 2) (sl : Fin 4) (o : Op)
  /-- LIH (R132): Keeps the low 36 bits of A and inserts imm[27:0] at bit 36. -/
  | lih (st : Stop) (trk : Fin 2) (sl : Fin 4) (o : Op)
  /-- CADR (R132): Writes the carve address plus the sign-extended immediate to D. -/
  | cadr (st : Stop) (trk : Fin 2) (sl : Fin 4) (o : Op)
  /-- IMX (R119): Extends the immediate of the next present slot of its stride to 36 bits. -/
  | imx (st : Stop) (trk : Fin 2) (sl : Fin 4) (o : Op)
  /-- SETVL (R229): Sets VTYPE from F and VL to min(A, VLMAX), writing the new VL to D. -/
  | setvl (st : Stop) (trk : Fin 2) (sl : Fin 4) (o : Op)
  /-- VCFGR (R230): Reads VCFG into an integer register. -/
  | vcfgr (st : Stop) (trk : Fin 2) (sl : Fin 4) (o : Op)
  /-- VCFGW (R230): Writes VCFG from A, clamping GCODE and VL. -/
  | vcfgw (st : Stop) (trk : Fin 2) (sl : Fin 4) (o : Op)
  /-- FSTATR (R245): Reads the committed FSTAT from the oldest carve. -/
  | fstatr (st : Stop) (trk : Fin 2) (sl : Fin 4) (o : Op)
  /-- FSTATW (R245): At commit sets FSTAT to A ORed with the carve's flags, then squashes and refetches. -/
  | fstatw (st : Stop) (trk : Fin 2) (sl : Fin 4) (o : Op)
  /-- SRR (R137): Reads the named status register as it stands at issue. -/
  | srr (st : Stop) (trk : Fin 2) (sl : Fin 4) (o : Op)
  /-- SRW (R137): Writes A to the named status register at commit. -/
  | srw (st : Stop) (trk : Fin 2) (sl : Fin 4) (o : Op)
  /-- SRSET (R137): ORs A into the named status register at commit and returns its value at issue. -/
  | srset (st : Stop) (trk : Fin 2) (sl : Fin 4) (o : Op)
  /-- SRCLR (R137): Clears the bits of A in the named status register at commit and returns its value at issue. -/
  | srclr (st : Stop) (trk : Fin 2) (sl : Fin 4) (o : Op)
  /-- FENCE (R211): At commit orders the earlier accesses its variant names before later ones, squashing and holding younger carves. -/
  | fence (st : Stop) (trk : Fin 2) (sl : Fin 4) (o : Op)
  /-- SYNC_C (R84): At commit invalidates the carve cache, discards the rink capture, squashes younger carves and refetches. -/
  | syncC (st : Stop) (trk : Fin 2) (sl : Fin 4) (o : Op)
  /-- SCALL (R141): At commit enters the S-level call handler with the successor as return point. -/
  | scall (st : Stop) (trk : Fin 2) (sl : Fin 4) (o : Op)
  /-- HCALL (R141): At commit enters the H-level call handler with the successor as return point. -/
  | hcall (st : Stop) (trk : Fin 2) (sl : Fin 4) (o : Op)
  /-- BRK (R142): Raises a breakpoint fault when it runs. -/
  | brk (st : Stop) (trk : Fin 2) (sl : Fin 4) (o : Op)
  /-- UDF (R142): Raises an illegal operation fault when it runs. -/
  | udf (st : Stop) (trk : Fin 2) (sl : Fin 4) (o : Op)
  /-- SRET (R285): At commit at S returns from the top frame, or chains to a pending source. -/
  | sret (st : Stop) (trk : Fin 2) (sl : Fin 4) (o : Op)
  /-- HRET (R285): At commit at H returns from the top frame, or chains to a pending source. -/
  | hret (st : Stop) (trk : Fin 2) (sl : Fin 4) (o : Op)
  /-- WFI (R143): Holds its stride until the LEC has a presentable source, then completes. -/
  | wfi (st : Stop) (trk : Fin 2) (sl : Fin 4) (o : Op)
  /-- RDCNT (R144): Returns the named counter as held at issue, subject to counter rights. -/
  | rdcnt (st : Stop) (trk : Fin 2) (sl : Fin 4) (o : Op)
  /-- RDCHRONO (R145): Returns the local chrono count, interlocked with count 8. -/
  | rdchrono (st : Stop) (trk : Fin 2) (sl : Fin 4) (o : Op)
  /-- EXIT_R (R152): Relative exit that takes its target when its guard is true. -/
  | exitR (st : Stop) (trk : Fin 2) (sl : Fin 4) (o : Op)
  /-- CALL_R (R153): Relative exit that, when taken, writes the fall-through address to g1. -/
  | callR (st : Stop) (trk : Fin 2) (sl : Fin 4) (o : Op)
  /-- EXIT_X (R148): Register exit to the address in A. -/
  | exitX (st : Stop) (trk : Fin 2) (sl : Fin 4) (o : Op)
  /-- CALL_X (R153): Register exit to A that, when taken, writes the fall-through address to g1. -/
  | callX (st : Stop) (trk : Fin 2) (sl : Fin 4) (o : Op)
  /-- RET (R148): Register exit to A, predicted from the return stack. -/
  | ret (st : Stop) (trk : Fin 2) (sl : Fin 4) (o : Op)
  /-- LD_B (R181): Loads a byte, sign-extended. -/
  | ldB (st : Stop) (trk : Fin 2) (sl : Fin 4) (o : Op)
  /-- LD_BU (R181): Loads a byte, zero-extended. -/
  | ldBu (st : Stop) (trk : Fin 2) (sl : Fin 4) (o : Op)
  /-- LD_H (R181): Loads two bytes, sign-extended. -/
  | ldH (st : Stop) (trk : Fin 2) (sl : Fin 4) (o : Op)
  /-- LD_HU (R181): Loads two bytes, zero-extended. -/
  | ldHu (st : Stop) (trk : Fin 2) (sl : Fin 4) (o : Op)
  /-- LD_W (R181): Loads four bytes, sign-extended. -/
  | ldW (st : Stop) (trk : Fin 2) (sl : Fin 4) (o : Op)
  /-- LD_WU (R181): Loads four bytes, zero-extended. -/
  | ldWu (st : Stop) (trk : Fin 2) (sl : Fin 4) (o : Op)
  /-- LD_D (R181): Loads eight bytes. -/
  | ldD (st : Stop) (trk : Fin 2) (sl : Fin 4) (o : Op)
  /-- LDF_D (R181): Loads eight bytes into an FP register. -/
  | ldfD (st : Stop) (trk : Fin 2) (sl : Fin 4) (o : Op)
  /-- LDF_W (R181): Loads four bytes into an FP register, boxed. -/
  | ldfW (st : Stop) (trk : Fin 2) (sl : Fin 4) (o : Op)
  /-- LDF_H (R181): Loads two bytes into an FP register, boxed. -/
  | ldfH (st : Stop) (trk : Fin 2) (sl : Fin 4) (o : Op)
  /-- ST_B (R181): Stores the low byte of D. -/
  | stB (st : Stop) (trk : Fin 2) (sl : Fin 4) (o : Op)
  /-- ST_H (R181): Stores the low two bytes of D. -/
  | stH (st : Stop) (trk : Fin 2) (sl : Fin 4) (o : Op)
  /-- ST_W (R181): Stores the low four bytes of D. -/
  | stW (st : Stop) (trk : Fin 2) (sl : Fin 4) (o : Op)
  /-- ST_D (R181): Stores eight bytes of D. -/
  | stD (st : Stop) (trk : Fin 2) (sl : Fin 4) (o : Op)
  /-- STF_D (R181): Stores eight bytes of fD. -/
  | stfD (st : Stop) (trk : Fin 2) (sl : Fin 4) (o : Op)
  /-- STF_W (R181): Stores the low four bytes of fD. -/
  | stfW (st : Stop) (trk : Fin 2) (sl : Fin 4) (o : Op)
  /-- STF_H (R181): Stores the low two bytes of fD. -/
  | stfH (st : Stop) (trk : Fin 2) (sl : Fin 4) (o : Op)
  /-- LDX (R182): Indexed load at A + B of the kind F selects. -/
  | ldx (st : Stop) (trk : Fin 2) (sl : Fin 4) (o : Op)
  /-- STX (R182): Indexed store at A + B of the kind F selects. -/
  | stx (st : Stop) (trk : Fin 2) (sl : Fin 4) (o : Op)
  /-- LD_ACQ (R182): Acquire load at A that holds later memory operations until it performs. -/
  | ldAcq (st : Stop) (trk : Fin 2) (sl : Fin 4) (o : Op)
  /-- ST_REL (R182): Release store at A ordered after every earlier access. -/
  | stRel (st : Stop) (trk : Fin 2) (sl : Fin 4) (o : Op)
  /-- AMO (R185): Relaxed 8-byte atomic read-modify-write returning the old value. -/
  | amo (st : Stop) (trk : Fin 2) (sl : Fin 4) (o : Op)
  /-- AMO_W (R185): Relaxed 4-byte atomic read-modify-write returning the old value sign-extended. -/
  | amoW (st : Stop) (trk : Fin 2) (sl : Fin 4) (o : Op)
  /-- AMO_AR (R185): 8-byte atomic with acquire and release ordering. -/
  | amoAr (st : Stop) (trk : Fin 2) (sl : Fin 4) (o : Op)
  /-- AMO_W_AR (R185): 4-byte atomic with acquire and release ordering. -/
  | amoWAr (st : Stop) (trk : Fin 2) (sl : Fin 4) (o : Op)
  /-- CAS (R186): Compares memory with D and writes B on equality, returning the old value. -/
  | cas (st : Stop) (trk : Fin 2) (sl : Fin 4) (o : Op)
  /-- ATOMIC_PERFORM (R188): A waiting atomic performs near, far or in the pad once its carve is oldest and older stores have drained. -/
  | atomicPerform (st : Stop) (lq : Nat)
  /-- PREF (R184): Requests a line into the named cache level with a speculative mark, never faulting. -/
  | pref (st : Stop) (trk : Fin 2) (sl : Fin 4) (o : Op)
  /-- CLEAN (R363): Writes back dirty copies of the line or set/way at the named scope. -/
  | clean (st : Stop) (trk : Fin 2) (sl : Fin 4) (o : Op)
  /-- INVAL (R363): Discards copies of the line or set/way at the named scope, dirty data included. -/
  | inval (st : Stop) (trk : Fin 2) (sl : Fin 4) (o : Op)
  /-- CLINV (R363): Writes back dirty copies and then removes the line at the named scope. -/
  | clinv (st : Stop) (trk : Fin 2) (sl : Fin 4) (o : Op)
  /-- LOCKFILL (R372): Moves or fills the line into an empty locked L2 way of its set, or sets NOROOM. -/
  | lockfill (st : Stop) (trk : Fin 2) (sl : Fin 4) (o : Op)
  /-- XINV_AD (R338): At commit removes translations of the address and tag, broadcasting for PISTE scope. -/
  | xinvAd (st : Stop) (trk : Fin 2) (sl : Fin 4) (o : Op)
  /-- XINV_TAG (R338): At commit removes non-global translations of the tag, broadcasting for PISTE scope. -/
  | xinvTag (st : Stop) (trk : Fin 2) (sl : Fin 4) (o : Op)
  /-- XINV_ALL (R338): At commit removes every translation the level may name, broadcasting for PISTE scope. -/
  | xinvAll (st : Stop) (trk : Fin 2) (sl : Fin 4) (o : Op)
  /-- XWAIT (R342): Holds its stride until earlier PISTE-scope XINVs are acknowledged and earlier stores performed. -/
  | xwait (st : Stop) (trk : Fin 2) (sl : Fin 4) (o : Op)
  /-- PISTE_INVALIDATION_SEND (R340): Once earlier committed stores have performed, the NI sends a PISTE-scope invalidation to every other tile of the piste. -/
  | pisteInvalidationSend (st : Stop)
  /-- VLD (R255): Unit-stride vector load. -/
  | vld (st : Stop) (trk : Fin 2) (sl : Fin 4) (o : Op)
  /-- VST (R255): Unit-stride vector store. -/
  | vst (st : Stop) (trk : Fin 2) (sl : Fin 4) (o : Op)
  /-- VLDS (R255): Strided vector load. -/
  | vlds (st : Stop) (trk : Fin 2) (sl : Fin 4) (o : Op)
  /-- VSTS (R255): Strided vector store. -/
  | vsts (st : Stop) (trk : Fin 2) (sl : Fin 4) (o : Op)
  /-- VGATHER (R255): Indexed vector load. -/
  | vgather (st : Stop) (trk : Fin 2) (sl : Fin 4) (o : Op)
  /-- VSCATTER (R255): Indexed vector store. -/
  | vscatter (st : Stop) (trk : Fin 2) (sl : Fin 4) (o : Op)
  /-- SCALAR_FP64 (R246): Opcode 0x60 performs the FP64 scalar operation F selects. -/
  | scalarFp64 (st : Stop) (trk : Fin 2) (sl : Fin 4) (o : Op)
  /-- SCALAR_FP32 (R246): Opcode 0x61 performs the FP32 scalar operation F selects. -/
  | scalarFp32 (st : Stop) (trk : Fin 2) (sl : Fin 4) (o : Op)
  /-- SCALAR_FP16 (R246): Opcode 0x62 performs the FP16 scalar operation F selects. -/
  | scalarFp16 (st : Stop) (trk : Fin 2) (sl : Fin 4) (o : Op)
  /-- SCALAR_BF16 (R246): Opcode 0x63 performs the BF16 scalar operation F selects. -/
  | scalarBf16 (st : Stop) (trk : Fin 2) (sl : Fin 4) (o : Op)
  /-- FMA (R247): Fused multiply-add family on fD, fA and fB in the format F selects. -/
  | fma (st : Stop) (trk : Fin 2) (sl : Fin 4) (o : Op)
  /-- FCMP (R248): Writes 1 to integer D when the FP comparison holds. -/
  | fcmp (st : Stop) (trk : Fin 2) (sl : Fin 4) (o : Op)
  /-- FCVT_FF (R248): Converts between FP formats. -/
  | fcvtFf (st : Stop) (trk : Fin 2) (sl : Fin 4) (o : Op)
  /-- FCVT_FI (R248): Converts an integer to FP, rounded in RMODE. -/
  | fcvtFi (st : Stop) (trk : Fin 2) (sl : Fin 4) (o : Op)
  /-- FCVT_IF (R242): Converts FP to integer, rounding toward zero and saturating. -/
  | fcvtIf (st : Stop) (trk : Fin 2) (sl : Fin 4) (o : Op)
  /-- FBITS (R248): Moves raw bits between an FP and an integer register. -/
  | fbits (st : Stop) (trk : Fin 2) (sl : Fin 4) (o : Op)
  /-- VINT_VV (R250): Element-wise vector integer operation on two groups. -/
  | vintVv (st : Stop) (trk : Fin 2) (sl : Fin 4) (o : Op)
  /-- VINT_VX (R250): Element-wise vector integer operation with a scalar integer. -/
  | vintVx (st : Stop) (trk : Fin 2) (sl : Fin 4) (o : Op)
  /-- VMAC (R250): Vector integer multiply-accumulate into D. -/
  | vmac (st : Stop) (trk : Fin 2) (sl : Fin 4) (o : Op)
  /-- VFP_VV (R251): Element-wise vector FP operation on two groups. -/
  | vfpVv (st : Stop) (trk : Fin 2) (sl : Fin 4) (o : Op)
  /-- VFP_VF (R251): Element-wise vector FP operation with scalar fB. -/
  | vfpVf (st : Stop) (trk : Fin 2) (sl : Fin 4) (o : Op)
  /-- VFMA (R251): Element-wise vector fused multiply-add. -/
  | vfma (st : Stop) (trk : Fin 2) (sl : Fin 4) (o : Op)
  /-- VFDS (R251): Vector FP divide or square root, interlocked. -/
  | vfds (st : Stop) (trk : Fin 2) (sl : Fin 4) (o : Op)
  /-- VFCVT (R251): Same-width vector conversion of each element. -/
  | vfcvt (st : Stop) (trk : Fin 2) (sl : Fin 4) (o : Op)
  /-- VFCMP (R251): Element-wise vector FP compare writing all-ones masks. -/
  | vfcmp (st : Stop) (trk : Fin 2) (sl : Fin 4) (o : Op)
  /-- VPERM (R252): Vector permute, duplicate or element extraction F selects. -/
  | vperm (st : Stop) (trk : Fin 2) (sl : Fin 4) (o : Op)
  /-- VRED (R253): Vector integer reduction in the fixed tree order. -/
  | vred (st : Stop) (trk : Fin 2) (sl : Fin 4) (o : Op)
  /-- VFRED (R253): Vector FP reduction, tree-ordered or ordered sum. -/
  | vfred (st : Stop) (trk : Fin 2) (sl : Fin 4) (o : Op)
  /-- STORE_DRAIN (R71): A committed store drains from the store queue into L1, the pad or memory and frees its entry. -/
  | storeDrain (st : Stop) (sq : Nat)
  /-- WC_BUFFER_TIMEOUT (R196): A WC buffer untouched for 1,024 core cycles is written to memory. -/
  | wcBufferTimeout (st : Stop) (line : Nat)
  /-- DEV_S_ACKNOWLEDGE (R199): The target's acknowledgement completes a DEV-S store and releases held younger memory operations. -/
  | devSAcknowledge (st : Stop) (sq : Nat)
  /-- STORE_REFUSAL (R218): A refused store, WC write, maintenance or LOCKFILL is recorded in CORE_MEMERR and raises STORE_ERR. -/
  | storeRefusal (st : Stop) (sq : Nat) (r : Resp)
  /-- INTERRUPT_ACCEPT (R277): The core accepts an acceptable presented source in the first cycle with no bound carve, squashing uncommitted carves. -/
  | interruptAccept (st : Stop)
  /-- PMB_RING (R288): A write of PMB_RING at commit, after earlier stores drain, rings the Patrol mailbox with SEQ. -/
  | pmbRing (st : Stop)
  /-- PMB_COMPLETION (R290): The Patrol's completion with matching SEQ sets DONE and raises PMB_DONE. -/
  | pmbCompletion (st : Stop) (seq result : Nat) (rsp : List Word)
  /-- PMB_TIMEOUT (R290): A call not completed 10 ms after the ring ends with RESULT 0xFFFF_FFFF and TIMEOUT. -/
  | pmbTimeout (st : Stop)
  /-- EVT (R293): An arriving event sets the pending bit of its source, or is discarded with BADEVT. -/
  | evt (ni : NiId) (f : Flit)
  /-- LEC_CLAIM (R297): A read of LEC_CLAIM pushes the presented source on the active stack and returns it. -/
  | lecClaim (w : Who) (st : Stop)
  /-- LEC_COMPLETE (R298): A write of LEC_COMPLETE pops or removes the named source, or is refused or counted as stray. -/
  | lecComplete (w : Who) (st : Stop) (src : Nat)
  /-- LEC_DOORBELL (R305): A write of LEC_DOORBELL sets the pending bit of the named source. -/
  | lecDoorbell (w : Who) (st : Stop) (src : Nat)
  /-- LEC_PEND_WRITE (R302): A write of LEC_PEND sets or clears edge pending bits, setting acting as an event. -/
  | lecPendWrite (w : Who) (st : Stop) (k : Fin 4) (v : Word)
  /-- MSI (R307): An inbound write to the capture address is checked against PORT_IRT and delivered as a doorbell after earlier writes perform. -/
  | msi (h : Fin 8) (p : Fin 5) (pa data rid : Nat)
  /-- MSI_RETRY (R308): A doorbell refused CLOSED is sent again every 1 µs up to 64 attempts, then dropped. -/
  | msiRetry (h : Fin 8) (p : Fin 5) (n : Fin 128)
  /-- IRT_UNMASK (R307): Clearing MASKED with PBIT set delivers one held MSI under the entry as it now stands. -/
  | irtUnmask (w : Who) (h : Fin 8) (p : Fin 5) (n : Fin 128)
  /-- LEC_TIMER (R309): Timer source 8+n becomes pending when the chrono reaches its comparator. -/
  | lecTimer (st : Stop) (n : Fin 4)
  /-- WATCHDOG_FIRST_STAGE (R310): The watchdog count reaching PERIOD x 1,024 makes source 12 pending. -/
  | watchdogFirstStage (st : Stop)
  /-- WATCHDOG_EXPIRY (R310): The watchdog count reaching twice the period reports expiry to the Patrol and stops counting. -/
  | watchdogExpiry (st : Stop)
  /-- LEC_WDOG_KICK (R310): A write of LEC_WDOG_KICK sets the watchdog count to zero. -/
  | lecWdogKick (w : Who) (st : Stop)
  /-- PAGE_WALK (R323): The walker reads table entries, checks permissions, and installs a translation or ends with a fault. -/
  | pageWalk (st : Stop) (k : Nat)
  /-- AD_UPDATE (R325): For the oldest carve the walker sets A or D by a far compare-and-swap on the entry. -/
  | adUpdate (st : Stop) (k : Nat)
  /-- XINV (R341): A received broadcast invalidation removes entries, squashes and refetches uncommitted carves. -/
  | xinv (ni : NiId) (f : Flit)
  /-- INVALIDATION_ACK (R341): Once its earlier committed stores have performed, the tile acknowledges a broadcast invalidation. -/
  | invalidationAck (st : Stop)
  /-- TLB_FLUSH (R344): Writing CORE_MMU_CTL.TLB_FLUSH removes every TLB and walker-cache entry at the next commit. -/
  | tlbFlush (w : Who) (st : Stop)
  /-- RD_S (R352): A shared read is served by the home slice from the LLC, an owner or memory. -/
  | rdS (ni : NiId) (f : Flit)
  /-- RD_O (R352): A read for ownership invalidates other copies and moves the line to the requester. -/
  | rdO (ni : NiId) (f : Flit)
  /-- RD_NC (R466): A non-cacheable read of the named bytes at its target. -/
  | rdNc (ni : NiId) (f : Flit)
  /-- WR_NC (R466): A non-cacheable write of the named bytes at its target. -/
  | wrNc (ni : NiId) (f : Flit)
  /-- WB (R352): A victim write-back is allocated in the LLC or written to memory. -/
  | wb (ni : NiId) (f : Flit)
  /-- WR_LINE (R466): A full-line write at its target. -/
  | wrLine (ni : NiId) (f : Flit)
  /-- ATOM (R352): A far atomic invalidates L2 copies and operates at the home slice or target pad. -/
  | atom (ni : NiId) (f : Flit)
  /-- MAINT (R367): A maintenance request acts on the line at each cache it names in arrival order. -/
  | maint (ni : NiId) (f : Flit)
  /-- SNP_INV (R351): A snoop from a home slice invalidates the line in an L2. -/
  | snpInv (ni : NiId) (f : Flit)
  /-- SNP_SH (R352): A snoop from a home slice drops the owner's line to S with write-back. -/
  | snpSh (ni : NiId) (f : Flit)
  /-- DATA (R466): A response with data arrives for an outstanding transaction. -/
  | data (ni : NiId) (f : Flit)
  /-- ACK (R466): A response without data arrives for an outstanding transaction. -/
  | ack (ni : NiId) (f : Flit)
  /-- TKT (R477): A ticket return restores a requester's standing ticket. -/
  | tkt (ni : NiId) (f : Flit)
  /-- TKT_RET (R477): A shared ticket released by a requester returns to the target's pool. -/
  | tktRet (ni : NiId) (f : Flit)
  /-- TBL (R357): An NI updates its copy of a remap, map, decoder, epoch or mask table and acknowledges. -/
  | tbl (ni : NiId)
  /-- L2_RANGE_GO (R369): Writing GO while idle starts the range engine over the programmed range. -/
  | l2RangeGo (w : Who) (st : Stop)
  /-- L2_RANGE_ABORT (R369): Writing ABORT stops the range engine after the line in hand. -/
  | l2RangeAbort (w : Who) (st : Stop)
  /-- RANGE_ENGINE_DONE (R369): The range engine finishes, sets DONE and raises its source if enabled. -/
  | rangeEngineDone (st : Stop)
  /-- L2_LOCK (R371): A write of L2_LOCK.WAYMASK locks ways, emptying new ones, or is rejected. -/
  | l2Lock (w : Who) (st : Stop) (mask : BitVec 16)
  /-- LOCK_EMPTYING_DONE (R371): Newly locked ways finish emptying and L2_LOCK_STAT.BUSY clears. -/
  | lockEmptyingDone (st : Stop)
  /-- CACHE_SWEEP_READ (R376): The L2 or slice sweep reads one line every 2^K mesh cycles and handles errors found. -/
  | cacheSweepRead (st : Stop) (slice : Bool) (set way : Nat) (e : EccFound)
  /-- SLICE_DRAIN (R358): A Patrol GO of SLICE_DRAIN starts draining the named lanes or the whole slice. -/
  | sliceDrain (w : Who) (st : Stop) (v : Word)
  /-- SLICE_DRAIN_DONE (R358): A drain finishes and SLICE_DRAIN_STAT.DONE sets. -/
  | sliceDrainDone (st : Stop)
  /-- BREMAP_ENT_WRITE (R357): A write of a remap entry is sent to every NI, PENDING counting acknowledgements. -/
  | bremapEntWrite (w : Who) (b : Fin 256) (v : Word)
  /-- PAD_ZEROING_DONE (R402): Pad zeroing ends and PAD_STAT.ZEROING clears, releasing waiting requests. -/
  | padZeroingDone (st : Stop)
  /-- PAD_COPY_GO (R411): A Patrol GO of PAD_COPY_CTL starts the copy engine for ZERO or COPY. -/
  | padCopyGo (w : Who) (st : Stop) (v : Word)
  /-- PAD_COPY_DONE (R403): The copy engine finishes its run, or stops on an error response. -/
  | padCopyDone (st : Stop)
  /-- PAD_SWEEP_READ (R405): The pad sweep reads one row every 2^K mesh cycles and handles errors under R404. -/
  | padSweepRead (st : Stop) (e : EccFound)
  /-- NMC_REQUEST_ISSUE (R421): A channel issues the next queued request by its scheduling policy. -/
  | nmcRequestIssue (c : Fin 48)
  /-- FALLBACK_SCHEDULING (R421): A full activate window or an over-age request switches the channel to per-bank rotating scheduling. -/
  | fallbackScheduling (c : Fin 48)
  /-- PAGE_IDLE_PRECHARGE (R422): A bank idle for IDLE NMC cycles is precharged. -/
  | pageIdlePrecharge (c : Fin 48) (bank : Fin 16)
  /-- PER_BANK_REFRESH (R423): A due per-bank refresh is issued to an idle bank. -/
  | perBankRefresh (c : Fin 48) (bank : Fin 16)
  /-- ALL_BANK_REFRESH (R423): Refresh postponed to the limit stops new accesses and issues all-bank refresh. -/
  | allBankRefresh (c : Fin 48)
  /-- RFM (R424): A drawn refresh management command is issued to its bank when idle. -/
  | rfm (c : Fin 48) (bank : Fin 16)
  /-- DEVICE_RFM_DEMAND (R424): The device signals an RFM demand, which the channel honours. -/
  | deviceRfmDemand (c : Fin 48) (bank : Fin 16)
  /-- TRAIN_GO (R427): A Patrol write of TRAIN_GO trains every channel at 9,600 MT/s. -/
  | trainGo (w : Who) (n : Fin 8)
  /-- TRAINING_DONE (R427): Training ends, setting READY or forcing failed channels OFF with TRAIN_FAIL. -/
  | trainingDone (n : Fin 8) (fail : BitVec 6)
  /-- DQS_OSCILLATOR (R427): Every OSC_PERIOD µs the channel runs the DQS interval oscillator and adjusts write timing. -/
  | dqsOscillator (c : Fin 48)
  /-- NMC_SWEEP_READ (R434): The channel sweep reads one line every 2^K NMC cycles and handles errors. -/
  | nmcSweepRead (c : Fin 48) (e : EccFound)
  /-- NEAR_CACHE_FILL (R430): A cache-channel miss returns from the hub and installs the line in its frame. -/
  | nearCacheFill (c : Fin 48) (line : Nat) (data : Line) (poison : Bool)
  /-- SEGMENT_ZEROING_DONE (R425): Zeroing of unretained segments after PK1 ends and the channel serves requests. -/
  | segmentZeroingDone (c : Fin 48)
  /-- NMC_CALENDAR_EN (R431): A write of NMC_CAL_CTL.EN requests the calendar, or is rejected when REF_OK = 0. -/
  | nmcCalendarEn (w : Who) (c : Fin 48) (v : Bool)
  /-- CALENDAR_ACTIVATE (R431): At the next period boundary the calendar becomes active or inactive. -/
  | calendarActivate (c : Fin 48)
  /-- NMC_CAL_SLOT (R431): At each calendar slot the channel serves the requests that slot's kind allows. -/
  | nmcCalSlot (c : Fin 48)
  /-- NTMAP_WRITE (R432): A write to the NTMAP page is sent to every NI, PENDING counting acknowledgements. -/
  | ntmapWrite (w : Who) (off : Nat) (v : Word)
  /-- BISNP (R438): A back-invalidate snoop is handled at the home slice and answered with BIRsp. -/
  | bisnp (h : Fin 8) (p : Fin 5) (line kind : Nat)
  /-- D2H_REQUEST (R442): A CXL.cache device request is admitted or refused with poison or drop. -/
  | d2hRequest (h : Fin 8) (p : Fin 5) (q : CacheReq)
  /-- H2D_SNOOP_TIMEOUT (R442): An H2D snoop unanswered for 2 ms is answered by the hub, poisoned and CXL.cache disabled. -/
  | h2dSnoopTimeout (h : Fin 8) (id : Nat)
  /-- HDM_DEC_CTL_WRITE (R444): A decoder write is checked, applied or rejected, and sent to every NI. -/
  | hdmDecCtlWrite (w : Who) (h : Fin 8) (j : Fin 8) (v : Word)
  /-- HDM_EXT_NEXT_COMMIT (R448): COMMIT switches the hub to a new extent table, emptying its extent cache. -/
  | hdmExtNextCommit (w : Who) (h : Fin 8) (v : Word)
  /-- EXTENT_SWITCHED (R448): Every lookup against the old table has finished and SWITCHED sets. -/
  | extentSwitched (h : Fin 8)
  /-- CXL_LINK_DOWN (R450): A CXL.mem link going down completes outstanding requests with poison or drop and records LINK_DOWN or VIRAL. -/
  | cxlLinkDown (h : Fin 8) (p : Fin 5) (viral : Bool)
  /-- S2M_RESPONSE (R452): A CXL.mem response completes its request, installing poison when indicated. -/
  | s2mResponse (h : Fin 8) (id : Nat) (r : MemRsp)
  /-- CXL_MEM_TIMEOUT (R453): An M2S request without completion after 2 ms completes with poison or drop and records TIMEOUT. -/
  | cxlMemTimeout (h : Fin 8) (id : Nat)
  /-- CACHEMEM_IDE_FAIL (R455): A CXL.cachemem integrity failure makes the stream insecure and acts as a link loss with IDE_FAIL. -/
  | cachememIdeFail (h : Fin 8) (p : Fin 5)
  /-- ROUTER_FORWARD (R463): A router output sends one flit per mesh cycle, calendar flits first in owned slots. -/
  | routerForward (r : Stop) (o : Fin 6)
  /-- CREDIT_RETURN (R462): A freed VC entry returns its credit to the upstream sender. -/
  | creditReturn (r : Stop) (o : Fin 6) (vc : Fin 12)
  /-- NI_REQUEST_SEND (R476): An NI decodes and piste-checks a request and sends it once it holds a ticket. -/
  | niRequestSend (ni : NiId)
  /-- REQUEST_INTO_SERVICE (R476): A target moves a waiting request from its entry into service and returns the ticket. -/
  | requestIntoService (ni : NiId)
  /-- SHARED_TICKET_RELEASE (R477): A shared ticket unused for 1,024 mesh cycles is released with TKT_RET. -/
  | sharedTicketRelease (ni : NiId) (tgt : NiId) (cls : Fin 4)
  /-- NI_ROUTE_WRITE (R470): A route entry write is checked and written, or written invalid with BADROUTE. -/
  | niRouteWrite (w : Who) (ni : NiId) (e : Fin 2) (n : Stop) (v : Word)
  /-- MESH_EPOCH_SWITCH (R487): Writing MESH_EPOCH.SWITCH makes every NI invert its epoch and acknowledge. -/
  | meshEpochSwitch (w : Who)
  /-- EPOCH_DRAIN_REPORT (R487): An NI whose old-epoch count reaches zero reports, lowering DRAIN_PEND. -/
  | epochDrainReport (ni : NiId)
  /-- ROUTER_DRAIN (R488): Setting or clearing ROUTER_CTL.DRAIN moves the router between LIVE and DRAINING. -/
  | routerDrain (w : Who) (r : Stop) (v : Bool)
  /-- ROUTER_QUIET (R488): A DRAINING router with empty input VCs for 64 cycles becomes QUIET. -/
  | routerQuiet (r : Stop)
  /-- ROUTER_CAL_EN (R480): A write of ROUTER_CAL_CTL.EN takes effect at the next slot 0, or is rejected. -/
  | routerCalEn (w : Who) (r : Stop) (v : Bool)
  /-- NI_CLOSE (R492): A write of NI_CLOSE starts closing or withdraws the close of the named gates. -/
  | niClose (w : Who) (ni : NiId) (v : BitVec 4)
  /-- GATE_CLOSED (R492): A closing gate closes once its block is idle, answering waiting requests CLOSED. -/
  | gateClosed (ni : NiId) (g : Fin 4)
  /-- MESH_SEALED_WRITE (R500): A write of MESH_SEALED is sent to NI_SEALED of every NI. -/
  | meshSealedWrite (w : Who) (v : Word)
  /-- MESH_LOST (R599): GO of MESH_LOST makes every NI reclaim old-epoch transactions crossing the lost link. -/
  | meshLost (w : Who)
  /-- INBOUND_REQUEST (R509): An inbound memory TLP is checked, cut into mesh requests and answered. -/
  | inboundRequest (h : Fin 8) (p : Fin 5) (t : Tlp)
  /-- PF1_REQUEST (R521): An inbound request to PF1 BAR2 is matched against the active window bank and forwarded or refused. -/
  | pf1Request (h : Fin 8) (t : Tlp)
  /-- TLP_COMPLETION (R508): A completion from the device completes an outbound request. -/
  | tlpCompletion (h : Fin 8) (p : Fin 5) (id : Nat) (c : Cpl)
  /-- COMPLETION_TIMEOUT (R508): An outbound request with no completion within PORT_CTO completes with all ones and logs CTO. -/
  | completionTimeout (h : Fin 8) (p : Fin 5) (id : Nat)
  /-- MMIO_WINDOW_WRITE (R506): A write to a port window register is sent to every NI, PENDING counting acknowledgements. -/
  | mmioWindowWrite (w : Who) (h : Fin 8) (p : Fin 5) (off : Nat) (v : Word)
  /-- BME_CLEAR (R512): Clearing PORT_CTL.BME refuses later inbound requests, MSIs included. -/
  | bmeClear (w : Who) (h : Fin 8) (p : Fin 5)
  /-- SSC_FRAME (R514): The hub runs one slot shift chain frame, latching outputs and sampling slot inputs. -/
  | sscFrame (h : Fin 8) (ins : List SlotIn)
  /-- SLOT_CONTROL_WRITE (R515): A write of Slot Control is applied at a following frame and sets Command Completed. -/
  | slotControlWrite (w : Who) (h : Fin 8) (p : Fin 5) (v : BitVec 16)
  /-- PGOOD_TIMEOUT (R516): PGOOD absent 100 ms after PWR_EN sets Power Fault Detected and clears PWR_EN. -/
  | pgoodTimeout (h : Fin 8) (p : Fin 5)
  /-- SLOT_PERST_RELEASE (R516): 100 ms after PGOOD the hub sets PERST_N and link training starts. -/
  | slotPerstRelease (h : Fin 8) (p : Fin 5)
  /-- SLOT_POWER_OFF (R516): Seven frames after PERST_N falls the hub clears REFCLK_EN and PWR_EN. -/
  | slotPowerOff (h : Fin 8) (p : Fin 5)
  /-- LINK_DOWN (R517): A PCIe link leaving DL_Active completes outstanding requests with LINK_DOWN. -/
  | linkDown (h : Fin 8) (p : Fin 5)
  /-- LINK_IDE_FAIL (R505): A link IDE integrity failure makes the stream insecure and takes the port down. -/
  | linkIdeFail (h : Fin 8) (p : Fin 5)
  /-- PERST_N_RELEASE (R631): 100 ms after REFCLK runs and a non-hot-plug port is set active, PERST_N of the group goes high. -/
  | perstNRelease (g : Nat)
  /-- EP_MAILBOX_RING (R519): A composer write to PF0 BAR0 0x0100 rings the mailbox. -/
  | epMailboxRing (h : Fin 8) (seq : Nat) (words : List Word)
  /-- EP_MBX_RESULT (R529): A Patrol write of EP_MBX_STAT.RESULT completes a PF0 call and sends MSI-X vector 0. -/
  | epMbxResult (w : Who) (h : Fin 8) (result : Nat)
  /-- CONSOLE_IN_WRITE (R519): A composer write of a console byte makes it available in EP_CON.IN. -/
  | consoleInWrite (h : Fin 8) (b : Byte)
  /-- CONSOLE_OUT_READ (R519): A composer read of console out returns and consumes the waiting byte. -/
  | consoleOutRead (h : Fin 8)
  /-- EP_CON_IN_READ (R529): A Patrol read of EP_CON consumes the console byte from the composer. -/
  | epConInRead (w : Who) (h : Fin 8)
  /-- EP_CON_OUT_WRITE (R529): A Patrol write of EP_CON.OUT sends a console byte to the composer. -/
  | epConOutWrite (w : Who) (h : Fin 8) (b : Byte)
  /-- PF0_BME_CLEAR (R520): Clearing PF0 Bus Master Enable holds new requests and MSI-X messages until it is set again. -/
  | pf0BmeClear (h : Fin 8) (pf : Fin 2) (v : Bool)
  /-- WIN_COMMIT (R522): A Patrol write of WIN_COMMIT makes the shadow window bank active at a TLP boundary. -/
  | winCommit (w : Who) (h : Fin 8)
  /-- WINDOW_COPY_DONE (R522): The copy of the new active bank into the shadow bank ends and COMMIT_BUSY clears. -/
  | windowCopyDone (h : Fin 8)
  /-- PF1_EVT_READ (R524): A read of PF1_EVT returns and clears COMMITTED and REFUSED. -/
  | pf1EvtRead (h : Fin 8)
  /-- FLR (R525): A function-level reset stops the function's TLPs and returns its state to reset. -/
  | flr (h : Fin 8) (pf : Fin 2)
  /-- FLR_DONE (R525): The FLR completes, sets FLR_DONE and sends the page event. -/
  | flrDone (h : Fin 8) (pf : Fin 2)
  /-- PMAP_INV (R536): Writing PMAP_CTL.INV makes every NI empty its map cache and acknowledge. -/
  | pmapInv (w : Who)
  /-- PMAP_COPY_WRITE (R536): A write of PMAP_TILE, PMAP_GROUP, PMAP_GKEY or KS_PKEY is sent to every NI. -/
  | pmapCopyWrite (w : Who) (off : Nat) (v : Word)
  /-- VIOLATION_REPORT (R538): A non-speculative denial is reported to the Patrol, recorded and counted in VIOLS. -/
  | violationReport (v : Viol)
  /-- SENSOR_FIRE (R547): A security sensor fires and hardware applies its level, sets EVENT and raises notices. -/
  | sensorFire (sn : Fin 6) (src : Option (Fin 64))
  /-- LOCKSTEP_MISMATCH (R550): A Patrol pair mismatch halts that pair, the other takes both duties, or both failed freezes the device. -/
  | lockstepMismatch (pair : Fin 2)
  /-- DEBUG_CHALLENGE (R543): The debug port opens only after a valid signed answer to a Patrol challenge. -/
  | debugChallenge (piste : Fin 64) (ok : Bool)
  /-- KS_GENERATE (R556): KS_CMD 1 generates an XTS key from the TRNG into the target slot. -/
  | ksGenerate (w : Who) (slot kind : Nat)
  /-- KS_CLEAR (R556): KS_CMD 2 clears the target slot unless locked. -/
  | ksClear (w : Who) (slot : Nat)
  /-- KS_UNWRAP (R556): KS_CMD 3 unwraps the tuck image key store with the WRAP slot. -/
  | ksUnwrap (w : Who) (slot : Nat)
  /-- VERSION (R552): Returns the ROM version and image SVN. -/
  | version (c : Call)
  /-- NOTICE_READ (R552): Returns and clears the piste's pending notice reasons. -/
  | noticeRead (c : Call)
  /-- IRT_SET (R552): Writes a PORT_IRT entry for the caller's piste. -/
  | irtSet (c : Call)
  /-- TILE_START (R552): Clears FORCE_T3, writes TLIFT_RESTART and wakes a T3 tile of the caller. -/
  | tileStart (c : Call)
  /-- KEY_GEN (R552): Installs a fresh XTS slot for a key select of the caller. -/
  | keyGen (c : Call)
  /-- ATTEST (R552): Writes a signed attestation of image and piste state to the caller's buffer. -/
  | attest (c : Call)
  /-- EXTENT_DONE (R552): Reports that the piste has finished step 1 of an extent release. -/
  | extentDone (c : Call)
  /-- RAS_READ (R552): Copies the piste's machine-check records to the caller's buffer. -/
  | rasRead (c : Call)
  /-- PISTE_TILE (R552): Moves a tile to another piste under R542 and returns ACCEPTED. -/
  | pisteTile (c : Call)
  /-- PISTE_MAP (R552): Writes piste-map leaves over a range and revokes or grants access. -/
  | pisteMap (c : Call)
  /-- PISTE_PORT (R552): Assigns a hub port to a piste and key select. -/
  | pistePort (c : Call)
  /-- PISTE_FLAGS (R552): Writes a piste's PMAP_PISTE value. -/
  | pisteFlags (c : Call)
  /-- GROUP_SET (R552): Sets a share group's mask and key. -/
  | groupSet (c : Call)
  /-- PISTE_SEAL (R552): Seals or unseals a piste after checking the conditions of R545. -/
  | pisteSeal (c : Call)
  /-- THAW (R549): Resumes a stopped piste or a frozen device. -/
  | thaw (c : Call)
  /-- POLICY (R552): Sets a sensor's level, not below its floor. -/
  | policy (c : Call)
  /-- BOOT_IMAGE (R552): PF0 reads a firmware image by DMA for authentication. -/
  | bootImage (c : Call)
  /-- SVN_COMMIT (R552): Raises the fused SVN floor to the running image's SVN. -/
  | svnCommit (c : Call)
  /-- TLIFT_PREQ_WRITE (R559): A P-state request is turned into a granted state by the grant steps. -/
  | tliftPreqWrite (w : Who) (st : Stop) (v : Word)
  /-- PSTATE_MOVE (R560): A tile ramps voltage and changes frequency to its newly granted state. -/
  | pstateMove (st : Stop)
  /-- LIFT_PSTATE_WRITE (R558): A P-state table write is checked and applied or rejected. -/
  | liftPstateWrite (w : Who) (n : Fin 16) (v : Word)
  /-- POWER_ESTIMATE (R561): Every 10 µs the Lift estimates package power and moves CAP. -/
  | powerEstimate (watts : Nat) (temps : List Int)
  /-- TILE_STATE_ENTRY (R563): A tile whose oldest carve holds WFI with nothing presentable enters TARGET. -/
  | tileStateEntry (st : Stop)
  /-- TILE_WAKE (R564): A tile wakes from T1, T2 or T3, restoring or resetting its core state. -/
  | tileWake (st : Stop)
  /-- FORCE_T3 (R565): A Patrol write of FORCE_T3 takes the tile to T3 without waiting for WFI. -/
  | forceT3 (w : Who) (st : Stop) (v : Word)
  /-- WAKE_EVENT (R567): A level or edge wake event reaches the Lift. -/
  | wakeEvent (e : WakeEv)
  /-- WAKE_TOKEN_GRANT (R573): Each Lift cycle free tokens are granted to waiting tiles in logical order. -/
  | wakeTokenGrant
  /-- WAKE_TOKEN_RETURN (R573): A spent token returns 200 Lift cycles after its power-up began. -/
  | wakeTokenReturn
  /-- PK1_ENTRY (R570): With every tile in T2 or T3 for DELAY, the Lift runs prepare and commit into PK1. -/
  | pk1Entry (refuse : Option Refuser)
  /-- PK1_EXIT (R572): A wake event in PK1 returns the NMCs, mesh and hubs to PK0. -/
  | pk1Exit
  /-- LIFT_HANDSHAKE_TIMEOUT (R583): A participant silent for 100 µs counts as refusing, or a tile without power-good is marked failed. -/
  | liftHandshakeTimeout (r : Refuser)
  /-- LIFT_CHRONO_WRITE (R575): A Patrol write of LIFT_CHRONO steps every chrono copy forward, or is rejected. -/
  | liftChronoWrite (w : Who) (v : Word)
  /-- LIFT_WAKE_TMR (R567): The chrono reaching LIFT_WAKE_TMR asserts a level wake. -/
  | liftWakeTmr
  /-- RAS_REPORT (R579): A class error report writes a machine-check record and raises the class source at the target tile. -/
  | rasReport (r : ErrReport)
  /-- AGING_MONITOR_READ (R590): Once a second the Lift reads each tile's aging margin and reports wear below AGE_PS. -/
  | agingMonitorRead (margins : List (Stop × Nat))
  /-- STUCK_STRIDE_TIMEOUT (R584): A stride waiting beyond STUCK squashes its carve and enters the handler with CAUSE 0x07. -/
  | stuckStrideTimeout (st : Stop) (trk : Fin 2)
  /-- NI_TRANSACTION_TIMEOUT (R585): An NI transaction without response by RAS_TMO.NI is retried or completed by the NI. -/
  | niTransactionTimeout (ni : NiId) (tag : Nat)
  /-- CLAIM_WATCHDOG (R586): An active-stack entry without COMPLETE by RAS_TMO.CLAIM is removed and reported. -/
  | claimWatchdog (st : Stop) (act : Fin 2)
  /-- PATROL_WATCHDOG (R587): A Patrol pair that misses its 1 s kick is reset and reauthenticates. -/
  | patrolWatchdog (pair : Fin 2)
  /-- SWAP (R593): RAS_OP SWAP moves a logical tile with its state to a spare stop. -/
  | swap (w : Who) (tile stop : Nat)
  /-- SWAP_COLD (R594): RAS_OP SWAP_COLD brings a failed tile up on a spare without state. -/
  | swapCold (w : Who) (tile stop : Nat)
  /-- RETIRE_SLICE (R597): RAS_OP RETIRE_SLICE drains a slice and moves its lanes to other slices. -/
  | retireSlice (w : Who) (stop : Nat)
  /-- WIRE_SPARE (R599): A failed die-to-die wire is replaced by a spare and failed flits are replayed. -/
  | wireSpare (st : Stop) (dir : Fin 4)
  /-- LINK_LOSS (R599): A third failed wire loses the link, whose routers absorb flits until rerouted. -/
  | linkLoss (st : Stop) (dir : Fin 4)
  /-- LANE_SPARE (R599): A failed SerDes lane makes the port reduce its width. -/
  | laneSpare (h : Fin 8) (p : Fin 5) (width : Nat)
  /-- TUCK (R602): VIN_SENSE below WARN stops the device and saves an image into the tuck store. -/
  | tuck (mv : Nat)
  /-- RISE (R603): VIN_SENSE back above WARN + HYST resumes the device and supersedes the image. -/
  | rise (mv : Nat)
  /-- PK2_ENTRY (R604): VIN_SENSE below RESET enters PK2 after the save completes. -/
  | pk2Entry (mv : Nat)
  /-- SPLIT_LATCH (R620): At each 2^K mesh-cycle boundary the PMU latches its counters and writes a split record. -/
  | splitLatch (p : Nat)
  /-- TD_CLR (R618): Writing PMU_CTL.TD_CLR zeroes the top-down counters and sets FIX[3] to the pending slots. -/
  | tdClr (w : Who) (p : Nat)
  /-- COLD_RESET_ENTRY (R640): PWR_OK low, a long SYS_RESET_N pulse or a rail monitor enters cold reset. -/
  | coldResetEntry (why : ResetCause)
  /-- COLD_RESET_EXIT (R640): The later of PWR_OK and SYS_RESET_N high leaves cold reset. -/
  | coldResetExit
  /-- BOOT (R643): The Patrol ROM runs the boot steps from self-test to the release of LT0. -/
  | boot (b : BootIn)
  /-- IMAGE_RETRY (R645): Without a boot endpoint, the ROM rereads both flash copies every second. -/
  | imageRetry (b : BootIn)
  /-- THERMTRIP (R632): A die at 130 °C asserts THERMTRIP_N and stops every clock. -/
  | thermtrip (die : Fin 4)
  /-- I3C_INDEX_WRITE (R634): The BMC writes an index and a private read returns the 8-byte value it names. -/
  | i3cIndexWrite (i : Byte)
  /-- LINK_UP (R517): A port's link finishes training and reaches DL_Active, setting PORT_STAT.LINK_UP and Data Link Layer State Changed and ending the LINK_DOWN completion regime. -/
  | linkUp (h : Fin 8) (p : Fin 5) (gen width : Nat) (flit : Bool)
  /-- BICONFLICTACK (R439): The device's BIConflictAck arrives at the hub and orders the conflicting BISnp before or after the outstanding request. -/
  | biconflictack (h : Fin 8) (id : Nat)
  /-- H2D_SNOOP_RESPONSE (R442): A CXL.cache device answers an H2D snoop, and the hub completes the snoop at the home slice. -/
  | h2dSnoopResponse (h : Fin 8) (id : Nat) (r : SnpRsp)
  /-- I3C_DYNAMIC_ADDRESS_ASSIGNMENT (R634): The BMC assigns the I3C target a dynamic address in place of the static address 0x3A. -/
  | i3cDynamicAddressAssignment (a : Nat)
  /-- JTAG_INSTRUCTION (R635): An IEEE 1149.1 instruction (BYPASS, IDCODE, SAMPLE/PRELOAD, EXTEST) is loaded through the TAP, and EXTEST is refused unless fuses permit test mode. -/
  | jtagInstruction (j : JtagOp)
  /-- DEBUG_PORT_ACCESS (R543): An opened debug port performs halt, single-stride or register access on tiles of a piste holding DBG. -/
  | debugPortAccess (st : Stop) (d : DbgOp)
deriving DecidableEq, Repr

end Sys2Proof
end

