-- ==== Sys2Proof/Decode.lean ====
section
/-! DEFINITION. Commands as words. No row of the opcode table carries bits, so no word spells a command. -/

namespace Sys2Proof

/-- The command that a word spells by the table's bits: the table gives no row any bits. (DESIGN CHOICE, assumption 83) -/
def decodeTableWord (_nbits _w : Nat) : Option Instr := none

end Sys2Proof
end

