-- ==== Sys2Proof/Machine/Flags.lean ====
section
/-! DEFINITION. The floating-point flags and the status word FSTAT (R239, R243, R244). The integer operations keep no flags (R124). -/

namespace Sys2Proof.Machine

/-- Invalid operation, FSTAT[0]. -/
def fINV : Nat := 1
/-- Division by zero, FSTAT[1]. -/
def fDVZ : Nat := 2
/-- Overflow, FSTAT[2]. -/
def fOVF : Nat := 4
/-- Underflow, FSTAT[3]. -/
def fUNF : Nat := 8
/-- Inexact, FSTAT[4]. -/
def fINX : Nat := 16

/-- The rounding mode a written RMODE field holds: 5-7 are written as 0 (R243). -/
def rmodeOf (v : Nat) : Nat := if bitsOf v 10 3 < 5 then bitsOf v 10 3 else 0

/-- FSTAT as FSTATW leaves it: RMODE and the flags, every other bit zero (R243). -/
def fstatWrite (v : Nat) : Nat := rmodeOf v * 2 ^ 10 + v % 32

/-- FSTAT after a carve's accumulator is ORed into it (R244). -/
def fstatAcc (fstat flags : Nat) : Nat := fstat ||| flags % 32

/-- The rounding mode in force (R238). -/
def rmode (fstat : Nat) : Nat := bitsOf fstat 10 3

end Sys2Proof.Machine
end

