-- ==== Sys2Proof/Machine/Table.lean ====
section
/-! DEFINITION. Finite tables as sorted lists of key and value, the shape every sparse piece of State has. -/

namespace Sys2Proof.Machine

/-- A sparse table: a list of key and value, keys in rising order. -/
abbrev Tbl (κ α : Type) := List (κ × α)

/-- The value a table lists under a key. -/
def tfind {κ α : Type} [DecidableEq κ] : Tbl κ α → κ → Option α
  | [], _ => none
  | (k, v) :: t, x => if k = x then some v else tfind t x

/-- A table without a key. -/
def terase {κ α : Type} [DecidableEq κ] : Tbl κ α → κ → Tbl κ α
  | [], _ => []
  | (k, v) :: t, x => if k = x then terase t x else (k, v) :: terase t x

/-- A table with the key in its place in the order, after any entry of it is gone. -/
def tins {κ α : Type} [Ord κ] (x : κ) (v : α) : Tbl κ α → Tbl κ α
  | [] => [(x, v)]
  | (k, w) :: t => if (compare k x).isLT then (k, w) :: tins x v t else (x, v) :: (k, w) :: t

/-- A table that lists a value under a key. -/
def tput {κ α : Type} [Ord κ] [DecidableEq κ] (t : Tbl κ α) (x : κ) (v : α) : Tbl κ α :=
  tins x v (terase t x)

/-- The value under a key, or the value an unlisted key has. -/
def tget {κ α : Type} [DecidableEq κ] (t : Tbl κ α) (x : κ) (d : α) : α :=
  (tfind t x).getD d

/-- List a value under a key, or take the key out where the value is what an unlisted key has. -/
def tset {κ α : Type} [Ord κ] [DecidableEq κ] [DecidableEq α] (t : Tbl κ α) (x : κ) (v d : α) : Tbl κ α :=
  if v = d then terase t x else tput t x v

/-- Apply a function to the value of a listed key. -/
def tmodAt {κ α : Type} [Ord κ] [DecidableEq κ] (t : Tbl κ α) (x : κ) (f : α → α) : Tbl κ α :=
  match tfind t x with
  | some v => tput t x (f v)
  | none => t

/-- Apply a function to the value under a key. -/
def tmod {κ α : Type} [Ord κ] [DecidableEq κ] (t : Tbl κ α) (x : κ) (d : α) (f : α → α) : Tbl κ α :=
  tput t x (f (tget t x d))

/-- Keys rising strictly: the canonical order of a table. -/
def tsorted {κ α : Type} [Ord κ] : Tbl κ α → Bool
  | [] => true
  | [_] => true
  | (a, _) :: (b, w) :: t => (compare a b).isLT && tsorted ((b, w) :: t)

/-- The list with element `i` replaced. -/
def lset {α : Type} : List α → Nat → α → List α
  | [], _, _ => []
  | _ :: t, 0, v => v :: t
  | a :: t, n + 1, v => a :: lset t n v

/-- Element `i` of a list, or a default. -/
def lget {α : Type} (l : List α) (i : Nat) (d : α) : α := (l[i]?).getD d

/-- The first element that meets a test, and the list without it. -/
def takeFirst {α : Type} (p : α → Bool) : List α → Option (α × List α)
  | [] => none
  | a :: t =>
    if p a then some (a, t)
    else match takeFirst p t with
      | none => none
      | some (x, r) => some (x, a :: r)

/-- Replace the first element that meets a test. -/
def modFirst {α : Type} (p : α → Bool) (f : α → α) : List α → List α
  | [] => []
  | a :: t => if p a then f a :: t else a :: modFirst p f t

end Sys2Proof.Machine
end

