-- ==== Sys2Proof/Machine/CoreTypes.lean ====
section
/-! DEFINITION. The plain data of one core: marks, registers, stations, tracks, queues, predictor, rink and translation buffers. -/

namespace Sys2Proof.Machine

/-- The state of a station (R61). -/
inductive StnSt where
  | free | waiting | ready | issuing | stalled | lodging | lodged | resumable | draining | closed | faulted
deriving DecidableEq, Repr

/-- The code of R61. -/
def StnSt.code : StnSt → Nat
  | .free => 0 | .waiting => 1 | .ready => 2 | .issuing => 3 | .stalled => 4 | .lodging => 5
  | .lodged => 6 | .resumable => 7 | .draining => 8 | .closed => 9 | .faulted => 10

/-- What a marked destination records about the failed access (R213, R217). -/
structure Mark where
  /-- KIND of R217: 1 UNMAPPED, 2 ACCESS_DENIED, 3 CLOSED, 4 PAGE_ERROR, 5 POISON, 10 LINK_LOST. -/
  kind : Nat
  half : Bool
  atype : Nat
  size : Nat
  addr : Nat
  atomic : Bool
  /-- Stride of the marking access. -/
  istride : Nat
  /-- The mark comes from an older carve, a frame or a record. -/
  older : Bool
deriving DecidableEq, Repr

/-- A 64-bit register with its mark (R215). -/
structure Rg where
  v : Word
  m : Option Mark
deriving DecidableEq, Repr

/-- A register that holds zero and no mark. -/
def Rg.zero : Rg := ⟨0#64, none⟩

/-- A 256-bit vector register with one mark for each 64-bit quarter (R260). -/
structure VRg where
  v : VWord
  m0 : Option Mark
  m1 : Option Mark
  m2 : Option Mark
  m3 : Option Mark
deriving DecidableEq, Repr

/-- A vector register that holds zero and no mark. -/
def VRg.zero : VRg := ⟨0#256, none, none, none, none⟩

/-- The mark of quarter `q`. -/
def VRg.mark (r : VRg) (q : Nat) : Option Mark :=
  match q with
  | 0 => r.m0 | 1 => r.m1 | 2 => r.m2 | _ => r.m3

/-- The register with the mark of quarter `q` set or cleared. -/
def VRg.setMark (r : VRg) (q : Nat) (m : Option Mark) : VRg :=
  match q with
  | 0 => { r with m0 := m } | 1 => { r with m1 := m } | 2 => { r with m2 := m } | _ => { r with m3 := m }

/-- VCFG (R227). -/
structure Vcfg where
  vl : Nat
  scode : Nat
  gcode : Nat
deriving DecidableEq, Repr

/-- Element width in bits (R227). -/
def Vcfg.sew (c : Vcfg) : Nat := 8 * 2 ^ c.scode
/-- Group size (R227). -/
def Vcfg.g (c : Vcfg) : Nat := 2 ^ c.gcode
/-- VLMAX (R228). -/
def Vcfg.vlmax (c : Vcfg) : Nat := c.g * 256 / c.sew

/-- Where a result goes. -/
inductive Dest where
  | g (n : Nat) | e (n : Nat) | p (n : Nat) | v (n : Nat) | vcfg | none
deriving DecidableEq, Repr

/-- A result: a value (a scalar in the low bits), the marks it carries and, for a vector register, which quarters it
writes in full (R260). -/
structure Res where
  dst : Dest
  val : VWord
  m0 : Option Mark
  m1 : Option Mark
  m2 : Option Mark
  m3 : Option Mark
deriving DecidableEq, Repr

/-- A result issued and not yet landed (R65, R90). -/
structure Pend where
  /-- Names the result among the station's pending results. -/
  tag : Nat
  res : List Res
  stride : Nat
  slot : Nat
  /-- Tabulated latency of a fixed-latency result; `none` for an interlocked result. -/
  lat : Option Nat
  /-- The operation ran: its guard was true (R93). -/
  on : Bool
  /-- An interlocked result whose value is known. -/
  ready : Bool
  /-- FP flags the operation raises when it takes effect (R244). -/
  flags : Nat
  /-- The registers the operation names as destinations, written or not (R93, R101). -/
  dsts : List Dest
deriving DecidableEq, Repr

/-- A fault found and not yet raised, with what its continuation record will hold (R55, R78, R80). -/
structure Flt where
  cause : Nat
  fetch : Bool
  slot : Nat
  stride : Nat
  addr : Nat
  info : Nat
  vstart : Nat
deriving DecidableEq, Repr

/-- A carve header (R48, R49). -/
structure Hdr where
  fmt : Nat
  nstr : Nat
  exitpos : Nat
  delay : Nat
  chk : Bool
  vec : Bool
  grm : Bool
  chkcode : Nat
  ird : Nat
  iwr : Nat
  vrd : Nat
  vwr : Nat
  pmap : Nat
  /-- Some reserved header bit or byte is nonzero. -/
  rsv : Bool
deriving DecidableEq, Repr

/-- A header of zeros. -/
def Hdr.zero : Hdr := ⟨0, 0, 0, 0, false, false, false, 0, 0, 0, 0, 0, 0, false⟩

/-- What an exit has done (R155): not issued, fell through, or taken. -/
inductive ExitSt where
  | pending | fell | taken
deriving DecidableEq, Repr

/-- Scope and kind of an effect that waits for its carve to commit (R79, R137, R141, R211, R340, R366). -/
inductive CAct where
  /-- SRW (0), SRSET (1) or SRCLR (2) of a status register. -/
  | sr (op num : Nat) (val : Word)
  | fstatw (val : Word)
  | fence (variant : Nat)
  | syncC
  /-- XINV: kind 0 AD, 1 TAG, 2 ALL; scope bit 0 PISTE; operands as read. -/
  | xinv (kind : Nat) (piste : Bool) (va : Nat) (tag : Nat)
  | scall | hcall | sret | hret
deriving DecidableEq, Repr

/-- The predictor as it stood when a carve was fetched: return-stack pointer, number of entries and top entry (R160), and the
successor choices before the fetch, newest first (R161). -/
structure PredMark where
  ptr : Nat
  num : Nat
  top : Option (Nat × Nat)
  hist : List Bool
deriving DecidableEq, Repr

/-- The mark of an empty predictor. -/
def PredMark.empty : PredMark := ⟨0, 0, none, []⟩

/-- One of the sixteen stations (R61). -/
structure Stn where
  st : StnSt
  addr : Nat
  hdr : Hdr
  /-- The words of the present slots, in order (R46). -/
  ops : List Nat
  size : Nat
  /-- Index of the next stride to issue. -/
  ptr : Nat
  edges : Tbl Nat Rg
  preds : Nat
  vstart : Nat
  vslot : Nat
  /-- Landed writes of the carve to globals, vector registers and VCFG (R59). -/
  gw : Tbl Nat Rg
  vw : Tbl Nat VRg
  cfgw : Option Vcfg
  wrCfg : Bool
  pend : List Pend
  nextTag : Nat
  acts : List CAct
  flags : Nat
  exit : ExitSt
  exitTgt : Nat
  predNext : Option Nat
  flt : Option Flt
  /-- The delay strides are suppressed: AN = 1 and the exit fell through (R156). -/
  annul : Bool
  /-- Its stride is held by an interlock, not by a structural hazard (R66). -/
  ilock : Bool
  lq : Nat
  sq : Nat
  /-- A device load sent, an atomic performed, a WFI completed or a resumption: the carve is bound (R277). -/
  bound : Bool
  /-- It came from a continuation record with FETCH = 0 (R81). -/
  resumed : Bool
  hasDevS : Bool
  wfiHeld : Bool
  /-- The predictor as it stood at fetch (R160, R161). -/
  mark : PredMark
  /-- The physical lines it was fetched from (R82). -/
  lines : List Nat
  /-- Core cycles its stride has been held, or the save of its track has taken (R66). -/
  stall : Nat
  /-- Its successor is `exitTgt` whatever its exit did: a record says so (R81). -/
  useTgt : Bool
  /-- Slots of its issued strides, those that are wasted whatever becomes of it, and present slots (R611, R617). -/
  slots : Nat
  waste : Nat
  opsDone : Nat
  /-- L1D and L2 fills its loads asked for (R616). -/
  fills : Nat
  /-- What its RDCHRONO operations have read, in program order (R145). -/
  chronos : List Nat
deriving DecidableEq, Repr

/-- A FREE station. -/
def Stn.empty : Stn :=
  { st := .free, addr := 0, hdr := Hdr.zero, ops := [], size := 0, ptr := 0, edges := [], preds := 1, vstart := 0,
    vslot := 2, gw := [], vw := [], cfgw := none, wrCfg := false, pend := [], nextTag := 0, acts := [], flags := 0,
    exit := .pending, exitTgt := 0, predNext := none, flt := none, annul := false, ilock := false, lq := 0,
    sq := 0, bound := false, resumed := false, hasDevS := false, wfiHeld := false,
    mark := PredMark.empty, lines := [], stall := 0, useTgt := false, slots := 0, waste := 0, opsDone := 0, fills := 0,
    chronos := [] }

/-- One contiguous piece of an access inside one line, in physical memory. `off` is its byte offset in the access, `va` the virtual
address of its first byte. -/
structure Piece where
  pa : Nat
  va : Nat
  off : Nat
  len : Nat
deriving DecidableEq, Repr

/-- What a store-queue entry does when it performs (R366). -/
inductive SqKind where
  | store
  /-- Maintenance: ACT 0 CLEAN, 1 INVAL, 2 CLINV, 3 LOCKFILL; SCOPE 0 ADDR_L2, 1 ADDR_MEM, 2 SETWAY (R362). -/
  | maint (act scope : Nat)
deriving DecidableEq, Repr

/-- A store-queue entry: one scalar store, one half of a split store or one line of a vector store (R71, R257). -/
structure Sq where
  id : Nat
  /-- Level of its carve (R298). -/
  lvl : Nat
  /-- Station of its carve until the carve commits. -/
  stn : Option Nat
  stride : Nat
  va : Nat
  pa : Nat
  data : List Byte
  atype : Nat
  half : Bool
  /-- The data register was marked: the line is written with poison (R215). -/
  poison : Bool
  release : Bool
  vector : Bool
  split : Bool
  key : Nat
  kind : SqKind
  /-- Sent to the NI and waiting for its response. -/
  sent : Bool
  /-- The response that came back: its KIND code of R217, 0 for OK. -/
  rsp : Option Nat
deriving DecidableEq, Repr

/-- How far a load or atomic in the load queue has come. -/
inductive LqSt where
  /-- Waiting for the lines or responses of its pieces. -/
  | waiting
  /-- Refused while speculative; reissued when its carve is the oldest (R168). -/
  | refused
  /-- An atomic waiting to perform (R188). -/
  | atomicWait
  /-- An atomic sent to its home or to another pad. -/
  | atomicSent
  | done
deriving DecidableEq, Repr

/-- A load-queue entry (R71). -/
structure Lq where
  id : Nat
  stn : Nat
  stride : Nat
  /-- The pending result it supplies. -/
  tag : Nat
  va : Nat
  size : Nat
  atype : Nat
  pieces : List Piece
  /-- Data of the pieces that arrived: offset in the access and bytes. -/
  got : List (Nat × List Byte)
  st : LqSt
  spec : Bool
  acquire : Bool
  release : Bool
  /-- The opcode, function and destination that shape the result. -/
  op : Nat
  f : Nat
  d : Nat
  /-- Operands of an atomic. -/
  cmp : Nat
  src : Nat
  /-- For a vector load: VCFG and VSTART it runs under. -/
  cfg : Vcfg
  vstart : Nat
  /-- Pieces that failed: offset in the access and KIND of R217. -/
  bad : List (Nat × Nat)
  key : Nat
  vector : Bool
  /-- Entries of the load queue it takes (R257). -/
  ents : Nat
  /-- A vector load cut short by an element fault: elements at or above VL keep their values (R259). -/
  part : Bool
  /-- Station of the uncommitted carve whose store supplied every byte (R205). -/
  fwd : Option Nat
  /-- When it performed, on the core's own count (R208). -/
  time : Nat
deriving DecidableEq, Repr

/-- A write-combining buffer (R196). -/
structure WcBuf where
  line : Nat
  bytes : Tbl Nat Byte
  /-- One mark for each 64-bit word (R582). -/
  poison : Nat
deriving DecidableEq, Repr

/-- A TLB or walker-cache entry (chapter 10). -/
structure TlbEnt where
  vpn : Nat
  /-- log2 of the page size. -/
  ps : Nat
  ppn : Nat
  /-- Guest page number, for a second-stage fault (R331). -/
  gpn : Nat
  key : Nat
  asTag : Nat
  vmTag : Nat
  glob : Bool
  /-- Regime: 0 the U/S regime, 1 the H regime. -/
  reg : Nat
  attr : Nat
  attr2 : Nat
  two : Bool
  r : Bool
  w : Bool
  x : Bool
  u : Bool
  a : Bool
  d : Bool
  /-- Second-stage permissions and D. -/
  r2 : Bool
  w2 : Bool
  x2 : Bool
  d2 : Bool
deriving DecidableEq, Repr

/-- A walker-cache entry: the table entry that a walk read at a level for the address bits above that level's page (R334). A
second-stage one keeps no ASTAG. -/
structure WcEnt where
  second : Bool
  reg : Nat
  asTag : Nat
  vmTag : Nat
  level : Nat
  pre : Nat
  ent : Nat
deriving DecidableEq, Repr

/-- What a finished walk found. -/
inductive WalkRes where
  | running
  | fault (cause info addr : Nat)
  /-- A speculative walk or a PREF's walk that would have faulted or set a bit, or whose marked read was refused (R168, R332, R333). -/
  | dropped
deriving DecidableEq, Repr

/-- A page walk in progress (R323). -/
structure Walk where
  va : Nat
  /-- ACC of R331: 0 fetch, 1 load, 2 store, 3 atomic. -/
  acc : Nat
  lvl : Nat
  spec : Bool
  pref : Bool
  stn : Option Nat
  res : WalkRes
  /-- An A or D update it waits for: address of the entry, value read, value to write and key select (R325, R327). -/
  ad : Option (Nat × Nat × Nat × Nat)
  adSent : Bool
  /-- The table line it waits for, and the failure that line came back with (R330): KIND of R217. -/
  wait : Option Nat
  bad : Option Nat
deriving DecidableEq, Repr

/-- The fetch engine: the carve being fetched and what has arrived of it (R52). -/
structure Fetch where
  /-- Address of the next carve to fetch; `none` while fetch waits for an exit to resolve. -/
  pc : Option Nat
  /-- A carve fetched and waiting for rename, with a failure held under R55. -/
  buf : Option (Nat × Hdr × List Nat × Nat × Option Flt)
  /-- The next carve resumes from the record in this trap slot (R81). -/
  resume : Option Nat
  predNext : Option Nat
  /-- Lines asked of the L2 or the NI for the carve being fetched. -/
  want : List Nat
  /-- The predictor as it stood when the carve in the buffer was fetched, and the lines that carve came from. -/
  mark : PredMark
  lines : List Nat
deriving DecidableEq, Repr

/-- One entry of a tagged direction table, or of the base table (R158, R161). -/
structure DirEnt where
  tag : Nat
  ctr : Nat
  lvl : Nat
deriving DecidableEq, Repr

/-- The successor predictor (R158). -/
structure Pred where
  base : Tbl Nat DirEnt
  tagged : Tbl Nat DirEnt
  btb : Tbl Nat (Nat × Nat)
  /-- The return stack: address and level at each of its 32 places, the place the next push takes, and how many it holds. -/
  ras : Tbl Nat (Nat × Nat)
  ptr : Nat
  num : Nat
  hist : List Bool
deriving DecidableEq, Repr

/-- A predictor with nothing recorded. -/
def Pred.empty : Pred := ⟨[], [], [], [], 0, 0, []⟩

/-- A committed carve as the rink remembers it (R170). -/
structure RinkRec where
  addr : Nat
  succ : Nat
  hdr : Hdr
  ops : List Nat
  size : Nat
  /-- It holds an operation that bars capture. -/
  barred : Bool
  /-- The physical lines it was fetched from (R82). -/
  lines : List Nat
deriving DecidableEq, Repr

/-- The rink (R170). -/
structure Rink where
  /-- Recent commits, newest first. -/
  recent : List RinkRec
  /-- A cycle that has committed four times in a row, to be copied as it is fetched once more, and the carves copied so far. -/
  cand : List RinkRec
  copy : List RinkRec
  /-- The captured cycle, first carve first. -/
  cap : List RinkRec
  streaming : Bool
  endCause : Nat
  /-- Next carve of the cycle to supply. -/
  pos : Nat
deriving DecidableEq, Repr

/-- A rink with no capture. -/
def Rink.empty : Rink := ⟨[], [], [], [], false, 0, 0⟩

/-- The status registers of R136, R264 and R316. -/
structure Sr where
  tp : Word
  lvl : Nat
  ie : Bool
  fie : Bool
  ureach : Bool
  sVbase : Word
  depth : Nat
  pmbSeq : Nat
  pmbResult : Nat
  pmbLost : Bool
  pmbTimeout : Bool
  pmbDone : Bool
  pmbBusy : Bool
  sXlat : Word
  sscratch : Word
  hVbase : Word
  hEdeleg : Word
  hIdeleg : Nat
  hXlat : Word
  hGxlat : Word
  hscratch : Word
deriving DecidableEq, Repr

/-- The status registers as a core leaves reset: level H and zero elsewhere (R261, R265). (DESIGN CHOICE, assumption 1) -/
def Sr.reset : Sr :=
  { tp := 0, lvl := 2, ie := false, fie := false, ureach := false, sVbase := 0, depth := 0, pmbSeq := 0, pmbResult := 0,
    pmbLost := false, pmbTimeout := false, pmbDone := false, pmbBusy := false, sXlat := 0, sscratch := 0, hVbase := 0,
    hEdeleg := 0, hIdeleg := 0, hXlat := 0, hGxlat := 0, hscratch := 0 }

/-- A PISTE-scope XINV that waits to be sent or for acknowledgements (R340, R342). -/
structure XinvOut where
  id : Nat
  kind : Nat
  va : Nat
  tag : Nat
  vmTag : Nat
  lvl : Nat
  sent : Bool
  /-- Store-queue entries committed before it and not yet performed. -/
  after : List Nat
  acks : Nat
deriving DecidableEq, Repr

/-- A received broadcast invalidation that waits to be acknowledged (R341): its request, whether the carves have been squashed
for it, and the stores committed before that. -/
structure XinvIn where
  req : Flit
  squashed : Bool
  after : List Nat
deriving DecidableEq, Repr

/-- The committed registers of a core (R56, R58). -/
structure Arch where
  g : Tbl Nat Rg
  v : Tbl Nat VRg
  cfg : Vcfg
  fstat : Nat
deriving DecidableEq, Repr

/-- Committed registers at reset: zero (R226 for vector state). (DESIGN CHOICE, assumption 1) -/
def Arch.reset : Arch := ⟨[], [], ⟨0, 0, 0⟩, 0⟩

/-- Changes written through the CORE page that wait for the next commit (R109, R174, R219, R344). (DESIGN CHOICE, assumption 22) -/
structure PendCtl where
  groom : Option Bool
  check : Option Bool
  flow : Option (Bool × Bool)
  rinkFlush : Bool
  predFlush : Bool
  attrS : Option Word
  attrH : Option Word
  tlbFlush : Bool
  mmu : Option (Bool × Bool)
deriving DecidableEq, Repr

/-- No change pending. -/
def PendCtl.none : PendCtl := ⟨.none, .none, .none, false, false, .none, .none, false, .none⟩

/-- What holds the memory operations of carves fetched after a FENCE or a DEV-S store (R199, R211). -/
structure MemHold where
  loads : Bool
  stores : Bool
  /-- Committed store-queue entries that must drain, and transactions that must be answered. -/
  sqs : List Nat
  devs : Bool
  wc : Bool
deriving DecidableEq, Repr

/-- One core (chapters 02 to 08 and 10). -/
structure Core where
  arch : Arch
  sr : Sr
  stn : Tbl Nat Stn
  order : List Nat
  t0 : Option Nat
  t1 : Option Nat
  fetch : Fetch
  lq : List Lq
  sq : List Sq
  nextId : Nat
  wc : List WcBuf
  /-- Lines of the WC writes sent and not yet answered. -/
  wcOut : List Nat
  itlb : List TlbEnt
  dtlb : List TlbEnt
  l2tlb : List TlbEnt
  wcache : List WcEnt
  walks : List Walk
  pctl : PendCtl
  holds : List MemHold
  pred : Pred
  /-- The memory-dependence predictor (R73): carve address and stride of a load, carve address and stride of the store it met. -/
  memdep : List (Nat × Nat × Nat × Nat)
  rink : Rink
  xinvOut : List XinvOut
  xinvIn : List XinvIn
  /-- Rings of the Patrol mailbox that committed and wait for earlier stores: SEQ, level, store-queue entries (R288). -/
  rings : List (Nat × Nat × List Nat)
  /-- Fetch lines no cache holds, as they arrived: line address, data, KIND (R347). -/
  fetchNc : List (Nat × Line × Nat)
  /-- Invalidations applied while acknowledgements are owed. -/
  groomed : Bool
  checking : Bool
  /-- Stopped by a trap-depth overflow or by the Patrol (R282). -/
  stopped : Bool
  /-- The core runs: enabled, clocked and fetching allowed. -/
  running : Bool
deriving DecidableEq, Repr

/-- A core as it leaves reset, stopped until its page is enabled and the Lift wakes its tile (R37, R261). (DESIGN CHOICE, assumption 1) -/
def Core.reset : Core :=
  { arch := Arch.reset, sr := Sr.reset, stn := [], order := [], t0 := none, t1 := none,
    fetch := ⟨none, none, none, none, [], PredMark.empty, []⟩, lq := [], sq := [], nextId := 0, wc := [], wcOut := [], itlb := [], dtlb := [],
    l2tlb := [], wcache := [], walks := [], pctl := PendCtl.none, holds := [], pred := Pred.empty, memdep := [],
    rink := Rink.empty, xinvOut := [], xinvIn := [], rings := [], fetchNc := [], groomed := false, checking := false, stopped := false,
    running := false }

end Sys2Proof.Machine
end

