-- ==== Sys2Proof/Machine/Formats.lean ====
section
/-! DEFINITION. The operation word, the format of every opcode and the decode checks of R113-R123, R146, R224 and R251. -/

namespace Sys2Proof.Machine

/-- The fields of an operation word (R113). -/
structure OpW where
  p : Nat
  o : Nat
  d : Nat
  a : Nat
  b : Nat
  f : Nat
deriving DecidableEq, Repr

/-- Split a word into its fields (R113). -/
def OpW.ofWord (w : Nat) : OpW :=
  { p := bitsOf w 29 3, o := bitsOf w 22 7, d := bitsOf w 16 6, a := bitsOf w 10 6, b := bitsOf w 4 6, f := bitsOf w 0 4 }

/-- The word of the fields (R113). -/
def OpW.toWord (x : OpW) : Nat :=
  x.p % 8 * 2 ^ 29 + x.o % 128 * 2 ^ 22 + x.d % 64 * 2 ^ 16 + x.a % 64 * 2 ^ 10 + x.b % 64 * 2 ^ 4 + x.f % 16

/-- The 10-bit immediate, bits [9:0] (R118). -/
def OpW.imm10 (x : OpW) : Nat := x.b % 64 * 16 + x.f % 16

/-- An IMX word (R119). -/
def isImx (w : Nat) : Bool := bitsOf w 23 6 = 63

/-- The payload X of an IMX word: bits [31:29], [22], [21:0] (R119). -/
def imxPayload (w : Nat) : Nat := bitsOf w 29 3 * 2 ^ 23 + bitsOf w 0 23

/-- An exit opcode, the reserved 0x3F included (R148). -/
def isExitOp (o : Nat) : Bool := 0x3C ≤ o && o ≤ 0x3F

/-- What an operand field names (R115-R117, R223). -/
inductive OK where
  /-- Unused: must be zero. -/
  | z
  /-- An integer register or edge. -/
  | i
  /-- A predicate. -/
  | p
  /-- A single FP or vector register. -/
  | s
  /-- A vector register group. -/
  | v
  /-- The even member of an integer pair (R186). -/
  | pr
  /-- The prefetch hint in D[1:0] (R184). -/
  | hint
  /-- Part of the immediate, or of an exit word. -/
  | im
deriving DecidableEq, Repr

/-- How the D field is used. -/
inductive DU where
  | no | wr | rd | rw
deriving DecidableEq, Repr

/-- Timing class of a result (R90). -/
inductive Lat where
  | fixed (n : Nat)
  | inter
  | none
deriving DecidableEq, Repr

/-- The format of an operation: permitted slots (A 1, B 2, M 4, V 8), operand kinds, immediate use, timing. -/
structure Fmt where
  slots : Nat
  d : OK
  du : DU
  a : OK
  b : OK
  /-- B and F are the immediate. -/
  imm : Bool
  /-- F selects the function; otherwise F must be zero unless `imm`. -/
  fsel : Bool
  ext : Bool
  lat : Lat
  /-- Reads VCFG, or writes it. -/
  rc : Bool
  wc : Bool
deriving DecidableEq, Repr

/-- A format of plain operands in given slots. -/
def fmt3 (slots : Nat) (d : OK) (du : DU) (a b : OK) (lat : Lat) : Fmt :=
  { slots := slots, d := d, du := du, a := a, b := b, imm := false, fsel := true, ext := false, lat := lat, rc := false, wc := false }

/-- A format with an immediate. -/
def fmtI (slots : Nat) (d : OK) (du : DU) (a : OK) (ext : Bool) (lat : Lat) : Fmt :=
  { slots := slots, d := d, du := du, a := a, b := .im, imm := true, fsel := false, ext := ext, lat := lat, rc := false, wc := false }

/-- Vector latency base + 2G (R94). -/
def vlat (base : Nat) (c : Vcfg) : Lat := .fixed (base + 2 * c.g)

/-- FP formats by code: 0 FP64, 1 FP32, 2 FP16, 3 BF16 (R247). Latency of an add, multiply or FMA (R94, R236). -/
def fpLat (fmt : Nat) : Nat := if fmt < 2 then 4 else 3

/-- The vector FP format that SEW and F[3] name, or none where the combination is reserved (R251). -/
def vfpFmt (c : Vcfg) (f : Nat) : Option Nat :=
  match c.scode, bitOf f 3 with
  | 1, false => some 2
  | 1, true => some 3
  | 2, false => some 1
  | 3, false => some 0
  | _, _ => none

/-- A vector format that reads VCFG. -/
def fmtV (d : OK) (du : DU) (a b : OK) (lat : Lat) : Fmt :=
  { fmt3 8 d du a b lat with rc := true }

/-- The opcode is assigned (R122, R249). -/
def opAssigned (o : Nat) : Bool :=
  o ≤ 0x03 || (0x08 ≤ o && o ≤ 0x0F) || (0x20 ≤ o && o ≤ 0x2A) || o = 0x2C || o = 0x2D || (0x30 ≤ o && o ≤ 0x3A)
    || (0x3C ≤ o && o ≤ 0x3E) || (0x40 ≤ o && o ≤ 0x75) || o = 0x7E || o = 0x7F

/-- The format of an opcode and function, under the VCFG the stride sees; none where F is reserved. -/
def fmtOf (o f : Nat) (c : Vcfg) : Option Fmt :=
  if o = 0x00 then if f < 14 then some (fmt3 3 .i .wr .i .i (.fixed 1)) else none
  else if o = 0x01 then some (fmt3 3 .i .wr .i (if f < 8 then .i else .z) (.fixed 1))
  else if o = 0x02 then if f < 5 then some (fmt3 2 .i .wr .i .i (.fixed 3)) else none
  else if o = 0x03 then if f < 8 then some (fmt3 2 .i .wr .i .i .inter) else none
  else if 0x08 ≤ o ∧ o ≤ 0x0B then some (fmtI 3 .i .wr .i true (.fixed 1))
  else if 0x0C ≤ o ∧ o ≤ 0x0F then some (fmtI 3 .i .wr .i false (.fixed 1))
  else if o = 0x20 then if f < 8 then some (fmt3 1 .p .wr .i .i (.fixed 1)) else none
  else if 0x21 ≤ o ∧ o ≤ 0x26 then some (fmtI 3 .p .wr .i true (.fixed 1))
  else if o = 0x27 then
    if f < 5 then some (fmt3 1 .p .wr .p .p (.fixed 1))
    else if f < 7 then some (fmt3 1 .p .wr .p .z (.fixed 1))
    else if f = 7 then some (fmt3 1 .i .wr .p .z (.fixed 1))
    else if f = 8 then some (fmt3 1 .p .wr .i .z (.fixed 1)) else none
  else if o = 0x28 then some (fmtI 3 .i .wr .z true (.fixed 1))
  else if o = 0x29 then some (fmtI 3 .i .wr .i true (.fixed 1))
  else if o = 0x2A then some (fmtI 3 .i .wr .z true (.fixed 1))
  else if o = 0x2C then if f < 12 then some { fmt3 2 .i .wr .i .z (.fixed 1) with wc := true } else none
  else if o = 0x2D then
    if f = 0 then some { fmt3 2 .i .wr .z .z (.fixed 2) with rc := true }
    else if f = 1 then some { fmt3 2 .z .no .i .z (.fixed 1) with wc := true }
    else if f = 2 then some (fmt3 2 .i .wr .z .z (.fixed 2))
    else if f = 3 then some (fmt3 2 .z .no .i .z .none) else none
  else if o = 0x30 then some (fmtI 2 .i .wr .z false (.fixed 2))
  else if o = 0x31 then some (fmtI 2 .z .no .i false .none)
  else if o = 0x32 ∨ o = 0x33 then some (fmtI 2 .i .wr .i false (.fixed 2))
  else if o = 0x34 then if f < 6 then some (fmt3 2 .z .no .z .z .none) else none
  else if o = 0x35 ∨ o = 0x38 then if f = 0 then some (fmt3 2 .z .no .z .z .none) else none
  else if o = 0x36 then if f < 4 then some (fmt3 2 .z .no .z .z .none) else none
  else if o = 0x37 then if f < 2 then some (fmt3 2 .z .no .z .z .none) else none
  else if o = 0x39 then some (fmtI 2 .i .wr .z false (.fixed 2))
  else if o = 0x3A then if f = 0 then some (fmt3 2 .i .wr .z .z .inter) else none
  else if o = 0x3C ∨ o = 0x3D then some (fmtI 1 .im .no .im false (if o = 0x3D then .fixed 1 else .none))
  else if o = 0x3E then
    if f < 3 then some (fmt3 1 .im .no .i .z (if f = 1 then .fixed 1 else .none)) else none
  else if 0x40 ≤ o ∧ o ≤ 0x46 then some (fmtI 4 .i .wr .i true .inter)
  else if 0x47 ≤ o ∧ o ≤ 0x49 then some (fmtI 4 .s .wr .i true .inter)
  else if 0x4A ≤ o ∧ o ≤ 0x4D then some (fmtI 4 .i .rd .i true .none)
  else if 0x4E ≤ o ∧ o ≤ 0x50 then some (fmtI 4 .s .rd .i true .none)
  else if o = 0x51 then
    if f < 7 then some (fmt3 4 .i .wr .i .i .inter)
    else if 8 ≤ f ∧ f ≤ 10 then some (fmt3 4 .s .wr .i .i .inter) else none
  else if o = 0x52 then
    if f = 0 ∨ f = 2 ∨ f = 4 ∨ f = 6 then some (fmt3 4 .i .rd .i .i .none)
    else if 8 ≤ f ∧ f ≤ 10 then some (fmt3 4 .s .rd .i .i .none) else none
  else if o = 0x53 then if f < 7 then some (fmt3 4 .i .wr .i .z .inter) else none
  else if o = 0x54 then
    if f = 0 ∨ f = 2 ∨ f = 4 ∨ f = 6 then some (fmt3 4 .i .rd .i .z .none) else none
  else if 0x55 ≤ o ∧ o ≤ 0x58 then if f < 9 then some (fmt3 4 .i .wr .i .i .inter) else none
  else if o = 0x59 then
    if f < 8 then some (if bitOf f 0 then fmt3 4 .pr .rw .i .pr .inter else fmt3 4 .i .rw .i .i .inter) else none
  else if o = 0x5A then some (fmtI 4 .hint .no .i true .none)
  else if o = 0x5B then
    if f / 4 < 3 ∧ (f % 4 = 3 → f / 4 = 0) then some (fmt3 4 .z .no .i .z .none) else none
  else if o = 0x5C then
    if f % 4 = 3 then if f = 3 then some (fmt3 4 .z .no .z .z .none) else none
    else if f % 4 = 2 then some (fmt3 4 .z .no .z .z .none)
    else if f % 4 = 1 then some (fmt3 4 .z .no .z .i .none)
    else some (fmt3 4 .z .no .i .i .none)
  else if o = 0x5D then some { fmtI 4 .v .wr .i true .inter with rc := true }
  else if o = 0x5E then some { fmtI 4 .v .rd .i true .none with rc := true }
  else if o = 0x5F then
    if f = 0 then some { fmt3 4 .v .wr .i .i .inter with rc := true }
    else if f = 1 then some { fmt3 4 .v .rd .i .i .none with rc := true }
    else if f = 2 then some { fmt3 4 .v .wr .i .v .inter with rc := true }
    else if f = 3 then some { fmt3 4 .v .rd .i .v .none with rc := true } else none
  else if 0x60 ≤ o ∧ o ≤ 0x63 then
    if f < 8 then some (fmt3 8 .s .wr .s .s (.fixed (fpLat (o - 0x60))))
    else if f = 8 then some (fmt3 8 .s .wr .s .s .inter)
    else if f = 9 then some (fmt3 8 .s .wr .s .z .inter)
    else if f = 10 then some (fmt3 8 .s .wr .s .z (.fixed 3))
    else if f = 11 then some (fmt3 8 .i .wr .s .z (.fixed 3)) else none
  else if o = 0x64 then some (fmt3 8 .s .rw .s .s (.fixed (fpLat (f / 4))))
  else if o = 0x65 then some (fmt3 8 .i .wr .s .s (.fixed (fpLat (f / 4))))
  else if o = 0x66 then if f / 4 ≠ f % 4 then some (fmt3 8 .s .wr .s .z (.fixed 3)) else none
  else if o = 0x67 then some (fmt3 8 .s .wr .i .z (.fixed 3))
  else if o = 0x68 then some (fmt3 8 .i .wr .s .z (.fixed 3))
  else if o = 0x69 then
    if f = 0 then some (fmt3 8 .i .wr .s .z (.fixed 3))
    else if f = 1 then some (fmt3 8 .s .wr .i .z (.fixed 3)) else none
  else if o = 0x6A then some (fmtV .v (if f = 15 then .rw else .wr) .v .v (vlat 3 c))
  else if o = 0x6B then if f < 15 then some (fmtV .v .wr .v .i (vlat 3 c)) else none
  else if o = 0x6C then if f < 2 then some (fmtV .v .rw .v (if f = 0 then .v else .i) (vlat 3 c)) else none
  else if o = 0x6D then if (vfpFmt c f).isSome then some (fmtV .v .wr .v .v (vlat 3 c)) else none
  else if o = 0x6E then if (vfpFmt c f).isSome then some (fmtV .v .wr .v .s (vlat 3 c)) else none
  else if o = 0x6F then
    if (vfpFmt c f).isSome then some (fmtV .v .rw .v (if bitOf f 2 then .s else .v) (vlat 3 c)) else none
  else if o = 0x70 then
    if (vfpFmt c f).isSome ∧ f % 8 < 3 then
      some (fmtV .v .wr .v (if f % 8 = 0 then .v else if f % 8 = 1 then .s else .z) .inter) else none
  else if o = 0x71 then
    if (vfpFmt c f).isSome ∧ f % 8 < 6 ∧ (f % 8 = 5 → c.scode = 1) then some (fmtV .v .wr .v .z (vlat 3 c)) else none
  else if o = 0x72 then
    if (vfpFmt c f).isSome then some (fmtV .v .wr .v (if bitOf f 2 then .s else .v) (vlat 3 c)) else none
  else if o = 0x73 then
    if f < 2 then some (fmtV .v .wr .v .i (vlat 4 c))
    else if f < 7 then some (fmtV .v .wr .v .v (vlat 4 c))
    else if f = 7 then some (fmtV .v .wr .v .z (vlat 4 c))
    else if f = 8 then some (fmtV .v .wr .z .i (vlat 4 c))
    else if f = 9 then some (fmtV .v .wr .z .s (vlat 4 c))
    else if f = 10 then some (fmtV .i .wr .v .i (vlat 4 c)) else none
  else if o = 0x74 then if f < 8 then some (fmtV .s .wr .v .s .inter) else none
  else if o = 0x75 then
    if (vfpFmt c f).isSome ∧ ¬ bitOf f 2 then some (fmtV .s .wr .v .s .inter) else none
  else none

/-- An immediate form, by opcode alone; its F bits belong to the immediate, so no F of it is reserved. -/
def isImmOp (o : Nat) : Bool :=
  (0x08 ≤ o && o ≤ 0x0F) || (0x21 ≤ o && o ≤ 0x26) || (0x28 ≤ o && o ≤ 0x2A) || (0x30 ≤ o && o ≤ 0x33) || o = 0x39
    || o = 0x3C || o = 0x3D || (0x40 ≤ o && o ≤ 0x50) || o = 0x5A || o = 0x5D || o = 0x5E

/-- A field that breaks the rule for an unused, single or group specifier (R115, R186, R223, R224). -/
def fieldBad (k : OK) (x g : Nat) : Bool :=
  match k with
  | .z => x ≠ 0
  | .i => false
  | .p => false
  | .s => 32 ≤ x
  | .v => 32 ≤ x || x % g ≠ 0
  | .pr => x % 2 ≠ 0
  | .hint => 4 ≤ x
  | .im => false

/-- The illegal-operation reason of a word in a slot (slot code 0 A, 1 B, 2 M, 3 V), the lowest that applies, or none
(R123, R146, R147). Reasons 7 and 8 concern IMX and 9 the placement of calls and returns; the stride checks those. -/
def illegalReason (slot : Nat) (x : OpW) (c : Vcfg) : Option Nat :=
  if ¬ opAssigned x.o then some 1
  else if x.o = 0x7E ∨ x.o = 0x7F then (if slot < 2 then none else some 3)
  else match fmtOf x.o x.f c with
  | none => some 2
  | some m =>
    if ¬ bitOf m.slots slot then some 3
    else if fieldBad m.d x.d c.g || fieldBad m.a x.a c.g || fieldBad m.b x.b c.g then some 4
    else if (m.d = .p ∧ 8 ≤ x.d) ∨ (m.a = .p ∧ 8 ≤ x.a) ∨ (m.b = .p ∧ 8 ≤ x.b) then some 5
    else if 0x0C ≤ x.o ∧ x.o ≤ 0x0F ∧ 64 ≤ x.imm10 then some 6
    else none

/-- A register an operation reads or writes, for readiness, interlocks and the contract. -/
abbrev RegRef := Dest

/-- An integer specifier as a register (R116). -/
def intRef (x : Nat) : RegRef := if x < 32 then Dest.g x else Dest.e (x - 32)

/-- The registers a field names. -/
def fieldRefs (k : OK) (x g : Nat) : List RegRef :=
  match k with
  | .i => [intRef x]
  | .pr => [intRef x, intRef (x + 1)]
  | .p => [Dest.p x]
  | .s => [Dest.v x]
  | .v => (List.range g).map fun k => Dest.v (x + k)
  | _ => []

/-- Registers an operation reads as operands, in the order D, A, B (R214), the guard not among them. -/
def readRefs (x : OpW) (m : Fmt) (c : Vcfg) : List RegRef :=
  (if m.du = .rd ∨ m.du = .rw then fieldRefs m.d x.d c.g else []) ++ fieldRefs m.a x.a c.g ++ fieldRefs m.b x.b c.g

/-- Registers an operation writes. -/
def writeRefs (x : OpW) (m : Fmt) (c : Vcfg) : List RegRef :=
  (if m.du = .wr ∨ m.du = .rw then fieldRefs m.d x.d c.g else [])
    ++ (if m.wc then [Dest.vcfg] else [])
    ++ (if x.o = 0x3D ∨ (x.o = 0x3E ∧ x.f = 1) then [Dest.g 1] else [])

/-- The serializing operations (R134). -/
def isSerial (o f : Nat) : Bool :=
  o = 0x31 || o = 0x32 || o = 0x33 || o = 0x34 || o = 0x35 || (o = 0x36 && f < 2) || o = 0x37 || o = 0x38

/-- Operations whose stride issues only while its carve is the oldest: the serializing ones (R134), FSTATR (R245) and XWAIT
(R342). -/
def oldestOnly (o f : Nat) : Bool :=
  isSerial o f || (o = 0x2D && f = 2) || (o = 0x5C && f = 3)

/-- An operation that writes VCFG (R57). -/
def writesCfg (w : Nat) : Bool :=
  let x := OpW.ofWord w
  x.o = 0x2C || (x.o = 0x2D && x.f = 1)

/-- Operations that bar a carve from the rink (R170). -/
def barsRink (w : Nat) : Bool :=
  let x := OpW.ofWord w
  !isImx w && (isSerial x.o x.f || (x.o = 0x36 && x.f = 2) || x.o = 0x39)

end Sys2Proof.Machine
end

