-- ==== Sys2Proof/Machine/Memory.lean ====
section
/-! DEFINITION. Byte memories as lists of address and byte in one canonical form: addresses strictly rising, no entry equal to
what an unlisted address reads as, which is zero. -/

namespace Sys2Proof.Machine

/-- A byte memory. -/
abbrev Mem := List Host.Cell

/-- The byte at an address. (DESIGN CHOICE, assumption 7) -/
def Mem.rd : Mem → Nat → Byte
  | [], _ => 0#8
  | (k, v) :: t, a => if k = a then v else Mem.rd t a

/-- The memory without an address. -/
def Mem.del : Mem → Nat → Mem
  | [], _ => []
  | (k, v) :: t, a => if k = a then Mem.del t a else (k, v) :: Mem.del t a

/-- The memory with a nonzero byte put in its place. -/
def Mem.ins (a : Nat) (b : Byte) : Mem → Mem
  | [] => [(a, b)]
  | (k, v) :: t => if k < a then (k, v) :: Mem.ins a b t else (a, b) :: (k, v) :: t

/-- Write one byte, keeping the canonical form. -/
def Mem.wr (m : Mem) (a : Nat) (b : Byte) : Mem :=
  if b = 0#8 then Mem.del m a else Mem.ins a b (Mem.del m a)

/-- Write bytes at rising addresses. -/
def Mem.wrs (m : Mem) (a : Nat) : List Byte → Mem
  | [] => m
  | b :: t => Mem.wrs (m.wr a b) (a + 1) t

/-- Read `n` bytes. -/
def Mem.rds (m : Mem) (a : Nat) : Nat → List Byte
  | 0 => []
  | n + 1 => m.rd a :: Mem.rds m (a + 1) n

/-- Clear every byte in a range of addresses. -/
def Mem.clear (m : Mem) (lo len : Nat) : Mem := m.filter fun c => !(lo ≤ c.1 && c.1 < lo + len)

/-- Addresses strictly rising from a bound, every byte nonzero. -/
def Mem.wfFrom : Nat → Mem → Bool
  | _, [] => true
  | lo, (k, v) :: t => decide (lo ≤ k) && v ≠ 0#8 && Mem.wfFrom (k + 1) t

/-- The canonical form. -/
def Mem.wf (m : Mem) : Bool := Mem.wfFrom 0 m

/-- Bytes as a number, the first lowest (R3). -/
def leNat : List Byte → Nat
  | [] => 0
  | b :: t => b.toNat + 256 * leNat t

/-- A number as `n` bytes, lowest first (R3). -/
def leBytes (v : Nat) : Nat → List Byte
  | 0 => []
  | n + 1 => BitVec.ofNat 8 v :: leBytes (v / 256) n

/-- A line as 64 bytes. -/
def lineBytes (l : Line) : List Byte := leBytes l.toNat 64

/-- 64 bytes as a line. -/
def bytesLine (b : List Byte) : Line := BitVec.ofNat 512 (leNat b)

/-- `len` bytes of a line from an offset, as bytes. -/
def lineGet (l : Line) (off len : Nat) : List Byte := leBytes (l.toNat >>> (8 * off)) len

/-- A line with bytes put in at an offset. -/
def linePut (l : Line) (off : Nat) (bs : List Byte) : Line :=
  let n := 8 * bs.length
  let v := l.toNat
  let lo := v % 2 ^ (8 * off)
  let hi := v >>> (8 * off + n)
  BitVec.ofNat 512 (lo + leNat bs * 2 ^ (8 * off) + hi * 2 ^ (8 * off + n))

/-- A line with the bytes of another where a byte-enable mask is 1. -/
def lineMerge (old new : Line) (be : Nat) : Line :=
  bytesLine ((List.range 64).map fun i =>
    let src := if bitOf be i then new else old
    BitVec.ofNat 8 (src.toNat >>> (8 * i)))

/-- The byte-enable mask of `len` bytes at an offset in a line. -/
def beMask (off len : Nat) : Nat := (2 ^ len - 1) * 2 ^ off

end Sys2Proof.Machine
end

