-- ==== Sys2Proof/Config.lean ====
section
/-! DEFINITION. The values the specification leaves open, as constants without a body, and what an implementation fixes. -/

namespace Sys2Proof.Config

/-- A free value for each reading of the free-value counter: replacement victims, values of undefined data and the like.
(DESIGN CHOICE, assumption 3) -/
opaque freeNat : Nat → Nat

/-- The index of a carve address in a direction table: table, address, history (R158 gives no hash). (DESIGN CHOICE, assumption 15) -/
opaque dirIndex : Nat → Nat → List Bool → Nat

/-- The tag of a carve address in a tagged direction table (R158 gives no hash). (DESIGN CHOICE, assumption 15) -/
opaque dirTag : Nat → Nat → List Bool → Nat

/-- What memory reads as under a key other than the one it was written with: key slots and generations, address, byte.
(DESIGN CHOICE, assumption 8) -/
opaque scramble : Nat → Nat → Nat → Nat → Nat

/-- A signature or digest over words, with a key number. (DESIGN CHOICE, assumption 74) -/
opaque sign : Nat → List Nat → Nat

/-- ECDSA P-384 accepts a signature: public key, digest and signature as numbers. (DESIGN CHOICE, assumption 74) -/
opaque ecdsaOk : Nat → Nat → Nat → Bool

/-- Energy estimates in picojoules: estimator, count (R619 gives no figures). -/
opaque energy : Nat → Nat → Nat

/-- Whether so many REFRESH slots of such a length meet the refresh rate of the memory device (R431 gives no figures).
(DESIGN CHOICE, assumption 32) -/
opaque refOk : Nat → Nat → Bool

/-- The word NOTICE_READ answers for a list of pending reasons (R552 gives no encoding). (DESIGN CHOICE, assumption 62) -/
opaque noticeWord : List Nat → Nat

/-- How a repair-log entry writes a location: type, and what the location is (R600 gives no layout). (DESIGN CHOICE, assumption 61) -/
opaque repairLoc : Nat → Nat → Nat

/-- The near-tier channel that a logged row's location names (R600 gives no layout). (DESIGN CHOICE, assumption 61) -/
opaque repairChan : Nat → Nat

/-- A byte of the Patrol's mask ROM, which no rule gives (R35, R550). (DEDUCED, assumption 87) -/
opaque romByte : Nat → Nat

/-- Which of the two canonical quiet NaNs, FP16's (even) or BF16's, VFDUP spreads at SEW 16 for an operand that is no box: element width and operand (R225, R240, R252). (DESIGN CHOICE, assumption 89) -/
opaque boxFill : Nat → Nat → Nat

/-- The version number of the mask ROM (R552 gives no value). -/
opaque romVersion : Nat

/-- Words of the hand-off block that the Patrol firmware chooses: 0 RSVD_BASE, 1 RSVD_LEN, 2 ARGS_PA, 3 ARGS_LEN (R647).
(DESIGN CHOICE, assumption 81) -/
opaque handOff : Nat → Nat

/-- The manufacturer code in the fuses (R635). -/
opaque makerCode : Nat

/-- A byte of what ATTEST writes: number in the buffer, and the words it attests (R552 gives no layout). -/
opaque attestByte : Nat → List Nat → Nat

end Sys2Proof.Config
end

