-- ==== Sys2Proof/Machine/RegMap.lean ====
section
/-! DEFINITION. The register page directory: page types, where each page sits, and every field of every register with its
offset, bits, access type and reset value, written from the register tables of spec/ (R4, R36, R648-R658). -/

namespace Sys2Proof.Machine

/-- The page types (R648). -/
inductive PageType where
  | core
  | l2
  | pad
  | slice
  | router
  | ni
  | lec
  | pmu
  | tlift
  | spot
  | nmc
  | nmcCh
  | hub
  | port
  | ep
  | hdm
  | ide
  | tmap
  | bremap
  | ntmap
  | mesh
  | pmap
  | keys
  | sec
  | ras
  | lift
deriving DecidableEq, Repr

/-- The type code of PAGE_ID.TYPE (R648). -/
def PageType.code : PageType → Nat
  | .core => 0x0101
  | .l2 => 0x0102
  | .pad => 0x0103
  | .slice => 0x0104
  | .router => 0x0105
  | .ni => 0x0106
  | .lec => 0x0107
  | .pmu => 0x0108
  | .tlift => 0x0109
  | .spot => 0x010A
  | .nmc => 0x0201
  | .nmcCh => 0x0202
  | .hub => 0x0301
  | .port => 0x0302
  | .ep => 0x0303
  | .hdm => 0x0304
  | .ide => 0x0305
  | .tmap => 0x0401
  | .bremap => 0x0402
  | .ntmap => 0x0403
  | .mesh => 0x0404
  | .pmap => 0x0405
  | .keys => 0x0406
  | .sec => 0x0407
  | .ras => 0x0408
  | .lift => 0x0501

/-- The access type of a field (R4); RSV fields are not listed, since they read zero and ignore writes. -/
inductive FTy where
  | rw | ro | w1c | wo | rwl | rwp
deriving DecidableEq, Repr

/-- One field of the register directory. `n` registers `stride` bytes apart from `off`, each with `rep` copies of the field
`rs` bits apart from bit `lo`; index `i` names copy `i % rep` of register `i / rep`. -/
structure Fld where
  fid : Nat
  off : Nat
  stride : Nat
  n : Nat
  lo : Nat
  w : Nat
  rep : Nat
  rs : Nat
  ty : FTy
  rst : Nat
deriving DecidableEq, Repr

namespace F
/-- PAGE_ID.SLOT (RO, R36). -/
def PAGE_ID_SLOT : Fld := ⟨0, 0x0, 0, 1, 40, 8, 1, 0, .ro, 0⟩
/-- PAGE_ID.STOP (RO, R36). -/
def PAGE_ID_STOP : Fld := ⟨1, 0x0, 0, 1, 32, 8, 1, 0, .ro, 0⟩
/-- PAGE_ID.INSTANCE (RO, R36). -/
def PAGE_ID_INSTANCE : Fld := ⟨2, 0x0, 0, 1, 16, 16, 1, 0, .ro, 0⟩
/-- PAGE_ID.TYPE (RO, R36). -/
def PAGE_ID_TYPE : Fld := ⟨3, 0x0, 0, 1, 0, 16, 1, 0, .ro, 0⟩
/-- PAGE_VER.STEP (RO, R36). -/
def PAGE_VER_STEP : Fld := ⟨4, 0x8, 0, 1, 16, 8, 1, 0, .ro, 161⟩
/-- PAGE_VER.MAJOR (RO, R36). -/
def PAGE_VER_MAJOR : Fld := ⟨5, 0x8, 0, 1, 8, 8, 1, 0, .ro, 0⟩
/-- PAGE_VER.MINOR (RO, R36). -/
def PAGE_VER_MINOR : Fld := ⟨6, 0x8, 0, 1, 0, 8, 1, 0, .ro, 0⟩
/-- PAGE_CAP.BLK (RO, R36). -/
def PAGE_CAP_BLK : Fld := ⟨7, 0x10, 0, 1, 16, 48, 1, 0, .ro, 0⟩
/-- PAGE_CAP.LOCKABLE (RO, R36). -/
def PAGE_CAP_LOCKABLE : Fld := ⟨8, 0x10, 0, 1, 2, 1, 1, 0, .ro, 1⟩
/-- PAGE_CAP.HAS_EVT (RO, R36). -/
def PAGE_CAP_HAS_EVT : Fld := ⟨9, 0x10, 0, 1, 1, 1, 1, 0, .ro, 1⟩
/-- PAGE_CAP.HAS_INJ (RO, R36). -/
def PAGE_CAP_HAS_INJ : Fld := ⟨10, 0x10, 0, 1, 0, 1, 1, 0, .ro, 1⟩
/-- PAGE_CTL.LOCK (RWP, R36). -/
def PAGE_CTL_LOCK : Fld := ⟨11, 0x18, 0, 1, 1, 1, 1, 0, .rwp, 0⟩
/-- PAGE_CTL.ENABLE (RWL, R36). -/
def PAGE_CTL_ENABLE : Fld := ⟨12, 0x18, 0, 1, 0, 1, 1, 0, .rwl, 0⟩
/-- PAGE_STAT.BLK (RO, R37). -/
def PAGE_STAT_BLK : Fld := ⟨13, 0x20, 0, 1, 16, 48, 1, 0, .ro, 0⟩
/-- PAGE_STAT.EVT_DROP (W1C, R37). -/
def PAGE_STAT_EVT_DROP : Fld := ⟨14, 0x20, 0, 1, 5, 1, 1, 0, .w1c, 0⟩
/-- PAGE_STAT.ERR_OVF (W1C, R37). -/
def PAGE_STAT_ERR_OVF : Fld := ⟨15, 0x20, 0, 1, 4, 1, 1, 0, .w1c, 0⟩
/-- PAGE_STAT.ERR_ANY (RO, R37). -/
def PAGE_STAT_ERR_ANY : Fld := ⟨16, 0x20, 0, 1, 3, 1, 1, 0, .ro, 0⟩
/-- PAGE_STAT.LOCKED (RO, R37). -/
def PAGE_STAT_LOCKED : Fld := ⟨17, 0x20, 0, 1, 2, 1, 1, 0, .ro, 0⟩
/-- PAGE_STAT.BUSY (RO, R37). -/
def PAGE_STAT_BUSY : Fld := ⟨18, 0x20, 0, 1, 1, 1, 1, 0, .ro, 0⟩
/-- PAGE_STAT.ENABLED (RO, R37). -/
def PAGE_STAT_ENABLED : Fld := ⟨19, 0x20, 0, 1, 0, 1, 1, 0, .ro, 0⟩
/-- PAGE_ERR.BLK (W1C, R37). -/
def PAGE_ERR_BLK : Fld := ⟨20, 0x28, 0, 1, 16, 48, 1, 0, .w1c, 0⟩
/-- PAGE_ERR.FATAL (W1C, R37). -/
def PAGE_ERR_FATAL : Fld := ⟨21, 0x28, 0, 1, 10, 1, 1, 0, .w1c, 0⟩
/-- PAGE_ERR.UCR (W1C, R37). -/
def PAGE_ERR_UCR : Fld := ⟨22, 0x28, 0, 1, 9, 1, 1, 0, .w1c, 0⟩
/-- PAGE_ERR.CE (W1C, R37). -/
def PAGE_ERR_CE : Fld := ⟨23, 0x28, 0, 1, 8, 1, 1, 0, .w1c, 0⟩
/-- PAGE_ERR.DENIED (W1C, R37). -/
def PAGE_ERR_DENIED : Fld := ⟨24, 0x28, 0, 1, 3, 1, 1, 0, .w1c, 0⟩
/-- PAGE_ERR.NOT_PATROL (W1C, R37). -/
def PAGE_ERR_NOT_PATROL : Fld := ⟨25, 0x28, 0, 1, 2, 1, 1, 0, .w1c, 0⟩
/-- PAGE_ERR.LOCKED_WR (W1C, R37). -/
def PAGE_ERR_LOCKED_WR : Fld := ⟨26, 0x28, 0, 1, 1, 1, 1, 0, .w1c, 0⟩
/-- PAGE_ERR.SIZE (W1C, R37). -/
def PAGE_ERR_SIZE : Fld := ⟨27, 0x28, 0, 1, 0, 1, 1, 0, .w1c, 0⟩
/-- PAGE_ERR_MASK.MASK (RW, R37). -/
def PAGE_ERR_MASK_MASK : Fld := ⟨28, 0x30, 0, 1, 0, 64, 1, 0, .rw, 0⟩
/-- PAGE_ERR_INJ.INJ (WO, R37). -/
def PAGE_ERR_INJ_INJ : Fld := ⟨29, 0x38, 0, 1, 0, 64, 1, 0, .wo, 0⟩
/-- PAGE_EVT.VALID (RW, R37). -/
def PAGE_EVT_VALID : Fld := ⟨30, 0x40, 0, 1, 16, 1, 1, 0, .rw, 0⟩
/-- PAGE_EVT.TILE (RW, R37). -/
def PAGE_EVT_TILE : Fld := ⟨31, 0x40, 0, 1, 8, 8, 1, 0, .rw, 0⟩
/-- PAGE_EVT.SOURCE (RW, R37). -/
def PAGE_EVT_SOURCE : Fld := ⟨32, 0x40, 0, 1, 0, 8, 1, 0, .rw, 0⟩
/-- PAGE_OWNER.ALL_READ (RWP, R37). -/
def PAGE_OWNER_ALL_READ : Fld := ⟨33, 0x48, 0, 1, 9, 1, 1, 0, .rwp, 0⟩
/-- PAGE_OWNER.PLOCK (RWP, R37). -/
def PAGE_OWNER_PLOCK : Fld := ⟨34, 0x48, 0, 1, 8, 1, 1, 0, .rwp, 1⟩
/-- PAGE_OWNER.PISTE (RWP, R37). -/
def PAGE_OWNER_PISTE : Fld := ⟨35, 0x48, 0, 1, 0, 6, 1, 0, .rwp, 0⟩
/-- CORE_CARVE_CTL.CHK_REQ (RWL, R86). -/
def CORE_CARVE_CTL_CHK_REQ : Fld := ⟨36, 0x100, 0, 1, 9, 1, 1, 0, .rwl, 0⟩
/-- CORE_CARVE_CTL.LODGE_EN (RW, R86). -/
def CORE_CARVE_CTL_LODGE_EN : Fld := ⟨37, 0x100, 0, 1, 8, 1, 1, 0, .rw, 1⟩
/-- CORE_CARVE_CTL.LODGE_THRESH (RW, R86). -/
def CORE_CARVE_CTL_LODGE_THRESH : Fld := ⟨38, 0x100, 0, 1, 0, 8, 1, 0, .rw, 24⟩
/-- CORE_CARVE_STAT.VREG_FREE (RO, R87). -/
def CORE_CARVE_STAT_VREG_FREE : Fld := ⟨39, 0x108, 0, 1, 41, 8, 1, 0, .ro, 128⟩
/-- CORE_CARVE_STAT.IREG_FREE (RO, R87). -/
def CORE_CARVE_STAT_IREG_FREE : Fld := ⟨40, 0x108, 0, 1, 32, 9, 1, 0, .ro, 289⟩
/-- CORE_CARVE_STAT.OLDEST (RO, R87). -/
def CORE_CARVE_STAT_OLDEST : Fld := ⟨41, 0x108, 0, 1, 24, 4, 1, 0, .ro, 0⟩
/-- CORE_CARVE_STAT.T1_BUSY (RO, R87). -/
def CORE_CARVE_STAT_T1_BUSY : Fld := ⟨42, 0x108, 0, 1, 22, 1, 1, 0, .ro, 0⟩
/-- CORE_CARVE_STAT.T0_BUSY (RO, R87). -/
def CORE_CARVE_STAT_T0_BUSY : Fld := ⟨43, 0x108, 0, 1, 21, 1, 1, 0, .ro, 0⟩
/-- CORE_CARVE_STAT.LODGED (RO, R87). -/
def CORE_CARVE_STAT_LODGED : Fld := ⟨44, 0x108, 0, 1, 16, 5, 1, 0, .ro, 0⟩
/-- CORE_CARVE_STAT.STN_BUSY (RO, R87). -/
def CORE_CARVE_STAT_STN_BUSY : Fld := ⟨45, 0x108, 0, 1, 0, 16, 1, 0, .ro, 0⟩
/-- CORE_STN_STATE.STN (RO, R88). -/
def CORE_STN_STATE_STN : Fld := ⟨46, 0x110, 0, 1, 0, 4, 16, 4, .ro, 0⟩
/-- CORE_TIME_CTL.GRM_REQ (RWL, R110). -/
def CORE_TIME_CTL_GRM_REQ : Fld := ⟨47, 0x118, 0, 1, 2, 1, 1, 0, .rwl, 0⟩
/-- CORE_TIME_CTL.CHECK_EN (RW, R110). -/
def CORE_TIME_CTL_CHECK_EN : Fld := ⟨48, 0x118, 0, 1, 1, 1, 1, 0, .rw, 0⟩
/-- CORE_TIME_CTL.GROOM_EN (RW, R110). -/
def CORE_TIME_CTL_GROOM_EN : Fld := ⟨49, 0x118, 0, 1, 0, 1, 1, 0, .rw, 0⟩
/-- CORE_TIME_STAT.APPLYING (RO, R111). -/
def CORE_TIME_STAT_APPLYING : Fld := ⟨50, 0x120, 0, 1, 2, 1, 1, 0, .ro, 0⟩
/-- CORE_TIME_STAT.CHECKING (RO, R111). -/
def CORE_TIME_STAT_CHECKING : Fld := ⟨51, 0x120, 0, 1, 1, 1, 1, 0, .ro, 0⟩
/-- CORE_TIME_STAT.GROOMED (RO, R111). -/
def CORE_TIME_STAT_GROOMED : Fld := ⟨52, 0x120, 0, 1, 0, 1, 1, 0, .ro, 0⟩
/-- CORE_UNTIMED.COUNT (RW, R112). -/
def CORE_UNTIMED_COUNT : Fld := ⟨53, 0x128, 0, 1, 0, 32, 1, 0, .rw, 0⟩
/-- CORE_FLOW_CTL.RINK_FLUSH (WO, R173). -/
def CORE_FLOW_CTL_RINK_FLUSH : Fld := ⟨54, 0x130, 0, 1, 3, 1, 1, 0, .wo, 0⟩
/-- CORE_FLOW_CTL.PRED_FLUSH (WO, R173). -/
def CORE_FLOW_CTL_PRED_FLUSH : Fld := ⟨55, 0x130, 0, 1, 2, 1, 1, 0, .wo, 0⟩
/-- CORE_FLOW_CTL.RINK_EN (RW, R173). -/
def CORE_FLOW_CTL_RINK_EN : Fld := ⟨56, 0x130, 0, 1, 1, 1, 1, 0, .rw, 1⟩
/-- CORE_FLOW_CTL.PRED_EN (RW, R173). -/
def CORE_FLOW_CTL_PRED_EN : Fld := ⟨57, 0x130, 0, 1, 0, 1, 1, 0, .rw, 1⟩
/-- CORE_RINK_STAT.BODY (RO, R175). -/
def CORE_RINK_STAT_BODY : Fld := ⟨58, 0x138, 0, 1, 16, 12, 1, 0, .ro, 0⟩
/-- CORE_RINK_STAT.CARVES (RO, R175). -/
def CORE_RINK_STAT_CARVES : Fld := ⟨59, 0x138, 0, 1, 8, 4, 1, 0, .ro, 0⟩
/-- CORE_RINK_STAT.ENDCAUSE (RO, R175). -/
def CORE_RINK_STAT_ENDCAUSE : Fld := ⟨60, 0x138, 0, 1, 4, 4, 1, 0, .ro, 0⟩
/-- CORE_RINK_STAT.STREAMING (RO, R175). -/
def CORE_RINK_STAT_STREAMING : Fld := ⟨61, 0x138, 0, 1, 1, 1, 1, 0, .ro, 0⟩
/-- CORE_RINK_STAT.CAPTURED (RO, R175). -/
def CORE_RINK_STAT_CAPTURED : Fld := ⟨62, 0x138, 0, 1, 0, 1, 1, 0, .ro, 0⟩
/-- CORE_ATTR_S.NX (RW, R219). -/
def CORE_ATTR_S_NX : Fld := ⟨63, 0x140, 0, 1, 3, 1, 8, 4, .rw, 0⟩
/-- CORE_ATTR_S.TYPE (RW, R219). -/
def CORE_ATTR_S_TYPE : Fld := ⟨64, 0x140, 0, 1, 0, 3, 8, 4, .rw, 0⟩
/-- CORE_ATTR_H.NX (RW, R219). -/
def CORE_ATTR_H_NX : Fld := ⟨65, 0x148, 0, 1, 3, 1, 8, 4, .rw, 0⟩
/-- CORE_ATTR_H.TYPE (RW, R219). -/
def CORE_ATTR_H_TYPE : Fld := ⟨66, 0x148, 0, 1, 0, 3, 8, 4, .rw, 0⟩
/-- CORE_MEMERR.SIZE (RO, R220). -/
def CORE_MEMERR_SIZE : Fld := ⟨67, 0x150, 0, 1, 16, 8, 1, 0, .ro, 0⟩
/-- CORE_MEMERR.TYPE (RO, R220). -/
def CORE_MEMERR_TYPE : Fld := ⟨68, 0x150, 0, 1, 10, 3, 1, 0, .ro, 0⟩
/-- CORE_MEMERR.WC (RO, R220). -/
def CORE_MEMERR_WC : Fld := ⟨69, 0x150, 0, 1, 9, 1, 1, 0, .ro, 0⟩
/-- CORE_MEMERR.HALF (RO, R220). -/
def CORE_MEMERR_HALF : Fld := ⟨70, 0x150, 0, 1, 8, 1, 1, 0, .ro, 0⟩
/-- CORE_MEMERR.KIND (RO, R220). -/
def CORE_MEMERR_KIND : Fld := ⟨71, 0x150, 0, 1, 4, 4, 1, 0, .ro, 0⟩
/-- CORE_MEMERR.OVF (W1C, R220). -/
def CORE_MEMERR_OVF : Fld := ⟨72, 0x150, 0, 1, 1, 1, 1, 0, .w1c, 0⟩
/-- CORE_MEMERR.VALID (W1C, R220). -/
def CORE_MEMERR_VALID : Fld := ⟨73, 0x150, 0, 1, 0, 1, 1, 0, .w1c, 0⟩
/-- CORE_MEMERR_ADDR.PA (RO, R221). -/
def CORE_MEMERR_ADDR_PA : Fld := ⟨74, 0x158, 0, 1, 0, 52, 1, 0, .ro, 0⟩
/-- CORE_MMU_CTL.TLB_FLUSH (WO, R344). -/
def CORE_MMU_CTL_TLB_FLUSH : Fld := ⟨75, 0x160, 0, 1, 2, 1, 1, 0, .wo, 0⟩
/-- CORE_MMU_CTL.WCACHE_EN (RW, R344). -/
def CORE_MMU_CTL_WCACHE_EN : Fld := ⟨76, 0x160, 0, 1, 1, 1, 1, 0, .rw, 1⟩
/-- CORE_MMU_CTL.SPEC_WALK (RW, R344). -/
def CORE_MMU_CTL_SPEC_WALK : Fld := ⟨77, 0x160, 0, 1, 0, 1, 1, 0, .rw, 1⟩
/-- CORE_TLB_STAT.ACK_TMO (W1C, R345). -/
def CORE_TLB_STAT_ACK_TMO : Fld := ⟨78, 0x168, 0, 1, 33, 1, 1, 0, .w1c, 0⟩
/-- CORE_TLB_STAT.ACK_PEND (RO, R345). -/
def CORE_TLB_STAT_ACK_PEND : Fld := ⟨79, 0x168, 0, 1, 16, 16, 1, 0, .ro, 0⟩
/-- CORE_TLB_STAT.XINV_OUT (RO, R345). -/
def CORE_TLB_STAT_XINV_OUT : Fld := ⟨80, 0x168, 0, 1, 0, 3, 1, 0, .ro, 0⟩
/-- L2_LOCK.WAYMASK (RW, R378). -/
def L2_LOCK_WAYMASK : Fld := ⟨81, 0x100, 0, 1, 0, 16, 1, 0, .rw, 0⟩
/-- L2_LOCK_STAT.NLOCKED (RO, R379). -/
def L2_LOCK_STAT_NLOCKED : Fld := ⟨82, 0x108, 0, 1, 8, 5, 1, 0, .ro, 0⟩
/-- L2_LOCK_STAT.NOROOM (W1C, R379). -/
def L2_LOCK_STAT_NOROOM : Fld := ⟨83, 0x108, 0, 1, 2, 1, 1, 0, .w1c, 0⟩
/-- L2_LOCK_STAT.REJECT (W1C, R379). -/
def L2_LOCK_STAT_REJECT : Fld := ⟨84, 0x108, 0, 1, 1, 1, 1, 0, .w1c, 0⟩
/-- L2_LOCK_STAT.BUSY (RO, R379). -/
def L2_LOCK_STAT_BUSY : Fld := ⟨85, 0x108, 0, 1, 0, 1, 1, 0, .ro, 0⟩
/-- L2_PF_CTL.DEGREE (RW, R380). -/
def L2_PF_CTL_DEGREE : Fld := ⟨86, 0x110, 0, 1, 1, 4, 1, 0, .rw, 4⟩
/-- L2_PF_CTL.EN (RW, R380). -/
def L2_PF_CTL_EN : Fld := ⟨87, 0x110, 0, 1, 0, 1, 1, 0, .rw, 1⟩
/-- L2_RANGE_BASE.PA (RW, R381). -/
def L2_RANGE_BASE_PA : Fld := ⟨88, 0x118, 0, 1, 6, 46, 1, 0, .rw, 0⟩
/-- L2_RANGE_LEN.LINES (RW, R381). -/
def L2_RANGE_LEN_LINES : Fld := ⟨89, 0x120, 0, 1, 0, 32, 1, 0, .rw, 0⟩
/-- L2_RANGE_CTL.SOURCE (RW, R381). -/
def L2_RANGE_CTL_SOURCE : Fld := ⟨90, 0x128, 0, 1, 8, 8, 1, 0, .rw, 0⟩
/-- L2_RANGE_CTL.EVT_EN (RW, R381). -/
def L2_RANGE_CTL_EVT_EN : Fld := ⟨91, 0x128, 0, 1, 7, 1, 1, 0, .rw, 0⟩
/-- L2_RANGE_CTL.DEPTH (RW, R381). -/
def L2_RANGE_CTL_DEPTH : Fld := ⟨92, 0x128, 0, 1, 4, 1, 1, 0, .rw, 0⟩
/-- L2_RANGE_CTL.ACT (RW, R381). -/
def L2_RANGE_CTL_ACT : Fld := ⟨93, 0x128, 0, 1, 2, 2, 1, 0, .rw, 0⟩
/-- L2_RANGE_CTL.ABORT (WO, R381). -/
def L2_RANGE_CTL_ABORT : Fld := ⟨94, 0x128, 0, 1, 1, 1, 1, 0, .wo, 0⟩
/-- L2_RANGE_CTL.GO (WO, R381). -/
def L2_RANGE_CTL_GO : Fld := ⟨95, 0x128, 0, 1, 0, 1, 1, 0, .wo, 0⟩
/-- L2_RANGE_STAT.DONE_LINES (RO, R381). -/
def L2_RANGE_STAT_DONE_LINES : Fld := ⟨96, 0x130, 0, 1, 32, 32, 1, 0, .ro, 0⟩
/-- L2_RANGE_STAT.REJECT (W1C, R381). -/
def L2_RANGE_STAT_REJECT : Fld := ⟨97, 0x130, 0, 1, 3, 1, 1, 0, .w1c, 0⟩
/-- L2_RANGE_STAT.ABORTED (W1C, R381). -/
def L2_RANGE_STAT_ABORTED : Fld := ⟨98, 0x130, 0, 1, 2, 1, 1, 0, .w1c, 0⟩
/-- L2_RANGE_STAT.DONE (W1C, R381). -/
def L2_RANGE_STAT_DONE : Fld := ⟨99, 0x130, 0, 1, 1, 1, 1, 0, .w1c, 0⟩
/-- L2_RANGE_STAT.BUSY (RO, R381). -/
def L2_RANGE_STAT_BUSY : Fld := ⟨100, 0x130, 0, 1, 0, 1, 1, 0, .ro, 0⟩
/-- L2_SWEEP.K (RW, R381). -/
def L2_SWEEP_K : Fld := ⟨101, 0x138, 0, 1, 1, 5, 1, 0, .rw, 16⟩
/-- L2_SWEEP.EN (RW, R381). -/
def L2_SWEEP_EN : Fld := ⟨102, 0x138, 0, 1, 0, 1, 1, 0, .rw, 1⟩
/-- PAD_STAT.SPARES (RO, R407). -/
def PAD_STAT_SPARES : Fld := ⟨103, 0x100, 0, 1, 1, 7, 1, 0, .ro, 0⟩
/-- PAD_STAT.ZEROING (RO, R407). -/
def PAD_STAT_ZEROING : Fld := ⟨104, 0x100, 0, 1, 0, 1, 1, 0, .ro, 0⟩
/-- PAD_CONFLICT.COUNT (RW, R408). -/
def PAD_CONFLICT_COUNT : Fld := ⟨105, 0x108, 0, 1, 0, 32, 1, 0, .rw, 0⟩
/-- PAD_ERRLOG.ROW (RO, R410). -/
def PAD_ERRLOG_ROW : Fld := ⟨106, 0x118, 0, 1, 25, 11, 1, 0, .ro, 0⟩
/-- PAD_ERRLOG.COL (RO, R410). -/
def PAD_ERRLOG_COL : Fld := ⟨107, 0x118, 0, 1, 17, 8, 1, 0, .ro, 0⟩
/-- PAD_ERRLOG.SUB (RO, R410). -/
def PAD_ERRLOG_SUB : Fld := ⟨108, 0x118, 0, 1, 15, 2, 1, 0, .ro, 0⟩
/-- PAD_ERRLOG.BANK (RO, R410). -/
def PAD_ERRLOG_BANK : Fld := ⟨109, 0x118, 0, 1, 12, 3, 1, 0, .ro, 0⟩
/-- PAD_ERRLOG.UCR (RO, R410). -/
def PAD_ERRLOG_UCR : Fld := ⟨110, 0x118, 0, 1, 3, 1, 1, 0, .ro, 0⟩
/-- PAD_ERRLOG.OVF (W1C, R410). -/
def PAD_ERRLOG_OVF : Fld := ⟨111, 0x118, 0, 1, 1, 1, 1, 0, .w1c, 0⟩
/-- PAD_ERRLOG.VALID (W1C, R410). -/
def PAD_ERRLOG_VALID : Fld := ⟨112, 0x118, 0, 1, 0, 1, 1, 0, .w1c, 0⟩
/-- PAD_COPY_CTL.GO (WO, R411). -/
def PAD_COPY_CTL_GO : Fld := ⟨113, 0x120, 0, 1, 16, 1, 1, 0, .wo, 0⟩
/-- PAD_COPY_CTL.OP (RWP, R411). -/
def PAD_COPY_CTL_OP : Fld := ⟨114, 0x120, 0, 1, 8, 1, 1, 0, .rwp, 0⟩
/-- PAD_COPY_CTL.DEST (RWP, R411). -/
def PAD_COPY_CTL_DEST : Fld := ⟨115, 0x120, 0, 1, 0, 8, 1, 0, .rwp, 0⟩
/-- PAD_COPY_STAT.BLOCKS (RO, R411). -/
def PAD_COPY_STAT_BLOCKS : Fld := ⟨116, 0x128, 0, 1, 32, 32, 1, 0, .ro, 0⟩
/-- PAD_COPY_STAT.REJECT (W1C, R411). -/
def PAD_COPY_STAT_REJECT : Fld := ⟨117, 0x128, 0, 1, 3, 1, 1, 0, .w1c, 0⟩
/-- PAD_COPY_STAT.ERR (W1C, R411). -/
def PAD_COPY_STAT_ERR : Fld := ⟨118, 0x128, 0, 1, 2, 1, 1, 0, .w1c, 0⟩
/-- PAD_COPY_STAT.DONE (W1C, R411). -/
def PAD_COPY_STAT_DONE : Fld := ⟨119, 0x128, 0, 1, 1, 1, 1, 0, .w1c, 0⟩
/-- PAD_COPY_STAT.BUSY (RO, R411). -/
def PAD_COPY_STAT_BUSY : Fld := ⟨120, 0x128, 0, 1, 0, 1, 1, 0, .ro, 0⟩
/-- PAD_REPAIR[n].FUSE (RO, R412). -/
def PAD_REPAIR_FUSE : Fld := ⟨121, 0x200, 8, 64, 9, 1, 1, 0, .ro, 0⟩
/-- PAD_REPAIR[n].VALID (RWP, R412). -/
def PAD_REPAIR_VALID : Fld := ⟨122, 0x200, 8, 64, 8, 1, 1, 0, .rwp, 0⟩
/-- PAD_REPAIR[n].COL (RWP, R412). -/
def PAD_REPAIR_COL : Fld := ⟨123, 0x200, 8, 64, 0, 8, 1, 0, .rwp, 0⟩
/-- PAD_SWEEP.K (RW, R409). -/
def PAD_SWEEP_K : Fld := ⟨124, 0x110, 0, 1, 1, 5, 1, 0, .rw, 16⟩
/-- PAD_SWEEP.EN (RW, R409). -/
def PAD_SWEEP_EN : Fld := ⟨125, 0x110, 0, 1, 0, 1, 1, 0, .rw, 1⟩
/-- SLICE_DRAIN.GO (WO, R382). -/
def SLICE_DRAIN_GO : Fld := ⟨126, 0x100, 0, 1, 16, 1, 1, 0, .wo, 0⟩
/-- SLICE_DRAIN.ALL (RWP, R382). -/
def SLICE_DRAIN_ALL : Fld := ⟨127, 0x100, 0, 1, 15, 1, 1, 0, .rwp, 0⟩
/-- SLICE_DRAIN.LANES (RWP, R382). -/
def SLICE_DRAIN_LANES : Fld := ⟨128, 0x100, 0, 1, 8, 4, 1, 0, .rwp, 0⟩
/-- SLICE_DRAIN.BUCKET (RWP, R382). -/
def SLICE_DRAIN_BUCKET : Fld := ⟨129, 0x100, 0, 1, 0, 8, 1, 0, .rwp, 0⟩
/-- SLICE_DRAIN_STAT.WRITTEN (RO, R383). -/
def SLICE_DRAIN_STAT_WRITTEN : Fld := ⟨130, 0x108, 0, 1, 32, 32, 1, 0, .ro, 0⟩
/-- SLICE_DRAIN_STAT.REJECT (W1C, R383). -/
def SLICE_DRAIN_STAT_REJECT : Fld := ⟨131, 0x108, 0, 1, 2, 1, 1, 0, .w1c, 0⟩
/-- SLICE_DRAIN_STAT.DONE (W1C, R383). -/
def SLICE_DRAIN_STAT_DONE : Fld := ⟨132, 0x108, 0, 1, 1, 1, 1, 0, .w1c, 0⟩
/-- SLICE_DRAIN_STAT.BUSY (RO, R383). -/
def SLICE_DRAIN_STAT_BUSY : Fld := ⟨133, 0x108, 0, 1, 0, 1, 1, 0, .ro, 0⟩
/-- SLICE_STAT.PIN_EVICT (RO, R385). -/
def SLICE_STAT_PIN_EVICT : Fld := ⟨134, 0x118, 0, 1, 32, 32, 1, 0, .ro, 0⟩
/-- SLICE_STAT.DIR_USED (RO, R385). -/
def SLICE_STAT_DIR_USED : Fld := ⟨135, 0x118, 0, 1, 16, 15, 1, 0, .ro, 0⟩
/-- SLICE_STAT.LLC_USED (RO, R385). -/
def SLICE_STAT_LLC_USED : Fld := ⟨136, 0x118, 0, 1, 0, 16, 1, 0, .ro, 0⟩
/-- SLICE_SWEEP.K (RW, R384). -/
def SLICE_SWEEP_K : Fld := ⟨137, 0x110, 0, 1, 1, 5, 1, 0, .rw, 16⟩
/-- SLICE_SWEEP.EN (RW, R384). -/
def SLICE_SWEEP_EN : Fld := ⟨138, 0x110, 0, 1, 0, 1, 1, 0, .rw, 1⟩
/-- ROUTER_CTL.PORT_EN (RWP, R497). -/
def ROUTER_CTL_PORT_EN : Fld := ⟨139, 0x100, 0, 1, 6, 6, 1, 0, .rwp, 0⟩
/-- ROUTER_CTL.DRAIN (RWP, R497). -/
def ROUTER_CTL_DRAIN : Fld := ⟨140, 0x100, 0, 1, 0, 1, 1, 0, .rwp, 0⟩
/-- ROUTER_STAT.STATE (RO, R497). -/
def ROUTER_STAT_STATE : Fld := ⟨141, 0x108, 0, 1, 0, 2, 1, 0, .ro, 0⟩
/-- ROUTER_ABSORB.LAST_PORT (RO, R497). -/
def ROUTER_ABSORB_LAST_PORT : Fld := ⟨142, 0x110, 0, 1, 40, 3, 1, 0, .ro, 0⟩
/-- ROUTER_ABSORB.LAST_SRC (RO, R497). -/
def ROUTER_ABSORB_LAST_SRC : Fld := ⟨143, 0x110, 0, 1, 32, 8, 1, 0, .ro, 0⟩
/-- ROUTER_ABSORB.COUNT (RW, R497). -/
def ROUTER_ABSORB_COUNT : Fld := ⟨144, 0x110, 0, 1, 0, 32, 1, 0, .rw, 0⟩
/-- ROUTER_CAL_CTL.REJECT (W1C, R497). -/
def ROUTER_CAL_CTL_REJECT : Fld := ⟨145, 0x118, 0, 1, 1, 1, 1, 0, .w1c, 0⟩
/-- ROUTER_CAL_CTL.EN (RWP, R497). -/
def ROUTER_CAL_CTL_EN : Fld := ⟨146, 0x118, 0, 1, 0, 1, 1, 0, .rwp, 0⟩
/-- ROUTER_CAL[o][c][w].SLOT (RWP, R497). -/
def ROUTER_CAL_SLOT : Fld := ⟨147, 0x200, 8, 96, 0, 8, 8, 8, .rwp, 0⟩
/-- NI_CLOSE.REQ (RWP, R498). -/
def NI_CLOSE_REQ : Fld := ⟨148, 0x100, 0, 1, 0, 4, 1, 0, .rwp, 0⟩
/-- NI_CLOSE_STAT.IN (RO, R498). -/
def NI_CLOSE_STAT_IN : Fld := ⟨149, 0x108, 0, 1, 48, 16, 1, 0, .ro, 0⟩
/-- NI_CLOSE_STAT.OUT (RO, R498). -/
def NI_CLOSE_STAT_OUT : Fld := ⟨150, 0x108, 0, 1, 32, 16, 1, 0, .ro, 0⟩
/-- NI_CLOSE_STAT.STATE (RO, R498). -/
def NI_CLOSE_STAT_STATE : Fld := ⟨151, 0x108, 0, 1, 0, 8, 1, 0, .ro, 0⟩
/-- NI_STAT.MISDELIVER (W1C, R498). -/
def NI_STAT_MISDELIVER : Fld := ⟨152, 0x110, 0, 1, 2, 1, 1, 0, .w1c, 0⟩
/-- NI_STAT.BADFLIT (W1C, R498). -/
def NI_STAT_BADFLIT : Fld := ⟨153, 0x110, 0, 1, 1, 1, 1, 0, .w1c, 0⟩
/-- NI_STAT.BADROUTE (W1C, R498). -/
def NI_STAT_BADROUTE : Fld := ⟨154, 0x110, 0, 1, 0, 1, 1, 0, .w1c, 0⟩
/-- NI_EPOCH_STAT.OUT1 (RO, R498). -/
def NI_EPOCH_STAT_OUT1 : Fld := ⟨155, 0x118, 0, 1, 32, 10, 1, 0, .ro, 0⟩
/-- NI_EPOCH_STAT.OUT0 (RO, R498). -/
def NI_EPOCH_STAT_OUT0 : Fld := ⟨156, 0x118, 0, 1, 16, 10, 1, 0, .ro, 0⟩
/-- NI_EPOCH_STAT.CUR (RO, R498). -/
def NI_EPOCH_STAT_CUR : Fld := ⟨157, 0x118, 0, 1, 0, 1, 1, 0, .ro, 0⟩
/-- NI_GATE_PISTE.PISTE (RWP, R498). -/
def NI_GATE_PISTE_PISTE : Fld := ⟨158, 0x120, 0, 1, 0, 6, 1, 0, .rwp, 0⟩
/-- NI_GATE_TILES[k].TILES (RWP, R498). -/
def NI_GATE_TILES_TILES : Fld := ⟨159, 0x128, 8, 3, 0, 64, 1, 0, .rwp, 0⟩
/-- NI_SEALED.MASK (RWP, R498). -/
def NI_SEALED_MASK : Fld := ⟨160, 0x140, 0, 1, 0, 64, 1, 0, .rwp, 0⟩
/-- NI_RETRY.COUNT (RW, R498). -/
def NI_RETRY_COUNT : Fld := ⟨161, 0x148, 0, 1, 0, 32, 1, 0, .rw, 0⟩
/-- NI_ROUTE[e][n].VALID (RWP, R498). -/
def NI_ROUTE_VALID : Fld := ⟨162, 0x400, 8, 384, 63, 1, 1, 0, .rwp, 1⟩
/-- NI_ROUTE[e][n].ROUTE (RWP, R498). -/
def NI_ROUTE_ROUTE : Fld := ⟨163, 0x400, 8, 384, 0, 40, 1, 0, .rwp, 0⟩
/-- LEC_CTL.STRICT (RWP, R311). -/
def LEC_CTL_STRICT : Fld := ⟨164, 0x100, 0, 1, 0, 1, 1, 0, .rwp, 0⟩
/-- LEC_STAT.BADEVT (W1C, R312). -/
def LEC_STAT_BADEVT : Fld := ⟨165, 0x108, 0, 1, 33, 1, 1, 0, .w1c, 0⟩
/-- LEC_STAT.ORDER_ERR (W1C, R312). -/
def LEC_STAT_ORDER_ERR : Fld := ⟨166, 0x108, 0, 1, 32, 1, 1, 0, .w1c, 0⟩
/-- LEC_STAT.ACT1 (RO, R312). -/
def LEC_STAT_ACT1 : Fld := ⟨167, 0x108, 0, 1, 24, 8, 1, 0, .ro, 0⟩
/-- LEC_STAT.ACT0 (RO, R312). -/
def LEC_STAT_ACT0 : Fld := ⟨168, 0x108, 0, 1, 16, 8, 1, 0, .ro, 0⟩
/-- LEC_STAT.PTGT (RO, R312). -/
def LEC_STAT_PTGT : Fld := ⟨169, 0x108, 0, 1, 11, 2, 1, 0, .ro, 0⟩
/-- LEC_STAT.DEPTH (RO, R312). -/
def LEC_STAT_DEPTH : Fld := ⟨170, 0x108, 0, 1, 9, 2, 1, 0, .ro, 0⟩
/-- LEC_STAT.PVALID (RO, R312). -/
def LEC_STAT_PVALID : Fld := ⟨171, 0x108, 0, 1, 8, 1, 1, 0, .ro, 0⟩
/-- LEC_STAT.PRES (RO, R312). -/
def LEC_STAT_PRES : Fld := ⟨172, 0x108, 0, 1, 0, 8, 1, 0, .ro, 0⟩
/-- LEC_CLAIM.VALID (RO, R313). -/
def LEC_CLAIM_VALID : Fld := ⟨173, 0x110, 0, 1, 8, 1, 1, 0, .ro, 0⟩
/-- LEC_CLAIM.SOURCE (RO, R313). -/
def LEC_CLAIM_SOURCE : Fld := ⟨174, 0x110, 0, 1, 0, 8, 1, 0, .ro, 0⟩
/-- LEC_COMPLETE.SOURCE (WO, R313). -/
def LEC_COMPLETE_SOURCE : Fld := ⟨175, 0x118, 0, 1, 0, 8, 1, 0, .wo, 0⟩
/-- LEC_DOORBELL.SOURCE (WO, R313). -/
def LEC_DOORBELL_SOURCE : Fld := ⟨176, 0x120, 0, 1, 0, 8, 1, 0, .wo, 0⟩
/-- LEC_STRAY.COUNT (RW, R313). -/
def LEC_STRAY_COUNT : Fld := ⟨177, 0x128, 0, 1, 0, 32, 1, 0, .rw, 0⟩
/-- LEC_DELEG.DELEG (RO, R313). -/
def LEC_DELEG_DELEG : Fld := ⟨178, 0x130, 0, 1, 0, 4, 1, 0, .ro, 0⟩
/-- LEC_PENDk.PEND (RW, R313). -/
def LEC_PEND_PEND : Fld := ⟨179, 0x140, 8, 4, 0, 64, 1, 0, .rw, 0⟩
/-- LEC_MASKk.MASK (RW, R313). -/
def LEC_MASK_MASK : Fld := ⟨180, 0x160, 8, 4, 0, 64, 1, 0, .rw, 18446744073709551615⟩
/-- LEC_TMR_CMPn.CMP (RW, R313). -/
def LEC_TMR_CMP_CMP : Fld := ⟨181, 0x180, 8, 4, 0, 64, 1, 0, .rw, 0⟩
/-- LEC_TMR_CTL.EN (RW, R313). -/
def LEC_TMR_CTL_EN : Fld := ⟨182, 0x1a0, 0, 1, 0, 4, 1, 0, .rw, 0⟩
/-- LEC_WDOG_CTL.PERIOD (RW, R313). -/
def LEC_WDOG_CTL_PERIOD : Fld := ⟨183, 0x1a8, 0, 1, 8, 24, 1, 0, .rw, 0⟩
/-- LEC_WDOG_CTL.EN (RW, R313). -/
def LEC_WDOG_CTL_EN : Fld := ⟨184, 0x1a8, 0, 1, 0, 1, 1, 0, .rw, 0⟩
/-- LEC_WDOG_KICK.KICK (WO, R313). -/
def LEC_WDOG_KICK_KICK : Fld := ⟨185, 0x1b0, 0, 1, 0, 64, 1, 0, .wo, 0⟩
/-- LEC_WDOG_CNT.CNT (RO, R313). -/
def LEC_WDOG_CNT_CNT : Fld := ⟨186, 0x1b8, 0, 1, 0, 32, 1, 0, .ro, 0⟩
/-- PMU_CTL.TD_CLR (WO, R625). -/
def PMU_CTL_TD_CLR : Fld := ⟨187, 0x100, 0, 1, 13, 1, 1, 0, .wo, 0⟩
/-- PMU_CTL.FREEZE (RW, R625). -/
def PMU_CTL_FREEZE : Fld := ⟨188, 0x100, 0, 1, 12, 1, 1, 0, .rw, 0⟩
/-- PMU_CTL.UCNT (RW, R625). -/
def PMU_CTL_UCNT : Fld := ⟨189, 0x100, 0, 1, 0, 12, 1, 0, .rw, 0⟩
/-- PMU_OVF.OVF (W1C, R625). -/
def PMU_OVF_OVF : Fld := ⟨190, 0x108, 0, 1, 0, 12, 1, 0, .w1c, 0⟩
/-- PMU_OVF_EVT.EN (RW, R625). -/
def PMU_OVF_EVT_EN : Fld := ⟨191, 0x110, 0, 1, 8, 1, 1, 0, .rw, 0⟩
/-- PMU_OVF_EVT.SOURCE (RW, R625). -/
def PMU_OVF_EVT_SOURCE : Fld := ⟨192, 0x110, 0, 1, 0, 8, 1, 0, .rw, 0⟩
/-- PMU_SPLIT_CTL.K (RW, R625). -/
def PMU_SPLIT_CTL_K : Fld := ⟨193, 0x118, 0, 1, 8, 5, 1, 0, .rw, 20⟩
/-- PMU_SPLIT_CTL.EN (RW, R625). -/
def PMU_SPLIT_CTL_EN : Fld := ⟨194, 0x118, 0, 1, 0, 1, 1, 0, .rw, 0⟩
/-- PMU_SPLIT_RING.BASE (RW, R625). -/
def PMU_SPLIT_RING_BASE : Fld := ⟨195, 0x120, 0, 1, 12, 40, 1, 0, .rw, 0⟩
/-- PMU_SPLIT_RING.LOG2 (RW, R625). -/
def PMU_SPLIT_RING_LOG2 : Fld := ⟨196, 0x120, 0, 1, 0, 5, 1, 0, .rw, 4⟩
/-- PMU_SPLIT_HEAD.PA (RW, R625). -/
def PMU_SPLIT_HEAD_PA : Fld := ⟨197, 0x128, 0, 1, 3, 49, 1, 0, .rw, 0⟩
/-- PMU_SPLIT_STAT.WRITTEN (RO, R625). -/
def PMU_SPLIT_STAT_WRITTEN : Fld := ⟨198, 0x130, 0, 1, 32, 32, 1, 0, .ro, 0⟩
/-- PMU_SPLIT_STAT.MISSED (RW, R625). -/
def PMU_SPLIT_STAT_MISSED : Fld := ⟨199, 0x130, 0, 1, 16, 16, 1, 0, .rw, 0⟩
/-- PMU_SPLIT_STAT.ERR (W1C, R625). -/
def PMU_SPLIT_STAT_ERR : Fld := ⟨200, 0x130, 0, 1, 1, 1, 1, 0, .w1c, 0⟩
/-- PMU_SPLIT_STAT.BUSY (RO, R625). -/
def PMU_SPLIT_STAT_BUSY : Fld := ⟨201, 0x130, 0, 1, 0, 1, 1, 0, .ro, 0⟩
/-- PMU_FIX[i].COUNT (RW (i = 0–2), RO (i = 3), R625). -/
def PMU_FIX_COUNT : Fld := ⟨202, 0x140, 8, 4, 0, 48, 1, 0, .rw, 0⟩
/-- PMU_CNT[n].COUNT (RW, R625). -/
def PMU_CNT_COUNT : Fld := ⟨203, 0x160, 8, 8, 0, 48, 1, 0, .rw, 0⟩
/-- PMU_EVSEL[n].EN (RW, R625). -/
def PMU_EVSEL_EN : Fld := ⟨204, 0x1a0, 8, 8, 31, 1, 1, 0, .rw, 0⟩
/-- PMU_EVSEL[n].LVL (RW, R625). -/
def PMU_EVSEL_LVL : Fld := ⟨205, 0x1a0, 8, 8, 28, 3, 1, 0, .rw, 7⟩
/-- PMU_EVSEL[n].THR_EN (RW, R625). -/
def PMU_EVSEL_THR_EN : Fld := ⟨206, 0x1a0, 8, 8, 24, 1, 1, 0, .rw, 0⟩
/-- PMU_EVSEL[n].THRESH (RW, R625). -/
def PMU_EVSEL_THRESH : Fld := ⟨207, 0x1a0, 8, 8, 16, 8, 1, 0, .rw, 0⟩
/-- PMU_EVSEL[n].EVENT (RW, R625). -/
def PMU_EVSEL_EVENT : Fld := ⟨208, 0x1a0, 8, 8, 0, 16, 1, 0, .rw, 0⟩
/-- PMU_TD[c].COUNT (RO, R625). -/
def PMU_TD_COUNT : Fld := ⟨209, 0x1e0, 8, 5, 0, 48, 1, 0, .ro, 0⟩
/-- PMU_TD_PEND.SLOTS (RO, R625). -/
def PMU_TD_PEND_SLOTS : Fld := ⟨210, 0x208, 0, 1, 0, 12, 1, 0, .ro, 0⟩
/-- PMU_E_CORE.PJ (RO, R625). -/
def PMU_E_CORE_PJ : Fld := ⟨211, 0x210, 0, 1, 0, 48, 1, 0, .ro, 0⟩
/-- PMU_E_MESH.PJ (RO, R625). -/
def PMU_E_MESH_PJ : Fld := ⟨212, 0x218, 0, 1, 0, 48, 1, 0, .ro, 0⟩
/-- TLIFT_PREQ.PSTATE (RW, R576). -/
def TLIFT_PREQ_PSTATE : Fld := ⟨213, 0x100, 0, 1, 0, 4, 1, 0, .rw, 1⟩
/-- TLIFT_PSTAT.MOVING (RO, R576). -/
def TLIFT_PSTAT_MOVING : Fld := ⟨214, 0x108, 0, 1, 11, 1, 1, 0, .ro, 0⟩
/-- TLIFT_PSTAT.LIMITED (RO, R576). -/
def TLIFT_PSTAT_LIMITED : Fld := ⟨215, 0x108, 0, 1, 10, 1, 1, 0, .ro, 0⟩
/-- TLIFT_PSTAT.CAPPED (RO, R576). -/
def TLIFT_PSTAT_CAPPED : Fld := ⟨216, 0x108, 0, 1, 9, 1, 1, 0, .ro, 0⟩
/-- TLIFT_PSTAT.FIXED (RO, R576). -/
def TLIFT_PSTAT_FIXED : Fld := ⟨217, 0x108, 0, 1, 8, 1, 1, 0, .ro, 0⟩
/-- TLIFT_PSTAT.TARGET (RO, R576). -/
def TLIFT_PSTAT_TARGET : Fld := ⟨218, 0x108, 0, 1, 4, 4, 1, 0, .ro, 1⟩
/-- TLIFT_PSTAT.CUR (RO, R576). -/
def TLIFT_PSTAT_CUR : Fld := ⟨219, 0x108, 0, 1, 0, 4, 1, 0, .ro, 1⟩
/-- TLIFT_PFIX.FIX (RWP, R576). -/
def TLIFT_PFIX_FIX : Fld := ⟨220, 0x110, 0, 1, 4, 1, 1, 0, .rwp, 0⟩
/-- TLIFT_PFIX.PSTATE (RWP, R576). -/
def TLIFT_PFIX_PSTATE : Fld := ⟨221, 0x110, 0, 1, 0, 4, 1, 0, .rwp, 1⟩
/-- TLIFT_TCTL.FORCE_T3 (RWP, R576). -/
def TLIFT_TCTL_FORCE_T3 : Fld := ⟨222, 0x118, 0, 1, 8, 1, 1, 0, .rwp, 0⟩
/-- TLIFT_TCTL.TARGET (RW, R576). -/
def TLIFT_TCTL_TARGET : Fld := ⟨223, 0x118, 0, 1, 0, 2, 1, 0, .rw, 0⟩
/-- TLIFT_TSTAT.PHASE (RO, R576). -/
def TLIFT_TSTAT_PHASE : Fld := ⟨224, 0x120, 0, 1, 4, 4, 1, 0, .ro, 0⟩
/-- TLIFT_TSTAT.STATE (RO, R576). -/
def TLIFT_TSTAT_STATE : Fld := ⟨225, 0x120, 0, 1, 0, 2, 1, 0, .ro, 0⟩
/-- TLIFT_RESTART.ADDR (RW, R576). -/
def TLIFT_RESTART_ADDR : Fld := ⟨226, 0x128, 0, 1, 6, 58, 1, 0, .rw, 0⟩
/-- SPOT_FILT[p].EN (RW, R499). -/
def SPOT_FILT_EN : Fld := ⟨227, 0x100, 64, 2, 63, 1, 1, 0, .rw, 0⟩
/-- SPOT_FILT[p].PORT (RW, R499). -/
def SPOT_FILT_PORT : Fld := ⟨228, 0x100, 64, 2, 48, 3, 1, 0, .rw, 7⟩
/-- SPOT_FILT[p].CLSM (RW, R499). -/
def SPOT_FILT_CLSM : Fld := ⟨229, 0x100, 64, 2, 44, 4, 1, 0, .rw, 15⟩
/-- SPOT_FILT[p].PEN (RW, R499). -/
def SPOT_FILT_PEN : Fld := ⟨230, 0x100, 64, 2, 38, 1, 1, 0, .rw, 0⟩
/-- SPOT_FILT[p].PISTE (RW, R499). -/
def SPOT_FILT_PISTE : Fld := ⟨231, 0x100, 64, 2, 32, 6, 1, 0, .rw, 0⟩
/-- SPOT_FILT[p].DSTM (RW, R499). -/
def SPOT_FILT_DSTM : Fld := ⟨232, 0x100, 64, 2, 24, 8, 1, 0, .rw, 0⟩
/-- SPOT_FILT[p].DST (RW, R499). -/
def SPOT_FILT_DST : Fld := ⟨233, 0x100, 64, 2, 16, 8, 1, 0, .rw, 0⟩
/-- SPOT_FILT[p].SRCM (RW, R499). -/
def SPOT_FILT_SRCM : Fld := ⟨234, 0x100, 64, 2, 8, 8, 1, 0, .rw, 0⟩
/-- SPOT_FILT[p].SRC (RW, R499). -/
def SPOT_FILT_SRC : Fld := ⟨235, 0x100, 64, 2, 0, 8, 1, 0, .rw, 0⟩
/-- SPOT_CNT[p].COUNT (RW, R499). -/
def SPOT_CNT_COUNT : Fld := ⟨236, 0x108, 64, 2, 0, 48, 1, 0, .rw, 0⟩
/-- SPOT_TCTL[p].TERR (W1C, R499). -/
def SPOT_TCTL_TERR : Fld := ⟨237, 0x110, 64, 2, 2, 1, 1, 0, .w1c, 0⟩
/-- SPOT_TCTL[p].STOP (RW, R499). -/
def SPOT_TCTL_STOP : Fld := ⟨238, 0x110, 64, 2, 1, 1, 1, 0, .rw, 0⟩
/-- SPOT_TCTL[p].TEN (RW, R499). -/
def SPOT_TCTL_TEN : Fld := ⟨239, 0x110, 64, 2, 0, 1, 1, 0, .rw, 0⟩
/-- SPOT_TBASE[p].PA (RW, R499). -/
def SPOT_TBASE_PA : Fld := ⟨240, 0x118, 64, 2, 12, 40, 1, 0, .rw, 0⟩
/-- SPOT_TSIZE[p].SIZE (RW, R499). -/
def SPOT_TSIZE_SIZE : Fld := ⟨241, 0x120, 64, 2, 0, 16, 1, 0, .rw, 0⟩
/-- SPOT_TPTR[p].FULL (W1C, R499). -/
def SPOT_TPTR_FULL : Fld := ⟨242, 0x128, 64, 2, 32, 1, 1, 0, .w1c, 0⟩
/-- SPOT_TPTR[p].TPTR (RO, R499). -/
def SPOT_TPTR_TPTR : Fld := ⟨243, 0x128, 64, 2, 0, 32, 1, 0, .ro, 0⟩
/-- SPOT_DROP[p].DROPPED (RW, R499). -/
def SPOT_DROP_DROPPED : Fld := ⟨244, 0x180, 8, 2, 0, 32, 1, 0, .rw, 0⟩
/-- NMC_CTL.TRAIN_GO (WO, R433). -/
def NMC_CTL_TRAIN_GO : Fld := ⟨245, 0x100, 0, 1, 16, 1, 1, 0, .wo, 0⟩
/-- NMC_CTL.OSC_PERIOD (RW, R433). -/
def NMC_CTL_OSC_PERIOD : Fld := ⟨246, 0x100, 0, 1, 0, 16, 1, 0, .rw, 1000⟩
/-- NMC_STAT.TRAINING (RO, R433). -/
def NMC_STAT_TRAINING : Fld := ⟨247, 0x108, 0, 1, 16, 1, 1, 0, .ro, 0⟩
/-- NMC_STAT.TRAIN_FAIL (RO, R433). -/
def NMC_STAT_TRAIN_FAIL : Fld := ⟨248, 0x108, 0, 1, 8, 6, 1, 0, .ro, 0⟩
/-- NMC_STAT.READY (RO, R433). -/
def NMC_STAT_READY : Fld := ⟨249, 0x108, 0, 1, 0, 6, 1, 0, .ro, 0⟩
/-- NMC_CH_CTL.AGE (RW, R434). -/
def NMC_CH_CTL_AGE : Fld := ⟨250, 0x100, 0, 1, 32, 16, 1, 0, .rw, 512⟩
/-- NMC_CH_CTL.RFM_K (RW, R434). -/
def NMC_CH_CTL_RFM_K : Fld := ⟨251, 0x100, 0, 1, 24, 4, 1, 0, .rw, 10⟩
/-- NMC_CH_CTL.IDLE (RW, R434). -/
def NMC_CH_CTL_IDLE : Fld := ⟨252, 0x100, 0, 1, 8, 12, 1, 0, .rw, 64⟩
/-- NMC_CH_CTL.ORDER (RWL, R434). -/
def NMC_CH_CTL_ORDER : Fld := ⟨253, 0x100, 0, 1, 2, 2, 1, 0, .rwl, 0⟩
/-- NMC_CH_CTL.MODE (RWL, R434). -/
def NMC_CH_CTL_MODE : Fld := ⟨254, 0x100, 0, 1, 0, 2, 1, 0, .rwl, 0⟩
/-- NMC_CH_STAT.ZEROING (RO, R434). -/
def NMC_CH_STAT_ZEROING : Fld := ⟨255, 0x108, 0, 1, 5, 1, 1, 0, .ro, 0⟩
/-- NMC_CH_STAT.SELF_REFRESH (RO, R434). -/
def NMC_CH_STAT_SELF_REFRESH : Fld := ⟨256, 0x108, 0, 1, 4, 1, 1, 0, .ro, 0⟩
/-- NMC_CH_STAT.CAL_ACTIVE (RO, R434). -/
def NMC_CH_STAT_CAL_ACTIVE : Fld := ⟨257, 0x108, 0, 1, 3, 1, 1, 0, .ro, 0⟩
/-- NMC_CH_STAT.FALLBACK (RO, R434). -/
def NMC_CH_STAT_FALLBACK : Fld := ⟨258, 0x108, 0, 1, 2, 1, 1, 0, .ro, 0⟩
/-- NMC_CH_STAT.TRAIN_FAIL (RO, R434). -/
def NMC_CH_STAT_TRAIN_FAIL : Fld := ⟨259, 0x108, 0, 1, 1, 1, 1, 0, .ro, 0⟩
/-- NMC_CH_STAT.READY (RO, R434). -/
def NMC_CH_STAT_READY : Fld := ⟨260, 0x108, 0, 1, 0, 1, 1, 0, .ro, 0⟩
/-- NMC_CH_PASR.ZERO_EXIT (RW, R434). -/
def NMC_CH_PASR_ZERO_EXIT : Fld := ⟨261, 0x110, 0, 1, 8, 1, 1, 0, .rw, 1⟩
/-- NMC_CH_PASR.RETAIN (RW, R434). -/
def NMC_CH_PASR_RETAIN : Fld := ⟨262, 0x110, 0, 1, 0, 8, 1, 0, .rw, 255⟩
/-- NMC_CH_SWEEP.K (RW, R434). -/
def NMC_CH_SWEEP_K : Fld := ⟨263, 0x118, 0, 1, 1, 5, 1, 0, .rw, 12⟩
/-- NMC_CH_SWEEP.EN (RW, R434). -/
def NMC_CH_SWEEP_EN : Fld := ⟨264, 0x118, 0, 1, 0, 1, 1, 0, .rw, 1⟩
/-- NMC_CH_ERRLOG.D (RO, R434). -/
def NMC_CH_ERRLOG_D : Fld := ⟨265, 0x120, 0, 1, 32, 26, 1, 0, .ro, 0⟩
/-- NMC_CH_ERRLOG.UCR (RO, R434). -/
def NMC_CH_ERRLOG_UCR : Fld := ⟨266, 0x120, 0, 1, 3, 1, 1, 0, .ro, 0⟩
/-- NMC_CH_ERRLOG.META (RO, R434). -/
def NMC_CH_ERRLOG_META : Fld := ⟨267, 0x120, 0, 1, 2, 1, 1, 0, .ro, 0⟩
/-- NMC_CH_ERRLOG.OVF (W1C, R434). -/
def NMC_CH_ERRLOG_OVF : Fld := ⟨268, 0x120, 0, 1, 1, 1, 1, 0, .w1c, 0⟩
/-- NMC_CH_ERRLOG.VALID (W1C, R434). -/
def NMC_CH_ERRLOG_VALID : Fld := ⟨269, 0x120, 0, 1, 0, 1, 1, 0, .w1c, 0⟩
/-- NMC_CH_CSTAT.BYPASS (RW, R434). -/
def NMC_CH_CSTAT_BYPASS : Fld := ⟨270, 0x128, 0, 1, 0, 32, 1, 0, .rw, 0⟩
/-- NMC_CAL_CTL.T_SLOT (RWP, R434). -/
def NMC_CAL_CTL_T_SLOT : Fld := ⟨271, 0x130, 0, 1, 8, 16, 1, 0, .rwp, 192⟩
/-- NMC_CAL_CTL.ACC (RWP, R434). -/
def NMC_CAL_CTL_ACC : Fld := ⟨272, 0x130, 0, 1, 1, 5, 1, 0, .rwp, 4⟩
/-- NMC_CAL_CTL.EN (RWP, R434). -/
def NMC_CAL_CTL_EN : Fld := ⟨273, 0x130, 0, 1, 0, 1, 1, 0, .rwp, 0⟩
/-- NMC_CAL_STAT.PERIODS (RO, R434). -/
def NMC_CAL_STAT_PERIODS : Fld := ⟨274, 0x138, 0, 1, 32, 32, 1, 0, .ro, 0⟩
/-- NMC_CAL_STAT.REJECT (W1C, R434). -/
def NMC_CAL_STAT_REJECT : Fld := ⟨275, 0x138, 0, 1, 2, 1, 1, 0, .w1c, 0⟩
/-- NMC_CAL_STAT.REF_OK (RO, R434). -/
def NMC_CAL_STAT_REF_OK : Fld := ⟨276, 0x138, 0, 1, 1, 1, 1, 0, .ro, 0⟩
/-- NMC_CAL_STAT.ACTIVE (RO, R434). -/
def NMC_CAL_STAT_ACTIVE : Fld := ⟨277, 0x138, 0, 1, 0, 1, 1, 0, .ro, 0⟩
/-- NMC_CAL[w].SLOT (RWP, R434). -/
def NMC_CAL_SLOT : Fld := ⟨278, 0x140, 8, 8, 0, 8, 8, 8, .rwp, 0⟩
/-- HUB_CTL.EP (RWP, R527). -/
def HUB_CTL_EP : Fld := ⟨279, 0x100, 0, 1, 2, 2, 1, 0, .rwp, 0⟩
/-- HUB_CTL.BIF (RWP, R527). -/
def HUB_CTL_BIF : Fld := ⟨280, 0x100, 0, 1, 0, 2, 1, 0, .rwp, 0⟩
/-- HUB_STAT.FORMED (RO, R527). -/
def HUB_STAT_FORMED : Fld := ⟨281, 0x108, 0, 1, 16, 5, 1, 0, .ro, 0⟩
/-- HUB_STAT.PENDING (RO, R527). -/
def HUB_STAT_PENDING : Fld := ⟨282, 0x108, 0, 1, 0, 16, 1, 0, .ro, 0⟩
/-- HUB_SSC_CTL.EN (RWP, R527). -/
def HUB_SSC_CTL_EN : Fld := ⟨283, 0x110, 0, 1, 0, 1, 1, 0, .rwp, 0⟩
/-- HUB_SSC_STAT.FRAMES (RO, R527). -/
def HUB_SSC_STAT_FRAMES : Fld := ⟨284, 0x118, 0, 1, 0, 32, 1, 0, .ro, 0⟩
/-- PORT_IRT[n].RID_CHK (RWP, R306). -/
def PORT_IRT_RID_CHK : Fld := ⟨285, 0x800, 8, 128, 48, 1, 1, 0, .rwp, 0⟩
/-- PORT_IRT[n].RID (RWP, R306). -/
def PORT_IRT_RID : Fld := ⟨286, 0x800, 8, 128, 32, 16, 1, 0, .rwp, 0⟩
/-- PORT_IRT[n].PISTE (RWP, R306). -/
def PORT_IRT_PISTE : Fld := ⟨287, 0x800, 8, 128, 24, 6, 1, 0, .rwp, 0⟩
/-- PORT_IRT[n].TILE (RWP, R306). -/
def PORT_IRT_TILE : Fld := ⟨288, 0x800, 8, 128, 16, 8, 1, 0, .rwp, 0⟩
/-- PORT_IRT[n].SOURCE (RWP, R306). -/
def PORT_IRT_SOURCE : Fld := ⟨289, 0x800, 8, 128, 8, 8, 1, 0, .rwp, 0⟩
/-- PORT_IRT[n].PBIT (RO, R306). -/
def PORT_IRT_PBIT : Fld := ⟨290, 0x800, 8, 128, 2, 1, 1, 0, .ro, 0⟩
/-- PORT_IRT[n].MASKED (RWP, R306). -/
def PORT_IRT_MASKED : Fld := ⟨291, 0x800, 8, 128, 1, 1, 1, 0, .rwp, 0⟩
/-- PORT_IRT[n].VALID (RWP, R306). -/
def PORT_IRT_VALID : Fld := ⟨292, 0x800, 8, 128, 0, 1, 1, 0, .rwp, 0⟩
/-- PORT_CTL.KEY (RWP, R528). -/
def PORT_CTL_KEY : Fld := ⟨293, 0x100, 0, 1, 24, 2, 1, 0, .rwp, 0⟩
/-- PORT_CTL.PISTE (RWP, R528). -/
def PORT_CTL_PISTE : Fld := ⟨294, 0x100, 0, 1, 16, 6, 1, 0, .rwp, 0⟩
/-- PORT_CTL.BME (RW, R528). -/
def PORT_CTL_BME : Fld := ⟨295, 0x100, 0, 1, 11, 1, 1, 0, .rw, 0⟩
/-- PORT_CTL.WALLOC (RW, R528). -/
def PORT_CTL_WALLOC : Fld := ⟨296, 0x100, 0, 1, 10, 1, 1, 0, .rw, 0⟩
/-- PORT_CTL.P2P (RWP, R528). -/
def PORT_CTL_P2P : Fld := ⟨297, 0x100, 0, 1, 9, 1, 1, 0, .rwp, 0⟩
/-- PORT_CTL.HP (RWP, R528). -/
def PORT_CTL_HP : Fld := ⟨298, 0x100, 0, 1, 8, 1, 1, 0, .rwp, 0⟩
/-- PORT_CTL.MAXGEN (RWP, R528). -/
def PORT_CTL_MAXGEN : Fld := ⟨299, 0x100, 0, 1, 4, 3, 1, 0, .rwp, 6⟩
/-- PORT_CTL.MODE (RWP, R528). -/
def PORT_CTL_MODE : Fld := ⟨300, 0x100, 0, 1, 0, 2, 1, 0, .rwp, 0⟩
/-- PORT_STAT.FORMED (RO, R528). -/
def PORT_STAT_FORMED : Fld := ⟨301, 0x108, 0, 1, 10, 1, 1, 0, .ro, 0⟩
/-- PORT_STAT.FLIT (RO, R528). -/
def PORT_STAT_FLIT : Fld := ⟨302, 0x108, 0, 1, 9, 1, 1, 0, .ro, 0⟩
/-- PORT_STAT.WIDTH (RO, R528). -/
def PORT_STAT_WIDTH : Fld := ⟨303, 0x108, 0, 1, 4, 5, 1, 0, .ro, 0⟩
/-- PORT_STAT.GEN (RO, R528). -/
def PORT_STAT_GEN : Fld := ⟨304, 0x108, 0, 1, 1, 3, 1, 0, .ro, 0⟩
/-- PORT_STAT.LINK_UP (RO, R528). -/
def PORT_STAT_LINK_UP : Fld := ⟨305, 0x108, 0, 1, 0, 1, 1, 0, .ro, 0⟩
/-- PORT_CTO.US (RW, R528). -/
def PORT_CTO_US : Fld := ⟨306, 0x110, 0, 1, 0, 26, 1, 0, .rw, 10000⟩
/-- PORT_MMIO_BASE.BASE (RWP, R528). -/
def PORT_MMIO_BASE_BASE : Fld := ⟨307, 0x118, 0, 1, 20, 32, 1, 0, .rwp, 0⟩
/-- PORT_MMIO_LIMIT.VALID (RWP, R528). -/
def PORT_MMIO_LIMIT_VALID : Fld := ⟨308, 0x120, 0, 1, 63, 1, 1, 0, .rwp, 0⟩
/-- PORT_MMIO_LIMIT.LIMIT (RWP, R528). -/
def PORT_MMIO_LIMIT_LIMIT : Fld := ⟨309, 0x120, 0, 1, 20, 32, 1, 0, .rwp, 0⟩
/-- PORT_ECAM.VALID (RWP, R528). -/
def PORT_ECAM_VALID : Fld := ⟨310, 0x128, 0, 1, 63, 1, 1, 0, .rwp, 0⟩
/-- PORT_ECAM.BASE (RWP, R528). -/
def PORT_ECAM_BASE : Fld := ⟨311, 0x128, 0, 1, 20, 32, 1, 0, .rwp, 0⟩
/-- PORT_ECAM.SUB (RWP, R528). -/
def PORT_ECAM_SUB : Fld := ⟨312, 0x128, 0, 1, 8, 8, 1, 0, .rwp, 0⟩
/-- PORT_ECAM.SEC (RWP, R528). -/
def PORT_ECAM_SEC : Fld := ⟨313, 0x128, 0, 1, 0, 8, 1, 0, .rwp, 0⟩
/-- PORT_MSI_ADDR.PA (RWP, R528). -/
def PORT_MSI_ADDR_PA : Fld := ⟨314, 0x130, 0, 1, 2, 50, 1, 0, .rwp, 0⟩
/-- PORT_ERRLOG.RID (RO, R528). -/
def PORT_ERRLOG_RID : Fld := ⟨315, 0x138, 0, 1, 48, 16, 1, 0, .ro, 0⟩
/-- PORT_ERRLOG.KIND (RO, R528). -/
def PORT_ERRLOG_KIND : Fld := ⟨316, 0x138, 0, 1, 4, 4, 1, 0, .ro, 0⟩
/-- PORT_ERRLOG.OVF (W1C, R528). -/
def PORT_ERRLOG_OVF : Fld := ⟨317, 0x138, 0, 1, 1, 1, 1, 0, .w1c, 0⟩
/-- PORT_ERRLOG.VALID (W1C, R528). -/
def PORT_ERRLOG_VALID : Fld := ⟨318, 0x138, 0, 1, 0, 1, 1, 0, .w1c, 0⟩
/-- PORT_ERRADDR.ADDR (RO, R528). -/
def PORT_ERRADDR_ADDR : Fld := ⟨319, 0x140, 0, 1, 0, 64, 1, 0, .ro, 0⟩
/-- EP_ID.SSID (RWP, R529). -/
def EP_ID_SSID : Fld := ⟨320, 0x100, 0, 1, 48, 16, 1, 0, .rwp, 0⟩
/-- EP_ID.DID1 (RWP, R529). -/
def EP_ID_DID1 : Fld := ⟨321, 0x100, 0, 1, 32, 16, 1, 0, .rwp, 0⟩
/-- EP_ID.DID0 (RWP, R529). -/
def EP_ID_DID0 : Fld := ⟨322, 0x100, 0, 1, 16, 16, 1, 0, .rwp, 0⟩
/-- EP_ID.VID (RWP, R529). -/
def EP_ID_VID : Fld := ⟨323, 0x100, 0, 1, 0, 16, 1, 0, .rwp, 0⟩
/-- EP_CTL.WIN_COMMIT (WO, R529). -/
def EP_CTL_WIN_COMMIT : Fld := ⟨324, 0x108, 0, 1, 8, 1, 1, 0, .wo, 0⟩
/-- EP_CTL.BARLOG (RWP, R529). -/
def EP_CTL_BARLOG : Fld := ⟨325, 0x108, 0, 1, 0, 6, 1, 0, .rwp, 34⟩
/-- EP_STAT.OLD_OUT (RO, R529). -/
def EP_STAT_OLD_OUT : Fld := ⟨326, 0x110, 0, 1, 32, 10, 1, 0, .ro, 0⟩
/-- EP_STAT.REJECT (W1C, R529). -/
def EP_STAT_REJECT : Fld := ⟨327, 0x110, 0, 1, 7, 1, 1, 0, .w1c, 0⟩
/-- EP_STAT.COMMIT_BUSY (RO, R529). -/
def EP_STAT_COMMIT_BUSY : Fld := ⟨328, 0x110, 0, 1, 6, 1, 1, 0, .ro, 0⟩
/-- EP_STAT.FLR_DONE (W1C, R529). -/
def EP_STAT_FLR_DONE : Fld := ⟨329, 0x110, 0, 1, 5, 1, 1, 0, .w1c, 0⟩
/-- EP_STAT.FLR (RO, R529). -/
def EP_STAT_FLR : Fld := ⟨330, 0x110, 0, 1, 3, 2, 1, 0, .ro, 0⟩
/-- EP_STAT.PF0_BME (RO, R529). -/
def EP_STAT_PF0_BME : Fld := ⟨331, 0x110, 0, 1, 2, 1, 1, 0, .ro, 0⟩
/-- EP_STAT.ACTIVE (RO, R529). -/
def EP_STAT_ACTIVE : Fld := ⟨332, 0x110, 0, 1, 1, 1, 1, 0, .ro, 0⟩
/-- EP_STAT.LINK_UP (RO, R529). -/
def EP_STAT_LINK_UP : Fld := ⟨333, 0x110, 0, 1, 0, 1, 1, 0, .ro, 0⟩
/-- EP_WERR.RID (RO, R529). -/
def EP_WERR_RID : Fld := ⟨334, 0x118, 0, 1, 48, 16, 1, 0, .ro, 0⟩
/-- EP_WERR.OFS (RO, R529). -/
def EP_WERR_OFS : Fld := ⟨335, 0x118, 0, 1, 8, 40, 1, 0, .ro, 0⟩
/-- EP_WERR.KIND (RO, R529). -/
def EP_WERR_KIND : Fld := ⟨336, 0x118, 0, 1, 4, 4, 1, 0, .ro, 0⟩
/-- EP_WERR.OVF (W1C, R529). -/
def EP_WERR_OVF : Fld := ⟨337, 0x118, 0, 1, 1, 1, 1, 0, .w1c, 0⟩
/-- EP_WERR.VALID (W1C, R529). -/
def EP_WERR_VALID : Fld := ⟨338, 0x118, 0, 1, 0, 1, 1, 0, .w1c, 0⟩
/-- EP_WSH_LO[w].VALID (RWP, R529). -/
def EP_WSH_LO_VALID : Fld := ⟨339, 0x200, 16, 32, 63, 1, 1, 0, .rwp, 0⟩
/-- EP_WSH_LO[w].RD (RWP, R529). -/
def EP_WSH_LO_RD : Fld := ⟨340, 0x200, 16, 32, 62, 1, 1, 0, .rwp, 0⟩
/-- EP_WSH_LO[w].WR (RWP, R529). -/
def EP_WSH_LO_WR : Fld := ⟨341, 0x200, 16, 32, 61, 1, 1, 0, .rwp, 0⟩
/-- EP_WSH_LO[w].PISTE (RWP, R529). -/
def EP_WSH_LO_PISTE : Fld := ⟨342, 0x200, 16, 32, 54, 6, 1, 0, .rwp, 0⟩
/-- EP_WSH_LO[w].KEY (RWP, R529). -/
def EP_WSH_LO_KEY : Fld := ⟨343, 0x200, 16, 32, 52, 2, 1, 0, .rwp, 0⟩
/-- EP_WSH_LO[w].LOG2SZ (RWP, R529). -/
def EP_WSH_LO_LOG2SZ : Fld := ⟨344, 0x200, 16, 32, 46, 6, 1, 0, .rwp, 0⟩
/-- EP_WSH_LO[w].OFFSET (RWP, R529). -/
def EP_WSH_LO_OFFSET : Fld := ⟨345, 0x200, 16, 32, 12, 28, 1, 0, .rwp, 0⟩
/-- EP_WSH_HI[w].TARGET (RWP, R529). -/
def EP_WSH_HI_TARGET : Fld := ⟨346, 0x208, 16, 32, 12, 40, 1, 0, .rwp, 0⟩
/-- EP_WACT_LO[w].VALUE (RO, R529). -/
def EP_WACT_LO_VALUE : Fld := ⟨347, 0x400, 16, 32, 0, 64, 1, 0, .ro, 0⟩
/-- EP_WACT_HI[w].VALUE (RO, R529). -/
def EP_WACT_HI_VALUE : Fld := ⟨348, 0x408, 16, 32, 0, 64, 1, 0, .ro, 0⟩
/-- EP_MBX_REQ[n].WORD (RO, R529). -/
def EP_MBX_REQ_WORD : Fld := ⟨349, 0x800, 8, 16, 0, 64, 1, 0, .ro, 0⟩
/-- EP_MBX_RSP[n].WORD (RWP, R529). -/
def EP_MBX_RSP_WORD : Fld := ⟨350, 0x880, 8, 16, 0, 64, 1, 0, .rwp, 0⟩
/-- EP_MBX_STAT.RESULT (RWP, R529). -/
def EP_MBX_STAT_RESULT : Fld := ⟨351, 0x900, 0, 1, 32, 32, 1, 0, .rwp, 0⟩
/-- EP_CON.IN_VALID (RO, R529). -/
def EP_CON_IN_VALID : Fld := ⟨352, 0x908, 0, 1, 16, 1, 1, 0, .ro, 0⟩
/-- EP_CON.IN (RO, R529). -/
def EP_CON_IN : Fld := ⟨353, 0x908, 0, 1, 8, 8, 1, 0, .ro, 0⟩
/-- EP_CON.OUT (WO, R529). -/
def EP_CON_OUT : Fld := ⟨354, 0x908, 0, 1, 0, 8, 1, 0, .wo, 0⟩
/-- HDM_DEC_BASE[j].BASE (RWP, R456). -/
def HDM_DEC_BASE_BASE : Fld := ⟨355, 0x100, 64, 8, 28, 24, 1, 0, .rwp, 0⟩
/-- HDM_DEC_SIZE[j].SIZE (RWP, R456). -/
def HDM_DEC_SIZE_SIZE : Fld := ⟨356, 0x108, 64, 8, 28, 24, 1, 0, .rwp, 0⟩
/-- HDM_DEC_CTL[j].VALID (RWP, R456). -/
def HDM_DEC_CTL_VALID : Fld := ⟨357, 0x110, 64, 8, 63, 1, 1, 0, .rwp, 0⟩
/-- HDM_DEC_CTL[j].DC (RWP, R456). -/
def HDM_DEC_CTL_DC : Fld := ⟨358, 0x110, 64, 8, 18, 1, 1, 0, .rwp, 0⟩
/-- HDM_DEC_CTL[j].NEAR (RWP, R456). -/
def HDM_DEC_CTL_NEAR : Fld := ⟨359, 0x110, 64, 8, 17, 1, 1, 0, .rwp, 0⟩
/-- HDM_DEC_CTL[j].DB (RWP, R456). -/
def HDM_DEC_CTL_DB : Fld := ⟨360, 0x110, 64, 8, 16, 1, 1, 0, .rwp, 0⟩
/-- HDM_DEC_CTL[j].IG (RWP, R456). -/
def HDM_DEC_CTL_IG : Fld := ⟨361, 0x110, 64, 8, 8, 4, 1, 0, .rwp, 0⟩
/-- HDM_DEC_CTL[j].IW (RWP, R456). -/
def HDM_DEC_CTL_IW : Fld := ⟨362, 0x110, 64, 8, 0, 4, 1, 0, .rwp, 0⟩
/-- HDM_DEC_TGT0[j].TGT (RWP, R456). -/
def HDM_DEC_TGT0_TGT : Fld := ⟨363, 0x118, 64, 8, 0, 8, 8, 8, .rwp, 0⟩
/-- HDM_DEC_TGT1[j].TGT (RWP, R456). -/
def HDM_DEC_TGT1_TGT : Fld := ⟨364, 0x120, 64, 8, 0, 8, 8, 8, .rwp, 0⟩
/-- HDM_STAT.LATE (RO, R457). -/
def HDM_STAT_LATE : Fld := ⟨365, 0x300, 0, 1, 32, 32, 1, 0, .ro, 0⟩
/-- HDM_STAT.OVERLAP (W1C, R457). -/
def HDM_STAT_OVERLAP : Fld := ⟨366, 0x300, 0, 1, 17, 1, 1, 0, .w1c, 0⟩
/-- HDM_STAT.REJECT (W1C, R457). -/
def HDM_STAT_REJECT : Fld := ⟨367, 0x300, 0, 1, 16, 1, 1, 0, .w1c, 0⟩
/-- HDM_STAT.PENDING (RO, R457). -/
def HDM_STAT_PENDING : Fld := ⟨368, 0x300, 0, 1, 0, 16, 1, 0, .ro, 0⟩
/-- HDM_EXT_NEXT.COMMIT (WO, R457). -/
def HDM_EXT_NEXT_COMMIT : Fld := ⟨369, 0x308, 0, 1, 63, 1, 1, 0, .wo, 0⟩
/-- HDM_EXT_NEXT.BASE (RWP, R457). -/
def HDM_EXT_NEXT_BASE : Fld := ⟨370, 0x308, 0, 1, 16, 36, 1, 0, .rwp, 0⟩
/-- HDM_EXT_NEXT.COUNT (RWP, R457). -/
def HDM_EXT_NEXT_COUNT : Fld := ⟨371, 0x308, 0, 1, 0, 13, 1, 0, .rwp, 0⟩
/-- HDM_EXT_STAT.BASE (RO, R457). -/
def HDM_EXT_STAT_BASE : Fld := ⟨372, 0x310, 0, 1, 16, 36, 1, 0, .ro, 0⟩
/-- HDM_EXT_STAT.SWITCHED (W1C, R457). -/
def HDM_EXT_STAT_SWITCHED : Fld := ⟨373, 0x310, 0, 1, 13, 1, 1, 0, .w1c, 0⟩
/-- HDM_EXT_STAT.COUNT (RO, R457). -/
def HDM_EXT_STAT_COUNT : Fld := ⟨374, 0x310, 0, 1, 0, 13, 1, 0, .ro, 0⟩
/-- HDM_CACHE_CTL.EN (RWP, R457). -/
def HDM_CACHE_CTL_EN : Fld := ⟨375, 0x318, 0, 1, 3, 1, 1, 0, .rwp, 0⟩
/-- HDM_CACHE_CTL.PORT (RWP, R457). -/
def HDM_CACHE_CTL_PORT : Fld := ⟨376, 0x318, 0, 1, 0, 3, 1, 0, .rwp, 0⟩
/-- HDM_MEMERR.KIND (RO, R457). -/
def HDM_MEMERR_KIND : Fld := ⟨377, 0x320, 0, 1, 12, 4, 1, 0, .ro, 0⟩
/-- HDM_MEMERR.PORT (RO, R457). -/
def HDM_MEMERR_PORT : Fld := ⟨378, 0x320, 0, 1, 8, 3, 1, 0, .ro, 0⟩
/-- HDM_MEMERR.OVF (W1C, R457). -/
def HDM_MEMERR_OVF : Fld := ⟨379, 0x320, 0, 1, 1, 1, 1, 0, .w1c, 0⟩
/-- HDM_MEMERR.VALID (W1C, R457). -/
def HDM_MEMERR_VALID : Fld := ⟨380, 0x320, 0, 1, 0, 1, 1, 0, .w1c, 0⟩
/-- HDM_MEMERR_ADDR.PA (RO, R457). -/
def HDM_MEMERR_ADDR_PA : Fld := ⟨381, 0x328, 0, 1, 0, 52, 1, 0, .ro, 0⟩
/-- IDE_PORT_CTL[p].REQ (RWP, R459). -/
def IDE_PORT_CTL_REQ : Fld := ⟨382, 0x100, 8, 5, 16, 1, 1, 0, .rwp, 0⟩
/-- IDE_PORT_CTL[p].SKID (RWP, R459). -/
def IDE_PORT_CTL_SKID : Fld := ⟨383, 0x100, 8, 5, 8, 1, 1, 0, .rwp, 0⟩
/-- IDE_PORT_CTL[p].KEYSLOT (RWP, R459). -/
def IDE_PORT_CTL_KEYSLOT : Fld := ⟨384, 0x100, 8, 5, 0, 8, 1, 0, .rwp, 0⟩
/-- IDE_PORT_STAT[p].INSECURE (RO, R459). -/
def IDE_PORT_STAT_INSECURE : Fld := ⟨385, 0x140, 8, 5, 2, 1, 1, 0, .ro, 0⟩
/-- IDE_PORT_STAT[p].FAIL (W1C, R459). -/
def IDE_PORT_STAT_FAIL : Fld := ⟨386, 0x140, 8, 5, 1, 1, 1, 0, .w1c, 0⟩
/-- IDE_PORT_STAT[p].ACTIVE (RO, R459). -/
def IDE_PORT_STAT_ACTIVE : Fld := ⟨387, 0x140, 8, 5, 0, 1, 1, 0, .ro, 0⟩
/-- IDE_IO_CTL[p].REQ (RWP, R459). -/
def IDE_IO_CTL_REQ : Fld := ⟨388, 0x180, 8, 5, 16, 1, 1, 0, .rwp, 0⟩
/-- IDE_IO_CTL[p].KEYSLOT (RWP, R459). -/
def IDE_IO_CTL_KEYSLOT : Fld := ⟨389, 0x180, 8, 5, 0, 8, 1, 0, .rwp, 0⟩
/-- IDE_IO_STAT[p].INSECURE (RO, R459). -/
def IDE_IO_STAT_INSECURE : Fld := ⟨390, 0x1c0, 8, 5, 2, 1, 1, 0, .ro, 0⟩
/-- IDE_IO_STAT[p].FAIL (W1C, R459). -/
def IDE_IO_STAT_FAIL : Fld := ⟨391, 0x1c0, 8, 5, 1, 1, 1, 0, .w1c, 0⟩
/-- IDE_IO_STAT[p].ACTIVE (RO, R459). -/
def IDE_IO_STAT_ACTIVE : Fld := ⟨392, 0x1c0, 8, 5, 0, 1, 1, 0, .ro, 0⟩
/-- TMAP_ENT[n].SWAPS (RO, R18). -/
def TMAP_ENT_SWAPS : Fld := ⟨393, 0x100, 8, 160, 24, 8, 1, 0, .ro, 0⟩
/-- TMAP_ENT[n].VALID (RWP, R18). -/
def TMAP_ENT_VALID : Fld := ⟨394, 0x100, 8, 160, 16, 1, 1, 0, .rwp, 0⟩
/-- TMAP_ENT[n].DIE (RO, R18). -/
def TMAP_ENT_DIE : Fld := ⟨395, 0x100, 8, 160, 8, 2, 1, 0, .ro, 0⟩
/-- TMAP_ENT[n].STOP (RWP, R18). -/
def TMAP_ENT_STOP : Fld := ⟨396, 0x100, 8, 160, 0, 8, 1, 0, .rwp, 0⟩
/-- TMAP_SPARE[k].DIE (RO, R19). -/
def TMAP_SPARE_DIE : Fld := ⟨397, 0x600, 8, 16, 16, 2, 1, 0, .ro, 0⟩
/-- TMAP_SPARE[k].RETIRED (RWP, R19). -/
def TMAP_SPARE_RETIRED : Fld := ⟨398, 0x600, 8, 16, 9, 1, 1, 0, .rwp, 0⟩
/-- TMAP_SPARE[k].AVAIL (RWP, R19). -/
def TMAP_SPARE_AVAIL : Fld := ⟨399, 0x600, 8, 16, 8, 1, 1, 0, .rwp, 0⟩
/-- TMAP_SPARE[k].STOP (RWP, R19). -/
def TMAP_SPARE_STOP : Fld := ⟨400, 0x600, 8, 16, 0, 8, 1, 0, .rwp, 0⟩
/-- BREMAP_ENT[b].HOLD (RWP, R356). -/
def BREMAP_ENT_HOLD : Fld := ⟨401, 0x100, 8, 256, 32, 4, 1, 0, .rwp, 0⟩
/-- BREMAP_ENT[b].LANE3 (RWP, R356). -/
def BREMAP_ENT_LANE3 : Fld := ⟨402, 0x100, 8, 256, 24, 8, 1, 0, .rwp, 0⟩
/-- BREMAP_ENT[b].LANE2 (RWP, R356). -/
def BREMAP_ENT_LANE2 : Fld := ⟨403, 0x100, 8, 256, 16, 8, 1, 0, .rwp, 0⟩
/-- BREMAP_ENT[b].LANE1 (RWP, R356). -/
def BREMAP_ENT_LANE1 : Fld := ⟨404, 0x100, 8, 256, 8, 8, 1, 0, .rwp, 0⟩
/-- BREMAP_ENT[b].LANE0 (RWP, R356). -/
def BREMAP_ENT_LANE0 : Fld := ⟨405, 0x100, 8, 256, 0, 8, 1, 0, .rwp, 0⟩
/-- BREMAP_STAT.PENDING (RO, R356). -/
def BREMAP_STAT_PENDING : Fld := ⟨406, 0x900, 0, 1, 0, 32, 1, 0, .ro, 0⟩
/-- NTMAP_SET[k].VALID (RWP, R432). -/
def NTMAP_SET_VALID : Fld := ⟨407, 0x100, 8, 8, 63, 1, 1, 0, .rwp, 0⟩
/-- NTMAP_SET[k].FIRST (RWP, R432). -/
def NTMAP_SET_FIRST : Fld := ⟨408, 0x100, 8, 8, 48, 8, 1, 0, .rwp, 0⟩
/-- NTMAP_SET[k].NCODE (RWP, R432). -/
def NTMAP_SET_NCODE : Fld := ⟨409, 0x100, 8, 8, 44, 4, 1, 0, .rwp, 0⟩
/-- NTMAP_SET[k].GRAIN (RWP, R432). -/
def NTMAP_SET_GRAIN : Fld := ⟨410, 0x100, 8, 8, 40, 4, 1, 0, .rwp, 0⟩
/-- NTMAP_CACHE.VALID (RWP, R432). -/
def NTMAP_CACHE_VALID : Fld := ⟨411, 0x140, 0, 1, 63, 1, 1, 0, .rwp, 0⟩
/-- NTMAP_CACHE.FIRST (RWP, R432). -/
def NTMAP_CACHE_FIRST : Fld := ⟨412, 0x140, 0, 1, 48, 8, 1, 0, .rwp, 0⟩
/-- NTMAP_CACHE.NCODE (RWP, R432). -/
def NTMAP_CACHE_NCODE : Fld := ⟨413, 0x140, 0, 1, 44, 4, 1, 0, .rwp, 0⟩
/-- NTMAP_CHAN[w].CH (RWP, R432). -/
def NTMAP_CHAN_CH : Fld := ⟨414, 0x180, 8, 6, 0, 6, 8, 8, .rwp, 0⟩
/-- NTMAP_STAT.PENDING (RO, R432). -/
def NTMAP_STAT_PENDING : Fld := ⟨415, 0x1b0, 0, 1, 0, 32, 1, 0, .ro, 0⟩
/-- MESH_EPOCH.SWITCH (WO, R500). -/
def MESH_EPOCH_SWITCH : Fld := ⟨416, 0x100, 0, 1, 8, 1, 1, 0, .wo, 0⟩
/-- MESH_EPOCH.CUR (RO, R500). -/
def MESH_EPOCH_CUR : Fld := ⟨417, 0x100, 0, 1, 0, 1, 1, 0, .ro, 0⟩
/-- MESH_EPOCH_STAT.REJECT (W1C, R500). -/
def MESH_EPOCH_STAT_REJECT : Fld := ⟨418, 0x108, 0, 1, 32, 1, 1, 0, .w1c, 0⟩
/-- MESH_EPOCH_STAT.DRAIN_PEND (RO, R500). -/
def MESH_EPOCH_STAT_DRAIN_PEND : Fld := ⟨419, 0x108, 0, 1, 16, 16, 1, 0, .ro, 0⟩
/-- MESH_EPOCH_STAT.SWITCH_PEND (RO, R500). -/
def MESH_EPOCH_STAT_SWITCH_PEND : Fld := ⟨420, 0x108, 0, 1, 0, 16, 1, 0, .ro, 0⟩
/-- MESH_SEALED.MASK (RWP, R500). -/
def MESH_SEALED_MASK : Fld := ⟨421, 0x110, 0, 1, 0, 64, 1, 0, .rwp, 0⟩
/-- MESH_FAULT.VALID (W1C, R500). -/
def MESH_FAULT_VALID : Fld := ⟨422, 0x118, 0, 1, 63, 1, 1, 0, .w1c, 0⟩
/-- MESH_FAULT.OVF (W1C, R500). -/
def MESH_FAULT_OVF : Fld := ⟨423, 0x118, 0, 1, 62, 1, 1, 0, .w1c, 0⟩
/-- MESH_FAULT.KIND (RO, R500). -/
def MESH_FAULT_KIND : Fld := ⟨424, 0x118, 0, 1, 16, 1, 1, 0, .ro, 0⟩
/-- MESH_FAULT.PORT (RO, R500). -/
def MESH_FAULT_PORT : Fld := ⟨425, 0x118, 0, 1, 8, 3, 1, 0, .ro, 0⟩
/-- MESH_FAULT.STOP (RO, R500). -/
def MESH_FAULT_STOP : Fld := ⟨426, 0x118, 0, 1, 0, 8, 1, 0, .ro, 0⟩
/-- MESH_LOST.GO (WO, R500). -/
def MESH_LOST_GO : Fld := ⟨427, 0x120, 0, 1, 63, 1, 1, 0, .wo, 0⟩
/-- MESH_LOST.PORT (RWP, R500). -/
def MESH_LOST_PORT : Fld := ⟨428, 0x120, 0, 1, 8, 3, 1, 0, .rwp, 0⟩
/-- MESH_LOST.STOP (RWP, R500). -/
def MESH_LOST_STOP : Fld := ⟨429, 0x120, 0, 1, 0, 8, 1, 0, .rwp, 0⟩
/-- PMAP_CTL.INV (WO, R555). -/
def PMAP_CTL_INV : Fld := ⟨430, 0x100, 0, 1, 1, 1, 1, 0, .wo, 0⟩
/-- PMAP_CTL.EN (RWP, R555). -/
def PMAP_CTL_EN : Fld := ⟨431, 0x100, 0, 1, 0, 1, 1, 0, .rwp, 0⟩
/-- PMAP_ROOT.PA (RWP, R555). -/
def PMAP_ROOT_PA : Fld := ⟨432, 0x108, 0, 1, 19, 33, 1, 0, .rwp, 0⟩
/-- PMAP_STAT.UCR (W1C, R555). -/
def PMAP_STAT_UCR : Fld := ⟨433, 0x110, 0, 1, 32, 1, 1, 0, .w1c, 0⟩
/-- PMAP_STAT.PENDING (RO, R555). -/
def PMAP_STAT_PENDING : Fld := ⟨434, 0x110, 0, 1, 0, 32, 1, 0, .ro, 0⟩
/-- PMAP_VIOL.PISTE (RO, R555). -/
def PMAP_VIOL_PISTE : Fld := ⟨435, 0x118, 0, 1, 26, 6, 1, 0, .ro, 0⟩
/-- PMAP_VIOL.STOP (RO, R555). -/
def PMAP_VIOL_STOP : Fld := ⟨436, 0x118, 0, 1, 18, 8, 1, 0, .ro, 0⟩
/-- PMAP_VIOL.OP (RO, R555). -/
def PMAP_VIOL_OP : Fld := ⟨437, 0x118, 0, 1, 12, 6, 1, 0, .ro, 0⟩
/-- PMAP_VIOL.OVF (W1C, R555). -/
def PMAP_VIOL_OVF : Fld := ⟨438, 0x118, 0, 1, 1, 1, 1, 0, .w1c, 0⟩
/-- PMAP_VIOL.VALID (W1C, R555). -/
def PMAP_VIOL_VALID : Fld := ⟨439, 0x118, 0, 1, 0, 1, 1, 0, .w1c, 0⟩
/-- PMAP_VIOL_ADDR.PA (RO, R555). -/
def PMAP_VIOL_ADDR_PA : Fld := ⟨440, 0x120, 0, 1, 0, 52, 1, 0, .ro, 0⟩
/-- PMAP_PISTE[p].VIOLS (RWP, R555). -/
def PMAP_PISTE_VIOLS : Fld := ⟨441, 0x200, 8, 64, 32, 8, 1, 0, .rwp, 0⟩
/-- PMAP_PISTE[p].NOTICE_TILE (RWP, R555). -/
def PMAP_PISTE_NOTICE_TILE : Fld := ⟨442, 0x200, 8, 64, 24, 8, 1, 0, .rwp, 0⟩
/-- PMAP_PISTE[p].AGENT (RWP, R555). -/
def PMAP_PISTE_AGENT : Fld := ⟨443, 0x200, 8, 64, 5, 1, 1, 0, .rwp, 0⟩
/-- PMAP_PISTE[p].SPOT (RWP, R555). -/
def PMAP_PISTE_SPOT : Fld := ⟨444, 0x200, 8, 64, 4, 1, 1, 0, .rwp, 0⟩
/-- PMAP_PISTE[p].PMU (RWP, R555). -/
def PMAP_PISTE_PMU : Fld := ⟨445, 0x200, 8, 64, 3, 1, 1, 0, .rwp, 0⟩
/-- PMAP_PISTE[p].DBG (RWP, R555). -/
def PMAP_PISTE_DBG : Fld := ⟨446, 0x200, 8, 64, 2, 1, 1, 0, .rwp, 0⟩
/-- PMAP_PISTE[p].SEALED (RWP, R555). -/
def PMAP_PISTE_SEALED : Fld := ⟨447, 0x200, 8, 64, 1, 1, 1, 0, .rwp, 0⟩
/-- PMAP_PISTE[p].VALID (RWP, R555). -/
def PMAP_PISTE_VALID : Fld := ⟨448, 0x200, 8, 64, 0, 1, 1, 0, .rwp, 0⟩
/-- PMAP_GROUP[g].MASK (RWP, R555). -/
def PMAP_GROUP_MASK : Fld := ⟨449, 0x400, 8, 64, 0, 64, 1, 0, .rwp, 0⟩
/-- PMAP_GKEY[g].OVR (RWP, R555). -/
def PMAP_GKEY_OVR : Fld := ⟨450, 0x600, 8, 64, 8, 1, 1, 0, .rwp, 0⟩
/-- PMAP_GKEY[g].SLOT (RWP, R555). -/
def PMAP_GKEY_SLOT : Fld := ⟨451, 0x600, 8, 64, 0, 8, 1, 0, .rwp, 0⟩
/-- PMAP_TILE[k].PISTE (RWP, R555). -/
def PMAP_TILE_PISTE : Fld := ⟨452, 0x800, 8, 20, 0, 6, 8, 8, .rwp, 0⟩
/-- KS_SLOT[n].ERASED (RO, R556). -/
def KS_SLOT_ERASED : Fld := ⟨453, 0x100, 8, 256, 9, 1, 1, 0, .ro, 0⟩
/-- KS_SLOT[n].LOCK (RWP, R556). -/
def KS_SLOT_LOCK : Fld := ⟨454, 0x100, 8, 256, 8, 1, 1, 0, .rwp, 0⟩
/-- KS_SLOT[n].KIND (RO, R556). -/
def KS_SLOT_KIND : Fld := ⟨455, 0x100, 8, 256, 0, 4, 1, 0, .ro, 0⟩
/-- KS_PKEY[p].SLOT (RWP, R556). -/
def KS_PKEY_SLOT : Fld := ⟨456, 0x900, 8, 64, 0, 8, 4, 8, .rwp, 0⟩
/-- KS_CMD.GO (WO, R556). -/
def KS_CMD_GO : Fld := ⟨457, 0xb00, 0, 1, 16, 1, 1, 0, .wo, 0⟩
/-- KS_CMD.CMD (RWP, R556). -/
def KS_CMD_CMD : Fld := ⟨458, 0xb00, 0, 1, 12, 4, 1, 0, .rwp, 0⟩
/-- KS_CMD.KIND (RWP, R556). -/
def KS_CMD_KIND : Fld := ⟨459, 0xb00, 0, 1, 8, 4, 1, 0, .rwp, 0⟩
/-- KS_CMD.SLOT (RWP, R556). -/
def KS_CMD_SLOT : Fld := ⟨460, 0xb00, 0, 1, 0, 8, 1, 0, .rwp, 0⟩
/-- KS_STAT.ERR (W1C, R556). -/
def KS_STAT_ERR : Fld := ⟨461, 0xb08, 0, 1, 1, 1, 1, 0, .w1c, 0⟩
/-- KS_STAT.BUSY (RO, R556). -/
def KS_STAT_BUSY : Fld := ⟨462, 0xb08, 0, 1, 0, 1, 1, 0, .ro, 0⟩
/-- SEC_SENSOR[s].COUNT (RO, R557). -/
def SEC_SENSOR_COUNT : Fld := ⟨463, 0x100, 8, 6, 32, 8, 1, 0, .ro, 0⟩
/-- SEC_SENSOR[s].EVENT (W1C, R557). -/
def SEC_SENSOR_EVENT : Fld := ⟨464, 0x100, 8, 6, 8, 1, 1, 0, .w1c, 0⟩
/-- SEC_SENSOR[s].FLOOR (RO, R557). -/
def SEC_SENSOR_FLOOR : Fld := ⟨465, 0x100, 8, 6, 4, 2, 1, 0, .ro, 0⟩
/-- SEC_SENSOR[s].LEVEL (RWP, R557). -/
def SEC_SENSOR_LEVEL : Fld := ⟨466, 0x100, 8, 6, 0, 2, 1, 0, .rwp, 0⟩
/-- SEC_STAT.PAIR1_OK (RO, R557). -/
def SEC_STAT_PAIR1_OK : Fld := ⟨467, 0x130, 0, 1, 4, 1, 1, 0, .ro, 1⟩
/-- SEC_STAT.PAIR0_OK (RO, R557). -/
def SEC_STAT_PAIR0_OK : Fld := ⟨468, 0x130, 0, 1, 3, 1, 1, 0, .ro, 1⟩
/-- SEC_STAT.ERASED (RO, R557). -/
def SEC_STAT_ERASED : Fld := ⟨469, 0x130, 0, 1, 2, 1, 1, 0, .ro, 0⟩
/-- SEC_STAT.FROZEN (RO, R557). -/
def SEC_STAT_FROZEN : Fld := ⟨470, 0x130, 0, 1, 1, 1, 1, 0, .ro, 0⟩
/-- SEC_STAT.PSTOPPED (RO, R557). -/
def SEC_STAT_PSTOPPED : Fld := ⟨471, 0x130, 0, 1, 0, 1, 1, 0, .ro, 0⟩
/-- SEC_VCTL.THRESH (RWP, R557). -/
def SEC_VCTL_THRESH : Fld := ⟨472, 0x138, 0, 1, 0, 8, 1, 0, .rwp, 16⟩
/-- SEC_BOOT.FAILS (RO, R557). -/
def SEC_BOOT_FAILS : Fld := ⟨473, 0x140, 0, 1, 32, 8, 1, 0, .ro, 0⟩
/-- SEC_BOOT.SOURCE (RO, R557). -/
def SEC_BOOT_SOURCE : Fld := ⟨474, 0x140, 0, 1, 30, 2, 1, 0, .ro, 0⟩
/-- SEC_BOOT.KEYIDX (RO, R557). -/
def SEC_BOOT_KEYIDX : Fld := ⟨475, 0x140, 0, 1, 28, 2, 1, 0, .ro, 0⟩
/-- SEC_BOOT.SVN (RO, R557). -/
def SEC_BOOT_SVN : Fld := ⟨476, 0x140, 0, 1, 0, 28, 1, 0, .ro, 0⟩
/-- RAS_CTL.WDOG_STOP (RWP, R609). -/
def RAS_CTL_WDOG_STOP : Fld := ⟨477, 0x100, 0, 1, 3, 1, 1, 0, .rwp, 0⟩
/-- RAS_CTL.AUTO_RETIRE (RWP, R609). -/
def RAS_CTL_AUTO_RETIRE : Fld := ⟨478, 0x100, 0, 1, 2, 1, 1, 0, .rwp, 1⟩
/-- RAS_CTL.AUTO_SWAP (RWP, R609). -/
def RAS_CTL_AUTO_SWAP : Fld := ⟨479, 0x100, 0, 1, 1, 1, 1, 0, .rwp, 1⟩
/-- RAS_CTL.CE_EVT (RWP, R609). -/
def RAS_CTL_CE_EVT : Fld := ⟨480, 0x100, 0, 1, 0, 1, 1, 0, .rwp, 0⟩
/-- RAS_TMO.CLAIM (RWP, R609). -/
def RAS_TMO_CLAIM : Fld := ⟨481, 0x108, 0, 1, 32, 8, 1, 0, .rwp, 10⟩
/-- RAS_TMO.NI (RWP, R609). -/
def RAS_TMO_NI : Fld := ⟨482, 0x108, 0, 1, 16, 11, 1, 0, .rwp, 100⟩
/-- RAS_TMO.STUCK (RWP, R609). -/
def RAS_TMO_STUCK : Fld := ⟨483, 0x108, 0, 1, 0, 12, 1, 0, .rwp, 200⟩
/-- RAS_WEAR.AGE_PS (RWP, R609). -/
def RAS_WEAR_AGE_PS : Fld := ⟨484, 0x110, 0, 1, 40, 8, 1, 0, .rwp, 20⟩
/-- RAS_WEAR.WINDOW (RWP, R609). -/
def RAS_WEAR_WINDOW : Fld := ⟨485, 0x110, 0, 1, 16, 16, 1, 0, .rwp, 3600⟩
/-- RAS_WEAR.CE_MAX (RWP, R609). -/
def RAS_WEAR_CE_MAX : Fld := ⟨486, 0x110, 0, 1, 0, 16, 1, 0, .rwp, 64⟩
/-- RAS_REC_STAT.LOST (RO, R609). -/
def RAS_REC_STAT_LOST : Fld := ⟨487, 0x118, 0, 1, 32, 32, 1, 0, .ro, 0⟩
/-- RAS_REC_STAT.TAIL (RWP, R609). -/
def RAS_REC_STAT_TAIL : Fld := ⟨488, 0x118, 0, 1, 16, 9, 1, 0, .rwp, 0⟩
/-- RAS_REC_STAT.HEAD (RO, R609). -/
def RAS_REC_STAT_HEAD : Fld := ⟨489, 0x118, 0, 1, 0, 9, 1, 0, .ro, 0⟩
/-- RAS_REC_BASE.OFS (RO, R609). -/
def RAS_REC_BASE_OFS : Fld := ⟨490, 0x120, 0, 1, 0, 32, 1, 0, .ro, 2064384⟩
/-- RAS_OP.GO (WO, R609). -/
def RAS_OP_GO : Fld := ⟨491, 0x128, 0, 1, 63, 1, 1, 0, .wo, 0⟩
/-- RAS_OP.OP (RWP, R609). -/
def RAS_OP_OP : Fld := ⟨492, 0x128, 0, 1, 60, 2, 1, 0, .rwp, 0⟩
/-- RAS_OP.TILE (RWP, R609). -/
def RAS_OP_TILE : Fld := ⟨493, 0x128, 0, 1, 8, 8, 1, 0, .rwp, 0⟩
/-- RAS_OP.STOP (RWP, R609). -/
def RAS_OP_STOP : Fld := ⟨494, 0x128, 0, 1, 0, 8, 1, 0, .rwp, 255⟩
/-- RAS_OP_STAT.TIME (RO, R609). -/
def RAS_OP_STAT_TIME : Fld := ⟨495, 0x130, 0, 1, 32, 16, 1, 0, .ro, 0⟩
/-- RAS_OP_STAT.ERRCODE (RO, R609). -/
def RAS_OP_STAT_ERRCODE : Fld := ⟨496, 0x130, 0, 1, 8, 4, 1, 0, .ro, 0⟩
/-- RAS_OP_STAT.STEP (RO, R609). -/
def RAS_OP_STAT_STEP : Fld := ⟨497, 0x130, 0, 1, 4, 4, 1, 0, .ro, 0⟩
/-- RAS_OP_STAT.REJECT (W1C, R609). -/
def RAS_OP_STAT_REJECT : Fld := ⟨498, 0x130, 0, 1, 3, 1, 1, 0, .w1c, 0⟩
/-- RAS_OP_STAT.ERR (W1C, R609). -/
def RAS_OP_STAT_ERR : Fld := ⟨499, 0x130, 0, 1, 2, 1, 1, 0, .w1c, 0⟩
/-- RAS_OP_STAT.DONE (W1C, R609). -/
def RAS_OP_STAT_DONE : Fld := ⟨500, 0x130, 0, 1, 1, 1, 1, 0, .w1c, 0⟩
/-- RAS_OP_STAT.BUSY (RO, R609). -/
def RAS_OP_STAT_BUSY : Fld := ⟨501, 0x130, 0, 1, 0, 1, 1, 0, .ro, 0⟩
/-- TUCK_CTL.EN (RWP, R609). -/
def TUCK_CTL_EN : Fld := ⟨502, 0x140, 0, 1, 48, 1, 1, 0, .rwp, 1⟩
/-- TUCK_CTL.HYST (RWP, R609). -/
def TUCK_CTL_HYST : Fld := ⟨503, 0x140, 0, 1, 32, 8, 1, 0, .rwp, 20⟩
/-- TUCK_CTL.RESET (RWP, R609). -/
def TUCK_CTL_RESET : Fld := ⟨504, 0x140, 0, 1, 16, 12, 1, 0, .rwp, 700⟩
/-- TUCK_CTL.WARN (RWP, R609). -/
def TUCK_CTL_WARN : Fld := ⟨505, 0x140, 0, 1, 0, 12, 1, 0, .rwp, 800⟩
/-- TUCK_STAT.TUCKS (RO, R609). -/
def TUCK_STAT_TUCKS : Fld := ⟨506, 0x148, 0, 1, 32, 32, 1, 0, .ro, 0⟩
/-- TUCK_STAT.RISES (RO, R609). -/
def TUCK_STAT_RISES : Fld := ⟨507, 0x148, 0, 1, 16, 16, 1, 0, .ro, 0⟩
/-- TUCK_STAT.SLOT (RO, R609). -/
def TUCK_STAT_SLOT : Fld := ⟨508, 0x148, 0, 1, 4, 1, 1, 0, .ro, 0⟩
/-- TUCK_STAT.PHASE (RO, R609). -/
def TUCK_STAT_PHASE : Fld := ⟨509, 0x148, 0, 1, 0, 4, 1, 0, .ro, 0⟩
/-- LIFT_PSTATE[n].VALID (RWP, R577). -/
def LIFT_PSTATE_VALID : Fld := ⟨510, 0x100, 8, 16, 63, 1, 1, 0, .rwp, 0⟩
/-- LIFT_PSTATE[n].MAXT (RWP, R577). -/
def LIFT_PSTATE_MAXT : Fld := ⟨511, 0x100, 8, 16, 32, 8, 1, 0, .rwp, 0⟩
/-- LIFT_PSTATE[n].MV (RWP, R577). -/
def LIFT_PSTATE_MV : Fld := ⟨512, 0x100, 8, 16, 16, 12, 1, 0, .rwp, 0⟩
/-- LIFT_PSTATE[n].FREQ (RWP, R577). -/
def LIFT_PSTATE_FREQ : Fld := ⟨513, 0x100, 8, 16, 0, 8, 1, 0, .rwp, 0⟩
/-- LIFT_STAT.REJECT (W1C, R577). -/
def LIFT_STAT_REJECT : Fld := ⟨514, 0x180, 0, 1, 0, 1, 1, 0, .w1c, 0⟩
/-- LIFT_PLIM.WATTS (RWP, R577). -/
def LIFT_PLIM_WATTS : Fld := ⟨515, 0x188, 0, 1, 0, 10, 1, 0, .rwp, 480⟩
/-- LIFT_PWR_STAT.THERM_EMERG (RO, R577). -/
def LIFT_PWR_STAT_THERM_EMERG : Fld := ⟨516, 0x190, 0, 1, 26, 1, 1, 0, .ro, 0⟩
/-- LIFT_PWR_STAT.AVG (RO, R577). -/
def LIFT_PWR_STAT_AVG : Fld := ⟨517, 0x190, 0, 1, 16, 10, 1, 0, .ro, 0⟩
/-- LIFT_PWR_STAT.CAP (RO, R577). -/
def LIFT_PWR_STAT_CAP : Fld := ⟨518, 0x190, 0, 1, 0, 4, 1, 0, .ro, 0⟩
/-- LIFT_THERM.TJMAX (RWP, R577). -/
def LIFT_THERM_TJMAX : Fld := ⟨519, 0x198, 0, 1, 8, 8, 1, 0, .rwp, 115⟩
/-- LIFT_THERM.HOT (RWP, R577). -/
def LIFT_THERM_HOT : Fld := ⟨520, 0x198, 0, 1, 0, 8, 1, 0, .rwp, 105⟩
/-- LIFT_PK_CTL.PK1_EN (RWP, R577). -/
def LIFT_PK_CTL_PK1_EN : Fld := ⟨521, 0x1a0, 0, 1, 16, 1, 1, 0, .rwp, 0⟩
/-- LIFT_PK_CTL.DELAY (RWP, R577). -/
def LIFT_PK_CTL_DELAY : Fld := ⟨522, 0x1a0, 0, 1, 0, 16, 1, 0, .rwp, 100⟩
/-- LIFT_PK_STAT.ABORTS (RO, R577). -/
def LIFT_PK_STAT_ABORTS : Fld := ⟨523, 0x1a8, 0, 1, 32, 32, 1, 0, .ro, 0⟩
/-- LIFT_PK_STAT.PHASE (RO, R577). -/
def LIFT_PK_STAT_PHASE : Fld := ⟨524, 0x1a8, 0, 1, 4, 4, 1, 0, .ro, 0⟩
/-- LIFT_PK_STAT.STATE (RO, R577). -/
def LIFT_PK_STAT_STATE : Fld := ⟨525, 0x1a8, 0, 1, 0, 2, 1, 0, .ro, 0⟩
/-- LIFT_ABORT_WHO.VALID (W1C, R577). -/
def LIFT_ABORT_WHO_VALID : Fld := ⟨526, 0x1b0, 0, 1, 63, 1, 1, 0, .w1c, 0⟩
/-- LIFT_ABORT_WHO.TMO (RO, R577). -/
def LIFT_ABORT_WHO_TMO : Fld := ⟨527, 0x1b0, 0, 1, 19, 1, 1, 0, .ro, 0⟩
/-- LIFT_ABORT_WHO.REASON (RO, R577). -/
def LIFT_ABORT_WHO_REASON : Fld := ⟨528, 0x1b0, 0, 1, 16, 3, 1, 0, .ro, 0⟩
/-- LIFT_ABORT_WHO.KIND (RO, R577). -/
def LIFT_ABORT_WHO_KIND : Fld := ⟨529, 0x1b0, 0, 1, 8, 2, 1, 0, .ro, 0⟩
/-- LIFT_ABORT_WHO.INDEX (RO, R577). -/
def LIFT_ABORT_WHO_INDEX : Fld := ⟨530, 0x1b0, 0, 1, 0, 8, 1, 0, .ro, 0⟩
/-- LIFT_WAKE.QUEUED (RO, R577). -/
def LIFT_WAKE_QUEUED : Fld := ⟨531, 0x1c0, 0, 1, 12, 8, 1, 0, .ro, 0⟩
/-- LIFT_WAKE.TOKENS (RWP, R577). -/
def LIFT_WAKE_TOKENS : Fld := ⟨532, 0x1c0, 0, 1, 0, 4, 1, 0, .rwp, 4⟩
/-- LIFT_WAKE_CFG.EDGE (RWP, R577). -/
def LIFT_WAKE_CFG_EDGE : Fld := ⟨533, 0x1c8, 0, 1, 8, 8, 1, 0, .rwp, 0⟩
/-- LIFT_WAKE_CFG.EN (RWP, R577). -/
def LIFT_WAKE_CFG_EN : Fld := ⟨534, 0x1c8, 0, 1, 0, 8, 1, 0, .rwp, 0⟩
/-- LIFT_WAKE_STAT.LAST_LOST (RO, R577). -/
def LIFT_WAKE_STAT_LAST_LOST : Fld := ⟨535, 0x1d0, 0, 1, 32, 8, 1, 0, .ro, 0⟩
/-- LIFT_WAKE_STAT.LOST (RW, R577). -/
def LIFT_WAKE_STAT_LOST : Fld := ⟨536, 0x1d0, 0, 1, 0, 32, 1, 0, .rw, 0⟩
/-- LIFT_WAKE_TMR.CMP (RWP, R577). -/
def LIFT_WAKE_TMR_CMP : Fld := ⟨537, 0x1d8, 0, 1, 0, 64, 1, 0, .rwp, 0⟩
/-- LIFT_CHRONO.COUNT (RWP, R577). -/
def LIFT_CHRONO_COUNT : Fld := ⟨538, 0x1e0, 0, 1, 0, 64, 1, 0, .rwp, 0⟩
end F

/-- The fields of the common page header (R36). -/
def fldsHdr : List Fld :=
  [F.PAGE_ID_SLOT, F.PAGE_ID_STOP, F.PAGE_ID_INSTANCE, F.PAGE_ID_TYPE, F.PAGE_VER_STEP, F.PAGE_VER_MAJOR] ++
  [F.PAGE_VER_MINOR, F.PAGE_CAP_BLK, F.PAGE_CAP_LOCKABLE, F.PAGE_CAP_HAS_EVT, F.PAGE_CAP_HAS_INJ, F.PAGE_CTL_LOCK] ++
  [F.PAGE_CTL_ENABLE, F.PAGE_STAT_BLK, F.PAGE_STAT_EVT_DROP, F.PAGE_STAT_ERR_OVF, F.PAGE_STAT_ERR_ANY, F.PAGE_STAT_LOCKED] ++
  [F.PAGE_STAT_BUSY, F.PAGE_STAT_ENABLED, F.PAGE_ERR_BLK, F.PAGE_ERR_FATAL, F.PAGE_ERR_UCR, F.PAGE_ERR_CE] ++
  [F.PAGE_ERR_DENIED, F.PAGE_ERR_NOT_PATROL, F.PAGE_ERR_LOCKED_WR, F.PAGE_ERR_SIZE, F.PAGE_ERR_MASK_MASK, F.PAGE_ERR_INJ_INJ] ++
  [F.PAGE_EVT_VALID, F.PAGE_EVT_TILE, F.PAGE_EVT_SOURCE, F.PAGE_OWNER_ALL_READ, F.PAGE_OWNER_PLOCK, F.PAGE_OWNER_PISTE]

/-- The fields of the core page. -/
def fldsCore : List Fld :=
  [F.CORE_CARVE_CTL_CHK_REQ, F.CORE_CARVE_CTL_LODGE_EN, F.CORE_CARVE_CTL_LODGE_THRESH, F.CORE_CARVE_STAT_VREG_FREE, F.CORE_CARVE_STAT_IREG_FREE, F.CORE_CARVE_STAT_OLDEST] ++
  [F.CORE_CARVE_STAT_T1_BUSY, F.CORE_CARVE_STAT_T0_BUSY, F.CORE_CARVE_STAT_LODGED, F.CORE_CARVE_STAT_STN_BUSY, F.CORE_STN_STATE_STN, F.CORE_TIME_CTL_GRM_REQ] ++
  [F.CORE_TIME_CTL_CHECK_EN, F.CORE_TIME_CTL_GROOM_EN, F.CORE_TIME_STAT_APPLYING, F.CORE_TIME_STAT_CHECKING, F.CORE_TIME_STAT_GROOMED, F.CORE_UNTIMED_COUNT] ++
  [F.CORE_FLOW_CTL_RINK_FLUSH, F.CORE_FLOW_CTL_PRED_FLUSH, F.CORE_FLOW_CTL_RINK_EN, F.CORE_FLOW_CTL_PRED_EN, F.CORE_RINK_STAT_BODY, F.CORE_RINK_STAT_CARVES] ++
  [F.CORE_RINK_STAT_ENDCAUSE, F.CORE_RINK_STAT_STREAMING, F.CORE_RINK_STAT_CAPTURED, F.CORE_ATTR_S_NX, F.CORE_ATTR_S_TYPE, F.CORE_ATTR_H_NX] ++
  [F.CORE_ATTR_H_TYPE, F.CORE_MEMERR_SIZE, F.CORE_MEMERR_TYPE, F.CORE_MEMERR_WC, F.CORE_MEMERR_HALF, F.CORE_MEMERR_KIND] ++
  [F.CORE_MEMERR_OVF, F.CORE_MEMERR_VALID, F.CORE_MEMERR_ADDR_PA, F.CORE_MMU_CTL_TLB_FLUSH, F.CORE_MMU_CTL_WCACHE_EN, F.CORE_MMU_CTL_SPEC_WALK] ++
  [F.CORE_TLB_STAT_ACK_TMO, F.CORE_TLB_STAT_ACK_PEND, F.CORE_TLB_STAT_XINV_OUT]

/-- The fields of the l2 page. -/
def fldsL2 : List Fld :=
  [F.L2_LOCK_WAYMASK, F.L2_LOCK_STAT_NLOCKED, F.L2_LOCK_STAT_NOROOM, F.L2_LOCK_STAT_REJECT, F.L2_LOCK_STAT_BUSY, F.L2_PF_CTL_DEGREE] ++
  [F.L2_PF_CTL_EN, F.L2_RANGE_BASE_PA, F.L2_RANGE_LEN_LINES, F.L2_RANGE_CTL_SOURCE, F.L2_RANGE_CTL_EVT_EN, F.L2_RANGE_CTL_DEPTH] ++
  [F.L2_RANGE_CTL_ACT, F.L2_RANGE_CTL_ABORT, F.L2_RANGE_CTL_GO, F.L2_RANGE_STAT_DONE_LINES, F.L2_RANGE_STAT_REJECT, F.L2_RANGE_STAT_ABORTED] ++
  [F.L2_RANGE_STAT_DONE, F.L2_RANGE_STAT_BUSY, F.L2_SWEEP_K, F.L2_SWEEP_EN]

/-- The fields of the pad page. -/
def fldsPad : List Fld :=
  [F.PAD_STAT_SPARES, F.PAD_STAT_ZEROING, F.PAD_CONFLICT_COUNT, F.PAD_ERRLOG_ROW, F.PAD_ERRLOG_COL, F.PAD_ERRLOG_SUB] ++
  [F.PAD_ERRLOG_BANK, F.PAD_ERRLOG_UCR, F.PAD_ERRLOG_OVF, F.PAD_ERRLOG_VALID, F.PAD_COPY_CTL_GO, F.PAD_COPY_CTL_OP] ++
  [F.PAD_COPY_CTL_DEST, F.PAD_COPY_STAT_BLOCKS, F.PAD_COPY_STAT_REJECT, F.PAD_COPY_STAT_ERR, F.PAD_COPY_STAT_DONE, F.PAD_COPY_STAT_BUSY] ++
  [F.PAD_REPAIR_FUSE, F.PAD_REPAIR_VALID, F.PAD_REPAIR_COL, F.PAD_SWEEP_K, F.PAD_SWEEP_EN]

/-- The fields of the slice page. -/
def fldsSlice : List Fld :=
  [F.SLICE_DRAIN_GO, F.SLICE_DRAIN_ALL, F.SLICE_DRAIN_LANES, F.SLICE_DRAIN_BUCKET, F.SLICE_DRAIN_STAT_WRITTEN, F.SLICE_DRAIN_STAT_REJECT] ++
  [F.SLICE_DRAIN_STAT_DONE, F.SLICE_DRAIN_STAT_BUSY, F.SLICE_STAT_PIN_EVICT, F.SLICE_STAT_DIR_USED, F.SLICE_STAT_LLC_USED, F.SLICE_SWEEP_K] ++
  [F.SLICE_SWEEP_EN]

/-- The fields of the router page. -/
def fldsRouter : List Fld :=
  [F.ROUTER_CTL_PORT_EN, F.ROUTER_CTL_DRAIN, F.ROUTER_STAT_STATE, F.ROUTER_ABSORB_LAST_PORT, F.ROUTER_ABSORB_LAST_SRC, F.ROUTER_ABSORB_COUNT] ++
  [F.ROUTER_CAL_CTL_REJECT, F.ROUTER_CAL_CTL_EN, F.ROUTER_CAL_SLOT]

/-- The fields of the ni page. -/
def fldsNi : List Fld :=
  [F.NI_CLOSE_REQ, F.NI_CLOSE_STAT_IN, F.NI_CLOSE_STAT_OUT, F.NI_CLOSE_STAT_STATE, F.NI_STAT_MISDELIVER, F.NI_STAT_BADFLIT] ++
  [F.NI_STAT_BADROUTE, F.NI_EPOCH_STAT_OUT1, F.NI_EPOCH_STAT_OUT0, F.NI_EPOCH_STAT_CUR, F.NI_GATE_PISTE_PISTE, F.NI_GATE_TILES_TILES] ++
  [F.NI_SEALED_MASK, F.NI_RETRY_COUNT, F.NI_ROUTE_VALID, F.NI_ROUTE_ROUTE]

/-- The fields of the lec page. -/
def fldsLec : List Fld :=
  [F.LEC_CTL_STRICT, F.LEC_STAT_BADEVT, F.LEC_STAT_ORDER_ERR, F.LEC_STAT_ACT1, F.LEC_STAT_ACT0, F.LEC_STAT_PTGT] ++
  [F.LEC_STAT_DEPTH, F.LEC_STAT_PVALID, F.LEC_STAT_PRES, F.LEC_CLAIM_VALID, F.LEC_CLAIM_SOURCE, F.LEC_COMPLETE_SOURCE] ++
  [F.LEC_DOORBELL_SOURCE, F.LEC_STRAY_COUNT, F.LEC_DELEG_DELEG, F.LEC_PEND_PEND, F.LEC_MASK_MASK, F.LEC_TMR_CMP_CMP] ++
  [F.LEC_TMR_CTL_EN, F.LEC_WDOG_CTL_PERIOD, F.LEC_WDOG_CTL_EN, F.LEC_WDOG_KICK_KICK, F.LEC_WDOG_CNT_CNT]

/-- The fields of the pmu page. -/
def fldsPmu : List Fld :=
  [F.PMU_CTL_TD_CLR, F.PMU_CTL_FREEZE, F.PMU_CTL_UCNT, F.PMU_OVF_OVF, F.PMU_OVF_EVT_EN, F.PMU_OVF_EVT_SOURCE] ++
  [F.PMU_SPLIT_CTL_K, F.PMU_SPLIT_CTL_EN, F.PMU_SPLIT_RING_BASE, F.PMU_SPLIT_RING_LOG2, F.PMU_SPLIT_HEAD_PA, F.PMU_SPLIT_STAT_WRITTEN] ++
  [F.PMU_SPLIT_STAT_MISSED, F.PMU_SPLIT_STAT_ERR, F.PMU_SPLIT_STAT_BUSY, F.PMU_FIX_COUNT, F.PMU_CNT_COUNT, F.PMU_EVSEL_EN] ++
  [F.PMU_EVSEL_LVL, F.PMU_EVSEL_THR_EN, F.PMU_EVSEL_THRESH, F.PMU_EVSEL_EVENT, F.PMU_TD_COUNT, F.PMU_TD_PEND_SLOTS] ++
  [F.PMU_E_CORE_PJ, F.PMU_E_MESH_PJ]

/-- The fields of the tlift page. -/
def fldsTlift : List Fld :=
  [F.TLIFT_PREQ_PSTATE, F.TLIFT_PSTAT_MOVING, F.TLIFT_PSTAT_LIMITED, F.TLIFT_PSTAT_CAPPED, F.TLIFT_PSTAT_FIXED, F.TLIFT_PSTAT_TARGET] ++
  [F.TLIFT_PSTAT_CUR, F.TLIFT_PFIX_FIX, F.TLIFT_PFIX_PSTATE, F.TLIFT_TCTL_FORCE_T3, F.TLIFT_TCTL_TARGET, F.TLIFT_TSTAT_PHASE] ++
  [F.TLIFT_TSTAT_STATE, F.TLIFT_RESTART_ADDR]

/-- The fields of the spot page. -/
def fldsSpot : List Fld :=
  [F.SPOT_FILT_EN, F.SPOT_FILT_PORT, F.SPOT_FILT_CLSM, F.SPOT_FILT_PEN, F.SPOT_FILT_PISTE, F.SPOT_FILT_DSTM] ++
  [F.SPOT_FILT_DST, F.SPOT_FILT_SRCM, F.SPOT_FILT_SRC, F.SPOT_CNT_COUNT, F.SPOT_TCTL_TERR, F.SPOT_TCTL_STOP] ++
  [F.SPOT_TCTL_TEN, F.SPOT_TBASE_PA, F.SPOT_TSIZE_SIZE, F.SPOT_TPTR_FULL, F.SPOT_TPTR_TPTR, F.SPOT_DROP_DROPPED]

/-- The fields of the nmc page. -/
def fldsNmc : List Fld :=
  [F.NMC_CTL_TRAIN_GO, F.NMC_CTL_OSC_PERIOD, F.NMC_STAT_TRAINING, F.NMC_STAT_TRAIN_FAIL, F.NMC_STAT_READY]

/-- The fields of the nmcCh page. -/
def fldsNmcCh : List Fld :=
  [F.NMC_CH_CTL_AGE, F.NMC_CH_CTL_RFM_K, F.NMC_CH_CTL_IDLE, F.NMC_CH_CTL_ORDER, F.NMC_CH_CTL_MODE, F.NMC_CH_STAT_ZEROING] ++
  [F.NMC_CH_STAT_SELF_REFRESH, F.NMC_CH_STAT_CAL_ACTIVE, F.NMC_CH_STAT_FALLBACK, F.NMC_CH_STAT_TRAIN_FAIL, F.NMC_CH_STAT_READY, F.NMC_CH_PASR_ZERO_EXIT] ++
  [F.NMC_CH_PASR_RETAIN, F.NMC_CH_SWEEP_K, F.NMC_CH_SWEEP_EN, F.NMC_CH_ERRLOG_D, F.NMC_CH_ERRLOG_UCR, F.NMC_CH_ERRLOG_META] ++
  [F.NMC_CH_ERRLOG_OVF, F.NMC_CH_ERRLOG_VALID, F.NMC_CH_CSTAT_BYPASS, F.NMC_CAL_CTL_T_SLOT, F.NMC_CAL_CTL_ACC, F.NMC_CAL_CTL_EN] ++
  [F.NMC_CAL_STAT_PERIODS, F.NMC_CAL_STAT_REJECT, F.NMC_CAL_STAT_REF_OK, F.NMC_CAL_STAT_ACTIVE, F.NMC_CAL_SLOT]

/-- The fields of the hub page. -/
def fldsHub : List Fld :=
  [F.HUB_CTL_EP, F.HUB_CTL_BIF, F.HUB_STAT_FORMED, F.HUB_STAT_PENDING, F.HUB_SSC_CTL_EN, F.HUB_SSC_STAT_FRAMES]

/-- The fields of the port page. -/
def fldsPort : List Fld :=
  [F.PORT_IRT_RID_CHK, F.PORT_IRT_RID, F.PORT_IRT_PISTE, F.PORT_IRT_TILE, F.PORT_IRT_SOURCE, F.PORT_IRT_PBIT] ++
  [F.PORT_IRT_MASKED, F.PORT_IRT_VALID, F.PORT_CTL_KEY, F.PORT_CTL_PISTE, F.PORT_CTL_BME, F.PORT_CTL_WALLOC] ++
  [F.PORT_CTL_P2P, F.PORT_CTL_HP, F.PORT_CTL_MAXGEN, F.PORT_CTL_MODE, F.PORT_STAT_FORMED, F.PORT_STAT_FLIT] ++
  [F.PORT_STAT_WIDTH, F.PORT_STAT_GEN, F.PORT_STAT_LINK_UP, F.PORT_CTO_US, F.PORT_MMIO_BASE_BASE, F.PORT_MMIO_LIMIT_VALID] ++
  [F.PORT_MMIO_LIMIT_LIMIT, F.PORT_ECAM_VALID, F.PORT_ECAM_BASE, F.PORT_ECAM_SUB, F.PORT_ECAM_SEC, F.PORT_MSI_ADDR_PA] ++
  [F.PORT_ERRLOG_RID, F.PORT_ERRLOG_KIND, F.PORT_ERRLOG_OVF, F.PORT_ERRLOG_VALID, F.PORT_ERRADDR_ADDR]

/-- The fields of the ep page. -/
def fldsEp : List Fld :=
  [F.EP_ID_SSID, F.EP_ID_DID1, F.EP_ID_DID0, F.EP_ID_VID, F.EP_CTL_WIN_COMMIT, F.EP_CTL_BARLOG] ++
  [F.EP_STAT_OLD_OUT, F.EP_STAT_REJECT, F.EP_STAT_COMMIT_BUSY, F.EP_STAT_FLR_DONE, F.EP_STAT_FLR, F.EP_STAT_PF0_BME] ++
  [F.EP_STAT_ACTIVE, F.EP_STAT_LINK_UP, F.EP_WERR_RID, F.EP_WERR_OFS, F.EP_WERR_KIND, F.EP_WERR_OVF] ++
  [F.EP_WERR_VALID, F.EP_WSH_LO_VALID, F.EP_WSH_LO_RD, F.EP_WSH_LO_WR, F.EP_WSH_LO_PISTE, F.EP_WSH_LO_KEY] ++
  [F.EP_WSH_LO_LOG2SZ, F.EP_WSH_LO_OFFSET, F.EP_WSH_HI_TARGET, F.EP_WACT_LO_VALUE, F.EP_WACT_HI_VALUE, F.EP_MBX_REQ_WORD] ++
  [F.EP_MBX_RSP_WORD, F.EP_MBX_STAT_RESULT, F.EP_CON_IN_VALID, F.EP_CON_IN, F.EP_CON_OUT]

/-- The fields of the hdm page. -/
def fldsHdm : List Fld :=
  [F.HDM_DEC_BASE_BASE, F.HDM_DEC_SIZE_SIZE, F.HDM_DEC_CTL_VALID, F.HDM_DEC_CTL_DC, F.HDM_DEC_CTL_NEAR, F.HDM_DEC_CTL_DB] ++
  [F.HDM_DEC_CTL_IG, F.HDM_DEC_CTL_IW, F.HDM_DEC_TGT0_TGT, F.HDM_DEC_TGT1_TGT, F.HDM_STAT_LATE, F.HDM_STAT_OVERLAP] ++
  [F.HDM_STAT_REJECT, F.HDM_STAT_PENDING, F.HDM_EXT_NEXT_COMMIT, F.HDM_EXT_NEXT_BASE, F.HDM_EXT_NEXT_COUNT, F.HDM_EXT_STAT_BASE] ++
  [F.HDM_EXT_STAT_SWITCHED, F.HDM_EXT_STAT_COUNT, F.HDM_CACHE_CTL_EN, F.HDM_CACHE_CTL_PORT, F.HDM_MEMERR_KIND, F.HDM_MEMERR_PORT] ++
  [F.HDM_MEMERR_OVF, F.HDM_MEMERR_VALID, F.HDM_MEMERR_ADDR_PA]

/-- The fields of the ide page. -/
def fldsIde : List Fld :=
  [F.IDE_PORT_CTL_REQ, F.IDE_PORT_CTL_SKID, F.IDE_PORT_CTL_KEYSLOT, F.IDE_PORT_STAT_INSECURE, F.IDE_PORT_STAT_FAIL, F.IDE_PORT_STAT_ACTIVE] ++
  [F.IDE_IO_CTL_REQ, F.IDE_IO_CTL_KEYSLOT, F.IDE_IO_STAT_INSECURE, F.IDE_IO_STAT_FAIL, F.IDE_IO_STAT_ACTIVE]

/-- The fields of the tmap page. -/
def fldsTmap : List Fld :=
  [F.TMAP_ENT_SWAPS, F.TMAP_ENT_VALID, F.TMAP_ENT_DIE, F.TMAP_ENT_STOP, F.TMAP_SPARE_DIE, F.TMAP_SPARE_RETIRED] ++
  [F.TMAP_SPARE_AVAIL, F.TMAP_SPARE_STOP]

/-- The fields of the bremap page. -/
def fldsBremap : List Fld :=
  [F.BREMAP_ENT_HOLD, F.BREMAP_ENT_LANE3, F.BREMAP_ENT_LANE2, F.BREMAP_ENT_LANE1, F.BREMAP_ENT_LANE0, F.BREMAP_STAT_PENDING]

/-- The fields of the ntmap page. -/
def fldsNtmap : List Fld :=
  [F.NTMAP_SET_VALID, F.NTMAP_SET_FIRST, F.NTMAP_SET_NCODE, F.NTMAP_SET_GRAIN, F.NTMAP_CACHE_VALID, F.NTMAP_CACHE_FIRST] ++
  [F.NTMAP_CACHE_NCODE, F.NTMAP_CHAN_CH, F.NTMAP_STAT_PENDING]

/-- The fields of the mesh page. -/
def fldsMesh : List Fld :=
  [F.MESH_EPOCH_SWITCH, F.MESH_EPOCH_CUR, F.MESH_EPOCH_STAT_REJECT, F.MESH_EPOCH_STAT_DRAIN_PEND, F.MESH_EPOCH_STAT_SWITCH_PEND, F.MESH_SEALED_MASK] ++
  [F.MESH_FAULT_VALID, F.MESH_FAULT_OVF, F.MESH_FAULT_KIND, F.MESH_FAULT_PORT, F.MESH_FAULT_STOP, F.MESH_LOST_GO] ++
  [F.MESH_LOST_PORT, F.MESH_LOST_STOP]

/-- The fields of the pmap page. -/
def fldsPmap : List Fld :=
  [F.PMAP_CTL_INV, F.PMAP_CTL_EN, F.PMAP_ROOT_PA, F.PMAP_STAT_UCR, F.PMAP_STAT_PENDING, F.PMAP_VIOL_PISTE] ++
  [F.PMAP_VIOL_STOP, F.PMAP_VIOL_OP, F.PMAP_VIOL_OVF, F.PMAP_VIOL_VALID, F.PMAP_VIOL_ADDR_PA, F.PMAP_PISTE_VIOLS] ++
  [F.PMAP_PISTE_NOTICE_TILE, F.PMAP_PISTE_AGENT, F.PMAP_PISTE_SPOT, F.PMAP_PISTE_PMU, F.PMAP_PISTE_DBG, F.PMAP_PISTE_SEALED] ++
  [F.PMAP_PISTE_VALID, F.PMAP_GROUP_MASK, F.PMAP_GKEY_OVR, F.PMAP_GKEY_SLOT, F.PMAP_TILE_PISTE]

/-- The fields of the keys page. -/
def fldsKeys : List Fld :=
  [F.KS_SLOT_ERASED, F.KS_SLOT_LOCK, F.KS_SLOT_KIND, F.KS_PKEY_SLOT, F.KS_CMD_GO, F.KS_CMD_CMD] ++
  [F.KS_CMD_KIND, F.KS_CMD_SLOT, F.KS_STAT_ERR, F.KS_STAT_BUSY]

/-- The fields of the sec page. -/
def fldsSec : List Fld :=
  [F.SEC_SENSOR_COUNT, F.SEC_SENSOR_EVENT, F.SEC_SENSOR_FLOOR, F.SEC_SENSOR_LEVEL, F.SEC_STAT_PAIR1_OK, F.SEC_STAT_PAIR0_OK] ++
  [F.SEC_STAT_ERASED, F.SEC_STAT_FROZEN, F.SEC_STAT_PSTOPPED, F.SEC_VCTL_THRESH, F.SEC_BOOT_FAILS, F.SEC_BOOT_SOURCE] ++
  [F.SEC_BOOT_KEYIDX, F.SEC_BOOT_SVN]

/-- The fields of the ras page. -/
def fldsRas : List Fld :=
  [F.RAS_CTL_WDOG_STOP, F.RAS_CTL_AUTO_RETIRE, F.RAS_CTL_AUTO_SWAP, F.RAS_CTL_CE_EVT, F.RAS_TMO_CLAIM, F.RAS_TMO_NI] ++
  [F.RAS_TMO_STUCK, F.RAS_WEAR_AGE_PS, F.RAS_WEAR_WINDOW, F.RAS_WEAR_CE_MAX, F.RAS_REC_STAT_LOST, F.RAS_REC_STAT_TAIL] ++
  [F.RAS_REC_STAT_HEAD, F.RAS_REC_BASE_OFS, F.RAS_OP_GO, F.RAS_OP_OP, F.RAS_OP_TILE, F.RAS_OP_STOP] ++
  [F.RAS_OP_STAT_TIME, F.RAS_OP_STAT_ERRCODE, F.RAS_OP_STAT_STEP, F.RAS_OP_STAT_REJECT, F.RAS_OP_STAT_ERR, F.RAS_OP_STAT_DONE] ++
  [F.RAS_OP_STAT_BUSY, F.TUCK_CTL_EN, F.TUCK_CTL_HYST, F.TUCK_CTL_RESET, F.TUCK_CTL_WARN, F.TUCK_STAT_TUCKS] ++
  [F.TUCK_STAT_RISES, F.TUCK_STAT_SLOT, F.TUCK_STAT_PHASE]

/-- The fields of the lift page. -/
def fldsLift : List Fld :=
  [F.LIFT_PSTATE_VALID, F.LIFT_PSTATE_MAXT, F.LIFT_PSTATE_MV, F.LIFT_PSTATE_FREQ, F.LIFT_STAT_REJECT, F.LIFT_PLIM_WATTS] ++
  [F.LIFT_PWR_STAT_THERM_EMERG, F.LIFT_PWR_STAT_AVG, F.LIFT_PWR_STAT_CAP, F.LIFT_THERM_TJMAX, F.LIFT_THERM_HOT, F.LIFT_PK_CTL_PK1_EN] ++
  [F.LIFT_PK_CTL_DELAY, F.LIFT_PK_STAT_ABORTS, F.LIFT_PK_STAT_PHASE, F.LIFT_PK_STAT_STATE, F.LIFT_ABORT_WHO_VALID, F.LIFT_ABORT_WHO_TMO] ++
  [F.LIFT_ABORT_WHO_REASON, F.LIFT_ABORT_WHO_KIND, F.LIFT_ABORT_WHO_INDEX, F.LIFT_WAKE_QUEUED, F.LIFT_WAKE_TOKENS, F.LIFT_WAKE_CFG_EDGE] ++
  [F.LIFT_WAKE_CFG_EN, F.LIFT_WAKE_STAT_LAST_LOST, F.LIFT_WAKE_STAT_LOST, F.LIFT_WAKE_TMR_CMP, F.LIFT_CHRONO_COUNT]

/-- The block registers of a page type (R658). -/
def blockFlds : PageType → List Fld
  | .core => fldsCore
  | .l2 => fldsL2
  | .pad => fldsPad
  | .slice => fldsSlice
  | .router => fldsRouter
  | .ni => fldsNi
  | .lec => fldsLec
  | .pmu => fldsPmu
  | .tlift => fldsTlift
  | .spot => fldsSpot
  | .nmc => fldsNmc
  | .nmcCh => fldsNmcCh
  | .hub => fldsHub
  | .port => fldsPort
  | .ep => fldsEp
  | .hdm => fldsHdm
  | .ide => fldsIde
  | .tmap => fldsTmap
  | .bremap => fldsBremap
  | .ntmap => fldsNtmap
  | .mesh => fldsMesh
  | .pmap => fldsPmap
  | .keys => fldsKeys
  | .sec => fldsSec
  | .ras => fldsRas
  | .lift => fldsLift

/-- Every field of a page of the type, header first. -/
def pageFlds (t : PageType) : List Fld := fldsHdr ++ blockFlds t

end Sys2Proof.Machine
end

