-- ==== Sys2Proof/Machine/UncoreTypes.lean ====
section
/-! DEFINITION. The plain data of caches, home slices and network interfaces. -/

namespace Sys2Proof.Machine

/-- State of a valid line (R350). -/
inductive Coh where
  | m | e | s
deriving DecidableEq, Repr

/-- A line of L1D (R346, R350). -/
structure L1Line where
  st : Coh
  data : Line
  poison : Bool
  way : Nat
deriving DecidableEq, Repr

/-- A line of L2 (R346, R350, R371). -/
structure L2Line where
  st : Coh
  data : Line
  poison : Bool
  way : Nat
  /-- A WB-NT line: its victim goes to memory (R352). -/
  nt : Bool
  key : Nat
deriving DecidableEq, Repr

/-- A carve-cache line. -/
structure CcLine where
  data : Line
  way : Nat
deriving DecidableEq, Repr

/-- An outstanding L2 fill (R361, R367, R372). -/
structure Fill where
  line : Nat
  excl : Bool
  spec : Bool
  lock : Bool
  nt : Bool
  key : Nat
  /-- Also install in L1D for a demand load or store. -/
  l1 : Bool
  /-- The split access it is for one half of (R201). -/
  pair : Option Nat
  /-- The home slice has answered and its data are on their way: a snoop of the line waits for them (R350, R367). -/
  granted : Bool
deriving DecidableEq, Repr

/-- One stride tracker (R360): stream (carve address, stride, slot), last address and delta, confidence. -/
structure Tracker where
  carve : Nat
  stride : Nat
  addr : Nat
  delta : Int
  conf : Bool
deriving DecidableEq, Repr

/-- A range-engine run (R369). -/
structure RangeRun where
  base : Nat
  len : Nat
  act : Nat
  depth : Nat
  done : Nat
  abort : Bool
  /-- Lines sent to their home slices so far, at depth ADDR_MEM. -/
  sent : Nat
  /-- Lines whose answer, or whose write-back's answer, is still owed. -/
  owed : List Nat
deriving DecidableEq, Repr

/-- The caches of one tile. -/
structure Caches where
  cc : Tbl Nat CcLine
  l1 : Tbl Nat L1Line
  l2 : Tbl Nat L2Line
  fills : List Fill
  trackers : List Tracker
  range : Option RangeRun
  /-- Ways being emptied after a lock (R371). -/
  emptying : Nat
  sweep : Nat
  /-- The tag arrays met an uncorrectable error and the L2 stopped (R375). -/
  dead : Bool
deriving DecidableEq, Repr

/-- Empty caches. -/
def Caches.empty : Caches := ⟨[], [], [], [], [], none, 0, 0, false⟩

/-- A line of an LLC slice (R352, R354). -/
structure LlcLine where
  data : Line
  poison : Bool
  dirty : Bool
  way : Nat
  bucket : Nat
  lane : Nat
  key : Nat
  piste : Nat
deriving DecidableEq, Repr

/-- A directory entry (R351). -/
structure DirEntry where
  /-- E or M with one owner. -/
  excl : Bool
  sharers : List Nat
  /-- The coarse vector, once a fifth sharer has arrived. -/
  coarse : Option Nat
  /-- The tiles that hold the line in a locked way: the pin bit is 1 while there is one (R374). -/
  pins : List Nat
  way : Nat
  bucket : Nat
  lane : Nat
deriving DecidableEq, Repr

/-- What a home transaction waits for. -/
inductive TxWait where
  /-- Answers to snoops still owed, by tile stop. -/
  | snoops (owed : List Nat)
  /-- The memory target's answer. -/
  | mem
  /-- A directory victim's invalidations, by tile stop, before the request itself goes on. -/
  | victim (line : Nat) (owed : List Nat)
deriving DecidableEq, Repr

/-- A transaction of a home slice on one line (R352). -/
structure HTx where
  id : Nat
  req : Flit
  line : Nat
  wait : TxWait
  /-- Data collected from an owner. -/
  got : Option (Line × Bool)
  /-- The collected data are of a WB-NT line, which the LLC does not keep (R190, R352). -/
  nt : Bool
  /-- Key select and piste the line's data are written under. -/
  key : Nat
  piste : Nat
  /-- A maintenance request's dirty data have been sent to memory (R363). -/
  wrote : Bool
  bucket : Nat
  lane : Nat
deriving DecidableEq, Repr

/-- An LLC slice with its directory (R346, R351). -/
structure Slice where
  llc : Tbl Nat LlcLine
  dir : Tbl Nat DirEntry
  txs : List HTx
  /-- Drain in progress: bucket and lanes, or all (R358). -/
  drain : Option (Nat × Nat × Bool)
  sweep : Nat
  dead : Bool
deriving DecidableEq, Repr

/-- An empty slice. -/
def Slice.empty : Slice := ⟨[], [], [], none, 0, false⟩

/-- Why an NI sent a request: who gets the response. -/
inductive Org where
  /-- The L2 fill of a line. -/
  | fill (line : Nat)
  /-- A piece of a load, by load-queue entry and offset. -/
  | load (lq off : Nat)
  /-- A store-queue entry. -/
  | store (sq : Nat)
  | wcBuf (line : Nat)
  | atom (lq : Nat)
  | adUpdate (walk : Nat)
  | maint (sq : Nat)
  | range (line : Nat)
  /-- A victim write-back or a report of a clean line. -/
  | victim (line : Nat)
  | xinv (id : Nat)
  /-- An event; a page's, with the page, shows EVT_DROP where the mesh refuses it (R41). -/
  | event (pg : Option Nat)
  /-- A home slice's snoop or memory access, by transaction. -/
  | snoop (tx stop : Nat)
  | mem (tx : Nat)
  /-- A memory write-back of a slice that nothing waits for. -/
  | memWb
  /-- An inbound request of a hub port, by record. -/
  | inbound (id : Nat)
  /-- A channel's cached-range fetch from a hub, and a channel's write-back to a hub. -/
  | nearFill (chan line : Nat)
  | nearWb (c line : Nat)
  /-- A split record, a spotter trace line. -/
  | split (pmu : Nat)
  | trace (spot probe : Nat)
  /-- The Patrol's own access. -/
  | patrol
  /-- A fetch line that no cache may hold. -/
  | fetchNc (pa : Nat)
  /-- A prefetch into the LLC, whose data nobody keeps (R184). -/
  | prefLlc (line : Nat)
  /-- A device's cache request, by the hub's record (R442), and a back-invalidate of a device (R438). -/
  | d2h (id : Nat)
  | bisnp (id : Nat)
  /-- A maintenance action of a cache channel passed on to the hub, and a request a channel sends on uncached (R429, R430). -/
  | nearPass (chan : Nat) (f : Flit)
  /-- A write of a doorbell for an MSI (R307), by hub record. -/
  | msi (id : Nat)
  /-- An access the Patrol makes for a service, by the run of that service (R552). -/
  | svc (id : Nat)
deriving DecidableEq, Repr

/-- A request waiting in an NI to be sent (R476). -/
structure Req where
  op : Nat
  cls : Nat
  pa : Nat
  be : Nat
  data : Line
  poison : Nat
  spec : Bool
  noalloc : Bool
  pin : Bool
  key : Nat
  piste : Nat
  /-- The requester is the Patrol. -/
  patrol : Bool
  /-- Level of the carve that issued it, for a core's access (R297, R298). -/
  lvl : Nat
  /-- Who gets the response. -/
  org : Org
  /-- An explicit destination, for requests that address no memory. -/
  dst : Option NiId
  /-- Requests sent together: the NI sends none of a split pair unless both pass (R201). -/
  pair : Option Nat
deriving DecidableEq, Repr

/-- An outstanding request of an NI. -/
structure Outst where
  tag : Nat
  req : Req
  tgt : NiId
  epoch : Bool
  /-- Already sent a second time (R490, R585). -/
  retried : Bool
  /-- It travels on a shared ticket (R477). -/
  shared : Bool
  /-- Admitted by a check of map state (R536). -/
  mapped : Bool
  /-- The hub reported that it went out on a link, which ends the NI's timeout for it (R453, R508). -/
  onLink : Bool
  /-- Its ticket has come back (R477). -/
  back : Bool
  /-- Admitted before an emptying of the map cache that is still to be acknowledged (R536). -/
  old : Bool
deriving DecidableEq, Repr

/-- The key of one register field in the register table: page (stop * 256 + slot), field of the directory, index. -/
structure FKey where
  page : Nat
  fid : Nat
  idx : Nat
deriving DecidableEq, Repr, Ord

/-- What a copy update changes in the NI that applies it. -/
inductive TblAct where
  /-- Only the copies of register fields. -/
  | copy
  /-- The tile-map copy of an epoch: logical tile, and the entry as it was. -/
  | tmap (epoch lt : Nat) (old : Nat × Bool)
  /-- The epoch switch of R487. -/
  | switch
  /-- The sealed mask (R500). -/
  | sealed (mask : Nat)
  /-- Emptying the cached leaves of the piste map (R536). -/
  | pmapInv
  /-- A lost link: stop and output port (R599). -/
  | lost (stop port : Nat)
deriving DecidableEq, Repr

/-- A copy update on its way to every NI (R357, R432, R445, R487, R500, R506, R536, R599): the values the copies held before
it, the NIs that have not applied it, and the field that counts their acknowledgements. -/
structure TblMsg where
  olds : List (FKey × Nat)
  act : TblAct
  waiting : List Nat
  pend : Option FKey
deriving DecidableEq, Repr

/-- The state of a gate (R491, R492). -/
inductive Gate where
  | open_ | closing | closed
deriving DecidableEq, Repr

/-- A network interface (R475-R477, R486, R491). -/
structure Ni where
  reqs : List Req
  outst : List Outst
  /-- Arrived requests in entries, requests in service, arrived responses. -/
  inq : List Flit
  serv : List Flit
  rsp : List Flit
  /-- Flits offered to the router. -/
  outq : List Flit
  /-- Standing tickets spent: target, class. -/
  spent : List (NiId × Nat)
  /-- Shared tickets held: target, class. -/
  shared : List (NiId × Nat)
  /-- Shared-pool tickets given out as a target: holder, class. -/
  poolOut : List (NiId × Nat)
  epoch : Bool
  /-- The epoch left by the last switch is still to be reported drained (R487). -/
  drainDue : Bool
  gates : List Gate
  nextTag : Nat
  /-- Cached leaves of the piste map: granule and entry (R536). -/
  pmapCached : List (Nat × Nat)
  /-- The cache has been emptied for an INV that is not acknowledged yet (R536). -/
  emptied : Bool
deriving DecidableEq, Repr

/-- An idle NI with every gate open. -/
def Ni.empty : Ni :=
  { reqs := [], outst := [], inq := [], serv := [], rsp := [], outq := [], spent := [], shared := [], poolOut := [],
    epoch := false, drainDue := false, gates := [.open_, .open_, .open_, .open_], nextTag := 0, pmapCached := [], emptied := false }

/-- A router (R460-R463, R479-R483, R488): the flits of each input port in order of arrival, the credits each output has
spent and not got back by output * 12 + VC, the input port each output served last, and each output's count of mesh cycles
and whether its calendars are in force. -/
structure Router where
  inp : Tbl Nat (List Flit)
  used : Tbl Nat Nat
  last : Tbl Nat Nat
  cyc : Tbl Nat Nat
  calOn : Tbl Nat Bool
deriving DecidableEq, Repr

/-- An empty router. -/
def Router.empty : Router := ⟨[], [], [], [], []⟩

/-- What a near-tier channel keeps beside a data line (R416): the metadata word without its check bits, and the key under which
the data were stored, 0 for plain text. -/
structure NearMeta where
  tag : Nat
  dirty : Bool
  valid : Bool
  poison : Bool
  key : Nat
deriving DecidableEq, Repr

/-- A line never written: no tag, plain. -/
def NearMeta.none : NearMeta := ⟨0, false, false, false, 0⟩

/-- A request in a channel's queue (R420, R428): the flit, the data line it goes to, and, for a cache channel, the tag. -/
structure NearReq where
  f : Flit
  line : Nat
  tag : Nat
  /-- For the cache set: the frame answers, not the flat line. -/
  cache : Bool
  write : Bool
deriving DecidableEq, Repr

/-- A near-tier channel (R420-R431). -/
structure Chan where
  /-- Requests in order of arrival. -/
  queue : List NearReq
  /-- A burst of writes is being issued (R420). -/
  burst : Bool
  /-- Open row of each bank (R422). -/
  rows : Tbl Nat Nat
  /-- Bank after the last one served in fallback (R421). -/
  rot : Nat
  /-- Requests whose frame waits for the hub: miss fills and passed maintenance (R430). -/
  waiting : List NearReq
  /-- Banks with a refresh management command drawn or demanded and not yet issued (R424). -/
  rfm : List Nat
  /-- Refreshes postponed (R423). -/
  postponed : Nat
  /-- Next calendar slot (R431). -/
  slot : Nat
  sweep : Nat
  /-- Segments still to be zeroed after PK1 (R425). -/
  zero : List Nat
  /-- Frames whose victims are on their way to the hub (R430). -/
  victims : List Nat
deriving DecidableEq, Repr

/-- An idle channel. -/
def Chan.empty : Chan := ⟨[], false, [], 0, [], [], 0, 0, 0, [], []⟩

/-- A packet a hub has put into a link's transmit order (R438, R439, R442, R445, R507-R509, R518). -/
inductive LinkMsg where
  | memRd (id pa : Nat) (be : Nat)
  | memWr (pa : Nat) (be : Nat) (data : Line) (ep : Bool)
  | cfgRd (id bus devfn reg be : Nat) (type1 : Bool)
  | cfgWr (id bus devfn reg be : Nat) (type1 : Bool) (data : Nat)
  /-- Completion to a device: requester ID, tag, status 0 SC, 1 UR, 2 CA, data. -/
  | cpl (rid tag status : Nat) (data : List Byte) (ep : Bool)
  | m2sRd (id line : Nat)
  | m2sWr (id line : Nat) (be : Nat) (data : Line) (poison : Bool)
  | biRsp (line : Nat) (rsp : Nat)
  | biConflict (id : Nat)
  | h2dSnp (id line : Nat) (inv : Bool)
  /-- Answer to a device's cache request: granted state 0 none, 1 S, 2 E. -/
  | h2dRsp (id grant : Nat) (data : Option Line) (poison : Bool)
  | msix (pf vector : Nat)
deriving DecidableEq, Repr

/-- A tracker entry: an M2S request on a link (R436, R453). -/
structure M2s where
  id : Nat
  port : Nat
  f : Flit
  line : Nat
  /-- 0 read, 1 write, 2 the read half of an atomic, 3 its write half, with the line as read. -/
  kind : Nat
  data : Line
  poison : Bool
  be : Nat
  /-- A back-invalidate met it: kind of the BISnp (R439). -/
  conflict : Option Nat
deriving DecidableEq, Repr

/-- An outbound request on a PCIe link (R507, R508). -/
structure OutTlp where
  id : Nat
  port : Nat
  f : Flit
  write : Bool
  cfg : Bool
  msg : LinkMsg
deriving DecidableEq, Repr

/-- An inbound request being performed in the mesh (R509-R511, R521): its packet, the pieces still out and the data so far.
`port` 0-4 is a root port, 5 is PF1. `left` is the number of pieces unanswered. -/
structure InTlp where
  id : Nat
  port : Nat
  t : Tlp
  left : Nat
  /-- Answered pieces: offset, bytes, poisoned. -/
  got : List (Nat × List Byte × Bool)
  bad : Option Resp
  /-- Window bank it was matched against, for PF1 (R523). -/
  bank : Nat
  /-- No completion is sent: its link went down or its function was reset. -/
  silent : Bool
  /-- Its pieces are in the NI. -/
  sent : Bool
  piste : Nat
  key : Nat
deriving DecidableEq, Repr

/-- An MSI on its way to a doorbell (R307, R308). -/
structure MsiOut where
  id : Nat
  port : Nat
  n : Nat
  tile : Nat
  source : Nat
  piste : Nat
  rid : Nat
  /-- Posted writes that must be performed first, by record. -/
  after : List Nat
  sent : Bool
  tries : Nat
deriving DecidableEq, Repr

/-- A snoop of a home slice to a device's cache (R441, R442). -/
structure H2d where
  id : Nat
  port : Nat
  f : Flit
deriving DecidableEq, Repr

/-- A device's cache request, or a back-invalidate, that the hub has sent into the mesh (R438, R442). -/
structure DevReq where
  id : Nat
  port : Nat
  kind : Nat
  devId : Nat
  line : Nat
deriving DecidableEq, Repr

/-- A hot-plug slot (R513-R516): Slot Control as written and as last applied, Slot Status, the stage of a command (1 written,
2 shifted, 3 shifted with another one written), the inputs accepted, frames in which an input differed from its accepted value, and outputs. (DESIGN CHOICE, assumption 43) -/
structure Slot where
  ctl : Nat
  app : Nat
  sts : Nat
  cmd : Nat
  inp : SlotIn
  agP : Nat
  agM : Nat
  agA : Nat
  pwrEn : Bool
  refclk : Bool
  perst : Bool
  pulse : Bool
deriving DecidableEq, Repr

/-- A slot at reset: indicators and power controller off, as the PCIe base specification leaves them (PRESUMED, assumption 40), no card seen. -/
def Slot.reset : Slot := ⟨0x07C0, 0x07C0, 0, 0, ⟨true, true, true, false, true, false⟩, 0, 0, 0, false, false, false, false⟩

/-- The endpoint face of a hub (R518-R525): bus master enables, messages held in the two pending-bit arrays, the mailbox status
of PF0 (sequence number, busy, done, timeout, chrono counts since the ring), console bytes, the event bits of PF1. (DESIGN CHOICE, assumption 43) -/
structure EpFace where
  bme0 : Bool
  bme1 : Bool
  held : List (Nat × Nat)
  seq : Nat
  busy : Bool
  done : Bool
  lost : Bool
  tmo : Bool
  conOut : Option Byte
  evtC : Bool
  evtR : Bool
  age : Nat
deriving DecidableEq, Repr

/-- An endpoint face at reset. -/
def EpFace.reset : EpFace := ⟨false, false, [], 0, false, false, false, false, none, false, false, 0⟩

/-- A port hub (R435-R458, R501-R529). -/
structure Hub where
  nextId : Nat
  m2s : List M2s
  outs : List OutTlp
  inb : List InTlp
  msis : List MsiOut
  h2d : List H2d
  dev : List DevReq
  /-- Packets in each port's transmit order, oldest first. -/
  tx : Tbl Nat (List LinkMsg)
  /-- Cached extents: first address, length, decoder (R447). -/
  ext : List (Nat × Nat × Nat)
  slots : Tbl Nat Slot
  ep : EpFace
  /-- Ports whose CXL.mem traffic is completed without a link (R450). -/
  dead : List Nat
  /-- Stops accepting for PK1 (R570). -/
  quiesced : Bool
  /-- The 80 bits of the frame being shifted on the slot shift chain, and those the board has latched (R514). -/
  ssc : Nat
  sscOut : Nat
  /-- A new extent table has been committed and SWITCHED is not set yet (R448). -/
  switching : Bool
  /-- Completions behind posted writes they may not pass: port, TLP, completion, those writes (R511). -/
  cpls : List (Nat × Nat × Cpl × List Nat)
deriving DecidableEq, Repr

/-- An idle hub. -/
def Hub.empty : Hub := ⟨0, [], [], [], [], [], [], [], [], [], EpFace.reset, [], false, 0, 0, false, []⟩

/-- A split record being written (R620-R622): its 32 words, the old head, lines still to be answered. -/
structure Split where
  words : List Nat
  n : Nat
  left : Nat
  piste : Nat
deriving DecidableEq, Repr

/-- The whole device's phase: in cold reset, running, tucked (PK2), or stopped by THERMTRIP (R569, R632, R640). -/
inductive Phase where
  | coldReset | running | pk2 | thermTrip
deriving DecidableEq, Repr

/-- A key store as a tuck saves it: the WRAP slot with its generation, and kind, lock and generation of every slot (R607). -/
structure WrapImg where
  wrap : Nat
  gen : Nat
  keys : List (Nat × Nat × Nat)
deriving DecidableEq, Repr

/-- A repair operation in progress (R593-R598): operation of RAS_OP, logical tile, stop left or slice retired, spare, step,
whether the step's own action has been taken, chrono count of the freeze and of the step's start. -/
structure RasRun where
  op : Nat
  lt : Nat
  src : Nat
  dst : Nat
  step : Nat
  sub : Nat
  t0 : Nat
  t1 : Nat
deriving DecidableEq, Repr

/-- A service of the Patrol that goes on after its call was taken (R537, R542, R552): 0 its accesses, 1 the wait for emptied map
caches, 2 CLINV over a range, 3 a tile's way to T3, 4 the wait for its new map state, 5 an image that PF0 reads from the host. -/
inductive SvcStage where
  | accesses | revoke | clean | tileOff | tileMoved | image
deriving DecidableEq, Repr

/-- A run of such a service: the call, accesses still to be made one after another, whether one is out, whether one was refused, the
lines CLINV has still to name, and what the call answers in the end. (DESIGN CHOICE, assumption 67) -/
structure SvcRun where
  id : Nat
  call : Call
  stage : SvcStage
  todo : List Req
  out : Bool
  bad : Bool
  /-- The accesses change the map. -/
  inv : Bool
  line : Nat
  lines : Nat
  /-- The reads PF0 has out for an image, in address order: TLP and the bytes that have come. -/
  dma : List (Nat × Option (List Byte))
deriving DecidableEq, Repr

/-- The Patrol, the Lift and the package beside their pages (R13, R550-R577, R601-R608, R630-R647). -/
structure Sys where
  phase : Phase
  /-- Fuses: the stops that hold spares, die by die (R13), the least version an image may have (R554), the boot endpoint
  (R644: 0 none, then hub 0 port 0, hub 0 port 4, hub 1 port 0, hub 1 port 4). -/
  spareFuse : List Nat
  svnFloor : Nat
  bootEp : Nat
  /-- Fuses: KEYHASH by key index, and the indices of revoked keys (R554). -/
  keyHash : List Nat
  keyRevoked : List Nat
  /-- The boot flash port: XSPI_RST_N is high, and transfers are 8D-8D-8D (else 1S-1S-1S) (R633). -/
  flashOn : Bool
  flash8d : Bool
  /-- The SRAM offset at which the image in force starts to run (R553). -/
  fwEntry : Nat
  /-- Rings accepted by the mailboxes and not yet taken by the Patrol, in order of arrival, their request words still unread
  (R288, R551). -/
  calls : List Call
  /-- Pistes stopped by the violation sensor, and the ports (hub * 5 + port) whose BME that cleared and nothing has written
  since, with the piste (R547, R549). -/
  pstopped : List Nat
  bmeCleared : List (Nat × Nat)
  /-- Pending notice reasons of each piste, oldest first (R552). -/
  notices : Tbl Nat (List Nat)
  /-- Generation of the key in each slot (R539, R541). -/
  keyGen : Tbl Nat Nat
  /-- The wrapped key stores in the two image slots of the tuck store (R607). -/
  wrapped : Tbl Nat WrapImg
  /-- The debug port has been opened, and the stops it holds halted (R543). -/
  dbgOpen : Bool
  halted : List Nat
  /-- Services that go on, oldest first, and the number of the next one (R552). -/
  svcs : List SvcRun
  svcNext : Nat
  /-- Boot progress: last step completed, error code, halted (R634, R643). -/
  bootStep : Nat
  bootErr : Nat
  bootHalted : Bool
  /-- This boot restored a tuck image (R608, R647). -/
  restored : Bool
  /-- The I3C target: its address, what the last private read returned, in-band interrupts raised (R634). -/
  i3cAddr : Nat
  i3cOut : Nat
  i3cIbi : Nat
  /-- The instruction in force at the test port, and whether the last one was refused (R635). -/
  jtag : JtagOp
  jtagRefused : Bool
  /-- Die temperatures in °C (R561, R634). -/
  temps : List Int
  /-- THERMTRIP_N is low (R632). -/
  thermTrip : Bool
  /-- Lane groups 2h + g whose PERST_N is high (R631). -/
  perst : List Nat
  /-- Wake tokens spent and not yet returned (R573). -/
  tokensOut : Nat
  /-- Estimates of the last millisecond, newest first, and how many estimates each cap condition has held without a break (R561). -/
  pwr : List Nat
  slowRun : Nat
  fastRun : Nat
  /-- State each entering tile goes to: TARGET when its entry began, T3 once forced (R563, R565). -/
  enterTo : Tbl Nat Nat
  /-- A refused attempt bars PK1 until a tile has run (R571). -/
  pk1Barred : Bool
  /-- Dies held in a thermal emergency (R561). -/
  emerg : List Nat
  /-- Wake sources asserted as levels: 0-7 the WAKE_N inputs, 8 the wake timer (R567). -/
  wakeLevels : List Nat
  /-- Frozen by a tuck until the supply recovers (R602, R603). -/
  tuckFrozen : Bool
  /-- Wires of each link direction that have failed: stop * 4 + direction (R599). -/
  wires : Tbl Nat Nat
  /-- Links lost: stop and port (R599). -/
  lostLinks : List (Nat × Nat)
  /-- Entries in the repair log (R600). -/
  repairs : Nat
  /-- Tile stops whose power-up failed (R583). -/
  failedStops : List Nat
  /-- The repair operation in progress, and those the Patrol has still to start: operation, tile or slice, spare (R590-R597). -/
  rasRun : Option RasRun
  rasWait : List (Nat × Nat × Nat)
deriving DecidableEq, Repr

/-- As the package leaves cold reset for the first time: fuses as the part has them (R13), everything else idle.
(DESIGN CHOICE, assumption 1) (DESIGN CHOICE, assumption 82) -/
def Sys.reset : Sys :=
  { phase := .running
    spareFuse := [7, 39, 71, 87, 8, 40, 72, 88, 103, 135, 167, 183, 104, 136, 168, 184]
    svnFloor := 0, bootEp := 0, keyHash := [0, 0, 0, 0], keyRevoked := [], flashOn := false, flash8d := false, fwEntry := 0, calls := []
    pstopped := [], bmeCleared := [], notices := [], keyGen := [], wrapped := [], dbgOpen := false, halted := [],
    svcs := [], svcNext := 0, bootStep := 0, bootErr := 0, bootHalted := false, restored := false, i3cAddr := 0x3A, i3cOut := 0, i3cIbi := 0, jtag := .idcode,
    jtagRefused := false, temps := [25, 25, 25, 25], thermTrip := false, perst := [], tokensOut := 0, pwr := [], slowRun := 0,
    fastRun := 0, emerg := [], enterTo := [], pk1Barred := false, wakeLevels := [], tuckFrozen := false, wires := [], lostLinks := [], repairs := 0,
    failedStops := [], rasRun := none, rasWait := [] }

/-- A local event controller beside its page: the active stack (bottom first, each source with the target it was claimed
with) and the watchdog (R294-R298, R310). -/
structure Lec where
  act : List (Nat × Nat)
  /-- Chrono counts since the last kick. -/
  wcount : Nat
  /-- Expiry has been reported since the last kick. -/
  wfired : Bool
deriving DecidableEq, Repr

/-- An idle event controller. -/
def Lec.empty : Lec := ⟨[], 0, false⟩

end Sys2Proof.Machine
end

