-- ==== Sys2Proof/Machine/State.lean ====
section
/-! DEFINITION. The state of the device as plain data, the reasons a step can stop, and the state after reset. -/

namespace Sys2Proof.Machine

/-- Why a step stops with a fault. -/
inductive Fault where
  /-- Raised by nothing: no command of this block ends the machine. Kept so that the type is closed and named; safe. -/
  | machineStopped
deriving DecidableEq, Repr

/-- Why a command is refused. -/
inductive Refusal where
  /-- Raised by an arm of the dispatcher whose command has no meaning yet; safe. -/
  | notModelled (mnemonic : String)
  /-- Raised where a command names a unit its stop does not have: a core, cache, pad, slice or event controller at an
  agent stop (R11, R12). No such unit exists, so nothing could execute there; safe. -/
  | noSuchUnit
deriving DecidableEq, Repr

/-- The state of the device. -/
structure State where
  /-- The commands that wait, first in, first out. -/
  pending : List Instr
  /-- The model's own: status and value of the last page access or service answer, as an observer outside sees it. -/
  respStatus : Resp
  respValue : Word
  /-- The model's own: the counter the free values are applied to. -/
  fresh : Nat
  /-- Fields of register pages that differ from their reset value. -/
  regs : Tbl FKey Nat
  cores : Tbl Nat Core
  caches : Tbl Nat Caches
  slices : Tbl Nat Slice
  nis : Tbl Nat Ni
  lecs : Tbl Nat Lec
  /-- Tiles by stop that asked the Lift for a wake, oldest first (R303, R572). -/
  wakeQ : List Nat
  /-- Pad bytes: address stop * 2^18 + offset. -/
  pads : List Host.Cell
  /-- Pad words marked poisoned: stop * 2^15 + word (R404). -/
  padPoison : List Nat
  /-- The SRAM of the Patrol complex, 2 MiB, with the record ring at its end (R550, R581). -/
  sram : List Host.Cell
  /-- Number of the next machine-check record (R580). -/
  rasSeq : Nat
  /-- Chrono counts of the corrected errors each page reported in the last wear window, newest first (R590). -/
  ceHist : Tbl Nat (List Nat)
  /-- Errors counted for each pad column and near-tier row (R590). -/
  faultHist : Tbl Nat Nat
  /-- Copy updates that some NI has still to apply, oldest first. -/
  tblLog : List TblMsg
  /-- The two copies of the tile map, by epoch * 160 + logical tile: stop and VALID (R485). -/
  tmaps : Tbl Nat (Nat × Bool)
  routers : Tbl Nat Router
  /-- Trace records a probe has buffered, by SPOT page * 2 + probe (R496). -/
  traces : Tbl Nat (List (BitVec 8))
  /-- Rotating pointers of the pad arbiters: stop * 16 + bank * 2, and 1 more for the core port of a twin bank (R391); at
  2^20 + stop the row the pad sweep reads next (R405). -/
  arbs : Tbl Nat Nat
  /-- Near-tier data bytes as stored, by channel * 2^32 + data address (R415). -/
  near : List Host.Cell
  /-- What each data line's metadata and key are: channel * 2^26 + data line (R416, R426). -/
  nearMeta : Tbl Nat NearMeta
  chans : Tbl Nat Chan
  hubs : Tbl Nat Hub
  /-- Split records being written, by PMU page (R620). -/
  splits : Tbl Nat Split
  sys : Sys
  /-- The tuck store, 1 MiB, which cold reset keeps (R607, R641). -/
  tuck : List Host.Cell
deriving DecidableEq, Repr

/-- The device as it leaves cold reset, before any boot step. (DESIGN CHOICE, assumption 1) (DESIGN CHOICE, assumption 82) -/
def State.reset : State :=
  { pending := [], respStatus := .ok, respValue := 0, fresh := 0, regs := [], cores := [], caches := [], slices := [],
    nis := [], lecs := [], wakeQ := [], pads := [], padPoison := [], sram := [], rasSeq := 0, ceHist := [], faultHist := [], tblLog := [], tmaps := [],
    routers := [], traces := [], arbs := [], near := [], nearMeta := [], chans := [], hubs := [], splits := [], sys := Sys.reset, tuck := [] }

end Sys2Proof.Machine
end

