-- ==== Sys2Proof/Machine/Regs.lean ====
section
/-! DEFINITION. Places of agents and pages, reset values that depend on the page, and reading and writing one field of the
register table (R8-R12, R31, R37, R648-R656). -/

namespace Sys2Proof.Machine

/-- Stops of NMC0-NMC7 (R11). -/
def nmcStops : List Nat := [0, 80, 15, 95, 96, 176, 111, 191]
/-- Stops of HUB0-HUB7 (R11). -/
def hubStops : List Nat := [32, 48, 47, 63, 128, 144, 143, 159]
/-- Stops of the agents, by agent index (R652). -/
def agentStops : List Nat := nmcStops ++ hubStops

/-- The stop is a tile stop (R12). -/
def isTile (st : Nat) : Bool := st < 192 && !agentStops.contains st
/-- The stop of an NMC. -/
def nmcStop (k : Nat) : Nat := lget nmcStops k 0
/-- The stop of a hub. -/
def hubStop (h : Nat) : Nat := lget hubStops h 32
/-- The agent index of an agent stop (R652). -/
def agentIdx (st : Nat) : Option Nat := agentStops.findIdx? (· = st)
/-- The NMC at a stop. -/
def nmcAt (st : Nat) : Option Nat := nmcStops.findIdx? (· = st)
/-- The hub at a stop. -/
def hubAt (st : Nat) : Option Nat := hubStops.findIdx? (· = st)

/-- The die of a stop (R9). -/
def dieOf (st : Nat) : Nat := (if 8 ≤ st % 16 then 1 else 0) + (if 6 ≤ st / 16 then 2 else 0)

/-- The stop of an NI. -/
def niStop (ni : Nat) : Nat := if ni = 192 then 32 else if ni = 193 then 48 else ni
/-- The local port of an NI. -/
def niPort (ni : Nat) : Nat := if ni < 192 then 0 else 1

/-- A page by stop and slot. -/
def pageNo (st slot : Nat) : Nat := st * 256 + slot

/-- The page type at a stop and slot (R31, R652, R653, R655). -/
def pageType (st slot : Nat) : Option PageType :=
  if isTile st then
    match slot with
    | 0 => some .core | 1 => some .l2 | 2 => some .pad | 3 => some .slice | 4 => some .router
    | 5 => some .ni | 6 => some .lec | 7 => some .pmu | 8 => some .tlift | 9 => some .spot
    | _ => none
  else if slot < 128 then
    if (nmcAt st).isSome then (if slot = 0 then some .nmc else if slot < 7 then some .nmcCh else none)
    else if (hubAt st).isSome then
      (if slot = 0 then some .hub else if slot < 6 then some .port
       else if slot = 6 then some .ep else if slot = 7 then some .hdm else if slot = 8 then some .ide else none)
    else none
  else if st = 32 then
    if slot = 128 then some .tmap else if slot = 129 then some .bremap else if slot = 130 then some .ntmap
    else if slot = 131 then some .mesh else if slot = 132 then some .pmap else if slot = 133 then some .keys
    else if slot = 134 then some .sec else if slot = 135 then some .ras
    else if 144 ≤ slot ∧ slot < 160 then some .router
    else if 160 ≤ slot ∧ slot < 178 then some .ni
    else if 192 ≤ slot ∧ slot < 208 then some .spot
    else if 208 ≤ slot ∧ slot < 224 then some .pmu else none
  else if st = 48 then (if slot = 128 then some .lift else none)
  else none

/-- The type of a page by number. -/
def pageTypeNo (pg : Nat) : Option PageType := pageType (pg / 256) (pg % 256)

/-- The CORE page of a tile. -/
def pgCore (st : Nat) : Nat := pageNo st 0
/-- The L2 page of a tile. -/
def pgL2 (st : Nat) : Nat := pageNo st 1
/-- The PAD page of a tile. -/
def pgPad (st : Nat) : Nat := pageNo st 2
/-- The SLICE page of a tile. -/
def pgSlice (st : Nat) : Nat := pageNo st 3
/-- The LEC page of a tile. -/
def pgLec (st : Nat) : Nat := pageNo st 6
/-- The TLIFT page of a tile. -/
def pgTlift (st : Nat) : Nat := pageNo st 8
/-- The ROUTER page of a stop. -/
def pgRouter (st : Nat) : Nat := match agentIdx st with
  | some a => pageNo 32 (144 + a)
  | none => pageNo st 4
/-- The NI page of an NI. -/
def pgNi (ni : Nat) : Nat :=
  if ni = 192 then pageNo 32 176 else if ni = 193 then pageNo 32 177
  else match agentIdx ni with
  | some a => pageNo 32 (160 + a)
  | none => pageNo ni 5
/-- The SPOT page of a stop. -/
def pgSpot (st : Nat) : Nat := match agentIdx st with
  | some a => pageNo 32 (192 + a)
  | none => pageNo st 9
/-- The PMU page of a stop. -/
def pgPmu (st : Nat) : Nat := match agentIdx st with
  | some a => pageNo 32 (208 + a)
  | none => pageNo st 7
/-- The NMC page. -/
def pgNmc (k : Nat) : Nat := pageNo (nmcStop k) 0
/-- The NMC_CH page of channel 6k + c. -/
def pgCh (c : Nat) : Nat := pageNo (nmcStop (c / 6)) (1 + c % 6)
/-- The HUB page. -/
def pgHub (h : Nat) : Nat := pageNo (hubStop h) 0
/-- The PORT page. -/
def pgPort (h p : Nat) : Nat := pageNo (hubStop h) (1 + p)
/-- The EP page. -/
def pgEp (h : Nat) : Nat := pageNo (hubStop h) 6
/-- The HDM page. -/
def pgHdm (h : Nat) : Nat := pageNo (hubStop h) 7
/-- The IDE page. -/
def pgIde (h : Nat) : Nat := pageNo (hubStop h) 8
/-- TMAP page. -/
def pgTmap : Nat := pageNo 32 128
/-- BREMAP page. -/
def pgBremap : Nat := pageNo 32 129
/-- NTMAP page. -/
def pgNtmap : Nat := pageNo 32 130
/-- MESH page. -/
def pgMesh : Nat := pageNo 32 131
/-- PMAP page. -/
def pgPmap : Nat := pageNo 32 132
/-- KEYS page. -/
def pgKeys : Nat := pageNo 32 133
/-- SEC page. -/
def pgSec : Nat := pageNo 32 134
/-- RAS page. -/
def pgRas : Nat := pageNo 32 135
/-- LIFT page. -/
def pgLift : Nat := pageNo 48 128

/-- Page types whose ENABLE is fixed at 1 (R37). -/
def PageType.fixedEnable : PageType → Bool
  | .router | .ni | .lec | .tlift | .port | .ep | .hdm | .ide | .tmap | .bremap | .ntmap | .mesh | .pmap | .keys
  | .sec | .ras | .lift => true
  | .core | .l2 | .pad | .slice | .pmu | .spot | .nmc | .nmcCh | .hub => false

/-- Security-sensor floors as the part ships (R548). -/
def secFloor (s : Nat) : Nat := lget [2, 2, 1, 3, 2, 1] s 2

/-- The shipping contents of the P-state table: frequency in 25 MHz units, millivolts, MAXT (R558, R577). -/
def pstateRow (n : Nat) : Nat × Nat × Nat :=
  match n with
  | 0 => (136, 950, 32) | 1 => (112, 800, 0) | 2 => (88, 700, 0) | 3 => (64, 620, 0) | 4 => (40, 550, 0)
  | _ => (0, 0, 0)

/-- Router ports present at a stop: N, E, S, W, local 0, and local 1 at stops 32 and 48 (R459, R497). -/
def portsPresent (st : Nat) : Nat := if st = 32 ∨ st = 48 then 0x3F else 0x1F

/-- The stop a ROUTER page describes. -/
def routerOfPage (pg : Nat) : Nat :=
  if pg / 256 = 32 ∧ 144 ≤ pg % 256 ∧ pg % 256 < 160 then lget agentStops (pg % 256 - 144) 0 else pg / 256

/-- The NI an NI page belongs to. -/
def niOfNiPage (pg : Nat) : Nat :=
  if pg / 256 = 32 ∧ 160 ≤ pg % 256 then
    (if pg % 256 = 176 then 192 else if pg % 256 = 177 then 193 else lget agentStops (pg % 256 - 160) 0)
  else pg / 256

/-- The default route word from one stop to another: X and then Y, the shorter way in each, E and S on a tie (R468, R471). -/
def defaultRoute (src dst : Nat) : Nat :=
  let dx := (dst % 16 + 16 - src % 16) % 16
  let dy := (dst / 16 + 12 - src / 16) % 12
  let xd := if dx ≤ 8 then 1 else 3
  let nx := if dx ≤ 8 then dx else 16 - dx
  let yd := if dy ≤ 6 then 2 else 0
  let ny := if dy ≤ 6 then dy else 12 - dy
  if nx + ny = 0 then 0
  else
    let out0 := if nx = 0 then yd else xd
    let turn := if nx = 0 ∨ ny = 0 then 0 else (if yd = (xd + 1) % 4 then 2 else 1) * 4 ^ (nx - 1)
    out0 * 2 ^ 36 + (nx + ny) * 2 ^ 32 + turn + 3 * 4 ^ (nx + ny - 1)

/-- The reset value of a field on a page (R36, R37, R219, R497, R526, R555-R558 and the tables of each chapter).
(DESIGN CHOICE, assumption 1) -/
def fldReset (pg : Nat) (f : Fld) (i : Nat) : Nat :=
  if f.fid = F.PAGE_ID_SLOT.fid then pg % 256
  else if f.fid = F.PAGE_ID_STOP.fid then pg / 256
  else if f.fid = F.PAGE_ID_TYPE.fid then (match pageTypeNo pg with | some t => t.code | none => 0)
  else if f.fid = F.PAGE_VER_MAJOR.fid then 1
  else if f.fid = F.PAGE_CTL_ENABLE.fid ∨ f.fid = F.PAGE_STAT_ENABLED.fid then
    (match pageTypeNo pg with | some t => b2n t.fixedEnable | none => 0)
  else if f.fid = F.PAGE_OWNER_ALL_READ.fid then b2n (pg = pgTmap)
  else if f.fid = F.CORE_ATTR_S_TYPE.fid ∨ f.fid = F.CORE_ATTR_H_TYPE.fid then bitsOf 0x33543210 (4 * i) 3
  else if f.fid = F.ROUTER_CTL_PORT_EN.fid then portsPresent (routerOfPage pg)
  else if f.fid = F.PORT_MSI_ADDR_PA.fid then
    (0xF000000000000 + (match hubAt (pg / 256) with | some h => h | none => 0) * 2 ^ 16 + (pg % 256 - 1) * 2 ^ 12) / 4
  else if f.fid = F.NI_ROUTE_ROUTE.fid then defaultRoute (niStop (niOfNiPage pg)) (i % 192)
  else if f.fid = F.PMAP_PISTE_VALID.fid then b2n (i = 0)
  else if f.fid = F.KS_SLOT_KIND.fid then (if i = 0 then 2 else 0)
  else if f.fid = F.SEC_SENSOR_FLOOR.fid ∨ f.fid = F.SEC_SENSOR_LEVEL.fid then secFloor i
  else if f.fid = F.LIFT_PSTATE_VALID.fid then b2n (i < 5)
  else if f.fid = F.LIFT_PSTATE_FREQ.fid then (pstateRow i).1
  else if f.fid = F.LIFT_PSTATE_MV.fid then (pstateRow i).2.1
  else if f.fid = F.LIFT_PSTATE_MAXT.fid then (pstateRow i).2.2
  else f.rst

/-- The key of a field. -/
def fkey (pg : Nat) (f : Fld) (i : Nat) : FKey := ⟨pg, f.fid, i⟩

/-- The value a field holds. -/
def State.get (s : State) (pg : Nat) (f : Fld) (i : Nat) : Nat := tget s.regs (fkey pg f i) (fldReset pg f i)

/-- The state with a field set, cut to its width. -/
def State.set (s : State) (pg : Nat) (f : Fld) (i v : Nat) : State :=
  { s with regs := tset s.regs (fkey pg f i) (v % 2 ^ f.w) (fldReset pg f i) }

/-- A one-bit field as a Bool. -/
def State.flag (s : State) (pg : Nat) (f : Fld) (i : Nat := 0) : Bool := s.get pg f i = 1

/-- A counter field counted up, staying at its largest value (saturating). -/
def State.satInc (s : State) (pg : Nat) (f : Fld) (i : Nat := 0) (k : Nat := 1) : State :=
  let v := s.get pg f i + k
  s.set pg f i (if v < 2 ^ f.w then v else 2 ^ f.w - 1)

/-- A counter field counted up, wrapping at its width. -/
def State.inc (s : State) (pg : Nat) (f : Fld) (i : Nat := 0) (k : Nat := 1) : State :=
  s.set pg f i (s.get pg f i + k)

/-- A pending-acknowledgement field counted down, never below zero. -/
def State.dec (s : State) (pg : Nat) (f : Fld) (i : Nat := 0) : State := s.set pg f i (s.get pg f i - 1)

/-- Every field of a page at its reset value. -/
def State.clearPage (s : State) (pg : Nat) : State := { s with regs := s.regs.filter fun e => e.1.page ≠ pg }

/-- Every block field of a page at its reset value, the header kept (R377). -/
def State.clearBlock (s : State) (pg : Nat) : State :=
  { s with regs := s.regs.filter fun e => e.1.page ≠ pg || fldsHdr.any (fun f => f.fid = e.1.fid) }

/-- The next free value, and the state with the counter advanced. (DESIGN CHOICE, assumption 3) -/
def State.free (s : State) : Nat × State := (Config.freeNat s.fresh, { s with fresh := s.fresh + 1 })

end Sys2Proof.Machine
end

