-- ==== Sys2Proof/Machine/Ops.lean ====
section
/-! DEFINITION. The shared operations over the state: units of a stop, pads, requests to an NI, events, page errors. -/

namespace Sys2Proof.Machine

/-- The outcome type of every meaning. -/
abbrev Out := Host.Outcome State Fault Refusal

/-- The device is out of cold reset, powered and clocked: blocks act (R569, R632, R640). -/
def State.live (s : State) : Bool := s.sys.phase = .running

/-- Every track and hub is stopped by an alarm or a tuck; timeouts pause (R547, R589, R602). (DEDUCED, assumption 86) -/
def State.frozen (s : State) : Bool := s.get pgSec F.SEC_STAT_FROZEN 0 = 1 || s.sys.tuckFrozen

/-- A command on a tile unit runs only at a tile stop; at an agent stop there is no such unit (R11, R12). A device without
clocks does nothing. (DEDUCED, assumption 5) -/
def onTile (st : Stop) (s : State) (f : State → State) : Out :=
  if isTile st.val then .next (if s.live then f s else s) else .refused .noSuchUnit

/-- A command on a unit every part has: its effect on a device with clocks. -/
def act (s : State) (f : State → State) : Out := .next (if s.live then f s else s)

/-- The core of a tile. -/
def State.core (s : State) (st : Nat) : Core := tget s.cores st Core.reset
/-- The state with a tile's core replaced. -/
def State.setCore (s : State) (st : Nat) (c : Core) : State := { s with cores := tset s.cores st c Core.reset }
/-- Apply a function to a tile's core. -/
def State.modCore (s : State) (st : Nat) (f : Core → Core) : State := s.setCore st (f (s.core st))

/-- The caches of a tile. -/
def State.cache (s : State) (st : Nat) : Caches := tget s.caches st Caches.empty
/-- The state with a tile's caches replaced. -/
def State.setCache (s : State) (st : Nat) (c : Caches) : State := { s with caches := tset s.caches st c Caches.empty }
/-- Apply a function to a tile's caches. -/
def State.modCache (s : State) (st : Nat) (f : Caches → Caches) : State := s.setCache st (f (s.cache st))

/-- The LLC slice of a tile. -/
def State.slice (s : State) (st : Nat) : Slice := tget s.slices st Slice.empty
/-- The state with a slice replaced. -/
def State.setSlice (s : State) (st : Nat) (c : Slice) : State := { s with slices := tset s.slices st c Slice.empty }
/-- A slice changed by a function. -/
def State.modSlice (s : State) (st : Nat) (f : Slice → Slice) : State := s.setSlice st (f (s.slice st))

/-- A near-tier channel. -/
def State.chan (s : State) (c : Nat) : Chan := tget s.chans c Chan.empty
/-- The state with a channel replaced. -/
def State.setChan (s : State) (c : Nat) (x : Chan) : State := { s with chans := tset s.chans c x Chan.empty }
/-- Apply a function to a channel. -/
def State.modChan (s : State) (c : Nat) (f : Chan → Chan) : State := s.setChan c (f (s.chan c))

/-- A port hub. -/
def State.hub (s : State) (h : Nat) : Hub := tget s.hubs h Hub.empty
/-- The state with a hub replaced. -/
def State.setHub (s : State) (h : Nat) (x : Hub) : State := { s with hubs := tset s.hubs h x Hub.empty }
/-- Apply a function to a hub. -/
def State.modHub (s : State) (h : Nat) (f : Hub → Hub) : State := s.setHub h (f (s.hub h))

/-- A network interface. -/
def State.ni (s : State) (n : Nat) : Ni := tget s.nis n Ni.empty
/-- The state with an NI replaced. -/
def State.setNi (s : State) (n : Nat) (c : Ni) : State := { s with nis := tset s.nis n c Ni.empty }
/-- Apply a function to an NI. -/
def State.modNi (s : State) (n : Nat) (f : Ni → Ni) : State := s.setNi n (f (s.ni n))

/-- Put a request at the end of an NI's waiting list (R476). -/
def State.send (s : State) (n : Nat) (r : Req) : State := s.modNi n fun x => { x with reqs := x.reqs ++ [r] }

/-- A request with nothing beyond its operation, class, address and origin. -/
def Req.plain (op cls pa : Nat) (org : Org) : Req :=
  { op := op, cls := cls, pa := pa, be := 0, data := 0, poison := 0, spec := false, noalloc := false, pin := false,
    key := 0, piste := 0, patrol := false, lvl := 0, org := org, dst := none, pair := none }

/-- Send an event to a source of a logical tile (R41, R293): operation EVT with the source in BE. -/
def State.sendEvt (s : State) (n lt src : Nat) (pg : Option Nat := none) : State :=
  s.send n { Req.plain 0x22 3 lt (.event pg) with be := src, patrol := 192 ≤ n }

/-- The address of a pad byte in the table of pads. -/
def padKey (st off : Nat) : Nat := st * 2 ^ 18 + off % 2 ^ 18

/-- Read bytes of a pad (R3). -/
def State.padRd (s : State) (st off len : Nat) : List Byte := Mem.rds s.pads (padKey st off) len

/-- Read a 64-bit word of a pad. -/
def State.padWord (s : State) (st off : Nat) : Nat := leNat (s.padRd st off 8)

/-- The key of the 64-bit pad word that holds an offset (R404). -/
def padWordKey (st off : Nat) : Nat := st * 2 ^ 15 + off % 2 ^ 18 / 8

/-- Some 64-bit word under the bytes is poisoned. -/
def State.padPoisoned (s : State) (st off len : Nat) : Bool :=
  s.padPoison.any fun k => padWordKey st off ≤ k && k ≤ padWordKey st (off + len - 1)

/-- Write bytes of a pad. A word written whole, or written with new data under R404, drops its poison; poisoned data
poison the words they touch. -/
def State.padWr (s : State) (st off : Nat) (bs : List Byte) (poison : Bool := false) : State :=
  let lo := padWordKey st off
  let hi := padWordKey st (off + bs.length - 1)
  let full (k : Nat) : Bool := padKey st off ≤ 8 * k && 8 * k + 8 ≤ padKey st off + bs.length
  let kept := s.padPoison.filter fun k => !(lo ≤ k && k ≤ hi && full k)
  let added := if poison then ((List.range (hi + 1 - lo)).map (lo + ·)).filter fun k => !kept.contains k else []
  { s with pads := Mem.wrs s.pads (padKey st off) bs, padPoison := kept ++ added }

/-- Write a 64-bit word of a pad. -/
def State.padWrWord (s : State) (st off v : Nat) (poison : Bool := false) : State := s.padWr st off (leBytes v 8) poison

/-- The arbiter of a port of a bank for a requester (R389, R391): 0-4 are track 0, track 1, NI inbound, frame port, repair and copy engine.
Each bank has one for its single-ported rows, and one each for the core port and the mesh port of its twin-region rows. -/
def padArbKey (st bank off req : Nat) : Nat :=
  st * 32 + bank * 4 + (if 0x4000 ≤ off then 0 else if req = 0 ∨ req = 1 ∨ req = 3 then 1 else 2)

/-- A requester wins the banks its bytes lie in, and the pointer of each moves past it (R388, R391). One access is made at a time, so no
other requester wants a bank then, and none is aged. (DESIGN CHOICE, assumption 9) -/
def State.padGrant (s : State) (st off len req : Nat) : State :=
  let off := off % 2 ^ 18
  let rows := (off % 16 + len + 15) / 16
  (List.range (if 8 < rows then 8 else rows)).foldl (fun s i =>
    let row := (off / 16 + i) % 2 ^ 14
    { s with arbs := tset s.arbs (padArbKey st (row % 8) (row * 16) req) ((req + 1) % 5) 0 }) s

/-- The pad is being zeroed: requests that arrive wait (R402). -/
def State.padBusy (s : State) (st : Nat) : Bool := s.get (pgPad st) F.PAD_STAT_ZEROING 0 ≠ 0

/-- The pad serves requests: enabled and not being zeroed (R37, R402). -/
def State.padServing (s : State) (st : Nat) : Bool :=
  s.flag (pgPad st) F.PAGE_STAT_ENABLED && !s.padBusy st

/-- The PAGE_ERR field that holds a bit position; reserved positions have none (R37, R649). -/
def errFld (bit : Nat) (t : Option PageType) : Option Fld :=
  match bit with
  | 0 => some F.PAGE_ERR_SIZE
  | 1 => some F.PAGE_ERR_LOCKED_WR
  | 2 => some F.PAGE_ERR_NOT_PATROL
  | 3 => some F.PAGE_ERR_DENIED
  | 8 => some F.PAGE_ERR_CE
  | 9 => some F.PAGE_ERR_UCR
  | 10 => some F.PAGE_ERR_FATAL
  | 16 => if t = some .nmcCh ∨ t = some .lift then some F.PAGE_ERR_BLK else none
  | _ => none

/-- The NI that carries a page's traffic: local port 1 for slots from 128 upward of stops 32 and 48 (R30). -/
def niOfPage (pg : Nat) : Nat :=
  let st := pg / 256
  if pg % 256 < 128 then st else if st = 32 then 192 else if st = 48 then 193 else st

/-- Set a PAGE_ERR bit as a real error does: the event of R41, EVT_DROP or ERR_OVF. -/
def State.raiseErr (s : State) (pg bit : Nat) : State :=
  match errFld bit (pageTypeNo pg) with
  | none => s
  | some f =>
    if s.flag pg f then s.set pg F.PAGE_STAT_ERR_OVF 0 1
    else
      let s := s.set pg f 0 1
      if bitOf (s.get pg F.PAGE_ERR_MASK_MASK 0) bit then s
      else if s.get pg F.PAGE_EVT_VALID 0 = 0 then s
      else if 160 ≤ s.get pg F.PAGE_EVT_TILE 0 then s.set pg F.PAGE_STAT_EVT_DROP 0 1
      else s.sendEvt (niOfPage pg) (s.get pg F.PAGE_EVT_TILE 0) (s.get pg F.PAGE_EVT_SOURCE 0) (some pg)

/-- ERR_ANY: some PAGE_ERR bit is 1 and its mask bit 0 (R37). -/
def State.errAny (s : State) (pg : Nat) : Bool :=
  [0, 1, 2, 3, 8, 9, 10, 16].any fun b =>
    match errFld b (pageTypeNo pg) with
    | none => false
    | some f => s.flag pg f && !bitOf (s.get pg F.PAGE_ERR_MASK_MASK 0) b

/-- Set the pending bit of a LEC source directly, as a unit of the same tile does (R292). -/
def State.lecRaise (s : State) (st src : Nat) : State :=
  let k := src / 64
  s.set (pgLec st) F.LEC_PEND_PEND k (s.get (pgLec st) F.LEC_PEND_PEND k ||| 2 ^ (src % 64))

/-- The tile map as it stands: the stop of a logical tile, when its entry is in force (R18). -/
def State.ltStop (s : State) (lt : Nat) : Option Nat :=
  if lt < 160 ∧ s.get pgTmap F.TMAP_ENT_VALID lt = 1 then some (s.get pgTmap F.TMAP_ENT_STOP lt) else none

/-- The logical tile a stop carries. -/
def State.stopLt (s : State) (st : Nat) : Option Nat :=
  (List.range 160).find? fun n => s.get pgTmap F.TMAP_ENT_VALID n = 1 && s.get pgTmap F.TMAP_ENT_STOP n = st

/-- The piste of a tile, from its NI's gate (R542). -/
def State.tilePiste (s : State) (st : Nat) : Nat := s.get (pgNi st) F.NI_GATE_PISTE_PISTE 0

/-- The chrono count (R575). -/
def State.chrono (s : State) : Nat := s.get pgLift F.LIFT_CHRONO_COUNT 0

/-- Record a response for the observer outside. -/
def State.answer (s : State) (r : Resp) (v : Word := 0) : State := { s with respStatus := r, respValue := v }

end Sys2Proof.Machine
end

