-- ==== Sys2Proof/Machine/CoreRegs.lean ====
section
/-! DEFINITION. Registers as a carve sees them, landing of results, closing, squashing (R56-R60, R69, R74, R90, R100). -/

namespace Sys2Proof.Machine

/-- A station. -/
def Core.sta (c : Core) (k : Nat) : Stn := tget c.stn k Stn.empty
/-- The core with a station replaced. -/
def Core.setSta (c : Core) (k : Nat) (x : Stn) : Core := { c with stn := tset c.stn k x Stn.empty }
/-- Apply a function to a station. -/
def Core.modSta (c : Core) (k : Nat) (f : Stn → Stn) : Core := c.setSta k (f (c.sta k))

/-- The stations older than `k`, youngest of them first. -/
def Core.olderThan (c : Core) (k : Nat) : List Nat := ((c.order.takeWhile (· ≠ k))).reverse

/-- The stations younger than `k`. -/
def Core.youngerThan (c : Core) (k : Nat) : List Nat := (c.order.dropWhile (· ≠ k)).drop 1

/-- The carve is the oldest of the core (R62). -/
def Core.isOldest (c : Core) (k : Nat) : Bool := c.order.head? = some k

/-- The station on a track. -/
def Core.onTrack (c : Core) (t : Nat) : Option Nat := if t = 0 then c.t0 else c.t1
/-- The core with a track's holder replaced. -/
def Core.setTrack (c : Core) (t : Nat) (x : Option Nat) : Core := if t = 0 then { c with t0 := x } else { c with t1 := x }
/-- The core with a station off whatever track holds it. -/
def Core.freeTrackOf (c : Core) (k : Nat) : Core :=
  { c with t0 := if c.t0 = some k then none else c.t0, t1 := if c.t1 = some k then none else c.t1 }

/-- A mark as a younger carve finds it: its access belonged to an older carve (R217). -/
def Mark.aged (m : Mark) : Mark := { m with older := true }
/-- A register whose mark is of an older carve. -/
def Rg.aged (r : Rg) : Rg := { r with m := r.m.map Mark.aged }
/-- A vector register whose marks are of an older carve. -/
def VRg.aged (r : VRg) : VRg := ⟨r.v, r.m0.map Mark.aged, r.m1.map Mark.aged, r.m2.map Mark.aged, r.m3.map Mark.aged⟩

/-- The value older carves left in global `n`, as a carve in station `k` finds it (R57, R60): the youngest of them that wrote it;
one that declared it and did not write it left the value before (R59). -/
def Core.inG (c : Core) (k n : Nat) : Rg :=
  (((c.olderThan k).findSome? fun j => tfind (c.sta j).gw n).getD (tget c.arch.g n Rg.zero)).aged

/-- The value older carves left in vector register `n`. -/
def Core.inV (c : Core) (k n : Nat) : VRg :=
  (((c.olderThan k).findSome? fun j => tfind (c.sta j).vw n).getD (tget c.arch.v n VRg.zero)).aged

/-- The VCFG older carves left. -/
def Core.inCfg (c : Core) (k : Nat) : Vcfg := ((c.olderThan k).findSome? fun j => (c.sta j).cfgw).getD c.arch.cfg

/-- A read of global `n` (R56, R59, R101): g0 is zero; the latest landed write of the carve; the value from before the carve
when declared read; zero when undeclared. -/
def Core.rdG (c : Core) (k n : Nat) : Rg :=
  if n = 0 then Rg.zero
  else match tfind (c.sta k).gw n with
  | some r => r
  | none => if bitOf (c.sta k).hdr.ird n then c.inG k n else Rg.zero

/-- A read of vector register `n` under the same rules. -/
def Core.rdV (c : Core) (k n : Nat) : VRg :=
  match tfind (c.sta k).vw n with
  | some r => r
  | none => if bitOf (c.sta k).hdr.vrd n then c.inV k n else VRg.zero

/-- What vector register `n` holds before a stride, declared read or not: the elements a destination keeps (R232, R259). -/
def Core.keptV (c : Core) (k n : Nat) : VRg :=
  match tfind (c.sta k).vw n with
  | some r => r
  | none => c.inV k n

/-- The value of vector register `n` from before the carve is settled: no older carve that writes it is open (R60). -/
def Core.settledV (c : Core) (k n : Nat) : Bool :=
  (c.olderThan k).all fun j => (c.sta j).st = .closed || !bitOf (c.sta j).hdr.vwr n

/-- A read of an integer specifier (R116). -/
def Core.rdI (c : Core) (k x : Nat) : Rg :=
  if x < 32 then c.rdG k x else tget (c.sta k).edges (x - 32) Rg.zero

/-- A read of a predicate: p0 is true (R56). -/
def Core.rdP (c : Core) (k n : Nat) : Bool := n = 0 || bitOf (c.sta k).preds n

/-- The VCFG the stride sees (R231). -/
def Core.rdCfg (c : Core) (k : Nat) : Vcfg := ((c.sta k).cfgw).getD (c.inCfg k)

/-- The vector group at `n`, as words. -/
def Core.rdGrp (c : Core) (k n g : Nat) : List VWord := (List.range g).map fun j => (c.rdV k (n + j)).v

/-- Put one result into a station (R51, R56: writes of g0 and p0 are discarded). -/
def Stn.put (x : Stn) (r : Res) : Stn :=
  match r.dst with
  | .g n => if n = 0 then x else { x with gw := tput x.gw n ⟨r.val.setWidth 64, r.m0⟩ }
  | .e n => { x with edges := tput x.edges n ⟨r.val.setWidth 64, r.m0⟩ }
  | .p n => if n = 0 then x else
      { x with preds := if r.val = 0 then x.preds &&& (255 - 2 ^ n) else x.preds ||| 2 ^ n }
  | .v n => { x with vw := tput x.vw n ⟨r.val, r.m0, r.m1, r.m2, r.m3⟩ }
  | .vcfg => { x with cfgw := some ⟨bitsOf r.val.toNat 0 8, bitsOf r.val.toNat 8 2, bitsOf r.val.toNat 10 2⟩ }
  | .none => x

/-- Land a pending result: nothing when the operation was predicated off (R93, R244). -/
def Stn.land (x : Stn) (p : Pend) : Stn :=
  if p.on then { p.res.foldl Stn.put x with flags := x.flags ||| p.flags } else x

/-- A fixed-latency result is due at or before a stride (R65). -/
def Pend.due (p : Pend) (stride : Nat) : Bool :=
  match p.lat with
  | some l => p.stride + l ≤ stride
  | none => false

/-- Release every fixed-latency result due by the stride, in issue order (R65, R100). -/
def Stn.release (x : Stn) (stride : Nat) : Stn :=
  let due := x.pend.filter fun p => p.due stride
  due.foldl Stn.land { x with pend := x.pend.filter fun p => !p.due stride }

/-- Land every fixed-latency result (R78 at a fault, R69 after the last stride). -/
def Stn.releaseAll (x : Stn) : Stn :=
  let fx := x.pend.filter fun p => p.lat.isSome
  -- release strides first, issue order within one stride (R100)
  let ks := (List.range 64).map fun s => fx.filter fun p => p.stride + p.lat.getD 0 = s
  ks.flatten.foldl Stn.land { x with pend := x.pend.filter fun p => p.lat.isNone }

/-- The declared global write masks of a header, g0 left out (R51). -/
def Hdr.gmask (h : Hdr) : List Nat := ((List.range 32).drop 1).filter fun n => bitOf h.iwr n
/-- The declared vector writes. -/
def Hdr.vmask (h : Hdr) : List Nat := (List.range 32).filter fun n => bitOf h.vwr n

/-- The carve closes (R69): a register it declared and did not write has its previous value, which younger carves find past it
and which commit leaves as it is (R59, R231). -/
def Core.close (c : Core) (k : Nat) : Core := c.modSta k fun x => { x with st := .closed }

/-- A station whose strides have all issued closes once nothing is left to land and its exit has resolved (R69). -/
def Core.tryClose (c : Core) (k : Nat) : Core :=
  let x := c.sta k
  if x.st = .draining ∧ x.pend.isEmpty ∧ x.flt.isNone ∧ x.exit ≠ .pending then c.close k else c

/-- Every declared input of the carve is available: no older carve that writes it is still open (R60, R61, R231). -/
def Core.inputsReady (c : Core) (k : Nat) : Bool :=
  let h := (c.sta k).hdr
  (c.olderThan k).all fun j =>
    let y := c.sta j
    y.st = .closed ||
      (((h.ird &&& y.hdr.iwr) >>> 1) = 0 && (h.vrd &&& y.hdr.vwr) = 0 && !(h.vec && y.wrCfg))

/-- Waiting stations whose inputs have become available turn READY (R61). -/
def Core.refresh (c : Core) : Core :=
  c.order.foldl (fun c k => if (c.sta k).st = .waiting ∧ c.inputsReady k then c.modSta k fun x => { x with st := .ready } else c) c

/-- The successor of a carve whose exit has resolved (R152), or the one its record names (R81). -/
def Stn.successor (x : Stn) : Nat := if x.exit = .taken ∨ x.useTgt then x.exitTgt else (x.addr + x.size) % 2 ^ 64

/-- The top entry of the return stack. -/
def Pred.top (p : Pred) : Option (Nat × Nat) := if p.num = 0 then none else tfind p.ras ((p.ptr + 31) % 32)

/-- A push; on a full stack it overwrites the oldest entry (R159). -/
def Pred.push (p : Pred) (e : Nat × Nat) : Pred :=
  { p with ras := tput p.ras p.ptr e, ptr := (p.ptr + 1) % 32, num := if p.num < 32 then p.num + 1 else 32 }

/-- A pop (R159). -/
def Pred.pop (p : Pred) : Pred := if p.num = 0 then p else { p with ptr := (p.ptr + 31) % 32, num := p.num - 1 }

/-- What a station records of the predictor (R160, R161). -/
def Pred.mark (p : Pred) : PredMark := ⟨p.ptr, p.num, p.top, p.hist⟩

/-- Restore the return-stack pointer, the top entry and the history a station recorded; deeper entries stay as they are (R160,
R161). -/
def Pred.restore (p : Pred) (m : PredMark) : Pred :=
  { p with
    ras := match m.top with
      | some e => tput p.ras ((m.ptr + 31) % 32) e
      | none => p.ras
    ptr := m.ptr
    num := m.num
    hist := m.hist }

/-- Squash the given stations, which are some carve and everything younger, and restart fetch at an address (R74, R75). -/
def Core.squash (c : Core) (ks : List Nat) (restart : Option Nat) : Core :=
  let pred := match ks.head? with
    | some k => c.pred.restore (c.sta k).mark
    | none => match c.fetch.buf with
      | some _ => c.pred.restore c.fetch.mark
      | none => c.pred
  let c1 := ks.foldl (fun c k => (c.freeTrackOf k).setSta k Stn.empty) c
  { c1 with
    order := c.order.filter fun k => !ks.contains k
    lq := c.lq.filter fun e => !ks.contains e.stn
    sq := c.sq.filter fun e => match e.stn with | some k => !ks.contains k | none => true
    walks := c.walks.filter fun w => match w.stn with | some k => !ks.contains k | none => false
    fetch := { c.fetch with pc := restart, buf := none, resume := none, predNext := none, want := [] }
    fetchNc := []
    pred := pred }

/-- Streaming ends: the cause is recorded, a lower code winning is the caller's order, and the capture is kept only for a
misprediction (R172). -/
def Core.rinkEnd (c : Core) (cause : Nat) : Core :=
  let rink :=
      { c.rink with
        streaming := false
        endCause := if c.rink.streaming then cause else c.rink.endCause
        cap := if cause = 1 then c.rink.cap else []
        cand := if cause = 1 then c.rink.cand else []
        copy := []
        recent := if cause = 1 then c.rink.recent else []
        pos := 0 }
  { c with rink := rink, pred := if c.rink.streaming then { c.pred with hist := [] } else c.pred }

/-- Squash everything younger than a station and restart fetch (R74). -/
def Core.squashYounger (c : Core) (k : Nat) (restart : Option Nat) : Core := c.squash (c.youngerThan k) restart

/-- Squash every uncommitted carve (R76). -/
def Core.squashAll (c : Core) (restart : Option Nat) : Core := c.squash c.order restart

/-- Where the program stands: the first uncommitted carve, else what fetch holds or is about to fetch (R277). -/
def Core.resumePoint (c : Core) : Nat :=
  match c.order.head? with
  | some k => (c.sta k).addr
  | none => match c.fetch.buf with
    | some (a, _) => a
    | none => c.fetch.pc.getD 0

/-- The oldest carve is bound (R277). -/
def Core.boundCarve (c : Core) : Bool :=
  match c.order.head? with
  | some k => (c.sta k).bound
  | none => false

/-- Rename stalls while the free registers do not cover a carve's needs (R58): registers the open carves hold. -/
def Core.iregUsed (c : Core) : Nat := c.order.foldl (fun n k => n + (c.sta k).hdr.gmask.length) 0
/-- Vector physical registers in flight. -/
def Core.vregUsed (c : Core) : Nat := c.order.foldl (fun n k => n + (c.sta k).hdr.vmask.length) 0
/-- VCFG copies in flight. -/
def Core.cfgUsed (c : Core) : Nat := c.order.foldl (fun n k => n + b2n (c.sta k).wrCfg) 0

end Sys2Proof.Machine
end

