-- ==== Sys2Proof/Machine/Events.lean ====
section
/-! DEFINITION. The event controller of a tile, presentation, claim and completion, and the counters of a PMU (R292-R310,
R610-R618). -/

namespace Sys2Proof.Machine

/-- The event controller of a tile. -/
def State.lec (s : State) (st : Nat) : Lec := tget s.lecs st Lec.empty
/-- The state with an event controller replaced. -/
def State.setLec (s : State) (st : Nat) (l : Lec) : State := { s with lecs := tset s.lecs st l Lec.empty }

/-- The target level of a source (R269, R295). -/
def State.lecTarget (s : State) (st src : Nat) : Nat :=
  let d := s.get (pgLec st) F.LEC_DELEG_DELEG 0
  let b := if src < 8 then 0 else if src < 16 then 1 else if src < 32 then 2 else 3
  if bitOf d b then 1 else 2

/-- The watchdog period in chrono counts (R310, R313: 0 acts as 1). -/
def State.wdogPeriod (s : State) (st : Nat) : Nat :=
  let p := s.get (pgLec st) F.LEC_WDOG_CTL_PERIOD 0
  (if p = 0 then 1 else p) * 1024

/-- A source is pending: a level source by its condition, an edge source by its bit (R292, R302, R309, R310). -/
def State.srcPending (s : State) (st src : Nat) : Bool :=
  if 8 ≤ src ∧ src ≤ 11 then
    bitOf (s.get (pgLec st) F.LEC_TMR_CTL_EN 0) (src - 8) && s.get (pgLec st) F.LEC_TMR_CMP_CMP (src - 8) ≤ s.chrono
  else if src = 12 then s.flag (pgLec st) F.LEC_WDOG_CTL_EN && s.wdogPeriod st ≤ (s.lec st).wcount
  else if src = 14 ∨ src = 15 then false
  else bitOf (s.get (pgLec st) F.LEC_PEND_PEND (src / 64)) (src % 64)

/-- A source is a candidate (R294). -/
def State.candidate (s : State) (st src : Nat) : Bool :=
  s.srcPending st src && !bitOf (s.get (pgLec st) F.LEC_MASK_MASK (src / 64)) (src % 64)
    && !(s.lec st).act.any (fun a => a.1 = src)

/-- The source the LEC presents, with its target level (R294, R295). -/
def State.lecPresent (s : State) (st : Nat) : Option (Nat × Nat) :=
  let src := match (s.lec st).act with
    | [] => (List.range 256).find? fun n => s.candidate st n
    | [a] => (List.range 8).find? fun n => n < a.1 && s.candidate st n
    | _ => none
  src.map fun n => (n, s.lecTarget st n)

/-- A sleeping tile's LEC asks the Lift for a wake when it would present a source (R303). -/
def State.lecWake (s : State) (st : Nat) : State :=
  if s.get (pgTlift st) F.TLIFT_TSTAT_STATE 0 ≠ 0 ∧ (s.lecPresent st).isSome ∧ ¬ s.wakeQ.contains st then
    { s with wakeQ := s.wakeQ ++ [st] }
  else s

/-- An edge event for a source of a tile's LEC; one for a source that takes no events is discarded with BADEVT (R293). -/
def State.lecEvent (s : State) (st src : Nat) : State :=
  if (8 ≤ src ∧ src ≤ 12) ∨ src = 14 ∨ src = 15 ∨ 256 ≤ src then s.set (pgLec st) F.LEC_STAT_BADEVT 0 1
  else (s.lecRaise st src).lecWake st

/-- A claim by an agent of a level: the source presented, when its target level is no higher, becomes active and an edge source's
pending bit clears (R296, R297). -/
def State.claimLec (s : State) (st lvl : Nat) : State × Option Nat :=
  match s.lecPresent st with
  | some (src, tgt) =>
    if tgt ≤ lvl then
      let l := s.lec st
      let s := s.setLec st { l with act := l.act ++ [(src, tgt)] }
      let w := s.get (pgLec st) F.LEC_PEND_PEND (src / 64)
      let s := if 8 ≤ src ∧ src ≤ 12 then s
        else s.set (pgLec st) F.LEC_PEND_PEND (src / 64) (if bitOf w (src % 64) then w - 2 ^ (src % 64) else w)
      (s, some src)
    else (s, none)
  | none => (s, none)

/-! ### Counters -/

/-- Add to a 48-bit counter of a PMU page; a wrap sets its OVF bit and raises the overflow source (R610, R625). -/
def State.pmuCount (s : State) (pg : Nat) (f : Fld) (i bit k : Nat) : State :=
  let v := s.get pg f i + k
  let s := s.set pg f i v
  if v < 2 ^ 48 then s
  else
    let o := s.get pg F.PMU_OVF_OVF 0
    if bitOf o bit then s
    else
      let s := s.set pg F.PMU_OVF_OVF 0 (o + 2 ^ bit)
      let src := s.get pg F.PMU_OVF_EVT_SOURCE 0
      if s.flag pg F.PMU_OVF_EVT_EN ∧ s.flag pg F.PAGE_STAT_ENABLED ∧ 32 ≤ src then
        if isTile (pg / 256) then s.lecEvent (pg / 256) src
        else if s.get pg F.PAGE_EVT_VALID 0 = 1 ∧ s.get pg F.PAGE_EVT_TILE 0 < 160 then
          s.sendEvt (niOfPage pg) (s.get pg F.PAGE_EVT_TILE 0) src (some pg)
        else s
      else s

/-- A counter advances unless PMU_CTL.FREEZE stops it (R624). -/
def State.pmuAdd (s : State) (pg : Nat) (f : Fld) (i bit k : Nat) : State :=
  if k = 0 ∨ s.flag pg F.PMU_CTL_FREEZE then s else s.pmuCount pg f i bit k

/-- A fixed counter advances (R611). -/
def State.pmuFix (s : State) (st i k : Nat) : State :=
  s.pmuAdd (pgPmu st) F.PMU_FIX_COUNT i i k

/-- An event of a page's programmable counters, at a level (3 for events that no level governs): its value `k` in each of `n` cycles of
the page's island; a count event passes in one (R614, R616). -/
def State.pmuEventPg (s : State) (pg code lvl k n : Nat) : State :=
  if ¬ s.flag pg F.PAGE_STAT_ENABLED then s
  else (List.range 8).foldl (fun s i =>
    if s.flag pg F.PMU_EVSEL_EN i && s.get pg F.PMU_EVSEL_EVENT i = code
        && (3 ≤ lvl || bitOf (s.get pg F.PMU_EVSEL_LVL i) lvl) then
      if s.flag pg F.PMU_EVSEL_THR_EN i then
        if s.get pg F.PMU_EVSEL_THRESH i < k then s.pmuAdd pg F.PMU_CNT_COUNT i (4 + i) n else s
      else s.pmuAdd pg F.PMU_CNT_COUNT i (4 + i) (k * n)
    else s) s

/-- An event of a stop's PMU that no level governs. (DESIGN CHOICE, assumption 13) -/
def State.pmuEvent (s : State) (st code k : Nat) : State := s.pmuEventPg (pgPmu st) code 3 k 1
/-- A core event, counted at the core's current level. -/
def State.coreEvent (s : State) (st code k : Nat) : State := s.pmuEventPg (pgPmu st) code (s.core st).sr.lvl k 1

/-- A top-down counter advances; category 0 committed, 1 unfilled, 2 wasted, 3 front-starved, 4 back-starved (R617). -/
def State.tdAdd (s : State) (st cat k : Nat) : State :=
  if k = 0 then s else s.set (pgPmu st) F.PMU_TD_COUNT cat (s.get (pgPmu st) F.PMU_TD_COUNT cat + k)

/-- An occupancy of a core in each of `n` core cycles (R614). -/
def State.coreOcc (s : State) (st code k n : Nat) : State := s.pmuEventPg (pgPmu st) code (s.core st).sr.lvl k n

/-- Slots become pending (R617). -/
def State.tdPend (s : State) (st k : Nat) : State :=
  s.set (pgPmu st) F.PMU_TD_PEND_SLOTS 0 (s.get (pgPmu st) F.PMU_TD_PEND_SLOTS 0 + k)
/-- Pending slots are resolved. -/
def State.tdUnpend (s : State) (st k : Nat) : State :=
  s.set (pgPmu st) F.PMU_TD_PEND_SLOTS 0 (s.get (pgPmu st) F.PMU_TD_PEND_SLOTS 0 - k)

end Sys2Proof.Machine
end

