-- ==== Sys2Proof/Machine/CacheOps.lean ====
section
/-! DEFINITION. A tile's own caches: hashes, lookup, allocation and eviction, fills, the stride prefetcher (R346-R354, R360,
R361, R371-R373). -/

namespace Sys2Proof.Machine

/-- F10 of a line address (R354). -/
def hashF10 (l : Nat) : Nat := bitsOf l 0 10 ^^^ bitsOf l 10 10 ^^^ bitsOf l 20 10 ^^^ bitsOf l 30 10 ^^^ bitsOf l 40 6
/-- F11 of a line address (R354). -/
def hashF11 (l : Nat) : Nat := bitsOf l 0 11 ^^^ bitsOf l 11 11 ^^^ bitsOf l 22 11 ^^^ bitsOf l 33 11 ^^^ bitsOf l 44 2

/-- L2 set of a line. -/
def l2Set (l : Nat) : Nat := hashF11 l % 1024
/-- L1D set of a line. -/
def l1Set (l : Nat) : Nat := l % 128
/-- Carve-cache set of a line. -/
def ccSet (l : Nat) : Nat := l % 256
/-- LLC and directory set of a line. -/
def llcSet (l : Nat) : Nat := hashF11 l

/-- The lowest way below `n` that is permitted and not in use. (DESIGN CHOICE, assumption 23) -/
def freeWay (n : Nat) (used : List Nat) (ok : Nat → Bool) : Option Nat :=
  (List.range n).find? fun w => ok w && !used.contains w

/-- Ways of a set in use in a table of lines. -/
def usedWays {α : Type} (t : Tbl Nat α) (setOf : Nat → Nat) (way : α → Nat) (set : Nat) : List Nat :=
  (t.filter fun e => setOf e.1 = set).map fun e => way e.2

/-- The tile's copy of a line for reading: L1D first, then L2. -/
def Caches.look (c : Caches) (line : Nat) : Option (Line × Bool × Coh) :=
  match tfind c.l1 line with
  | some l => some (l.data, l.poison, l.st)
  | none => match tfind c.l2 line with
    | some l => some (l.data, l.poison, l.st)
    | none => none

/-- L2 with the newer data of its L1D copy folded in, and the L1D copy gone (R348). -/
def Caches.foldL1 (c : Caches) (line : Nat) : Caches :=
  match tfind c.l1 line with
  | none => c
  | some a =>
    let l2 := match tfind c.l2 line with
      | some b => if a.st = .m then tput c.l2 line { b with st := .m, data := a.data, poison := a.poison } else c.l2
      | none => c.l2
    { c with l1 := terase c.l1 line, l2 := l2 }

/-- The report or write-back an L2 sends when a line leaves it (R350, R352): WB with every byte for a dirty line, with no
byte for a clean one. -/
def victimReq (line : Nat) (l : L2Line) : Req :=
  { Req.plain 0x05 0 (line * 64) (.victim line) with
    be := if l.st = .m then 2 ^ 64 - 1 else 0
    data := if l.st = .m then l.data else 0
    poison := if l.st = .m ∧ l.poison then 255 else 0
    noalloc := l.nt, key := l.key }

/-- A line leaves L2 as a victim: written back when dirty, reported when clean (R350). -/
def State.evictL2 (s : State) (st line : Nat) : State :=
  let c := (s.cache st).foldL1 line
  match tfind c.l2 line with
  | none => s.setCache st c
  | some l => (s.setCache st { c with l2 := terase c.l2 line }).send st (victimReq line l)

/-- A line leaves L2 without a word to its directory: an invalidation from the home slice, or INVAL (R351, R363). -/
def Caches.drop (c : Caches) (line : Nat) : Caches := { c with l1 := terase c.l1 line, l2 := terase c.l2 line }

/-- The ways locked in an L2 (R371). -/
def State.lockMask (s : State) (st : Nat) : Nat := s.get (pgL2 st) F.L2_LOCK_WAYMASK 0

/-- Put a line into L2. Ordinary fills take an unlocked way, lowest free first, else a victim no rule names (R346, R372).
(DESIGN CHOICE, assumption 23) -/
def State.fillL2 (s : State) (st line : Nat) (l : L2Line) : State :=
  let c := s.cache st
  match tfind c.l2 line with
  | some o => s.setCache st { c with l2 := tput c.l2 line { l with way := o.way } }
  | none =>
    let used := usedWays c.l2 l2Set (fun x : L2Line => x.way) (l2Set line)
    let ok := fun w => !bitOf (s.lockMask st) w
    match freeWay 16 used ok with
    | some w => s.setCache st { c with l2 := tput c.l2 line { l with way := w } }
    | none =>
      let cand := c.l2.filter fun e => l2Set e.1 = l2Set line && ok e.2.way
      let (r, s) := s.free
      match cand[r % cand.length]? with
      | none => s
      | some v =>
        let s := s.evictL2 st v.1
        s.modCache st fun c => { c with l2 := tput c.l2 line { l with way := v.2.way } }

/-- Put a line into a named locked way of L2 (R372). -/
def State.fillLocked (s : State) (st line way : Nat) (l : L2Line) : State :=
  s.modCache st fun c => { c with l2 := tput c.l2 line { l with way := way } }

/-- Put a copy of an L2 line into L1D; the victim's new data fold back into L2 (R348). -/
def State.fillL1 (s : State) (st line : Nat) (coh : Coh) (data : Line) (poison : Bool) : State :=
  let c := s.cache st
  match tfind c.l1 line with
  | some o => s.setCache st { c with l1 := tput c.l1 line { o with st := coh, data := data, poison := poison } }
  | none =>
    let used := usedWays c.l1 l1Set (fun x : L1Line => x.way) (l1Set line)
    match freeWay 8 used (fun _ => true) with
    | some w => s.setCache st { c with l1 := tput c.l1 line ⟨coh, data, poison, w⟩ }
    | none =>
      let cand := c.l1.filter fun e => l1Set e.1 = l1Set line
      let (r, s) := s.free
      match cand[r % cand.length]? with
      | none => s
      | some v => s.modCache st fun c =>
          let c := c.foldL1 v.1
          { c with l1 := tput c.l1 line ⟨coh, data, poison, v.2.way⟩ }

/-- The line lies in a locked way of this L2 (R371). -/
def State.heldLocked (s : State) (st line : Nat) : Bool :=
  match tfind (s.cache st).l2 line with | some l => bitOf (s.lockMask st) l.way | none => false

/-- Bring a line that L2 holds into L1D, but for a locked line of a groomed core, which L2 serves (R104). -/
def State.intoL1 (s : State) (st line : Nat) (coh : Coh) (data : Line) (poison : Bool) : State :=
  if (tfind (s.cache st).l1 line).isSome || (s.core st).groomed && s.heldLocked st line then s
  else s.fillL1 st line coh data poison

/-- The L2 serves requests: enabled, and its tags not lost (R37, R375). -/
def State.l2On (s : State) (st : Nat) : Bool := s.flag (pgL2 st) F.PAGE_STAT_ENABLED && !(s.cache st).dead

/-- Put a line into the carve cache (R346, R349). -/
def State.fillCc (s : State) (st line : Nat) (data : Line) : State :=
  let c := s.cache st
  let used := usedWays c.cc ccSet (fun x : CcLine => x.way) (ccSet line)
  match tfind c.cc line, freeWay 4 used (fun _ => true) with
  | some o, _ => s.setCache st { c with cc := tput c.cc line { o with data := data } }
  | none, some w => s.setCache st { c with cc := tput c.cc line ⟨data, w⟩ }
  | none, none =>
    let cand := c.cc.filter fun e => ccSet e.1 = ccSet line
    let (r, s) := s.free
    match cand[r % cand.length]? with
    | none => s
    | some v => s.modCache st fun c => { c with cc := tput (terase c.cc v.1) line ⟨data, v.2.way⟩ }

/-- Ask the home slice for a line, once while the request is out (R352). -/
def State.askLine (s : State) (st : Nat) (f : Fill) : State :=
  if (s.cache st).fills.any (fun x => x.line = f.line) then
    -- a demand joins a fill that is out; it stays speculative only if every party to it is
    s.modCache st fun c => { c with fills := modFirst (fun x => x.line = f.line) (fun x => { x with l1 := x.l1 || f.l1 }) c.fills }
  else
    let r := { Req.plain (if f.excl then 0x02 else 0x01) 0 (f.line * 64) (.fill f.line) with
      be := 2 ^ 64 - 1, spec := f.spec, noalloc := f.nt, pin := f.lock, key := f.key, piste := s.tilePiste st, pair := f.pair }
    (s.modCache st fun c => { c with fills := c.fills ++ [f] }).send st r

/-- The stride prefetcher sees an L1D miss or access of a stream (R360, R361): answers the lines to request. -/
def Caches.track (c : Caches) (carve stride addr degree : Nat) : Caches × List Nat :=
  match takeFirst (fun t : Tracker => t.carve = carve && t.stride = stride) c.trackers with
  | none => ({ c with trackers := (⟨carve, stride, addr, 0, false⟩ :: c.trackers).take 32 }, [])
  | some (t, rest) =>
    let d : Int := (addr : Int) - t.addr
    let conf := d = t.delta && d ≠ 0 && d.natAbs ≤ 2048
    let c := { c with trackers := { t with addr := addr, delta := d, conf := conf } :: rest }
    if !conf then (c, [])
    else
      let want := (List.range degree).filterMap fun k =>
        let a := (addr : Int) + (k + 1 : Nat) * d
        if 0 ≤ a ∧ a.toNat / 4096 = addr / 4096 then some (a.toNat / 64) else none
      (c, want.filter fun l => (tfind c.l2 l).isNone && !c.fills.any (fun f => f.line = l))

/-- DEGREE as it acts: 0 acts as 1 and 9-15 as 8 (R380). -/
def pfDegree (v : Nat) : Nat := if v = 0 then 1 else if 8 < v then 8 else v

/-- Train the prefetcher on an access and send what it asks for (R361, off in groomed mode, R104). -/
def State.prefetch (s : State) (st carve stride pa key : Nat) (nt : Bool) : State :=
  if (s.core st).groomed ∨ s.get (pgL2 st) F.L2_PF_CTL_EN 0 = 0 then s
  else
    let (c, want) := (s.cache st).track carve stride pa (pfDegree (s.get (pgL2 st) F.L2_PF_CTL_DEGREE 0))
    want.foldl (fun s l => (s.coreEvent st 0x11 1).askLine st ⟨l, false, true, false, nt, key, false, none, false⟩) (s.setCache st c)

/-- A store writes bytes of a line the tile owns: the line turns M in L1D and in L2 (R346, R350); a locked line of a groomed core is
written in L2 (R104). -/
def State.writeOwned (s : State) (st line off : Nat) (bs : List Byte) (poison : Bool) : State :=
  match (s.cache st).look line with
  | none => s
  | some (d, p, _) =>
    let data := linePut d off bs
    let poison := if bs.length = 64 then poison else p || poison
    if (s.core st).groomed && s.heldLocked st line then
      s.modCache st fun c =>
        { c with l1 := terase c.l1 line, l2 := tmodAt c.l2 line fun l => { l with st := .m, data := data, poison := poison } }
    else
      (s.modCache st fun c => { c with l2 := tmodAt c.l2 line fun l => { l with st := .m } }).fillL1 st line .m data poison

/-- L2 owns a line: its copy is M or E. -/
def Caches.owns (c : Caches) (line : Nat) : Bool :=
  match tfind c.l2 line with
  | some l => l.st ≠ .s
  | none => false

end Sys2Proof.Machine
end

