-- ==== Sys2Proof/Machine/Float.lean ====
section
/-! DEFINITION. Floating-point arithmetic on bit patterns: exact values, one rounding, flags (R225, R237-R242). Format
codes are those of R247: 0 FP64, 1 FP32, 2 FP16, 3 BF16. Every function answers a bit pattern and the flags it raises. -/

namespace Sys2Proof.Machine

/-- Exponent width of a format (R237). -/
def fpE (fmt : Nat) : Nat := match fmt with | 0 => 11 | 1 => 8 | 2 => 5 | _ => 8
/-- Precision of a format, the hidden bit counted (R237). -/
def fpP (fmt : Nat) : Nat := match fmt with | 0 => 53 | 1 => 24 | 2 => 11 | _ => 8
/-- Width of a format. -/
def fpW (fmt : Nat) : Nat := fpE fmt + fpP fmt
/-- Exponent bias, which is also emax. -/
def fpBias (fmt : Nat) : Nat := 2 ^ (fpE fmt - 1) - 1

/-- What a bit pattern stands for: a NaN, an infinity, or (-1)^neg * m * 2^e. -/
inductive FV where
  | nan (signalling : Bool)
  | inf (neg : Bool)
  | fin (neg : Bool) (m : Nat) (e : Int)
deriving DecidableEq, Repr

/-- The sign bit of a pattern. -/
def fpSign (fmt v : Nat) : Bool := bitOf v (fpW fmt - 1)

/-- Decode a pattern. -/
def fpDec (fmt v : Nat) : FV :=
  let p := fpP fmt
  let frac := bitsOf v 0 (p - 1)
  let ex := bitsOf v (p - 1) (fpE fmt)
  let neg := fpSign fmt v
  if ex = 2 ^ fpE fmt - 1 then
    if frac = 0 then .inf neg else .nan (!bitOf frac (p - 2))
  else if ex = 0 then .fin neg frac (1 - (fpBias fmt : Int) - (p - 1 : Nat))
  else .fin neg (frac + 2 ^ (p - 1)) ((ex : Int) - fpBias fmt - (p - 1 : Nat))

/-- The canonical quiet NaN (R240). (PRESUMED, assumption 94) -/
def fpNaN (fmt : Nat) : Nat := (2 ^ fpE fmt - 1) * 2 ^ (fpP fmt - 1) + 2 ^ (fpP fmt - 2)

/-- An infinity. -/
def fpInf (fmt : Nat) (neg : Bool) : Nat := b2n neg * 2 ^ (fpW fmt - 1) + (2 ^ fpE fmt - 1) * 2 ^ (fpP fmt - 1)

/-- A zero. -/
def fpZero (fmt : Nat) (neg : Bool) : Nat := b2n neg * 2 ^ (fpW fmt - 1)

/-- The largest finite magnitude. -/
def fpMax (fmt : Nat) (neg : Bool) : Nat := fpInf fmt neg - 1

/-- Whether rounding mode `rm` rounds a magnitude up, from its last kept bit, half bit and the rest below (R243). -/
def roundUp (rm : Nat) (neg lsb half rest : Bool) : Bool :=
  match rm with
  | 0 => half && (rest || lsb)
  | 1 => half
  | 2 => false
  | 3 => !neg && (half || rest)
  | _ => neg && (half || rest)

/-- `m` divided by 2^sh and rounded, and whether anything was lost. -/
def shiftRound (rm : Nat) (neg : Bool) (m sh : Nat) : Nat × Bool :=
  let k := m >>> sh
  let r := m % 2 ^ sh
  let half := sh ≠ 0 && bitOf m (sh - 1)
  let rest := sh ≠ 0 && r % 2 ^ (sh - 1) ≠ 0
  (if roundUp rm neg (bitOf k 0) half rest then k + 1 else k, r ≠ 0)

/-- Round the exact value (-1)^neg * m * 2^e once into a format (R237-R239); tininess is detected after rounding.
(PRESUMED, assumption 94) -/
def fpRound (fmt rm : Nat) (neg : Bool) (m : Nat) (e : Int) : Nat × Nat :=
  if m = 0 then (fpZero fmt neg, 0)
  else
    let p := fpP fmt
    let top : Int := e + (Nat.log2 m : Nat)
    let emin : Int := 1 - (fpBias fmt : Int)
    let q0 : Int := top - ((p - 1 : Nat) : Int)
    let qmin : Int := emin - ((p - 1 : Nat) : Int)
    let q := if q0 < qmin then qmin else q0
    let rq (qq : Int) : Nat × Bool :=
      if qq ≤ e then (m <<< (e - qq).toNat, false) else shiftRound rm neg m (qq - e).toNat
    let (k, inx) := rq q
    -- the value rounded with an unbounded exponent range is tiny when it stays below 2^emin
    let (ku, _) := rq q0
    let tiny := if q0 < qmin then (if ku = 2 ^ p then decide (top + 1 < emin) else decide (top < emin)) else false
    let (k', q') := if k = 2 ^ p then (2 ^ (p - 1), q + 1) else (k, q)
    let expTop : Int := q' + ((p - 1 : Nat) : Int)
    if 2 ^ (p - 1) ≤ k' ∧ (fpBias fmt : Int) < expTop then
      let toInf := match rm with
        | 0 => true | 1 => true | 2 => false | 3 => !neg | _ => neg
      (if toInf then fpInf fmt neg else fpMax fmt neg, fOVF + fINX)
    else
      let flags := (if inx then fINX else 0) + (if tiny && inx then fUNF else 0)
      let s := b2n neg * 2 ^ (fpW fmt - 1)
      if k' < 2 ^ (p - 1) then (s + k', flags)
      else (s + (expTop + fpBias fmt).toNat * 2 ^ (p - 1) + (k' - 2 ^ (p - 1)), flags)

/-- The INV flag of a set of NaN operands (R240). -/
def invIf (b : Bool) : Nat := if b then fINV else 0

/-- The operand is a signalling NaN. -/
def isSNaN : FV → Bool
  | .nan s => s
  | _ => false

/-- The operand is a NaN. -/
def isNaN : FV → Bool
  | .nan _ => true
  | _ => false

/-- The sign of an exact zero sum: that of the addends when they agree, else + except toward -inf. -/
def zeroSign (rm : Nat) (a b : Bool) : Bool := if a = b then a else rm = 4

/-- Sum of two finite exact values, rounded. -/
def addExact (fmt rm : Nat) (n1 : Bool) (m1 : Nat) (e1 : Int) (n2 : Bool) (m2 : Nat) (e2 : Int) : Nat × Nat :=
  let e := if e1 < e2 then e1 else e2
  let v1 : Int := (m1 <<< (e1 - e).toNat : Nat)
  let v2 : Int := (m2 <<< (e2 - e).toNat : Nat)
  let s := (if n1 then -v1 else v1) + (if n2 then -v2 else v2)
  if s = 0 then
    (fpZero fmt (zeroSign rm n1 n2), 0)
  else fpRound fmt rm (s < 0) s.natAbs e

/-- Addition of decoded values. -/
def addV (fmt rm : Nat) (x y : FV) : Nat × Nat :=
  match x, y with
  | .fin n1 m1 e1, .fin n2 m2 e2 => addExact fmt rm n1 m1 e1 n2 m2 e2
  | .inf n, .inf k => if n = k then (fpInf fmt n, 0) else (fpNaN fmt, fINV)
  | .inf n, .fin _ _ _ => (fpInf fmt n, 0)
  | .fin _ _ _, .inf n => (fpInf fmt n, 0)
  | _, _ => (fpNaN fmt, invIf (isSNaN x || isSNaN y))

/-- The value with its sign turned. -/
def negV : FV → FV
  | .nan s => .nan s
  | .inf n => .inf !n
  | .fin n m e => .fin (!n) m e

/-- Multiplication of decoded values. -/
def mulV (fmt rm : Nat) (x y : FV) : Nat × Nat :=
  match x, y with
  | .fin n1 m1 e1, .fin n2 m2 e2 => fpRound fmt rm (n1 != n2) (m1 * m2) (e1 + e2)
  | .inf n, .inf k => (fpInf fmt (n != k), 0)
  | .inf n, .fin k m _ => if m = 0 then (fpNaN fmt, fINV) else (fpInf fmt (n != k), 0)
  | .fin k m _, .inf n => if m = 0 then (fpNaN fmt, fINV) else (fpInf fmt (n != k), 0)
  | _, _ => (fpNaN fmt, invIf (isSNaN x || isSNaN y))

/-- Division of decoded values. -/
def divV (fmt rm : Nat) (x y : FV) : Nat × Nat :=
  match x, y with
  | .fin n1 m1 e1, .fin n2 m2 e2 =>
    if m2 = 0 then
      if m1 = 0 then (fpNaN fmt, fINV) else (fpInf fmt (n1 != n2), fDVZ)
    else if m1 = 0 then (fpZero fmt (n1 != n2), 0)
    else
      -- enough quotient bits for one correct rounding, the remainder kept as a sticky bit
      let k := fpP fmt + 3 + Nat.log2 m2
      let n := m1 <<< k
      fpRound fmt rm (n1 != n2) (2 * (n / m2) + b2n (n % m2 ≠ 0)) (e1 - e2 - (k : Int) - 1)
  | .inf _, .inf _ => (fpNaN fmt, fINV)
  | .inf n, .fin k _ _ => (fpInf fmt (n != k), 0)
  | .fin n _ _, .inf k => (fpZero fmt (n != k), 0)
  | _, _ => (fpNaN fmt, invIf (isSNaN x || isSNaN y))

/-- Integer square root by bits, `k` bits left. -/
def isqrtAux (n r : Nat) : Nat → Nat
  | 0 => r
  | k + 1 => isqrtAux n (if (r + 2 ^ k) * (r + 2 ^ k) ≤ n then r + 2 ^ k else r) k

/-- Square root of a decoded value. -/
def sqrtV (fmt rm : Nat) (x : FV) : Nat × Nat :=
  match x with
  | .nan s => (fpNaN fmt, invIf s)
  | .inf n => if n then (fpNaN fmt, fINV) else (fpInf fmt false, 0)
  | .fin n m e =>
    if m = 0 then (fpZero fmt n, 0)
    else if n then (fpNaN fmt, fINV)
    else
      let (m1, e1) := if e % 2 = 0 then (m, e) else (2 * m, e - 1)
      let k := fpP fmt + 2
      let v := m1 <<< (2 * k)
      let r := isqrtAux v 0 (Nat.log2 v / 2 + 1)
      fpRound fmt rm false (2 * r + b2n (r * r ≠ v)) (e1 / 2 - (k : Int) - 1)

/-- Fused multiply-add x * y + z (R237); 0 * inf sets INV whatever the addend (R240). -/
def fmaV (fmt rm : Nat) (x y z : FV) : Nat × Nat :=
  let badProd : Bool := match x, y with
    | .inf _, .fin _ m _ => m = 0
    | .fin _ m _, .inf _ => m = 0
    | _, _ => false
  if badProd then (fpNaN fmt, fINV)
  else if isNaN x || isNaN y || isNaN z then (fpNaN fmt, invIf (isSNaN x || isSNaN y || isSNaN z))
  else match x, y, z with
  | .fin n1 m1 e1, .fin n2 m2 e2, .fin n3 m3 e3 => addExact fmt rm (n1 != n2) (m1 * m2) (e1 + e2) n3 m3 e3
  | .fin _ _ _, .fin _ _ _, .inf k => (fpInf fmt k, 0)
  | .inf n, .inf k, .inf j => if (n != k) = j then (fpInf fmt j, 0) else (fpNaN fmt, fINV)
  | .inf n, .fin k _ _, .inf j => if (n != k) = j then (fpInf fmt j, 0) else (fpNaN fmt, fINV)
  | .fin k _ _, .inf n, .inf j => if (n != k) = j then (fpInf fmt j, 0) else (fpNaN fmt, fINV)
  | .inf n, .inf k, _ => (fpInf fmt (n != k), 0)
  | .inf n, .fin k _ _, _ => (fpInf fmt (n != k), 0)
  | .fin k _ _, .inf n, _ => (fpInf fmt (n != k), 0)
  | _, _, _ => (fpNaN fmt, 0)

/-- Order of two numbers: less, equal or greater, on exact values; infinities included. -/
def cmpV (x y : FV) : Ordering :=
  match x, y with
  | .inf n, .inf k => if n = k then .eq else if n then .lt else .gt
  | .inf n, _ => if n then .lt else .gt
  | _, .inf k => if k then .gt else .lt
  | .fin n1 m1 e1, .fin n2 m2 e2 =>
    let e := if e1 < e2 then e1 else e2
    let v1 : Int := (m1 <<< (e1 - e).toNat : Nat)
    let v2 : Int := (m2 <<< (e2 - e).toNat : Nat)
    compare (if n1 then -v1 else v1) (if n2 then -v2 else v2)
  | _, _ => .eq

/-- minimumNumber (`mx` false) or maximumNumber (`mx` true), -0 below +0 (R241). -/
def minMax (fmt : Nat) (mx : Bool) (a b : Nat) : Nat × Nat :=
  let x := fpDec fmt a
  let y := fpDec fmt b
  let fl := invIf (isSNaN x || isSNaN y)
  if isNaN x && isNaN y then (fpNaN fmt, fl)
  else if isNaN x then (b, fl)
  else if isNaN y then (a, fl)
  else
    let less := match cmpV x y with
      | .lt => true
      | .gt => false
      | .eq => fpSign fmt a
    (if less != mx then a else b, 0)

/-- Replace the sign of a pattern. -/
def withSign (fmt v : Nat) (s : Bool) : Nat := v % 2 ^ (fpW fmt - 1) + b2n s * 2 ^ (fpW fmt - 1)

/-- Round a value to an integral value in the mode (FRND). -/
def rndV (fmt rm v : Nat) : Nat × Nat :=
  match fpDec fmt v with
  | .nan s => (fpNaN fmt, invIf s)
  | .inf n => (fpInf fmt n, 0)
  | .fin n m e =>
    if m = 0 then (fpZero fmt n, 0)
    else if 0 ≤ e then (v, 0)
    else
      let (k, inx) := shiftRound rm n m (-e).toNat
      if k = 0 then (fpZero fmt n, if inx then fINX else 0)
      else ((fpRound fmt rm n k 0).1, if inx then fINX else 0)

/-- FKIND (R246). -/
def kindV (fmt v : Nat) : Nat :=
  let s := if fpSign fmt v then 8 else 0
  s + match fpDec fmt v with
    | .nan sg => if sg then 5 else 4
    | .inf _ => 3
    | .fin _ m _ => if m = 0 then 0 else if m < 2 ^ (fpP fmt - 1) then 1 else 2

/-- Binary scalar operations F = 0-8 of R246. (PRESUMED, assumption 94) -/
def fpBin (fmt rm f a b : Nat) : Nat × Nat :=
  match f with
  | 0 => addV fmt rm (fpDec fmt a) (fpDec fmt b)
  | 1 => addV fmt rm (fpDec fmt a) (negV (fpDec fmt b))
  | 2 => mulV fmt rm (fpDec fmt a) (fpDec fmt b)
  | 3 => minMax fmt false a b
  | 4 => minMax fmt true a b
  | 5 => (withSign fmt a (fpSign fmt b), 0)
  | 6 => (withSign fmt a (!fpSign fmt b), 0)
  | 7 => (withSign fmt a (fpSign fmt a != fpSign fmt b), 0)
  | _ => divV fmt rm (fpDec fmt a) (fpDec fmt b)

/-- The FMA forms of R247: a * b + d, a * b - d, -(a * b) + d, -(a * b) - d. (PRESUMED, assumption 94) -/
def fpFma (fmt rm f a b d : Nat) : Nat × Nat :=
  let x := fpDec fmt a
  let x' := if f % 4 < 2 then x else negV x
  let z := fpDec fmt d
  let z' := if f % 2 = 0 then z else negV z
  fmaV fmt rm x' (fpDec fmt b) z'

/-- The compares of R248: 0 FEQ, 1 FLT, 2 FLE, 3 FUN (R241). -/
def fpCmp (fmt f a b : Nat) : Bool × Nat :=
  let x := fpDec fmt a
  let y := fpDec fmt b
  let un := isNaN x || isNaN y
  let sn := isSNaN x || isSNaN y
  let c := cmpV x y
  match f % 4 with
  | 0 => (!un && c == .eq, invIf sn)
  | 1 => (!un && c == .lt, invIf un)
  | 2 => (!un && c != .gt, invIf un)
  | _ => (un, invIf sn)

/-- Conversion between formats (R248). -/
def fpCvt (rm src dst v : Nat) : Nat × Nat :=
  match fpDec src v with
  | .nan s => (fpNaN dst, invIf s)
  | .inf n => (fpInf dst n, 0)
  | .fin n m e => fpRound dst rm n m e

/-- An integer converted to a format. -/
def fpOfInt (dst rm : Nat) (x : Int) : Nat × Nat := fpRound dst rm (x < 0) x.natAbs 0

/-- Conversion to an integer of `w` bits, toward zero and saturating (R242). -/
def fpToInt (src w : Nat) (signed : Bool) (v : Nat) : Int × Nat :=
  let hi : Int := if signed then (2 ^ (w - 1) : Nat) - 1 else (2 ^ w : Nat) - 1
  let lo : Int := if signed then -((2 ^ (w - 1) : Nat) : Int) else 0
  match fpDec src v with
  | .nan _ => (hi, fINV)
  | .inf n => (if n then lo else hi, fINV)
  | .fin n m e =>
    let (k, inx) := if 0 ≤ e then (m <<< e.toNat, false) else shiftRound 2 n m (-e).toNat
    let x : Int := if n then -(k : Int) else k
    if hi < x then (hi, fINV)
    else if x < lo then (lo, fINV)
    else (x, if inx then fINX else 0)

/-- A scalar operand of a format: a narrow value that is not boxed reads as the canonical NaN (R225). -/
def unbox (fmt : Nat) (v : Nat) : Nat :=
  let w := fpW fmt
  if fmt = 0 then v % 2 ^ 64
  else if bitsOf v w (64 - w) = 2 ^ (64 - w) - 1 then v % 2 ^ w else fpNaN fmt

/-- A scalar result boxed into 64 bits (R225). -/
def box (fmt : Nat) (v : Nat) : Nat :=
  let w := fpW fmt
  if fmt = 0 then v % 2 ^ 64 else v % 2 ^ w + (2 ^ (64 - w) - 1) * 2 ^ w

end Sys2Proof.Machine
end

