-- ==== Sys2Proof/Machine/IntOps.lean ====
section
/-! DEFINITION. The values of the integer, predicate and constant operations (R124-R132). -/

namespace Sys2Proof.Machine

/-- The low 32 bits sign-extended to 64 (R124). -/
def sext32 (x : Word) : Word := (x.setWidth 32).signExtend 64

/-- Opcode 0x00 (R124). -/
def aluVal (f : Nat) (a b : Word) : Word :=
  match f with
  | 0 => a + b
  | 1 => a - b
  | 2 => a &&& b
  | 3 => a ||| b
  | 4 => a ^^^ b
  | 5 => a &&& ~~~b
  | 6 => a ||| ~~~b
  | 7 => ~~~(a ^^^ b)
  | 8 => if a.slt b then a else b
  | 9 => if a.slt b then b else a
  | 10 => if a.ult b then a else b
  | 11 => if a.ult b then b else a
  | 12 => sext32 (a + b)
  | 13 => sext32 (a - b)
  | _ => 0

/-- Leading zeros of the low `n` bits. -/
def clzAux (v : Nat) : Nat → Nat
  | 0 => 0
  | n + 1 => if Nat.testBit v n then 0 else 1 + clzAux v n

/-- Trailing zeros: bits from `i` upward, `n` of them left. -/
def ctzAux (v i : Nat) : Nat → Nat
  | 0 => 0
  | n + 1 => if Nat.testBit v i then 0 else 1 + ctzAux v (i + 1) n

/-- Number of 1 bits among the low `n`. -/
def popAux (v : Nat) : Nat → Nat
  | 0 => 0
  | n + 1 => b2n (Nat.testBit v n) + popAux v n

/-- The low `n` bytes in reverse order. -/
def revBytes (v : Nat) : Nat → Nat
  | 0 => 0
  | n + 1 => (v % 256) * 256 ^ n + revBytes (v / 256) n

/-- Opcode 0x01 (R125). -/
def shiftVal (f : Nat) (a b : Word) : Word :=
  let n := b.toNat % 64
  let m := b.toNat % 32
  match f with
  | 0 => a <<< n
  | 1 => a >>> n
  | 2 => a.sshiftRight n
  | 3 => a.rotateLeft n
  | 4 => a.rotateRight n
  | 5 => ((a.setWidth 32) <<< m).signExtend 64
  | 6 => ((a.setWidth 32) >>> m).signExtend 64
  | 7 => ((a.setWidth 32).sshiftRight m).signExtend 64
  | 8 => wd (clzAux a.toNat 64)
  | 9 => wd (ctzAux a.toNat 0 64)
  | 10 => wd (popAux a.toNat 64)
  | 11 => wd (revBytes a.toNat 8)
  | 12 => (a.setWidth 8).signExtend 64
  | 13 => (a.setWidth 16).signExtend 64
  | 14 => sext32 a
  | 15 => (a.setWidth 32).setWidth 64
  | _ => 0

/-- Opcode 0x02 (R127). -/
def mulVal (f : Nat) (a b : Word) : Word :=
  match f with
  | 0 => a * b
  | 1 => BitVec.ofInt 64 (a.toInt * b.toInt / (2 ^ 64 : Int))
  | 2 => wd (a.toNat * b.toNat / 2 ^ 64)
  | 3 => BitVec.ofInt 64 (a.toInt * (b.toNat : Int) / (2 ^ 64 : Int))
  | 4 => sext32 (a * b)
  | _ => 0

/-- Signed and unsigned quotient and remainder at any width, divide by zero and overflow as R128 states. -/
def divAt {w : Nat} (f : Nat) (a b : BitVec w) : BitVec w :=
  match f with
  | 0 => if b = 0 then BitVec.allOnes w else a.sdiv b
  | 1 => if b = 0 then BitVec.allOnes w else a.udiv b
  | 2 => if b = 0 then a else a.srem b
  | _ => if b = 0 then a else a.umod b

/-- Opcode 0x03 (R128). -/
def divVal (f : Nat) (a b : Word) : Word :=
  if f < 4 then divAt f a b
  else (divAt (f - 4) (a.setWidth 32) (b.setWidth 32)).signExtend 64

/-- Opcodes 0x08-0x0F with the extended or plain immediate (R126). -/
def immVal (o : Nat) (a imm : Word) : Word :=
  match o with
  | 0x08 => a + imm
  | 0x09 => a &&& imm
  | 0x0A => a ||| imm
  | 0x0B => a ^^^ imm
  | 0x0C => a <<< (imm.toNat % 64)
  | 0x0D => a >>> (imm.toNat % 64)
  | 0x0E => a.sshiftRight (imm.toNat % 64)
  | 0x0F => a.rotateRight (imm.toNat % 64)
  | _ => 0

/-- The conditions of CMP (R129). -/
def cmpVal (f : Nat) (a b : Word) : Bool :=
  match f with
  | 0 => a = b
  | 1 => a ≠ b
  | 2 => a.slt b
  | 3 => !a.slt b
  | 4 => a.ult b
  | 5 => !a.ult b
  | 6 => (a &&& b) ≠ 0
  | 7 => (a &&& b) = 0
  | _ => false

/-- The predicate result of PLOG F = 0-6 (R131). -/
def plogVal (f : Nat) (a b : Bool) : Bool :=
  match f with
  | 0 => a && b
  | 1 => a || b
  | 2 => a != b
  | 3 => a && !b
  | 4 => a || !b
  | 5 => !a
  | 6 => a
  | _ => false

/-- LI, LIH and CADR (R132): the 36-bit immediate, the sign-extended immediate, register A and the carve address. -/
def constVal (o imm36 : Nat) (imm a carve : Word) : Word :=
  match o with
  | 0x28 => imm
  | 0x29 => (a &&& 0xFFFFFFFFF#64) ||| wd (imm36 % 2 ^ 28 * 2 ^ 36)
  | 0x2A => carve + imm
  | _ => 0

/-- The number of significant bits of a quotient's magnitude, which the divide count of R97 uses. -/
def sigBits (v : Nat) : Nat := if v = 0 then 0 else Nat.log2 v + 1

end Sys2Proof.Machine
end

