-- ==== Sys2Proof/Machine/Mmu.lean ====
section
/-! DEFINITION. Address translation: regimes, translation buffers, permissions, page walks (R190-R195, R314-R335). -/

namespace Sys2Proof.Machine

/-- Access codes of R331: 0 fetch, 1 load, 2 store, 3 atomic. -/
abbrev Acc := Nat

/-- What translating one piece of an access gives. -/
inductive XRes where
  /-- Physical address, type code of R190, key select. -/
  | ok (pa atype key : Nat)
  /-- No translation at hand: the stride is held and a walk may start (R334). -/
  | miss
  /-- D is 0 in a leaf: held until oldest, then the walker sets it (R324). -/
  | needD
  /-- A translation fault: cause, FAULT_INFO, FAULT_ADDR (R331). -/
  | fault (cause info addr : Nat)
deriving DecidableEq, Repr

/-- The regime a level uses: 0 guest, 1 host (R314). -/
def regimeOf (lvl : Nat) : Nat := if lvl = 2 then 1 else 0

/-- The first-stage control register of a regime. -/
def Sr.xlat (r : Sr) (reg : Nat) : Nat := if reg = 1 then r.hXlat.toNat else r.sXlat.toNat
/-- MODE of a control register (R316). -/
def xlMode (v : Nat) : Nat := bitsOf v 60 4
/-- Root table address. -/
def xlRoot (v : Nat) : Nat := bitsOf v 0 40 * 4096
/-- ASTAG. -/
def xlAs (v : Nat) : Nat := bitsOf v 40 16
/-- VMTAG of H_GXLAT. -/
def xlVm (v : Nat) : Nat := bitsOf v 44 12
/-- The second stage is on for a regime (R314, R326). -/
def Sr.stage2 (r : Sr) (reg : Nat) : Bool := reg = 0 && xlMode r.hGxlat.toNat ≠ 0

/-- FAULT_INFO of a translation fault (R331). -/
def xInfo (gpa : Option Nat) (level reason : Nat) (s2t : Bool) (acc : Acc) : Nat :=
  (match gpa with | some g => bitsOf g 12 40 * 4096 + 4 | none => 0) + level * 256 + reason * 16 + b2n s2t * 8 + acc

/-- The cause code of a translation fault at a stage (R270). -/
def xCause (stage2 : Bool) (acc : Acc) : Nat :=
  (if stage2 then 0x18 else 0x10) + (match acc with | 0 => 0 | 1 => 1 | _ => 2)

/-- The address is valid for a first stage of the mode (R315). -/
def canonOk (mode va : Nat) : Bool :=
  if mode = 8 then bitsOf va 47 17 = 0 || bitsOf va 47 17 = 2 ^ 17 - 1
  else if mode = 9 then bitsOf va 56 8 = 0 || bitsOf va 56 8 = 255
  else va < 2 ^ 52

/-- The address is valid for a second stage of the mode (R315). -/
def canon2Ok (mode gpa : Nat) : Bool := if mode = 8 then gpa < 2 ^ 48 else gpa < 2 ^ 52

/-- The pad-window range of R23. -/
def inPadWin (pa : Nat) : Bool := 0x4000000000 ≤ pa && pa < 0x4040000000
/-- The near-tier flat region. -/
def inNear (pa : Nat) : Bool := pa < 0x4000000000
/-- The HDM windows. -/
def inHdm (pa : Nat) : Bool := 0x1000000000000 ≤ pa && pa < 0xE000000000000
/-- The MMIO region. -/
def inMmio (pa : Nat) : Bool := 0xE000000000000 ≤ pa && pa < 0xF000000000000
/-- Control space by stop. -/
def inCtlStop (pa : Nat) : Bool := 0xFFF0000000000 ≤ pa && pa < 0xFFF0010000000
/-- Control space by logical tile. -/
def inCtlLt (pa : Nat) : Bool := 0xFFF8000000000 ≤ pa && pa < 0xFFF8010000000
/-- The Patrol window range. -/
def inPatrolWin (pa : Nat) : Bool := 0xFFFFFF0000000 ≤ pa && pa < 0x10000000000000

/-- The type of a physical address when no first stage chooses it (R193). -/
def State.physType (s : State) (st pa : Nat) : Nat :=
  if inNear pa || inHdm pa then 0
  else if inPadWin pa then (if s.stopLt st = some (bitsOf pa 18 12) then 5 else 0)
  else 3

/-- Type and NX of an entry of an attribute table (R191): table 0 CORE_ATTR_S, 1 CORE_ATTR_H. -/
def State.attrEnt (s : State) (st tbl n : Nat) : Nat × Bool :=
  if tbl = 0 then (s.get (pgCore st) F.CORE_ATTR_S_TYPE n, s.flag (pgCore st) F.CORE_ATTR_S_NX n)
  else (s.get (pgCore st) F.CORE_ATTR_H_TYPE n, s.flag (pgCore st) F.CORE_ATTR_H_NX n)

/-- Strength of a type in the order DEV-S > DEV-R > WC > WB-NT > WB (R192). -/
def typeRank (t : Nat) : Nat := match t with | 3 => 5 | 4 => 4 | 2 => 3 | 1 => 2 | _ => 1

/-- The stronger of two stage types; 7 (a reserved type, kind ATTR) when exactly one is PAD or one is reserved (R192). -/
def typeJoin (a b : Nat) : Nat :=
  if 6 ≤ a ∨ 6 ≤ b then 7
  else if a = 5 ∧ b = 5 then 5
  else if a = 5 ∨ b = 5 then 7
  else if typeRank a < typeRank b then b else a

/-- The lowest failing check of one leaf (R322): none, 5 PERM, 6 USER, 7 GUARD. `nx` is that of its attribute entry. -/
def leafCheck (acc : Acc) (lvl : Nat) (ureach first : Bool) (r w x u nx : Bool) : Option Nat :=
  let perm := match acc with
    | 0 => x && !nx
    | 1 => r
    | 2 => w
    | _ => r && w
  if !perm then some 5
  else if first && lvl = 0 && !u then some 6
  else if first && lvl ≠ 0 && u && (acc = 0 || !ureach) then some 7
  else none

/-- The check of a translation entry for an access: type and key, or the fault with the level of the leaf that refused, `l1` or `l2`,
0 for a TLB hit (R322, R328, R331). -/
def State.entCheck (s : State) (st : Nat) (sr : Sr) (e : TlbEnt) (va : Nat) (acc : Acc) (l1 l2 : Nat) : XRes :=
  let reg := e.reg
  let st1 := xlMode (sr.xlat reg) ≠ 0
  let t1 := if reg = 1 then 1 else 0
  let a1 := s.attrEnt st t1 e.attr
  let a2 := s.attrEnt st 1 e.attr2
  let off := va % 2 ^ e.ps
  let pa := e.ppn * 4096 + off % 4096 + (off / 4096) * 4096
  let gpa := e.gpn * 4096 + off
  match (if st1 then leafCheck acc sr.lvl sr.ureach true e.r e.w e.x e.u a1.2 else none) with
  | some r => .fault (xCause false acc) (xInfo none l1 r false acc) va
  | none =>
    match (if e.two then leafCheck acc sr.lvl sr.ureach false e.r2 e.w2 e.x2 false a2.2 else none) with
    | some r => .fault (xCause true acc) (xInfo (some gpa) l2 r false acc) va
    | none =>
      if 2 ≤ acc ∧ ((st1 ∧ ¬ e.d) ∨ (e.two ∧ ¬ e.d2)) then .needD
      else
        let ty := if st1 && e.two then typeJoin a1.1 a2.1 else if st1 then a1.1 else a2.1
        .ok pa ty e.key

/-- A TLB entry matches an access (R334). -/
def TlbEnt.matches (e : TlbEnt) (reg as vm va : Nat) : Bool :=
  e.reg = reg && (reg = 1 || e.vmTag = vm) && (e.asTag = as || e.glob) && e.vpn = va / 2 ^ e.ps

/-- The entry for an address: in the first-level TLB of the access, else in the second-level TLB (R334). -/
def Core.tlbFind (c : Core) (fetch : Bool) (lvl va : Nat) : Option TlbEnt :=
  let reg := regimeOf lvl
  let as := xlAs (c.sr.xlat reg)
  let vm := xlVm c.sr.hGxlat.toNat
  let p := fun e : TlbEnt => e.matches reg as vm va
  match (if fetch then c.itlb else c.dtlb).find? p with
  | some e => some e
  | none => c.l2tlb.find? p

/-- Two entries translate the same page for the same regime and tags. -/
def TlbEnt.same (e x : TlbEnt) : Bool := x.reg = e.reg && x.vmTag = e.vmTag && x.asTag = e.asTag && x.vpn = e.vpn && x.ps = e.ps

/-- An entry at the head of a TLB of `n` entries; the oldest beyond that leaves (R334). (DESIGN CHOICE, assumption 102) -/
def tlbAdd (l : List TlbEnt) (n : Nat) (e : TlbEnt) : List TlbEnt := (e :: l.filter fun x => !e.same x).take n

/-- The second-level TLB with an entry: 12 ways in each of 256 sets, which the page number selects (R334). (DESIGN CHOICE, assumption
102) -/
def tlbAdd2 (l : List TlbEnt) (e : TlbEnt) : List TlbEnt :=
  let inSet (x : TlbEnt) : Bool := x.vpn % 256 = e.vpn % 256
  tlbAdd (l.filter inSet) 12 e ++ l.filter fun x => !inSet x

/-- The core with an entry in the first-level TLB of an access (R334). -/
def Core.tlbFirst (c : Core) (fetch : Bool) (e : TlbEnt) : Core :=
  if fetch then { c with itlb := tlbAdd c.itlb 64 e } else { c with dtlb := tlbAdd c.dtlb 96 e }

/-- The core with a translation that a walk installs: in the first-level TLB of the access and in the second-level TLB; an older one of
the same page leaves the other first-level TLB (R324, R334). -/
def Core.tlbFill (c : Core) (fetch : Bool) (e : TlbEnt) : Core :=
  let c := { c with l2tlb := tlbAdd2 c.l2tlb e, itlb := c.itlb.filter fun x => !e.same x, dtlb := c.dtlb.filter fun x => !e.same x }
  c.tlbFirst fetch e

/-- The translation of an address lies in the second-level TLB only: the entry that refills the first level (R334). -/
def Core.tlbUp (c : Core) (fetch : Bool) (va : Nat) : Option TlbEnt :=
  let reg := regimeOf c.sr.lvl
  let p := fun e : TlbEnt => e.matches reg (xlAs (c.sr.xlat reg)) (xlVm c.sr.hGxlat.toNat) va
  if (if fetch then c.itlb else c.dtlb).any p then none else c.l2tlb.find? p

/-- Translate an address at a level (R314, R315): with every stage off it is the physical address. -/
def State.xlate (s : State) (st : Nat) (c : Core) (va : Nat) (acc : Acc) : XRes :=
  let lvl := c.sr.lvl
  let reg := regimeOf lvl
  let m1 := xlMode (c.sr.xlat reg)
  let two := c.sr.stage2 reg
  if m1 = 0 ∧ ¬ two then
    if va < 2 ^ 52 then .ok va (s.physType st va) 0 else .fault (xCause false acc) (xInfo none 0 2 false acc) va
  else if m1 ≠ 0 ∧ ¬ canonOk m1 va then .fault (xCause false acc) (xInfo none 0 2 false acc) va
  else if m1 = 0 ∧ ¬ canon2Ok (xlMode c.sr.hGxlat.toNat) va then
    .fault (xCause true acc) (xInfo (some va) 0 2 false acc) va
  else match c.tlbFind (acc = 0) lvl va with
  | some e => s.entCheck st c.sr e va acc 0 0
  | none => .miss

/-! ### The walker -/

/-- A table read as a walk sees it. -/
inductive TblRd where
  | val (v : Nat)
  /-- The line is not at hand yet: it is to be read under a key select. -/
  | wait (line key : Nat)
  /-- Poison (true) or an error response (R330). -/
  | bad (poison : Bool)
  /-- Not an address a walk may read (R329). -/
  | dev
deriving DecidableEq, Repr

/-- A leaf or the end of one stage's walk. -/
inductive StageRes where
  /-- Output address, page-size log2, leaf entry, its address and level. -/
  | leaf (pa ps ent addr level : Nat)
  | stop (level reason : Nat)
  | wait (line key : Nat)
  | walkErr (level reason : Nat)
  | walkDev (level : Nat)
  /-- A second-stage result while translating a table read ended the walk. -/
  | sub (cause info : Nat)
deriving DecidableEq, Repr

/-- What a walk leaves when it succeeds: entries for the walker caches, and second-stage leaves of its table reads that have A = 0:
address, entry and key select (R323, R334). -/
structure Trail where
  ents : List WcEnt
  marks : List (Nat × Nat × Nat)
deriving DecidableEq, Repr

/-- One trail after another. -/
def Trail.join (a b : Trail) : Trail := ⟨a.ents ++ b.ents, a.marks ++ b.marks⟩

/-- Address bits that index a table at a level (R318). -/
def levelIdx (va level : Nat) : Nat := bitsOf va (12 + 9 * (level - 1)) 9

/-- Reasons for which an entry ends the walk, or whether it points on (R320, R321): U and G of a second-stage entry are ignored. -/
def entKind (second : Bool) (ent level : Nat) : Option Nat :=
  let rwx := bitsOf ent 1 3
  if ent % 2 = 0 then some 1
  else if bitsOf ent 54 2 ≠ 0 ∨ bitOf ent 11 then some 3
  else if rwx = 0 then
    if (if second then bitsOf ent 6 5 else bitsOf ent 4 7) ≠ 0 ∨ bitsOf ent 52 2 ≠ 0 ∨ level = 1 then some 3 else none
  else if bitOf ent 2 ∧ ¬ bitOf ent 1 then some 3
  else if 4 ≤ level then some 3
  else if (level = 2 ∧ bitsOf ent 12 9 ≠ 0) ∨ (level = 3 ∧ bitsOf ent 12 18 ≠ 0) then some 4
  else none

/-- The leaf that an entry at a level is for an address (R321). -/
def leafOf (va ent addr level : Nat) : StageRes :=
  let ps := 12 + 9 * (level - 1)
  .leaf (bitsOf ent 12 40 * 4096 + va % 2 ^ ps) ps ent addr level

/-- One stage of a walk from a table at a level; `rd` reads an entry by its address in the stage's own address space, and `note` makes
the walker-cache entry of a pointer. -/
def stageWalk (second : Bool) (rd : Nat → (TblRd ⊕ StageRes) × Trail) (note : Nat → Nat → WcEnt) (va table : Nat) (t : Trail) :
    Nat → StageRes × Trail
  | 0 => (.stop 0 3, t)
  | level + 1 =>
    let addr := table + 8 * levelIdx va (level + 1)
    let r := rd addr
    let t := t.join r.2
    match r.1 with
    | .inr e => (e, t)
    | .inl (.wait l key) => (.wait l key, t)
    | .inl (.bad p) => (.walkErr (level + 1) (if p then 10 else 9), t)
    | .inl .dev => (.walkDev (level + 1), t)
    | .inl (.val ent) =>
      match entKind second ent (level + 1) with
      | some reason => (.stop (level + 1) reason, t)
      | none =>
        if bitsOf ent 1 3 = 0 then
          stageWalk second rd note va (bitsOf ent 12 40 * 4096) { t with ents := t.ents ++ [note (level + 1) ent] } level
        else (leafOf va ent addr (level + 1), t)

/-- Number of levels of a mode (R315). -/
def modeLevels (m : Nat) : Nat := if m = 9 then 5 else 4

/-- Address bits above the page of a level. -/
def levelPre (va level : Nat) : Nat := va / 2 ^ (12 + 9 * (level - 1))

/-- The walker-cache entry nearest the leaf for an address, where the walker caches are used (R334, R344): pointers, and leaves where
`leaves` says so. -/
def Core.wcFind (c : Core) (on second leaves : Bool) (reg as vm va : Nat) : Option WcEnt :=
  if !on then none
  else
    let hit (e : WcEnt) : Bool := e.second = second && e.reg = reg && e.asTag = as && e.vmTag = vm && levelPre va e.level = e.pre &&
      (leaves || bitsOf e.ent 1 3 = 0)
    [1, 2, 3, 4, 5].findSome? fun l => c.wcache.find? fun e => e.level = l && hit e

/-- One stage of a walk, from its root or from what the walker caches hold (R327, R334). -/
def stageFrom (second : Bool) (rd : Nat → (TblRd ⊕ StageRes) × Trail) (note : Nat → Nat → WcEnt) (va root mode : Nat)
    (hit : Option WcEnt) : StageRes × Trail :=
  match hit with
  | none => stageWalk second rd note va root ⟨[], []⟩ (modeLevels mode)
  | some e =>
    if bitsOf e.ent 1 3 = 0 then stageWalk second rd note va (bitsOf e.ent 12 40 * 4096) ⟨[], []⟩ (e.level - 1)
    else (leafOf va e.ent 0 e.level, ⟨[], []⟩)

/-- What a whole walk comes to. -/
inductive WalkEnd where
  /-- A translation, and what goes to the walker caches. -/
  | ent (e : TlbEnt) (ws : List WcEnt)
  | fault (cause info : Nat)
  /-- It waits for a table line, read under a key select. -/
  | wait (line key : Nat)
  /-- A bit to set: address of the entry, the entry as read, the entry to write, and the key select of its page. -/
  | setBits (addr old new key : Nat)
deriving DecidableEq, Repr

/-- A whole walk of both stages (R314-R331); `on` says that the walker caches are used, `rd` reads a table entry under a key select.
Checks of the access come before any A or D bit (R323). A fault found while a first-stage table read is translated, the type of its
page and the region it leads to among them, is reported as of the second stage. (DEDUCED, assumption 103) -/
def walkAll (s : State) (st : Nat) (c : Core) (on : Bool) (rd : Nat → Nat → TblRd) (va : Nat) (acc : Acc) (lvl : Nat) : WalkEnd :=
  let reg := regimeOf lvl
  let sr := { c.sr with lvl := lvl }
  let x1 := sr.xlat reg
  let m1 := xlMode x1
  let two := sr.stage2 reg
  let g := sr.hGxlat.toNat
  let m2 := xlMode g
  let vm := if reg = 1 then 0 else xlVm g
  let as := xlAs x1
  let rdp (pa key : Nat) : TblRd := if inNear pa || inHdm pa then rd pa key else .dev
  let note1 (v level ent : Nat) : WcEnt := ⟨false, reg, as, vm, level, levelPre v level, ent⟩
  let note2 (v level ent : Nat) : WcEnt := ⟨true, 0, 0, vm, level, levelPre v level, ent⟩
  let walk2 (leaves : Bool) (gpa : Nat) : StageRes × Trail :=
    if canon2Ok m2 gpa then
      stageFrom true (fun a => (.inl (rdp a 0), ⟨[], []⟩)) (note2 gpa) gpa (xlRoot g) m2 (c.wcFind on true leaves 0 0 vm gpa)
    else (.stop 0 2, ⟨[], []⟩)
  -- a first-stage table read, translated by the second stage when it is on (R326, R327, R329)
  let rd1 (gpa : Nat) : (TblRd ⊕ StageRes) × Trail :=
    if ¬ two then (.inl (rdp gpa 0), ⟨[], []⟩)
    else
      let w := walk2 true gpa
      let sub (cause level reason : Nat) : TblRd ⊕ StageRes := .inr (.sub cause (xInfo (some gpa) level reason true acc))
      match w.1 with
      | .leaf pa _ ent addr level =>
        let at2 := s.attrEnt st 1 (bitsOf ent 8 3)
        let t : Trail := ⟨[note2 gpa level ent], if bitOf ent 6 then [] else [(addr, ent, 0)]⟩
        if !bitOf ent 1 then (sub (xCause true acc) level 5, w.2)
        else if ¬ (at2.1 = 0 ∨ at2.1 = 1) then (sub 0x13 level 8, w.2)
        else match rdp pa (bitsOf ent 52 2) with
          | .dev => (sub 0x13 level 8, w.2)
          | r => (.inl r, w.2.join t)
      | .stop level reason => (sub (xCause true acc) level reason, w.2)
      | .walkErr level reason => (sub 0x14 level reason, w.2)
      | .walkDev level => (sub 0x13 level 8, w.2)
      | r => (.inr r, w.2)
  let first := if m1 = 0 then (.leaf va 52 0 0 0, ⟨[], []⟩)
    else stageFrom false rd1 (note1 va) va (xlRoot x1) m1 (c.wcFind on false false reg as vm va)
  match first.1 with
  | .wait l key => .wait l key
  | .stop level reason => .fault (xCause false acc) (xInfo none level reason false acc)
  | .walkErr level reason => .fault 0x14 (xInfo none level reason false acc)
  | .walkDev level => .fault 0x13 (xInfo none level 8 false acc)
  | .sub cause info => .fault cause info
  | .leaf gpa ps1 ent1 addr1 lev1 =>
    let second := if two then walk2 false gpa else (.leaf gpa 52 0 0 0, ⟨[], []⟩)
    match second.1 with
    | .wait l key => .wait l key
    | .stop level reason => .fault (xCause true acc) (xInfo (some gpa) level reason false acc)
    | .walkErr level reason => .fault 0x14 (xInfo (some gpa) level reason false acc)
    | .walkDev level => .fault 0x13 (xInfo (some gpa) level 8 false acc)
    | .sub cause info => .fault cause info
    | .leaf pa ps2 ent2 addr2 lev2 =>
      let ps := if ps1 < ps2 then ps1 else ps2
      let e : TlbEnt :=
        { vpn := va / 2 ^ ps, ps := ps, ppn := (pa - pa % 2 ^ ps) / 4096, gpn := (gpa - gpa % 2 ^ ps) / 4096,
          key := if two then bitsOf ent2 52 2 else bitsOf ent1 52 2,
          asTag := if m1 = 0 then 0 else as, vmTag := vm,
          glob := m1 = 0 || bitOf ent1 5, reg := reg, attr := bitsOf ent1 8 3, attr2 := bitsOf ent2 8 3, two := two,
          r := m1 = 0 || bitOf ent1 1, w := m1 = 0 || bitOf ent1 2, x := m1 = 0 || bitOf ent1 3, u := bitOf ent1 4, a := true,
          d := m1 = 0 || bitOf ent1 7, r2 := bitOf ent2 1, w2 := bitOf ent2 2, x2 := bitOf ent2 3, d2 := bitOf ent2 7 }
      let trail := first.2.join second.2
      match s.entCheck st sr e va acc lev1 lev2 with
      | .fault cause info _ => .fault cause info
      | _ =>
        -- A bits of the leaves, and D bits for a write (R323-R325)
        let wantD := 2 ≤ acc
        let n1 := ent1 ||| 64 ||| (if wantD then 128 else 0)
        let n2 := ent2 ||| 64 ||| (if wantD then 128 else 0)
        match trail.marks with
        | (addr, ent, key) :: _ => .setBits addr ent (ent ||| 64) key
        | [] =>
        if m1 ≠ 0 ∧ n1 ≠ ent1 then
          if ¬ two then .setBits addr1 ent1 n1 0
          else match (walk2 true addr1).1 with
            -- the update needs write permission in the second stage for the table page (R325)
            | .leaf tpa _ tent _ tlev =>
              if bitOf tent 2 then .setBits tpa ent1 n1 (bitsOf tent 52 2)
              else .fault (xCause true 2) (xInfo (some addr1) tlev 5 true acc)
            | .wait l key => .wait l key
            | _ => .fault (xCause true 2) (xInfo (some addr1) 0 5 true acc)
        else if two ∧ n2 ≠ ent2 then .setBits addr2 ent2 n2 0
        else .ent e trail.ents

/-- The walker caches with the entries of a walk at their heads: 32 of the first stage and 16 of the second; the oldest beyond that
leave (R334). (DESIGN CHOICE, assumption 102) -/
def Core.wcFill (c : Core) (on : Bool) (ws : List WcEnt) : Core :=
  if !on then c
  else
    let same (e x : WcEnt) : Bool := x.second = e.second && x.reg = e.reg && x.asTag = e.asTag && x.vmTag = e.vmTag && x.level = e.level && x.pre = e.pre
    let all := ws.foldl (fun l e => e :: l.filter fun x => !same e x) c.wcache
    { c with wcache := (all.filter fun e => !e.second).take 32 ++ (all.filter fun e => e.second).take 16 }

/-- What an XINV names (R337-R339). -/
structure XinvSpec where
  kind : Nat
  va : Nat
  asTag : Nat
  vmTag : Nat
  host : Bool
  g2 : Bool
  lvl : Nat
deriving DecidableEq, Repr

/-- A TLB entry that an XINV removes (R338). -/
def XinvSpec.hits (x : XinvSpec) (e : TlbEnt) : Bool :=
  let named := if x.host then e.reg = 1 else e.reg = 0 && e.vmTag = x.vmTag
  match x.kind with
  | 0 => if x.g2 then e.reg = 0 && e.vmTag = x.vmTag
         else named && x.va / 2 ^ e.ps = e.vpn && (e.asTag = x.asTag || e.glob)
  | 1 => if x.g2 then e.reg = 0 && e.vmTag = x.vmTag else named && e.asTag = x.asTag && !e.glob
  | _ => x.lvl = 2 || (e.reg = 0 && e.vmTag = x.vmTag)

/-- A walker-cache entry that an XINV removes: every one of the named regime and tag (R338). -/
def XinvSpec.hitsW (x : XinvSpec) (e : WcEnt) : Bool :=
  if x.kind = 2 && x.lvl = 2 then true
  else if x.host then e.reg = 1 else e.reg = 0 && e.vmTag = x.vmTag

/-- Remove what an XINV names, and make walks in progress install nothing (R338, R340, R341). -/
def Core.xinvApply (c : Core) (x : XinvSpec) : Core :=
  let keep := fun e : TlbEnt => !x.hits e
  { c with itlb := c.itlb.filter keep, dtlb := c.dtlb.filter keep, l2tlb := c.l2tlb.filter keep,
           wcache := c.wcache.filter (fun e => !x.hitsW e), walks := [] }

/-- Every translation of the core lost (R335). -/
def Core.tlbClear (c : Core) : Core := { c with itlb := [], dtlb := [], l2tlb := [], wcache := [], walks := [] }

/-- A walk serves an access to a page for a station, or for fetch. -/
def Walk.serves (w : Walk) (va : Nat) (acc : Acc) (stn : Option Nat) : Bool := w.va / 4096 = va / 4096 && w.acc = acc && w.stn = stn

/-- A walk for an access is in progress. -/
def Core.walkRuns (c : Core) (va : Nat) (acc : Acc) (stn : Option Nat) : Bool := c.walks.any fun w => w.serves va acc stn && w.res = .running

/-- A walk for an access was dropped (R332, R333). -/
def Core.walkDropped (c : Core) (va : Nat) (acc : Acc) (stn : Option Nat) : Bool := c.walks.any fun w => w.serves va acc stn && w.res = .dropped

/-- A started walk, at most four at once (R334); it takes the place of one that was dropped (R332). -/
def Core.startWalk (c : Core) (va : Nat) (acc : Acc) (stn : Option Nat) (spec pref : Bool) : Core :=
  if c.walkRuns va acc stn || 4 ≤ (c.walks.filter fun w => w.res = .running).length then c
  else { c with
    walks := (c.walks.filter fun w => !(w.serves va acc stn && w.res = .dropped)) ++
      [⟨va, acc, c.sr.lvl, spec, pref, stn, .running, none, false, none, none⟩] }

/-- A stride of a station has issued or faulted: what walks found for it is used up. -/
def Core.endWalks (c : Core) (k : Nat) : Core := { c with walks := c.walks.filter fun w => w.stn ≠ some k }

/-- The fault a finished walk found for an address and access of a station. -/
def Core.walkFault (c : Core) (va : Nat) (acc : Acc) (stn : Option Nat) : Option (Nat × Nat) :=
  c.walks.findSome? fun w =>
    if w.va / 4096 = va / 4096 ∧ w.acc = acc ∧ w.stn = stn ∧ w.lvl = c.sr.lvl then
      match w.res with
      | .fault cause info _ => some (cause, info)
      | _ => none
    else none

end Sys2Proof.Machine
end

