-- ==== Sys2Proof/Machine/VecOps.lean ====
section
/-! DEFINITION. The values of the vector operations, element by element (R222, R232, R250-R254). -/

namespace Sys2Proof.Machine

/-- Element `i` of a group, of width `sew` bits (R222). -/
def elemAt (grp : List VWord) (sew i : Nat) : Nat :=
  let per := 256 / sew
  bitsOf (lget grp (i / per) 0).toNat (sew * (i % per)) sew

/-- A register built from `n` elements, element 0 lowest. -/
def packReg (sew : Nat) (el : Nat → Nat) : Nat → Nat
  | 0 => 0
  | n + 1 => packReg sew el n + el n % 2 ^ sew * 2 ^ (sew * n)

/-- A group of `g` registers built from an element function. -/
def packGroup (sew g : Nat) (el : Nat → Nat) : List VWord :=
  (List.range g).map fun r => BitVec.ofNat 256 (packReg sew (fun j => el (r * (256 / sew) + j)) (256 / sew))

/-- A signed minimum or maximum of `w`-bit values. -/
def sminmax (w : Nat) (mx : Bool) (a b : Nat) : Nat :=
  if (decide (sext a w < sext b w)) != mx then a else b

/-- An unsigned minimum or maximum. -/
def uminmax (mx : Bool) (a b : Nat) : Nat := if (decide (a < b)) != mx then a else b

/-- Vector integer element operation (R250). `d` is the old destination element, for VBSL. -/
def vintEl (f w a b d : Nat) : Nat :=
  let n := b % w
  match f with
  | 0 => (a + b) % 2 ^ w
  | 1 => (a + 2 ^ w - b % 2 ^ w) % 2 ^ w
  | 2 => a &&& b
  | 3 => a ||| b
  | 4 => a ^^^ b
  | 5 => sminmax w false a b
  | 6 => sminmax w true a b
  | 7 => uminmax false a b
  | 8 => uminmax true a b
  | 9 => (a <<< n) % 2 ^ w
  | 10 => a >>> n
  | 11 => toBits (sext a w / (2 ^ n : Nat)) w
  | 12 => (a * b) % 2 ^ w
  | 13 => toBits (sext a w * sext b w / (2 ^ w : Nat)) w
  | 14 => a * b / 2 ^ w
  | _ => (d &&& a) ||| ((2 ^ w - 1 - d) &&& b)

/-- VFCVT element operation (R251). -/
def vcvtEl (f fmt rm a : Nat) : Nat × Nat :=
  let w := fpW fmt
  match f % 8 with
  | 0 => fpOfInt fmt rm (sext a w)
  | 1 => fpOfInt fmt rm a
  | 2 => let r := fpToInt fmt w true a; (toBits r.1 w, r.2)
  | 3 => let r := fpToInt fmt w false a; (toBits r.1 w, r.2)
  | 4 => rndV fmt rm a
  | _ => fpCvt rm fmt (if fmt = 2 then 3 else 2) a

/-- One element of a V-slot arithmetic operation: its value and flags (R250, R251). -/
def varithEl (o f : Nat) (c : Vcfg) (rm a b d : Nat) : Nat × Nat :=
  let fmt := (vfpFmt c f).getD 0
  if o = 0x6A ∨ o = 0x6B then (vintEl f c.sew a b d, 0)
  else if o = 0x6C then ((d + a * b) % 2 ^ c.sew, 0)
  else if o = 0x6D ∨ o = 0x6E then fpBin fmt rm (f % 8) a b
  else if o = 0x6F then fpFma fmt rm f a b d
  else if o = 0x70 then (if f % 8 = 2 then sqrtV fmt rm (fpDec fmt a) else fpBin fmt rm 8 a b)
  else if o = 0x71 then vcvtEl f fmt rm a
  else
    let r := fpCmp fmt f a b
    (if r.1 then 2 ^ c.sew - 1 else 0, r.2)

/-- One element of a permute (R252). `n` is the integer operand B, `fb` the scalar FP operand. -/
def vpermEl (f : Nat) (c : Vcfg) (A B : Nat → Nat) (n fb i : Nat) : Nat :=
  let vl := c.vl
  let at_ (X : Nat → Nat) (j : Nat) : Nat := if j < vl then X j else 0
  let cat (j : Nat) : Nat := if j < vl then A j else if j < 2 * vl then B (j - vl) else 0
  match f with
  | 0 => if n ≤ i then at_ A (i - n) else 0
  | 1 => at_ A (i + n)
  | 2 => at_ A (B i)
  | 3 => if i % 2 = 0 then at_ A (i / 2) else at_ B ((i - 1) / 2)
  | 4 => if i % 2 = 0 then at_ A (vl / 2 + i / 2) else at_ B (vl / 2 + (i - 1) / 2)
  | 5 => cat (2 * i)
  | 6 => cat (2 * i + 1)
  | 7 => at_ A (vl - 1 - i)
  | 8 => n % 2 ^ c.sew
  | _ => fb

/-- The elements of a destination group: those from VSTART to VL - 1 processed, those at or above VL zero, those below
VSTART kept; VL at most VSTART leaves all of them (R232). -/
def vdest (c : Vcfg) (vstart : Nat) (old new : Nat → Nat) (i : Nat) : Nat :=
  if c.vl ≤ vstart then old i
  else if i < vstart then old i
  else if i < c.vl then new i
  else 0

/-- The OR of the flags of the processed elements (R244). -/
def vflags (vl : Nat) (fl : Nat → Nat) : Nat :=
  (List.range vl).foldl (fun acc i => acc ||| fl i) 0

/-- One pairwise pass of the fixed tree (R254): neighbours combine, an absent one leaves the other. -/
def treePass (op : Nat → Nat → Nat × Nat) : List (Option Nat) → List (Option Nat) × Nat
  | x :: y :: t =>
    let r := treePass op t
    match x, y with
    | some a, some b => let v := op a b; (some v.1 :: r.1, v.2 ||| r.2)
    | some a, none => (some a :: r.1, r.2)
    | none, some b => (some b :: r.1, r.2)
    | none, none => (none :: r.1, r.2)
  | l => (l, 0)

/-- The fixed tree (R254), `k` passes left. -/
def treeRed (op : Nat → Nat → Nat × Nat) (l : List (Option Nat)) (fl : Nat) : Nat → Option Nat × Nat
  | 0 => ((l.head?).getD none, fl)
  | k + 1 => let r := treePass op l; treeRed op r.1 (fl ||| r.2) k

/-- A reduction in tree order, B[0] combined last (R254); VL = 0 gives B[0] (R253). -/
def reduceTree (op : Nat → Nat → Nat × Nat) (c : Vcfg) (A : Nat → Nat) (b0 : Nat) : Nat × Nat :=
  let l := (List.range c.vlmax).map fun i => if i < c.vl then some (A i) else none
  match treeRed op l 0 (Nat.log2 c.vlmax) with
  | (none, fl) => (b0, fl)
  | (some x, fl) => let r := op b0 x; (r.1, r.2 ||| fl)

/-- FSUMO: the ordered sum (R254). -/
def reduceOrd (fmt rm : Nat) (c : Vcfg) (A : Nat → Nat) (b0 : Nat) : Nat × Nat :=
  (List.range c.vl).foldl (fun acc i => let r := fpBin fmt rm 0 acc.1 (A i); (r.1, acc.2 ||| r.2)) (b0, 0)

/-- The combining operation of VRED (R253). -/
def vredOp (f w a b : Nat) : Nat × Nat :=
  (match f with
   | 0 => vintEl 0 w a b 0
   | 1 => vintEl 5 w a b 0
   | 2 => vintEl 6 w a b 0
   | 3 => vintEl 7 w a b 0
   | 4 => vintEl 8 w a b 0
   | 5 => vintEl 2 w a b 0
   | 6 => vintEl 3 w a b 0
   | _ => vintEl 4 w a b 0, 0)

/-- A reduction: VRED (0x74) or VFRED (0x75) (R253, R254). -/
def reduceVal (o f : Nat) (c : Vcfg) (rm : Nat) (A : Nat → Nat) (b0 : Nat) : Nat × Nat :=
  if o = 0x74 then reduceTree (vredOp f c.sew) c A b0
  else
    let fmt := (vfpFmt c f).getD 0
    match f % 4 with
    | 0 => reduceTree (fpBin fmt rm 0) c A b0
    | 1 => reduceOrd fmt rm c A b0
    | 2 => reduceTree (fpBin fmt rm 3) c A b0
    | _ => reduceTree (fpBin fmt rm 4) c A b0

end Sys2Proof.Machine
end

