-- ==== Sys2Proof/Machine/Lsu.lean ====
section
/-! DEFINITION. Loads, stores and atomics of a core: kinds, splitting, forwarding, ordering holds, the local pad, results
and marks (R180-R217, R275, R399). -/

namespace Sys2Proof.Machine

/-- The kind code of a load or store opcode (R180, R181); the indexed, acquire and release forms take F. -/
def kindOf (o f : Nat) : Nat :=
  match o with
  | 0x40 => 0 | 0x41 => 1 | 0x42 => 2 | 0x43 => 3 | 0x44 => 4 | 0x45 => 5 | 0x46 => 6
  | 0x47 => 8 | 0x48 => 9 | 0x49 => 10
  | 0x4A => 0 | 0x4B => 2 | 0x4C => 4 | 0x4D => 6 | 0x4E => 8 | 0x4F => 9 | 0x50 => 10
  | _ => f

/-- Bytes of a kind (R180). -/
def kindBytes (k : Nat) : Nat :=
  match k with
  | 0 => 1 | 1 => 1 | 2 => 2 | 3 => 2 | 4 => 4 | 5 => 4 | 9 => 4 | 10 => 2 | _ => 8

/-- The value a load of a kind writes, from the bytes read (R180, R225). -/
def loadVal (k raw : Nat) : VWord :=
  match k with
  | 0 => (((BitVec.ofNat 8 raw).signExtend 64).setWidth 256)
  | 2 => (((BitVec.ofNat 16 raw).signExtend 64).setWidth 256)
  | 4 => (((BitVec.ofNat 32 raw).signExtend 64).setWidth 256)
  | 9 => BitVec.ofNat 256 (box 1 raw)
  | 10 => BitVec.ofNat 256 (box 2 raw)
  | _ => BitVec.ofNat 256 (raw % 2 ^ (8 * kindBytes k))

/-- The new memory value of an atomic of `n` bytes (R185). -/
def amoNew (f n old b : Nat) : Nat :=
  let w := 8 * n
  let b := b % 2 ^ w
  match f with
  | 0 => b
  | 1 => (old + b) % 2 ^ w
  | 2 => old &&& b
  | 3 => old ||| b
  | 4 => old ^^^ b
  | 5 => sminmax w false old b
  | 6 => sminmax w true old b
  | 7 => uminmax false old b
  | _ => uminmax true old b

/-- The bytes of an atomic opcode (R185, R186). -/
def atomBytes (o f : Nat) : Nat :=
  if o = 0x59 then (if bitOf f 0 then 16 else 8) else if o = 0x56 ∨ o = 0x58 then 4 else 8

/-- The value an atomic leaves in memory: a CAS writes only on equality (R186). -/
def atomNew (o f old cmp src : Nat) : Nat :=
  let n := atomBytes o f
  if o = 0x59 then (if old = cmp % 2 ^ (8 * n) then src % 2 ^ (8 * n) else old) else amoNew f n old src

/-- Acquire and release marks of an opcode (R182, R185, R186). -/
def isAcq (o f : Nat) : Bool := o = 0x53 || o = 0x57 || o = 0x58 || (o = 0x59 && bitOf f 1)
/-- Release mark. -/
def isRel (o f : Nat) : Bool := o = 0x54 || o = 0x57 || o = 0x58 || (o = 0x59 && bitOf f 2)

/-- Split a run of bytes at 64-byte boundaries: address, offset in the access, length (R201). -/
def splitLines (a off len : Nat) : Nat → List (Nat × Nat × Nat)
  | 0 => []
  | fuel + 1 =>
    if len = 0 then []
    else
      let n := if len ≤ 64 - a % 64 then len else 64 - a % 64
      (a, off, n) :: splitLines ((a + n) % 2 ^ 64) (off + n) (len - n) fuel

/-- Two byte ranges share a byte. -/
def overlaps (a n b m : Nat) : Bool := a < b + m && b < a + n

/-! ### The local pad -/

/-- HLOCK of the frame in a trap slot (R274). -/
def State.hlock (s : State) (st k : Nat) : Bool := bitOf (s.padWord st (k * 0x400 + 0x10)) 18

/-- Some byte of an access lies in the trap slot of a frame with HLOCK = 1 (R275). -/
def State.hlockHit (s : State) (st off len : Nat) : Bool :=
  (List.range 8).any fun k =>
    k < (s.core st).sr.depth && s.hlock st k && overlaps off len (k * 0x400) 0x400

/-- The pad refuses an access of its own core (R275, R399). -/
def State.padLocalDenied (s : State) (st off len : Nat) (wr : Bool) : Bool :=
  let lvl := (s.core st).sr.lvl
  (lvl = 0 && overlaps off len 0 0x2000)
    || (lvl < 2 && s.hlockHit st off len)
    || (lvl = 0 && overlaps off len 0x3880 0x780)
    || (wr && overlaps off len 0x3900 0x700)

/-- The pad refuses an access through its window (R275, R397, R399). (DEDUCED, assumption 18) -/
def State.padInboundDenied (s : State) (st : Nat) (patrol : Bool) (piste off len : Nat) (wr : Bool) : Bool :=
  !patrol &&
    (s.hlockHit st off len
      || (wr && overlaps off len 0x3880 0x780)
      || (!wr && overlaps off len 0x3900 0x700 && piste ≠ s.tilePiste st))

/-- The physical address under which a PAD access is ordered: its offset in the core's own window (R194). -/
def State.ownPadPa (s : State) (st pa : Nat) : Nat := 0x4000000000 + (s.stopLt st).getD 0 * 2 ^ 18 + pa % 2 ^ 18

/-! ### Queues and forwarding -/

/-- Store-queue entries older than a new access of station `k`, youngest first (R205, R207). -/
def Core.sqOlder (c : Core) (k : Nat) : List Sq :=
  let of (j : Nat) : List Sq := (c.sq.filter fun e => e.stn = some j).reverse
  of k ++ (c.olderThan k).flatMap of ++ (c.sq.filter fun e => e.stn.isNone).reverse

/-- What the store queue does to a load of station `k`. -/
inductive Fwd where
  | region
  | data (bs : List Byte) (poison : Bool) (stn : Option Nat)
  /-- Held until an overlapping store of an older carve drains (R206). -/
  | hold
  /-- Region bytes, overlaid by the carve's own earlier stores, oldest first (R206). -/
  | merge (own : List Sq)
deriving DecidableEq, Repr

/-- Types that forward (R205). -/
def fwdType (t : Nat) : Bool := t = 0 || t = 1 || t = 5

/-- Store-to-load forwarding (R205, R206, R258). -/
def Core.forward (c : Core) (k pa len atype : Nat) (split vector : Bool) : Fwd :=
  let ov := (c.sqOlder k).filter fun e => e.kind = .store && overlaps pa len e.pa e.data.length
  match ov with
  | [] => .region
  | e :: _ =>
    if e.pa ≤ pa ∧ pa + len ≤ e.pa + e.data.length ∧ fwdType atype ∧ fwdType e.atype ∧ ¬ split ∧ ¬ e.split ∧ ¬ vector ∧ ¬ e.vector then
      .data ((e.data.drop (pa - e.pa)).take len) e.poison e.stn
    else if ov.any (fun x => x.stn ≠ some k) then .hold
    else if fwdType atype ∧ ¬ split ∧ ¬ vector then .merge ov.reverse
    else .region

/-- Overlay the bytes of stores on bytes read, oldest store first (R206). -/
def overlay (pa : Nat) (bs : List Byte) (own : List Sq) : List Byte :=
  own.foldl (fun bs e =>
    bs.mapIdx fun i b => if e.pa ≤ pa + i ∧ pa + i < e.pa + e.data.length then lget e.data (pa + i - e.pa) b else b) bs

/-- Load-queue entries in use (R71, R257). -/
def Core.lqUsed (c : Core) : Nat := c.lq.foldl (fun n e => n + e.ents) 0
/-- Store-queue entries in use: the second half of a split store shares the entry of the first. -/
def Core.sqUsed (c : Core) : Nat := (c.sq.filter fun e => !e.half).length
/-- Free load-queue entries, less the 32 kept for the oldest carve (R72). -/
def Core.lqRoom (c : Core) (k n : Nat) : Bool := c.lqUsed + n ≤ (if c.isOldest k then 256 else 224)
/-- Free store-queue entries. -/
def Core.sqRoom (c : Core) (k n : Nat) : Bool := c.sqUsed + n ≤ (if c.isOldest k then 192 else 160)

/-- A committed store that is not complete for ordering: a DEV-R store is complete once the NI has accepted it (R199). -/
def Sq.undone (e : Sq) : Bool := e.stn.isNone && !(e.atype = 4 && e.sent)

/-- Every WC store that has left the store queue has been performed (R196). -/
def Core.wcDone (c : Core) : Bool := c.wc.isEmpty && c.wcOut.isEmpty

/-- A hold left by a FENCE or a DEV-S store is over: the stores it names are complete (R199, R211). -/
def Core.holdOver (c : Core) (h : MemHold) : Bool :=
  h.sqs.all (fun i => !c.sq.any (fun e => e.id = i && e.undone)) && (!h.wc || c.wcDone)

/-- A memory operation waits behind an open FENCE or DEV-S hold (R199, R211). -/
def Core.fenceHeld (c : Core) (ld st : Bool) : Bool := c.holds.any fun h => ((h.loads && ld) || (h.stores && st)) && !c.holdOver h

/-- The words of the present slots of stride `s` and later. -/
def Stn.wordsFrom (x : Stn) (s : Nat) : List Nat := x.ops.drop ((List.range (4 * s)).filter fun b => bitOf x.hdr.pmap b).length

/-- The carve has a stride still to issue that holds an operation with acquire ordering. -/
def Stn.acquireAhead (x : Stn) : Bool :=
  (match x.st with | .free | .draining | .closed | .faulted => false | _ => true) &&
    (x.wordsFrom x.ptr).any fun w => !isImx w && isAcq (OpW.ofWord w).o (OpW.ofWord w).f

/-- A memory operation of station `k` follows an acquire that has not performed (R210). -/
def Core.acquireHeld (c : Core) (k : Nat) : Bool :=
  c.lq.any (fun e => e.acquire && e.st ≠ .done && (e.stn = k || (c.olderThan k).contains e.stn))
    || (c.olderThan k).any fun j => (c.sta j).acquireAhead

/-- A memory operation of station `k` follows a DEV-S load that has not performed (R210). -/
def Core.devSHeld (c : Core) (k : Nat) : Bool :=
  c.lq.any fun e => e.atype = 3 && e.st ≠ .done && (e.stn = k || (c.olderThan k).contains e.stn)

/-- A load of station `k` follows, at a shared byte, an atomic that has not performed or a load past the caches that has not
(R208, R210). (DEDUCED, assumption 96) -/
def Core.sameByteHeld (c : Core) (k pa len atype : Nat) : Bool :=
  let cached (t a : Nat) : Bool := (t = 0 || t = 1) && !inPadWin a
  c.lq.any fun e => e.st ≠ .done && (e.stn = k || (c.olderThan k).contains e.stn) &&
    ((0x55 ≤ e.op && e.op ≤ 0x59) || !cached atype pa || !cached e.atype ((e.pieces.head?).elim 0 fun p => p.pa)) &&
    e.pieces.any fun q => overlaps q.pa q.len pa len

/-- A DEV-S load waits for every earlier access, a DEV-R load for earlier device stores of its page (R210). -/
def Core.devLoadHeld (c : Core) (k pa atype : Nat) : Bool :=
  if atype = 3 then c.sq.any (fun e => e.undone) || c.lq.any (fun e => e.stn = k && e.st ≠ .done) || !c.wcDone
  else c.sq.any (fun e => e.undone && (e.atype = 3 || e.atype = 4) && e.pa / 4096 = pa / 4096)

/-! ### Results of loads -/

/-- The mark of `len` failed bytes at a virtual address; `half` says that they are the second half of a split (R213, R217). -/
def Lq.mkMark (e : Lq) (kind addr len : Nat) (half : Bool) : Mark :=
  { kind := kind, half := half, atype := e.atype, size := len, addr := addr % 2 ^ 64, atomic := 0x55 ≤ e.op && e.op ≤ 0x59,
    istride := e.stride, older := false }

/-- The KIND with which a piece failed. -/
def Lq.badOf (e : Lq) (p : Piece) : Option Nat := (e.bad.find? fun b => b.1 = p.off).map fun b => b.2

/-- The mark of the elements `lo` to `lo + per - 1`: of the lowest of them with a failed part (R213, R217, R260). -/
def Lq.quarterMark (e : Lq) (esz lo per : Nat) : Option Mark :=
  (List.range per).findSome? fun j =>
    let a := (lo + j) * esz
    e.pieces.findSome? fun p =>
      match e.badOf p with
      | none => none
      | some kind =>
        let b := if a < p.off then p.off else a
        let n := (if a + esz < p.off + p.len then a + esz else p.off + p.len) - b
        if n = 0 then none else some (e.mkMark kind (p.va + (b - p.off)) n (b ≠ a))

/-- The bytes a load has collected, in order of their offsets, missing ones zero. -/
def Lq.bytes (e : Lq) (n : Nat) : List Byte :=
  (List.range n).map fun i =>
    match e.got.find? fun g => g.1 ≤ i && i < g.1 + g.2.length with
    | some g => lget g.2 (i - g.1) 0
    | none => 0

/-- Every piece has arrived or failed. -/
def Lq.complete (e : Lq) : Bool :=
  e.pieces.all fun p => e.got.any (fun g => g.1 = p.off) || e.bad.any (fun b => b.1 = p.off)

/-- The stores of its own carve whose bytes a load takes: earlier strides, overlapping, for a load inside one line (R206). -/
def Core.ownStores (c : Core) (e : Lq) : List Sq :=
  match e.pieces with
  | [p] =>
    if e.vector || !fwdType e.atype || (0x55 ≤ e.op && e.op ≤ 0x59) then []
    else c.sq.filter fun q =>
      q.stn = some e.stn && q.stride < e.stride && q.kind = .store && overlaps p.pa p.len q.pa q.data.length
  | _ => []

/-- The youngest of some stores, listed oldest first, that writes the byte at an address (R206). -/
def byteSource (own : List Sq) (pa : Nat) : Option Sq :=
  own.foldl (fun r q => if q.pa ≤ pa ∧ pa < q.pa + q.data.length then some q else r) none

/-- The mark of a finished scalar load or atomic (R205, R206, R213, R215): that of the first failed piece with a byte that no store
of its own carve supplies, else POISON where such a store was poisoned. -/
def Lq.scalarMark (e : Lq) (own : List Sq) : Option Mark :=
  let split := 1 < e.pieces.length
  let failed := e.pieces.findSome? fun p =>
    match e.badOf p with
    | some kind =>
      if (List.range p.len).all fun i => (byteSource own (p.pa + i)).isSome then none
      else some (e.mkMark kind p.va (if split then p.len else e.size) (p.off ≠ 0))
    | none => none
  match failed with
  | some m => some m
  | none =>
    if e.pieces.any fun p => (List.range p.len).any fun i => (byteSource own (p.pa + i)).any fun q => q.poison then
      some (e.mkMark 5 e.va e.size false) else none

/-- The result of a finished scalar load or atomic; `own` are the stores of its own carve it takes bytes from. -/
def Lq.scalarRes (e : Lq) (own : List Sq) : List Res :=
  let m := e.scalarMark own
  let raw := leNat (overlay ((e.pieces.head?).getD ⟨0, 0, 0, 0⟩).pa (e.bytes e.size) own)
  if 0x55 ≤ e.op ∧ e.op ≤ 0x58 then
    let v := if e.size = 4 then (((BitVec.ofNat 32 raw).signExtend 64).setWidth 256) else BitVec.ofNat 256 raw
    [⟨if e.d < 32 then .g e.d else .e (e.d - 32), v, m, none, none, none⟩]
  else if e.op = 0x59 then
    let dst (x : Nat) : Dest := if x < 32 then .g x else .e (x - 32)
    ⟨dst e.d, BitVec.ofNat 256 (raw % 2 ^ 64), m, none, none, none⟩ ::
      (if e.size = 16 then [⟨dst (e.d + 1), BitVec.ofNat 256 (raw / 2 ^ 64), m, none, none, none⟩] else [])
  else
    let k := kindOf e.op e.f
    let dst : Dest := if 8 ≤ k then .v e.d else if e.d < 32 then .g e.d else .e (e.d - 32)
    [⟨dst, loadVal k raw, m, none, none, none⟩]

/-- The result of a finished vector load: elements from VSTART to VL - 1, the tail zero, one mark for each quarter (R232,
R260). `old` is the group from before the stride. -/
def Lq.vectorRes (e : Lq) (old : Nat → VRg) : List Res :=
  let c := e.cfg
  let esz := c.sew / 8
  let oldG := (List.range c.g).map fun r => (old r).v
  let bytes := e.bytes (c.vlmax * esz)
  let el (i : Nat) : Nat :=
    if e.part ∧ c.vl ≤ i then elemAt oldG c.sew i
    else vdest c e.vstart (elemAt oldG c.sew) (fun i => leNat ((bytes.drop (i * esz)).take esz)) i
  let grp := packGroup c.sew c.g el
  let per := 64 / c.sew
  let qmark (r q : Nat) : Option Mark :=
    let lo := r * (256 / c.sew) + q * per
    match e.quarterMark esz lo per with
    | some m => some m
    | none => if e.vstart ≤ lo ∧ (¬ e.part ∨ lo + per ≤ c.vl) then none else (old r).mark q
  (List.range c.g).map fun r => ⟨.v (e.d + r), lget grp r 0, qmark r 0, qmark r 1, qmark r 2, qmark r 3⟩

/-- A load whose pieces are all in gives its result to the pending entry it supplies (R90). -/
def Core.lqFinish (c : Core) (id : Nat) : Core :=
  match c.lq.find? fun e => e.id = id with
  | none => c
  | some e =>
    if !e.complete || e.st = .done || e.st = .refused then c
    else
      let res := if e.vector then e.vectorRes (fun r => c.keptV e.stn (e.d + r)) else e.scalarRes (c.ownStores e)
      let c := c.modSta e.stn fun x =>
        { x with pend := modFirst (fun p => p.tag = e.tag) (fun p => { p with res := res, ready := true }) x.pend }
      { c with
        nextId := c.nextId + 1
        lq := modFirst (fun x => x.id = id) (fun x => { x with st := .done, time := c.nextId }) c.lq }

/-- The byte a load read at a physical address. -/
def Lq.byteAt (e : Lq) (pa : Nat) : Option Byte :=
  match e.pieces.find? fun p => p.pa ≤ pa && pa < p.pa + p.len with
  | some p => (e.got.find? fun g => g.1 = p.off).map fun g => lget g.2 (pa - p.pa) 0
  | none => none

/-- A load `y` of a younger carve performed before `e`, which it must follow (R208, R210): `e` is an acquire, a DEV-S load or an
atomic to a shared byte, or read another value there. A load that a store after `e` supplied is not meant. -/
def Lq.passedBy (e y : Lq) (after : Nat → Bool) : Bool :=
  y.st = .done && e.st = .done && y.time < e.time && !(y.fwd.any after) &&
    (e.acquire || e.atype = 3 ||
      e.pieces.any fun p => (List.range p.len).any fun i =>
        (y.byteAt (p.pa + i)).isSome && ((0x55 ≤ e.op && e.op ≤ 0x59) || y.byteAt (p.pa + i) ≠ e.byteAt (p.pa + i)))

/-- The oldest station younger than `k` that holds a load which performed before one of `k` that it must follow (R208, R210).
(DEDUCED, assumption 96) -/
def Core.loadPassed (c : Core) (k : Nat) : Option Nat :=
  let mine := c.lq.filter fun e => e.stn = k
  (c.youngerThan k).find? fun j =>
    (c.lq.filter fun y => y.stn = j).any fun y => mine.any fun e => e.passedBy y fun i => !(c.olderThan k).contains i

/-- Data for a piece of a load. -/
def Core.lqGive (c : Core) (id off : Nat) (bs : List Byte) (bad : Option Nat) : Core :=
  let give (e : Lq) : Lq :=
    if e.got.any (fun g => g.1 = off) || e.bad.any (fun b => b.1 = off) then e
    else match bad with
    | none => { e with got := e.got ++ [(off, bs)] }
    | some k => { e with bad := e.bad ++ [(off, k)] }
  { c with lq := modFirst (fun e => e.id = id) give c.lq }.lqFinish id

/-- A load of a carve misses L1D, and L2 too where `l2` says so: the misses and the carve's fills are counted (R616). -/
def State.loadMiss (s : State) (st id : Nat) (l2 : Bool) : State :=
  let s := s.coreEvent st 0x0F 1
  let s := if l2 then s.coreEvent st 0x10 1 else s
  match (s.core st).lq.find? fun e => e.id = id with
  | some e => s.modCore st fun c => c.modSta e.stn fun x => { x with fills := x.fills + 1 + b2n l2 }
  | none => s

/-- Read one piece of a load from its region: the pad, a cache, or a request to the NI (R189-R195, R347). -/
def State.loadPiece (s : State) (st id : Nat) (p : Piece) (atype key : Nat) (spec : Bool) (pair : Option Nat) (carve stride : Nat) : State :=
  let line := p.pa / 64
  let nc : Req := { Req.plain 0x03 0 (line * 64) (.load id p.off) with
    be := beMask (p.pa % 64) p.len, spec := spec, key := key, piste := s.tilePiste st, lvl := (s.core st).sr.lvl, pair := pair }
  if atype = 5 then
    let bad := if s.padPoisoned st (p.pa % 2 ^ 18) p.len then some 5 else none
    let c := s.core st
    let trk := match c.lq.find? fun e => e.id = id, c.t1 with | some e, some k => b2n (e.stn = k) | _, _ => 0
    (s.padGrant st (p.pa % 2 ^ 18) p.len trk).modCore st fun c => c.lqGive id p.off (s.padRd st (p.pa % 2 ^ 18) p.len) bad
  else if (atype = 0 ∨ atype = 1) ∧ ¬ inPadWin p.pa then
    match (s.cache st).look line with
    | some (d, poison, coh) =>
      let s := if (tfind (s.cache st).l1 line).isSome then s
        else (s.prefetch st carve stride p.pa key (atype = 1)).intoL1 st line coh d poison
      s.modCore st fun c => c.lqGive id p.off (lineGet d (p.pa % 64) p.len) (if poison then some 5 else none)
    | none =>
      let new := !(s.cache st).fills.any fun f => f.line = line
      ((s.loadMiss st id new).askLine st ⟨line, false, spec, false, atype = 1, key, true, pair, false⟩).prefetch st carve stride p.pa key (atype = 1)
  else s.send st nc

/-- Write a WC buffer out as one request (R196). -/
def State.wcFlush (s : State) (st : Nat) (b : WcBuf) : State :=
  let be := b.bytes.foldl (fun m e => m ||| 2 ^ e.1) 0
  let data := b.bytes.foldl (fun d e => linePut d e.1 [e.2]) 0
  (s.modCore st fun c => { c with wc := c.wc.filter (fun x => x.line ≠ b.line), wcOut := c.wcOut ++ [b.line] }).send st
    { Req.plain 0x04 0 (b.line * 64) (.wcBuf b.line) with
      be := be
      data := data
      poison := b.poison
      piste := s.tilePiste st }

/-- Write out every WC buffer (R196). -/
def State.wcFlushAll (s : State) (st : Nat) : State := (s.core st).wc.foldl (fun s b => s.wcFlush st b) s

end Sys2Proof.Machine
end

