-- ==== Sys2Proof/Machine/Flits.lean ====
section
/-! DEFINITION. Flits and their routes: turn codes, headings, virtual channels, responses (R460-R473). -/

namespace Sys2Proof

/-- Heading after a turn code: 0 straight, 1 left, 2 right (R469). -/
def turnHead (h code : Nat) : Nat := match code with | 1 => (h + 3) % 4 | 2 => (h + 1) % 4 | _ => h

/-- Heading after the first `k` codes of a route (R468). -/
def routeHead (route : Nat) : Nat → Nat
  | 0 => bitsOf route 36 2
  | k + 1 => turnHead (routeHead route k) (bitsOf route (2 * k) 2)

/-- HOPS of a route. -/
def routeHops (route : Nat) : Nat := bitsOf route 32 4

/-- LPORT of a route. -/
def routeLport (route : Nat) : Nat := bitsOf route 38 1

/-- The code a flit's router applies: straight at its source. -/
def Flit.code (f : Flit) : Nat := if f.hop = 0 then 0 else bitsOf f.route (2 * (f.hop - 1)) 2

/-- The output a flit takes at the router it is in (R468, R469). -/
def Flit.out (f : Flit) : Nat :=
  if routeHops f.route = 0 then 4 + routeLport f.route
  else if f.hop = 0 then bitsOf f.route 36 2
  else if f.code = 3 then 4 + routeLport f.route
  else routeHead f.route f.hop

/-- The neighbour through an output (R460). -/
def nbr (r o : Nat) : Nat :=
  let x := r % 16
  let y := r / 16
  match o with
  | 0 => (y + 11) % 12 * 16 + x
  | 1 => y * 16 + (x + 1) % 16
  | 2 => (y + 1) % 12 * 16 + x
  | _ => y * 16 + (x + 15) % 16

/-- The output crosses a wrap link (R472). -/
def wraps (r o : Nat) : Bool :=
  match o with
  | 0 => r / 16 = 0
  | 1 => r % 16 = 15
  | 2 => r / 16 = 11
  | 3 => r % 16 = 0
  | _ => false

/-- A route word is well formed (R470). -/
def routeOk (route : Nat) : Bool :=
  let h := routeHops route
  if h = 0 then bitsOf route 0 32 = 0
  else if 14 < h then false
  else (List.range 16).all fun k =>
    let c := bitsOf route (2 * k) 2
    if k + 1 < h then c ≠ 3 else if k + 1 = h then c = 3 else c = 0

/-- The route of the response to a flit that arrived (R473): turns in reverse with left and right exchanged. -/
def backRoute (f : Flit) : Nat :=
  let h := routeHops f.route
  let lport := Machine.niPort f.src
  if h = 0 then lport * 2 ^ 38
  else
    let out0 := (routeHead f.route (h - 1) + 2) % 4
    let codes := (List.range (h - 1)).foldl (fun t k =>
      let c := bitsOf f.route (2 * k) 2
      t + (if c = 1 then 2 else if c = 2 then 1 else 0) * 4 ^ (h - 2 - k)) 0
    lport * 2 ^ 38 + out0 * 2 ^ 36 + h * 2 ^ 32 + codes + 3 * 4 ^ (h - 1)

/-- The VC of a flit (R461). -/
def Flit.vc (f : Flit) : Nat :=
  (if f.cal then (if f.cls = 1 then 10 else 8)
   else match f.cls with | 0 => 0 | 1 => 2 | 2 => 4 | _ => 6) + b2n f.dlvc

/-- The response status code of a flit. -/
def Flit.statusCode (f : Flit) : Nat := f.status.code

/-- A response flit to a request (R465, R467, R473): one that is not OK carries no payload and no poison. -/
def Flit.reply (f : Flit) (op : Nat) (r : Resp) (data : Line) (poison : Nat) : Flit :=
  let ok := r = .ok
  { op := op, cls := 1, src := f.dst, dst := f.src, tag := f.tag, epoch := f.epoch, piste := f.piste, key := 0, spec := false,
    poison := if ok then poison else 0, status := r, noalloc := false, pin := false, addr := 0,
    be := f.cls + 4 * b2n f.grant, tkt := false, grant := false, cal := f.cal, dlvc := false, route := backRoute f, hop := 0,
    payload := if ok then data else 0 }

/-- The dateline VC a flit has after leaving through an output (R472). -/
def Flit.leave (f : Flit) (r o : Nat) : Flit :=
  let vc := if 4 ≤ o then f.dlvc else if wraps r o then true else if f.hop ≠ 0 ∧ f.code ≠ 0 then false else f.dlvc
  { f with dlvc := vc, hop := f.hop + 1 }

end Sys2Proof
end

