-- ==== Sys2Proof/Machine/Report.lean ====
section
/-! DEFINITION. Raw reads of a register, error reports and the machine-check record ring (R36, R578-R581). -/

namespace Sys2Proof.Machine

/-- The index of a field at an offset of its page, where it has one. -/
def Fld.at? (f : Fld) (off : Nat) : Option Nat :=
  if off < f.off then none
  else if f.stride = 0 then (if off = f.off then some 0 else none)
  else if (off - f.off) % f.stride = 0 ∧ (off - f.off) / f.stride < f.n then some ((off - f.off) / f.stride) else none

/-- The fields of a page at an offset, with their index. -/
def fieldsAt (pg off : Nat) : List (Fld × Nat) :=
  match pageTypeNo pg with
  | none => []
  | some t => (pageFlds t).filterMap fun f => (f.at? off).map fun i => (f, i)

/-- PAGE_ID.INSTANCE (R36, R650). -/
def State.pageInstance (s : State) (pg : Nat) : Nat :=
  let st := pg / 256
  let slot := pg % 256
  if 128 ≤ slot then (if slot < 144 ∨ st = 48 then 0 else if 160 ≤ slot ∧ slot < 178 then slot - 160 else slot % 16)
  else if isTile st then (s.stopLt st).getD 0xFFFF
  else match nmcAt st with
    | some k => if slot = 0 then k else 6 * k + (slot - 1)
    | none => match hubAt st with
      | some h => if 1 ≤ slot ∧ slot ≤ 5 then 5 * h + (slot - 1) else h
      | none => 0

/-- The stored value of the register at an offset, fields as they stand. -/
def State.rawReg (s : State) (pg off : Nat) : Nat :=
  (fieldsAt pg off).foldl (fun v e =>
    (List.range e.1.rep).foldl (fun v j => v + s.get pg e.1 (e.2 * e.1.rep + j) * 2 ^ (e.1.lo + e.1.rs * j)) v) 0

/-- Every field of the register at an offset set from a value, whatever its type. -/
def State.setRaw (s : State) (pg off v : Nat) : State :=
  (fieldsAt pg off).foldl (fun (s : State) e =>
    (List.range e.1.rep).foldl (fun (s : State) j => s.set pg e.1 (e.2 * e.1.rep + j) (v >>> (e.1.lo + e.1.rs * j))) s) s

/-- The tile a report is sent to (R579). -/
def State.rasTarget (s : State) (pg : Nat) : Nat :=
  if isTile (pg / 256) then (s.stopLt (pg / 256)).getD 0xFF
  else if s.get pg F.PAGE_OWNER_PLOCK 0 = 0 then s.get pgPmap F.PMAP_PISTE_NOTICE_TILE (s.get pg F.PAGE_OWNER_PISTE 0)
  else s.get pgPmap F.PMAP_PISTE_NOTICE_TILE 0

/-- DETAIL of a record: the block's error log when it has one (R580). -/
def State.rasDetail (s : State) (pg : Nat) : Nat :=
  match pageTypeNo pg with
  | some .pad => s.rawReg pg F.PAD_ERRLOG_VALID.off
  | some .nmcCh => s.rawReg pg F.NMC_CH_ERRLOG_VALID.off
  | some .hdm => s.rawReg pg F.HDM_MEMERR_VALID.off
  | some .port => s.rawReg pg F.PORT_ERRLOG_VALID.off
  | some .core => s.rawReg pg F.CORE_MEMERR_VALID.off
  | _ => 0

/-- Offset of the record ring in the Patrol SRAM (R581). -/
def rasBase : Nat := 0x1F8000

/-- One report to the RAS unit: a record in the ring, or LOST when it is full, and the source at the target tile (R579-R581).
`cls` 0 event, 1 CE, 2 UCR, 3 FATAL. (DEDUCED, assumption 90) -/
def State.rasRecord (s : State) (pg cls kind errbits addr : Nat) (inj : Bool) : State :=
  let tgt := s.rasTarget pg
  let src := match cls with
    | 3 => some 0
    | 2 => some 1
    | 1 => if s.flag pgRas F.RAS_CTL_CE_EVT then some 3 else none
    | _ => none
  let head := s.get pgRas F.RAS_REC_STAT_HEAD 0
  let full := (head + 1) % 512 = s.get pgRas F.RAS_REC_STAT_TAIL 0
  let piste := if isTile (pg / 256) then s.tilePiste (pg / 256) else s.get pg F.PAGE_OWNER_PISTE 0
  let words : List Nat :=
    [ s.chrono,
      pg / 256 + pg % 256 * 2 ^ 8 + (match pageTypeNo pg with | some t => t.code | none => 0) * 2 ^ 16
        + s.pageInstance pg * 2 ^ 32 + piste % 64 * 2 ^ 48,
      errbits, addr, s.rasDetail pg,
      cls + kind * 2 ^ 8 + tgt % 256 * 2 ^ 16 + (src.getD 0xFF) * 2 ^ 24 + b2n inj * 2 ^ 32,
      s.rasSeq, 0 ]
  let s := if full then s.satInc pgRas F.RAS_REC_STAT_LOST
    else { s with sram := Mem.wrs s.sram (rasBase + head * 64) (words.flatMap fun w => leBytes w 8) }.set pgRas F.RAS_REC_STAT_HEAD 0 ((head + 1) % 512)
  let s := { s with rasSeq := s.rasSeq + 1 }
  match src with
  | some n => if tgt < 160 then s.sendEvt 192 tgt n else s
  | none => s

/-- The Patrol raises PATROL_NOTICE at the notice tile of a piste and keeps the reason for NOTICE_READ (R292, R552, R555).
(DESIGN CHOICE, assumption 62) -/
def State.notice (s : State) (piste reason : Nat) : State :=
  let old := tget s.sys.notices piste []
  let s := { s with sys := { s.sys with notices := tput s.sys.notices piste (old ++ [reason]) } }
  let t := s.get pgPmap F.PMAP_PISTE_NOTICE_TILE piste
  if t < 160 then s.sendEvt 192 t 4 else s

/-- An operation the Patrol firmware has to run: operation of RAS_OP, tile or slice, spare (R590, R594, R596).
(DESIGN CHOICE, assumption 59) -/
def State.rasAsk (s : State) (op who spare : Nat) : State :=
  let x := s.sys
  if x.rasWait.any (fun e => e.2.1 = who && (e.1 = 2) = (op = 2)) then s else { s with sys := { x with rasWait := x.rasWait ++ [(op, who, spare)] } }

/-- An entry at the end of the repair log: type, location, chrono count; how a location is written is not given (R600, R607).
(DESIGN CHOICE, assumption 61) -/
def State.repairEntry (s : State) (type loc : Nat) : State :=
  let n := s.sys.repairs
  if 16384 ≤ n then s
  else { s with
    tuck := Mem.wrs s.tuck (0x40000 + 16 * n) (leBytes (type + loc % 2 ^ 56 * 256) 8 ++ leBytes s.chrono 8)
    sys := { s.sys with repairs := n + 1 } }

/-- A pad column or a near-tier row reports an error; its third one is wear, entered in the repair log (R590, R600). -/
def State.lineErr (s : State) (pg type key : Nat) : State :=
  let n := tget s.faultHist key 0 + 1
  let s := { s with faultHist := tset s.faultHist key n 0 }
  if n = 3 then (s.rasRecord pg 0 6 0 0 false).repairEntry type (Config.repairLoc type key) else s

/-- A corrected error counts in the page's wear window; the one that makes CE_MAX is wear (R590). -/
def State.wear (s : State) (pg : Nat) : State :=
  let w := (let v := s.get pgRas F.RAS_WEAR_WINDOW 0; if v = 0 then 1 else v) * 1000000000
  let l := s.chrono :: (tget s.ceHist pg []).filter fun t => s.chrono < t + w
  let s := { s with ceHist := tset s.ceHist pg l [] }
  if l.length ≠ s.get pgRas F.RAS_WEAR_CE_MAX 0 then s
  else
    let s := s.rasRecord pg 0 6 0 0 false
    match pageTypeNo pg with
    | some .slice => if s.flag pgRas F.RAS_CTL_AUTO_RETIRE then s.rasAsk 2 (pg / 256) 0xFF else s
    | some .core | some .l2 | some .pad =>
      (match s.stopLt (pg / 256) with
       | some lt => if s.flag pgRas F.RAS_CTL_AUTO_SWAP then s.rasAsk 0 lt 0xFF else s
       | none => s)
    | _ => s

/-- What follows a FATAL error of a block: a cold swap for a core or an L2, retirement for a slice (R578, R594, R598). -/
def State.fatalAct (s : State) (pg : Nat) : State :=
  match pageTypeNo pg with
  | some .slice => s.rasAsk 2 (pg / 256) 0xFF
  | some .core | some .l2 => (match s.stopLt (pg / 256) with | some lt => s.rasAsk 1 lt 0xFF | none => s)
  | _ => s

/-- A class error of a page: its PAGE_ERR bit with the page event, and the report (R41, R578, R579); `cls` 1 CE, 2 UCR,
3 FATAL. -/
def State.classErr (s : State) (pg cls addr : Nat) (inj : Bool := false) : State :=
  let s := (s.raiseErr pg (7 + cls)).rasRecord pg cls 0 (2 ^ (7 + cls)) addr inj
  if cls = 1 then s.wear pg else if cls = 3 ∧ ¬ inj then s.fatalAct pg else s

end Sys2Proof.Machine
end

