-- ==== Sys2Proof/Machine/Mesh.lean ====
section
/-! DEFINITION. The mesh: routes, routers, virtual channels, calendars, arrival at an NI, responses, tickets, copies of the tables
that every NI holds, spotters (R357, R460-R499). -/

namespace Sys2Proof.Machine

/-! ### Copies held by every NI -/

/-- A field as an NI's copy holds it (R357, R445, R506, R536): the value before the first update the NI has not applied. -/
def State.niGet (s : State) (n pg : Nat) (f : Fld) (i : Nat) : Nat :=
  let k := fkey pg f i
  match s.tblLog.findSome? fun m =>
      if m.waiting.contains n then (m.olds.find? fun o => o.1 = k).map fun o => o.2 else none with
  | some v => v
  | none => s.get pg f i

/-- The key of a tile-map copy: an epoch, and a logical tile, or 160 and the number of a spare slot, whose first value is the
stop and 256 more where it is retired (R19, R485, R487). -/
def tmapKey (e n : Nat) : Nat := if n < 160 then e * 160 + n else 320 + e * 16 + (n - 160)

/-- A write of TMAP_ENT or TMAP_SPARE: the copy of the tile map not in use, in every NI (R487). (DESIGN CHOICE, assumption 55) -/
def State.tmapWrite (s : State) (n stop : Nat) (v : Bool) : State :=
  let e := 1 - s.get pgMesh F.MESH_EPOCH_CUR 0
  let k := tmapKey e n
  let old := tget s.tmaps k (0, false)
  let s := { s with tmaps := tset s.tmaps k (stop, v) (0, false) }
  { s with tblLog := s.tblLog ++ [⟨[], .tmap e n old, List.range 194, none⟩] }

/-- The tile-map copy of an epoch as an NI holds it: stop and VALID (R485, R487). -/
def State.niTmap (s : State) (n : Nat) (epoch : Bool) (lt : Nat) : Nat × Bool :=
  let e := b2n epoch
  match s.tblLog.findSome? fun m =>
      if m.waiting.contains n then
        match m.act with
        | .tmap e' l old => if e' = e ∧ l = lt then some old else none
        | _ => none
      else none with
  | some v => v
  | none => tget s.tmaps (e * 160 + lt) (0, false)

/-- The stop of a logical tile by the copy an NI uses (R24, R485). A number below 160 whose entry is not VALID has none, and an access to it is
UNMAPPED, as one to a number above is. (DEDUCED, assumption 108) -/
def State.niLtStop (s : State) (n lt : Nat) : Option Nat :=
  if lt < 160 then
    match s.niTmap n (s.ni n).epoch lt with
    | (st, true) => some st
    | _ => none
  else none

/-- All NIs. -/
def allNis : List Nat := List.range 194

/-- Send a copy update to every NI on the CTL class; the field named counts the acknowledgements (R357, R445, R506, R536).
(DESIGN CHOICE, assumption 54) -/
def State.tblSend (s : State) (olds : List (FKey × Nat)) (act : TblAct) (pend : Option (Nat × Fld)) : State :=
  let s := { s with tblLog := s.tblLog ++ [⟨olds, act, allNis, pend.map fun p => fkey p.1 p.2 0⟩] }
  match pend with
  | some (pg, f) => s.set pg f 0 (s.get pg f 0 + 194)
  | none => s

/-- A write of a register whose fields every NI copies: `s0` is the state before it (R357, R432, R445, R506, R536). -/
def State.tblCopy (s0 s : State) (pg off : Nat) (pend : Option (Nat × Fld)) : State :=
  let olds := (fieldsAt pg off).flatMap fun e => (List.range e.1.rep).map fun j => (fkey pg e.1 (e.2 * e.1.rep + j), s0.get pg e.1 (e.2 * e.1.rep + j))
  s.tblSend olds .copy pend

/-- A counter field named by its key counted down. -/
def State.decKey (s : State) (k : FKey) : State :=
  match (fieldsAt k.page 0 ++ (match pageTypeNo k.page with | some t => (pageFlds t).map (fun f => (f, 0)) | none => [])).find? fun e => e.1.fid = k.fid with
  | some (f, _) => s.dec k.page f k.idx
  | none => s

/-- The first update an NI has to apply, applied and acknowledged (R357, R485, R487, R536, R599).
(DEDUCED, assumption 51) (DESIGN CHOICE, assumption 54) -/
def State.tblApply (s : State) (n : Nat) : State :=
  match takeFirst (fun m : TblMsg => m.waiting.contains n) s.tblLog with
  | none => s
  | some (m, _) =>
    let upd (x : TblMsg) : TblMsg := { x with waiting := x.waiting.filter (· ≠ n) }
    let s := { s with tblLog := (modFirst (fun x : TblMsg => x.waiting.contains n) upd s.tblLog).filter fun x => !x.waiting.isEmpty }
    let s := match m.pend with | some k => s.decKey k | none => s
    match m.act with
    | .copy => s
    | .tmap _ _ _ => s
    | .switch =>
      let s := s.modNi n fun x => { x with epoch := !x.epoch, drainDue := true }
      -- from the last acknowledgement on, TMAP shows the new map (R21, R487)
      if s.get pgMesh F.MESH_EPOCH_STAT_SWITCH_PEND 0 = 0 then
        let e := 1 - s.get pgMesh F.MESH_EPOCH_CUR 0
        (List.range 160).foldl (fun (s : State) lt =>
          let v := tget s.tmaps (e * 160 + lt) (0, false)
          (s.set pgTmap F.TMAP_ENT_STOP lt v.1).set pgTmap F.TMAP_ENT_VALID lt (b2n v.2))
          ((List.range 16).foldl (fun (s : State) k =>
            let v := tget s.tmaps (tmapKey e (160 + k)) (0, false)
            ((s.set pgTmap F.TMAP_SPARE_STOP k (v.1 % 256)).set pgTmap F.TMAP_SPARE_RETIRED k (v.1 / 256)).set pgTmap F.TMAP_SPARE_AVAIL k (b2n v.2))
            (s.set pgMesh F.MESH_EPOCH_CUR 0 e))
      else s
    | .sealed m => s.set (pgNi n) F.NI_SEALED_MASK 0 m
    | .pmapInv => s
    | .lost _ _ => s

/-! ### Routes -/

/-! ### Virtual channels -/

/-- A router. -/
def State.router (s : State) (r : Nat) : Router := tget s.routers r Router.empty
/-- The state with a router replaced. -/
def State.setRouter (s : State) (r : Nat) (x : Router) : State := { s with routers := tset s.routers r x Router.empty }

/-- The flits in an input port, oldest first. -/
def Router.port (x : Router) (p : Nat) : List Flit := tget x.inp p []
/-- The entries of an input VC in use. -/
def Router.occ (x : Router) (p vc : Nat) : Nat := ((x.port p).filter fun f => f.vc = vc).length
/-- The router with an input port's flits replaced. -/
def Router.setPort (x : Router) (p : Nat) (l : List Flit) : Router := { x with inp := tset x.inp p l [] }
/-- Every input VC is empty. -/
def Router.empty? (x : Router) : Bool := x.inp.all fun e => e.2.isEmpty

/-- The router's state code (R488). -/
def State.routerState (s : State) (r : Nat) : Nat := s.get (pgRouter r) F.ROUTER_STAT_STATE 0

/-- A mesh event of a tile or agent PMU, counted for its piste only where R615 says so. -/
def State.meshEvent (s : State) (st code piste k : Nat) : State :=
  let pg := pgPmu st
  if isTile st ∧ s.get pg F.PAGE_OWNER_PLOCK 0 = 0 ∧ s.get pg F.PAGE_OWNER_PISTE 0 ≠ piste then s else s.pmuEvent st code k

/-- A ROUTE_FAULT in MESH_FAULT (R489, R500). -/
def State.routeFault (s : State) (kind port stop : Nat) : State :=
  if s.flag pgMesh F.MESH_FAULT_VALID then s.set pgMesh F.MESH_FAULT_OVF 0 1
  else (((s.set pgMesh F.MESH_FAULT_VALID 0 1).set pgMesh F.MESH_FAULT_KIND 0 kind).set pgMesh F.MESH_FAULT_PORT 0 port).set pgMesh F.MESH_FAULT_STOP 0 stop

/-- A router absorbs a flit (R489). -/
def State.absorb (s : State) (r port : Nat) (f : Flit) : State :=
  let pg := pgRouter r
  let s := (s.satInc pg F.ROUTER_ABSORB_COUNT).set pg F.ROUTER_ABSORB_LAST_PORT 0 port
  (s.set pg F.ROUTER_ABSORB_LAST_SRC 0 (niStop f.src.val)).routeFault 0 port r

/-! ### Spotters -/

/-- A trace record (R495) as 16 bytes. -/
def traceRec (chrono port : Nat) (f : Flit) : List Byte :=
  leBytes ((if f.cls = 1 then b2n f.tkt + 2 * b2n f.grant else f.addr % 2 ^ 52) + port % 8 * 2 ^ 58 + f.statusCode % 8 * 2 ^ 61 + f.op % 64 * 2 ^ 64 + b2n f.epoch * 2 ^ 70
    + b2n f.cal * 2 ^ 71 + f.cls % 4 * 2 ^ 72 + f.piste % 64 * 2 ^ 74 + niStop f.dst.val * 2 ^ 80 + niStop f.src.val * 2 ^ 88
    + chrono % 2 ^ 32 * 2 ^ 96) 16

/-- A probe matches a flit (R493, R494). -/
def State.spotMatch (s : State) (pg p : Nat) (f : Flit) : Bool :=
  let own := s.get pg F.PAGE_OWNER_PLOCK 0 = 0
  s.flag pg F.PAGE_CTL_ENABLE && s.flag pg F.SPOT_FILT_EN p
    && (niStop f.src.val &&& s.get pg F.SPOT_FILT_SRCM p) = (s.get pg F.SPOT_FILT_SRC p &&& s.get pg F.SPOT_FILT_SRCM p)
    && (niStop f.dst.val &&& s.get pg F.SPOT_FILT_DSTM p) = (s.get pg F.SPOT_FILT_DST p &&& s.get pg F.SPOT_FILT_DSTM p)
    && bitOf (s.get pg F.SPOT_FILT_CLSM p) f.cls
    && (if own then f.piste = s.get pg F.PAGE_OWNER_PISTE 0
        else !s.flag pg F.SPOT_FILT_PEN p || f.piste = s.get pg F.SPOT_FILT_PISTE p)

/-- A probe's buffered records, as bytes. -/
def State.traceBuf (s : State) (pg p : Nat) : List Byte := tget s.traces (pg * 2 + p) []

/-- Four buffered records go out as one line to the ring (R496). -/
def State.traceFlush (s : State) (st pg p : Nat) : State :=
  let buf := s.traceBuf pg p
  if buf.length < 64 then s
  else
    let size := (let z := s.get pg F.SPOT_TSIZE_SIZE p; if z = 0 then 1 else z) * 4096
    let ptr := s.get pg F.SPOT_TPTR_TPTR p
    let pa := s.get pg F.SPOT_TBASE_PA p * 4096 + ptr
    let r := { Req.plain 0x04 0 (pa / 64 * 64) (.trace st p) with
      be := 2 ^ 64 - 1, data := bytesLine (buf.take 64), piste := s.get pg F.PAGE_OWNER_PISTE 0 }
    let s := { s with traces := tset s.traces (pg * 2 + p) (buf.drop 64) [] }
    let s := s.send st r
    let next := ptr + 64
    if next < size then s.set pg F.SPOT_TPTR_TPTR p next
    else if s.flag pg F.SPOT_TCTL_STOP p then (s.set pg F.SPOT_TPTR_TPTR p 0).set pg F.SPOT_TPTR_FULL p 1
    else s.set pg F.SPOT_TPTR_TPTR p 0

/-- A probe of a stop sees a flit at a port (R493-R496). -/
def State.spotSee (s : State) (st p port : Nat) (f : Flit) : State :=
  let pg := pgSpot st
  let sel := s.get pg F.SPOT_FILT_PORT p
  if s.spotMatch pg p f ∧ (p = 1 ∨ 6 ≤ sel ∨ sel = port) then
    let s := s.inc pg F.SPOT_CNT_COUNT p
    if s.flag pg F.SPOT_TCTL_TEN p ∧ ¬ s.flag pg F.SPOT_TPTR_FULL p ∧ ¬ s.flag pg F.SPOT_TCTL_TERR p then
      if 4096 ≤ (s.traceBuf pg p).length then s.satInc pg F.SPOT_DROP_DROPPED p
      else
        ({ s with traces := tset s.traces (pg * 2 + p) (s.traceBuf pg p ++ traceRec s.chrono port f) [] }).traceFlush st pg p
    else s
  else s

/-! ### Arrival at an NI -/

/-- Operation codes that are not reserved (R466). -/
def opOk (op : Nat) : Bool :=
  (1 ≤ op && op ≤ 8) || (0x10 ≤ op && op ≤ 0x12) || (0x20 ≤ op && op ≤ 0x24) || (0x30 ≤ op && op ≤ 0x33)

/-- A flit reaches an NI (R466, R467, R474, R475, R476). -/
def State.niArrive (s : State) (n : Nat) (f : Flit) : State :=
  if f.dst.val ≠ n then
    (s.set (pgNi n) F.NI_STAT_MISDELIVER 0 1).routeFault 1 (niPort n) (niStop n)
  else if ¬ opOk f.op ∨ 5 ≤ f.status.code then s.set (pgNi n) F.NI_STAT_BADFLIT 0 1
  else
    let s := s.spotSee (niStop n) 1 4 f
    if f.cls = 1 then s.modNi n fun x => { x with rsp := x.rsp ++ [f] }
    else s.modNi n fun x => { x with inq := x.inq ++ [f] }

/-- An NI offers a flit: to itself at once, to the router otherwise (R464). -/
def State.niOffer (s : State) (n : Nat) (f : Flit) : State :=
  if f.dst.val = n then s.niArrive n f
  else (s.spotSee (niStop n) 1 4 f).modNi n fun x => { x with outq := x.outq ++ [f] }

/-- Answer a request with data (R466). -/
def State.replyData (s : State) (n : Nat) (f : Flit) (data : Line) (poison : Nat) : State :=
  s.niOffer n (f.reply 0x30 .ok data poison)
/-- Answer a request without data. -/
def State.replyAck (s : State) (n : Nat) (f : Flit) (r : Resp) : State := s.niOffer n (f.reply 0x31 r 0 0)

/-- A request leaves the set in service once it is answered. -/
def State.served (s : State) (n : Nat) (f : Flit) : State :=
  s.modNi n fun x => { x with serv := match takeFirst (fun g : Flit => g.src = f.src && g.tag = f.tag && g.epoch = f.epoch && g.op = f.op) x.serv with
    | some (_, r) => r
    | none => x.serv }

/-! ### Routers -/

/-- NIs at a stop: port 0, and port 1 at stops 32 and 48 (R460). -/
def nisAt (r : Nat) : List Nat := if r = 32 then [32, 192] else if r = 48 then [48, 193] else [r]

/-- Take one flit out of a list, the first equal to it. -/
def dropFlit (f : Flit) (l : List Flit) : List Flit := match takeFirst (fun g => g = f) l with | some (_, r) => r | none => l

/-- Flits an NI offers enter the router's local input port while their VC has room (R461, R462); they start on dateline VC 1
where the route says so (R472). A flit without room holds up no other VC (R475). -/
def State.pullLocal (s : State) (r : Nat) : State :=
  (nisAt r).foldl (fun s n =>
    (s.ni n).outq.foldl (fun (s : State) (f0 : Flit) =>
      let f := { f0 with dlvc := bitOf f0.route 39, hop := 0 }
      let x := s.router r
      let p := 4 + niPort n
      if x.occ p f.vc < 4 ∧ ¬ (f.cal ∧ (x.port p).any fun g => g.vc = f.vc && g.piste = f.piste) then
        ((s.setRouter r (x.setPort p (x.port p ++ [f]))).modNi n fun y => { y with outq := dropFlit f0 y.outq }).spotSee r 0 p f
      else s) s) s

/-- The downstream input VC of an output has a credit for a flit (R462, R483); an NI takes everything (R475). -/
def State.hasCredit (s : State) (r o : Nat) (f : Flit) : Bool :=
  4 ≤ o ||
    (let g := f.leave r o
     tget (s.router r).used (o * 12 + g.vc) 0 < 4
       && (!f.cal || !((s.router (nbr r o)).port ((o + 2) % 4)).any fun h => h.vc = g.vc && h.piste = f.piste))

/-- The calendar entry of an output's slot in a class (R479). -/
def State.calEntry (s : State) (r o c slot : Nat) : Nat := s.get (pgRouter r) F.ROUTER_CAL_SLOT ((2 * o + c) * 64 + slot)

/-- The flits an output may take from an input port: the head of each ordinary VC, every calendar flit. -/
def Router.heads (x : Router) (p : Nat) : List Flit :=
  (x.port p).filter fun f => f.cal || ((x.port p).find? fun g => g.vc = f.vc) = some f

/-- The calendar flit of an output in its current slot (R463, R482). -/
def State.pickCal (s : State) (r o slot : Nat) : Option (Nat × Flit) :=
  let x := s.router r
  [0, 1].findSome? fun c =>
    let e := s.calEntry r o c slot
    if e < 128 then none
    else (List.range 6).findSome? fun p =>
      ((x.port p).find? fun f => f.cal && f.out = o && f.piste = e % 64 && (f.vc / 2 = 4 + c) && s.hasCredit r o f).map fun f => (p, f)

/-- Rank of a class among ordinary flits of a port: RSP, SNP, CTL, REQ (R463). -/
def clsRank (c : Nat) : Nat := match c with | 1 => 0 | 2 => 1 | 3 => 2 | _ => 3

/-- The ordinary flit of an output: ports in rotation, then class order, then age (R463). (DESIGN CHOICE, assumption 57) -/
def State.pickOrd (s : State) (r o : Nat) : Option (Nat × Flit) :=
  let x := s.router r
  let start := tget x.last o 5 + 1
  (List.range 6).findSome? fun i =>
    let p := (start + i) % 6
    let c := (x.heads p).filter fun f => !f.cal && f.out = o && s.hasCredit r o f
    (List.range 4).findSome? fun k => (c.find? fun f => clsRank f.cls = k).map fun f => (p, f)

/-- A flit of an input port that a disabled output, a lost link or a QUIET router absorbs (R489, R599). -/
def State.absorbable (s : State) (r o : Nat) : Option (Nat × Flit) :=
  let x := s.router r
  if s.routerState r = 2 ∨ ¬ bitOf (s.get (pgRouter r) F.ROUTER_CTL_PORT_EN 0) o ∨ s.sys.lostLinks.contains (r, o) then
    (List.range 6).findSome? fun p => ((x.heads p).find? fun f => f.out = o).map fun f => (p, f)
  else none

/-- A flit crosses the link of an output into the next router, or leaves the mesh at an NI (R460, R462, R474). -/
def State.cross (s : State) (r o : Nat) (f : Flit) : State :=
  if 4 ≤ o then
    match (nisAt r)[o - 4]? with
    | some n => s.niArrive n f
    | none => s.absorb r o f
  else
    let g := f.leave r o
    let d := nbr r o
    let p := (o + 2) % 4
    let x := s.router r
    if s.routerState d = 2 then s.absorb d p g
    else
      let s := s.setRouter r { x with used := tset x.used (o * 12 + g.vc) (tget x.used (o * 12 + g.vc) 0 + 1) 0 }
      let y := s.router d
      (s.setRouter d (y.setPort p (y.port p ++ [g]))).spotSee d 0 p g

/-- ROUTER_FORWARD: one mesh cycle of an output (R463, R479-R483, R489). -/
def State.routerForward (s : State) (r o : Nat) : State :=
  let s := s.pullLocal r
  let x := s.router r
  let cyc := tget x.cyc o 0
  let slot := cyc % 64
  -- EN takes effect at the next slot 0 (R480)
  let on := if slot = 0 then s.flag (pgRouter r) F.ROUTER_CAL_CTL_EN else tget x.calOn o false
  let s := s.setRouter r { x with cyc := tset x.cyc o (cyc + 1) 0, calOn := tset x.calOn o on false }
  let take (s : State) (p : Nat) (f : Flit) : State :=
    let x := s.router r
    s.setRouter r { (x.setPort p (dropFlit f (x.port p))) with last := tput x.last o p }
  match s.absorbable r o with
  | some (p, f) => (take s p f).absorb r p f
  | none =>
    match (if on then s.pickCal r o slot else none) with
    | some (p, f) => (((take s p f).cross r o f).meshEvent r 0x121 f.piste 1).meshEvent r 0x122 f.piste 1
    | none =>
      match s.pickOrd r o with
      | some (p, f) => ((take s p f).cross r o f).meshEvent r 0x121 f.piste 1
      | none => s

/-- CREDIT_RETURN: a credit for an entry that has freed comes back (R462). -/
def State.creditReturn (s : State) (r o vc : Nat) : State :=
  let x := s.router r
  let u := tget x.used (o * 12 + vc) 0
  let occ := if 4 ≤ o then 0 else (s.router (nbr r o)).occ ((o + 2) % 4) vc
  if occ < u then s.setRouter r { x with used := tset x.used (o * 12 + vc) (u - 1) 0 } else s

/-! ### Tickets -/

/-- A ticket comes back to a requester: a shared one to its hold, the standing one to be spent again (R477). -/
def Ni.ticketBack (x : Ni) (tgt cls : Nat) (shared : Bool) (t : NiId) : Ni :=
  let _ := tgt
  if shared then { x with shared := x.shared ++ [(t, cls)] }
  else { x with spent := match takeFirst (fun e : NiId × Nat => e.1 = t && e.2 = cls) x.spent with
    | some (_, r) => r
    | none => x.spent }

/-- What a response or TKT flit says of tickets (R477): TKT returns the ticket of its request, GRANT gives a shared one. -/
def State.takeTicket (s : State) (n : Nat) (f : Flit) : State :=
  let cls := f.be % 4
  let s := if f.tkt then s.modNi n fun x =>
      { x.ticketBack f.src.val cls (bitOf f.be 2) f.src with
        outst := x.outst.map fun o => if o.tag = f.tag && o.epoch = f.epoch then { o with back := true } else o }
    else s
  if f.grant then s.modNi n fun x => { x with shared := x.shared ++ [(f.src, cls)] } else s

/-- A target may grant a shared ticket for a request that came on a standing one: the pool has an entry left and the requester
holds fewer than four for the class (R477). -/
def State.canGrant (s : State) (n : Nat) (f : Flit) : Bool :=
  !f.grant && !f.cal && ((s.ni n).poolOut.filter fun e => e.2 = f.cls).length < 64
    && ((s.ni n).poolOut.filter fun e => e.1 = f.src && e.2 = f.cls).length < 4

/-- The target gives the ticket of a request back in a TKT flit, with a shared one where it grants it (R477). -/
def State.sendTkt (s : State) (n : Nat) (f : Flit) : State :=
  let g := s.canGrant n f
  let s := if g then s.modNi n fun x => { x with poolOut := x.poolOut ++ [(f.src, f.cls)] } else s
  s.niOffer n { f.reply 0x32 .ok 0 0 with tkt := true, grant := g }

/-- The ticket of a request travels in its response instead (R477). -/
def State.replyTkt (s : State) (n : Nat) (f : Flit) (op : Nat) (r : Resp) (data : Line) : State :=
  let g := s.canGrant n f
  let s := if g then s.modNi n fun x => { x with poolOut := x.poolOut ++ [(f.src, f.cls)] } else s
  s.niOffer n { f.reply op r data 0 with tkt := true, grant := g }

end Sys2Proof.Machine
end

