-- ==== Sys2Proof/Machine/Target.lean ====
section
/-! DEFINITION. Where an address leads: the near-tier interleave and its storage, the HDM decoders, the piste map and the home
slice (R23-R35, R354-R357, R413-R429, R443-R447, R532-R541). -/

namespace Sys2Proof.Machine

/-! ### The near tier -/

/-- Channel count of an NCODE (R432). -/
def nCode (c : Nat) : Option Nat := [1, 2, 3, 4, 6, 8, 12, 16, 24, 32, 48][c]?

/-- Exponent of two in a channel count (R418). -/
def nExp (n : Nat) : Nat :=
  if n % 16 = 0 then (if n = 32 then 5 else 4) else if n % 8 = 0 then 3 else if n % 4 = 0 then 2 else if n % 2 = 0 then 1 else 0

/-- The XOR of the `a`-bit pieces of `q` (R418). -/
def xorPieces (a q : Nat) : Nat := if a = 0 then 0 else (List.range 64).foldl (fun h i => h ^^^ bitsOf q (a * i) a) 0

/-- Position in a set of `n` channels, and the grain number within the channel, of grain number `c` (R418). -/
def setPos (n c : Nat) : Nat × Nat :=
  let a := nExp n
  let r := c % n
  let q := c / n
  ((r % 2 ^ a ^^^ xorPieces a q) + 2 ^ a * (r / 2 ^ a), q)

/-- Bytes of data a channel holds (R413). -/
def chanBytes : Nat := 0xF0000000

/-- A field as an NI's copy holds it, or as the page holds it where no NI is asked. -/
def State.viewGet (s : State) (n : Option Nat) (pg : Nat) (f : Fld) (i : Nat) : Nat :=
  match n with | some k => s.niGet k pg f i | none => s.get pg f i

/-- The channel and data address of a flat address (R25, R418). -/
def State.nearFlat (s : State) (n : Option Nat) (pa : Nat) : Option (Nat × Nat) :=
  ((List.range 8).foldl (fun (b : Nat × Option (Nat × Nat)) k =>
    let g (f : Fld) : Nat := s.viewGet n pgNtmap f k
    match b.2, nCode (g F.NTMAP_SET_NCODE) with
    | none, some cnt =>
      if g F.NTMAP_SET_VALID = 0 then b
      else if pa < b.1 + cnt * chanBytes then
        let o := pa - b.1
        let G := 8 + g F.NTMAP_SET_GRAIN
        let p := setPos cnt (o / 2 ^ G)
        (b.1, some (s.viewGet n pgNtmap F.NTMAP_CHAN_CH ((g F.NTMAP_SET_FIRST + p.1) % 48), p.2 * 2 ^ G + o % 2 ^ G))
      else (b.1 + cnt * chanBytes, none)
    | _, _ => b) (0, none)).2

/-- The flat length (R25). -/
def State.flatLen (s : State) : Nat :=
  (List.range 8).foldl (fun b k =>
    match nCode (s.get pgNtmap F.NTMAP_SET_NCODE k) with
    | some cnt => if s.get pgNtmap F.NTMAP_SET_VALID k = 1 then b + cnt * chanBytes else b
    | none => b) 0

/-- The cache channel, its line number there and the tag of an HDM address (R428, R429): `none` with no cache set. -/
def State.nearCache (s : State) (n : Option Nat) (pa : Nat) : Option (Nat × Nat × Nat) :=
  if s.viewGet n pgNtmap F.NTMAP_CACHE_VALID 0 = 0 then none
  else match nCode (s.viewGet n pgNtmap F.NTMAP_CACHE_NCODE 0) with
    | none => none
    | some cnt =>
      let p := setPos cnt (bitsOf pa 6 46)
      let ch := s.viewGet n pgNtmap F.NTMAP_CHAN_CH ((s.viewGet n pgNtmap F.NTMAP_CACHE_FIRST 0 + p.1) % 48)
      some (ch, (p.2 / 2 ^ 22 % 15) * 2 ^ 22 + p.2 % 2 ^ 22, p.2 / 2 ^ 22 / 15)

/-- The stop of a channel. -/
def chanStop (c : Nat) : Nat := nmcStop (c / 6)

/-- The key of a data line in the tables of the near tier. -/
def nearKey (c line : Nat) : Nat := c * 2 ^ 26 + line
/-- The address of a data line's first byte in the near-tier bytes. -/
def nearAddr (c line : Nat) : Nat := c * 2 ^ 32 + line * 64

/-- The key a slot holds: 0 for plain text, a number of its own for each slot and key otherwise (R426, R539). -/
def State.keyOf (s : State) (slot : Nat) : Nat :=
  if s.get pgKeys F.KS_SLOT_KIND slot = 2 then 0 else 1 + slot + 256 * tget s.sys.keyGen slot 0

/-- The key-store slot of a piste's key select, as an NMC's copy of the tables has it (R540). -/
def State.slotOf (s : State) (n : Option Nat) (piste sel : Nat) : Nat := s.viewGet n pgKeys F.KS_PKEY_SLOT (piste * 4 + sel)

/-- Metadata of a data line. (DESIGN CHOICE, assumption 30) -/
def State.nearMetaOf (s : State) (c line : Nat) : NearMeta := tget s.nearMeta (nearKey c line) NearMeta.none
/-- Set the metadata of a data line. (DESIGN CHOICE, assumption 30) -/
def State.setNearMeta (s : State) (c line : Nat) (m : NearMeta) : State :=
  { s with nearMeta := tset s.nearMeta (nearKey c line) m NearMeta.none }

/-- A stored line read under a key: useless data where another key wrote it (R426). (DESIGN CHOICE, assumption 8) -/
def State.nearRead (s : State) (c line key : Nat) : Line × Bool :=
  let m := s.nearMetaOf c line
  let raw := Mem.rds s.near (nearAddr c line) 64
  let d := if m.key = key then raw else raw.mapIdx fun i b => BitVec.ofNat 8 (Config.scramble m.key key (nearAddr c line + i) b.toNat)
  (bytesLine d, m.poison)

/-- Store a whole line under a key (R416, R426). -/
def State.nearWrite (s : State) (c line key : Nat) (d : Line) (poison : Bool) : State :=
  { s with near := Mem.wrs s.near (nearAddr c line) (lineBytes d) }.setNearMeta c line
    { s.nearMetaOf c line with poison := poison, key := key }

/-! ### HDM decoders -/

/-- Ways of an IW code (R456). -/
def iwWays (c : Nat) : Nat := match c with | 1 => 2 | 2 => 4 | 3 => 8 | 4 => 16 | 8 => 3 | 9 => 6 | 10 => 12 | _ => 1

/-- What a decoder makes of an address: its number, hub, port, and the DB, NEAR and DC bits. -/
structure HdmHit where
  dec : Nat
  hub : Nat
  port : Nat
  db : Bool
  near : Bool
  dc : Bool
deriving DecidableEq, Repr

/-- The first valid decoder that claims an address (R443, R444). (PRESUMED, assumption 34) -/
def State.hdmDecode (s : State) (n : Option Nat) (pa : Nat) : Option HdmHit :=
  (List.range 64).findSome? fun k =>
    let pg := pgHdm (k / 8)
    let j := k % 8
    let g (f : Fld) : Nat := s.viewGet n pg f j
    let base := g F.HDM_DEC_BASE_BASE * 2 ^ 28
    if g F.HDM_DEC_CTL_VALID = 1 ∧ base ≤ pa ∧ pa < base + g F.HDM_DEC_SIZE_SIZE * 2 ^ 28 then
      let p := pa / 2 ^ (8 + g F.HDM_DEC_CTL_IG) % iwWays (g F.HDM_DEC_CTL_IW)
      let t := if p < 8 then s.viewGet n pg F.HDM_DEC_TGT0_TGT (j * 8 + p) else s.viewGet n pg F.HDM_DEC_TGT1_TGT (j * 8 + p - 8)
      some ⟨k, bitsOf t 4 3, bitsOf t 0 3, g F.HDM_DEC_CTL_DB = 1, g F.HDM_DEC_CTL_NEAR = 1, g F.HDM_DEC_CTL_DC = 1⟩
    else none

/-- The NI of the memory target of an address: an NMC or a hub (R24, R428, R451). -/
def State.memTarget (s : State) (n : Option Nat) (pa : Nat) : Option Nat :=
  if inNear pa then (s.nearFlat n pa).map fun x => chanStop x.1
  else if inHdm pa then
    match s.hdmDecode n pa with
    | none => none
    | some d =>
      if d.near && !d.db then
        match s.nearCache n pa with
        | some (ch, _, _) => some (chanStop ch)
        | none => some (hubStop d.hub)
      else some (hubStop d.hub)
  else none

/-! ### The piste map -/

/-- What memory holds of a line, caches included: the reads of the Patrol's tables are coherent (R446, R532).
(DESIGN CHOICE, assumption 50) -/
def State.peekLine (s : State) (line : Nat) : Option (Line × Bool) :=
  match s.caches.findSome? fun e => (tfind e.2.l1 line).bind fun l => if l.st = .m then some (l.data, l.poison) else none with
  | some v => some v
  | none =>
    match s.caches.findSome? fun e => (tfind e.2.l2 line).bind fun l => if l.st = .m then some (l.data, l.poison) else none with
    | some v => some v
    | none =>
      match s.slices.findSome? fun e => (tfind e.2.llc line).map fun l => (l.data, l.poison) with
      | some v => some v
      | none =>
        if inNear (line * 64) then
          (s.nearFlat none (line * 64)).map fun x => s.nearRead x.1 (x.2 / 64) (s.keyOf (s.slotOf none 0 0))
        else none

/-- An aligned 64-bit word of memory; none where the read gives poison or an error. (DESIGN CHOICE, assumption 50) -/
def State.peekWord (s : State) (pa : Nat) : Option Nat :=
  match s.peekLine (pa / 64) with
  | some (d, false) => some (leNat (lineGet d (pa % 64 / 8 * 8) 8))
  | _ => none

/-- A leaf entry, valid only where R533 lets it be. -/
def leafClean (e : Nat) : Nat :=
  let log2 := bitsOf e 46 4
  if 8 < log2 ∨ bitsOf e 38 8 % 2 ^ log2 ≠ 0 then e % 2 ^ 63 else e

/-- The leaf entry of an address as the tables in memory have it; none with the address of the entry that cannot be read
(R532, R533). -/
def State.leafMem (s : State) (pa : Nat) : Nat ⊕ Nat :=
  let a1 := s.get pgPmap F.PMAP_ROOT_PA 0 * 2 ^ 19 + bitsOf pa 36 16 * 8
  match s.peekWord a1 with
  | none => .inr a1
  | some e =>
    if ¬ bitOf e 63 then .inl 0
    else if ¬ bitOf e 62 then .inl (leafClean e)
    else if bitsOf e 34 28 ≠ 0 then .inl 0
    else
      let a2 := bitsOf e 0 34 * 2 ^ 18 + bitsOf pa 21 15 * 8
      match s.peekWord a2 with
      | none => .inr a2
      | some e => if bitOf e 62 then .inl 0 else .inl (leafClean e)

/-- The leaf an NI uses for an address: a cached one, which may be older than memory, or memory's, which it then caches (R536).
Which of two that differ it uses is open. -/
def State.niLeaf (s : State) (n pa : Nat) : State × (Nat ⊕ Nat) :=
  let gran := pa / 2 ^ 21
  let old := ((s.ni n).pmapCached.find? fun e => e.1 = gran).map fun e => e.2
  match old, s.leafMem pa with
  | some e, .inl m =>
    if e = m then (s, .inl e)
    else
      let (r, s) := s.free
      if r % 2 = 0 then (s, .inl e)
      else (s.modNi n fun x => { x with pmapCached := ((gran, m) :: x.pmapCached.filter fun c => c.1 ≠ gran).take 128 }, .inl m)
  | some e, .inr _ => (s, .inl e)
  | none, .inl m => (s.modNi n fun x => { x with pmapCached := ((gran, m) :: x.pmapCached).take 128 }, .inl m)
  | none, .inr a => (s, .inr a)

/-- Bucket and lane of a line under a leaf entry (R354). -/
def bucketLane (e line : Nat) : Nat × Nat :=
  let f := hashF10 line
  (bitsOf e 38 8 + f % 256 % 2 ^ (bitsOf e 46 4), bitsOf f 8 2)

/-- The field of a remap entry that names a lane's stop. -/
def laneFld (lane : Nat) : Fld :=
  match lane with | 0 => F.BREMAP_ENT_LANE0 | 1 => F.BREMAP_ENT_LANE1 | 2 => F.BREMAP_ENT_LANE2 | _ => F.BREMAP_ENT_LANE3

/-- The slice a bucket and lane name in an NI's copy, and whether it holds requests to that lane (R356, R357). -/
def State.laneOf (s : State) (n b l : Nat) : Nat × Bool :=
  (s.niGet n pgBremap (laneFld l) b, bitOf (s.niGet n pgBremap F.BREMAP_ENT_HOLD b) l)

/-- The slice that tracks a line already, where there is one. -/
def State.homeHolder (s : State) (line : Nat) : Option Nat :=
  (s.slices.find? fun e => (tfind e.2.dir line).isSome || (tfind e.2.llc line).isSome).map fun e => e.1

/-- Bucket and lane of a line by the map as it stands, 0 and 0 where it cannot be read. -/
def State.lineBucket (s : State) (line : Nat) : Nat × Nat :=
  match s.leafMem (line * 64) with
  | .inl e => bucketLane e line
  | .inr _ => bucketLane 0 line

end Sys2Proof.Machine
end

