-- ==== Sys2Proof/Machine/Home.lean ====
section
/-! DEFINITION. The home slice: the LLC, the directory, the requests of R352, drains and back-invalidates (R350-R353, R358,
R367, R374, R438). -/

namespace Sys2Proof.Machine

/-! ### Directory -/

/-- Stops an invalidation of an entry reaches (R351): the listed sharers, or every tile stop of each marked group, with a hub
whose device caches. (DEDUCED, assumption 27) -/
def State.dirTargets (s : State) (d : DirEntry) : List Nat :=
  match d.coarse with
  | none => d.sharers
  | some v => (List.range 192).filter fun t =>
      bitOf v (t / 8) && (isTile t || (match hubAt t with | some h => s.get (pgHdm h) F.HDM_CACHE_CTL_EN 0 = 1 | none => false))

/-- An entry with a sharer more: a fifth turns the list into the coarse vector (R351). -/
def DirEntry.add (d : DirEntry) (t : Nat) : DirEntry :=
  match d.coarse with
  | some v => { d with coarse := some (v ||| 2 ^ (t / 8)) }
  | none =>
    if d.sharers.contains t then d
    else if d.sharers.length < 4 then { d with sharers := d.sharers ++ [t] }
    else { d with sharers := [], coarse := some ((d.sharers ++ [t]).foldl (fun v x => v ||| 2 ^ (x / 8)) 0) }

/-- A slice event for the counters of its tile. -/
def State.sliceEvent (s : State) (st code : Nat) (f : Flit) : State := s.meshEvent st code f.piste 1

/-- A sharer leaves an entry, and its pin with it; an entry with none left goes (R350, R351, R374). A coarse entry keeps its groups. -/
def State.dirDrop (s : State) (st line t : Nat) : State :=
  let x := s.slice st
  match tfind x.dir line with
  | none => s
  | some d =>
    let d := { d with pins := d.pins.filter (· ≠ t) }
    match d.coarse with
    | some _ => s.setSlice st { x with dir := tput x.dir line d }
    | none =>
      let l := d.sharers.filter (· ≠ t)
      s.setSlice st { x with dir := if l.isEmpty then terase x.dir line else tput x.dir line { d with sharers := l } }

/-- An entry with its pin set for a tile (R374). -/
def DirEntry.pinFor (d : DirEntry) (t : Nat) (pin : Bool) : DirEntry := if pin && !d.pins.contains t then { d with pins := d.pins ++ [t] } else d

/-- The directory after a request has been granted: `t` owns the line or shares it. -/
def State.dirGrant (s : State) (st line t : Nat) (excl pin : Bool) (bl : Nat × Nat) : State :=
  let x := s.slice st
  let way := match tfind x.dir line with
    | some d => d.way
    | none => (freeWay 12 (usedWays x.dir llcSet (fun d : DirEntry => d.way) (llcSet line)) fun _ => true).getD 0
  let old := tfind x.dir line
  let d : DirEntry := match old with
    | some d => if excl then { d with excl := true, sharers := [t], coarse := none } else { (d.add t) with excl := false }
    | none => ⟨excl, [t], none, [], way, bl.1, bl.2⟩
  s.setSlice st { x with dir := tput x.dir line (d.pinFor t pin) }

/-- The line whose directory entry a transaction is taking away (R351). -/
def HTx.victim (t : HTx) : Option Nat := match t.wait with | .victim v _ => some v | _ => none

/-- A transaction that will put a new entry into the directory. -/
def Slice.willEnter (x : Slice) (t : HTx) : Bool := (t.req.op = 1 || t.req.op = 2) && t.req.be ≠ 0 && (tfind x.dir t.line).isNone

/-- Room in the directory for a new entry: none needed or some left; else a victim that no transaction is at work on, an unpinned one,
else a pinned one that is counted (R351). Where every entry of the set is at work, the request waits (`none`). -/
def State.dirVictim (s : State) (st line : Nat) : Option (State × Option (Nat × DirEntry)) :=
  let x := s.slice st
  let same (l : Nat) : Bool := llcSet l = llcSet line
  let set := x.dir.filter fun e => same e.1
  let coming := (x.txs.filter fun t => same t.line && x.willEnter t).length
  let going := (x.txs.filter fun t => t.victim.any same).length
  if (tfind x.dir line).isSome || set.length + coming - going < 12 then some (s, none)
  else
    let cand := set.filter fun e => !x.txs.any fun t => t.line = e.1 || t.victim = some e.1
    let free := cand.filter fun e => e.2.pins.isEmpty
    if cand.isEmpty then none
    else
      let (r, s) := s.free
      if free.isEmpty then some (s.satInc (pgSlice st) F.SLICE_STAT_PIN_EVICT, cand[r % cand.length]?)
      else some (s, free[r % free.length]?)

/-! ### The LLC and memory -/

/-- A write of the slice to the memory target of a line; nothing waits for it but the drain (R352, R358). -/
def State.sliceWriteMem (s : State) (st line : Nat) (d : Line) (poison : Bool) (key piste : Nat) (org : Org) : State :=
  s.send st { Req.plain 0x06 0 (line * 64) org with
    be := 2 ^ 64 - 1, data := d, poison := if poison then 255 else 0, key := key, piste := piste,
    dst := (s.memTarget (some st) (line * 64)).map fun n => Fin.ofNat 194 n }

/-- Put a line into the LLC; a full set gives up a line, written to memory when dirty (R346, R352). (DESIGN CHOICE, assumption 23) -/
def State.llcPut (s : State) (st line : Nat) (l : LlcLine) : State :=
  let x := s.slice st
  match tfind x.llc line with
  | some o => s.setSlice st { x with llc := tput x.llc line { l with way := o.way } }
  | none =>
    match freeWay 16 (usedWays x.llc llcSet (fun l : LlcLine => l.way) (llcSet line)) (fun _ => true) with
    | some w => s.setSlice st { x with llc := tput x.llc line { l with way := w } }
    | none =>
      let set := x.llc.filter fun e => llcSet e.1 = llcSet line
      let (r, s) := s.free
      match set[r % set.length]? with
      | none => s
      | some (v, o) =>
        let s := s.setSlice st { x with llc := tput (terase x.llc v) line { l with way := o.way } }
        if o.dirty then s.sliceWriteMem st v o.data o.poison o.key o.piste .memWb else s

/-- The LLC without a line. -/
def State.llcDrop (s : State) (st line : Nat) : State :=
  let x := s.slice st
  s.setSlice st { x with llc := terase x.llc line }

/-! ### Transactions -/

/-- The transaction with an identifier replaced or removed. -/
def State.setTx (s : State) (st id : Nat) (t : Option HTx) : State :=
  let x := s.slice st
  s.setSlice st { x with txs := match t with
    | some t => x.txs.map fun y => if y.id = id then t else y
    | none => x.txs.filter fun y => y.id ≠ id }

/-- Snoop the tiles and hubs named; the transaction waits for all of them (R351, R352). -/
def State.homeSnoop (s : State) (st : Nat) (t : HTx) (inv : Bool) (who : List Nat) (w : List Nat → TxWait) (line : Nat) : State :=
  let s := s.setTx st t.id (some { t with wait := w who })
  who.foldl (fun (s : State) d =>
    (s.sliceEvent st 0x102 t.req).send st { Req.plain (if inv then 0x10 else 0x11) 2 (line * 64) (.snoop t.id d) with
      dst := some (Fin.ofNat 194 d), piste := t.req.piste, key := t.req.key }) s

/-- Ask the memory target for the line. -/
def State.homeMem (s : State) (st : Nat) (t : HTx) : State :=
  (s.setTx st t.id (some { t with wait := .mem })).send st { Req.plain 0x01 0 (t.line * 64) (.mem t.id) with
    be := 2 ^ 64 - 1, key := t.req.key, piste := t.req.piste, spec := t.req.spec,
    dst := (s.memTarget (some st) (t.line * 64)).map fun n => Fin.ofNat 194 n }

/-- The transaction is over and its request answered. -/
def State.homeDone (s : State) (st : Nat) (t : HTx) (r : State → State) : State := r ((s.setTx st t.id none).served st t.req)

/-- The LLC line made of a transaction's data. -/
def HTx.line' (t : HTx) (d : Line) (poison dirty : Bool) : LlcLine := ⟨d, poison, dirty, 0, t.bucket, t.lane, t.key, t.piste⟩

/-- A far atomic on a line: the line after it (R189, R466). (DEDUCED, assumption 26) -/
def farAtomic (f : Flit) (d : Line) : Line :=
  let ctl := bitsOf f.payload.toNat 256 8
  let size := if bitOf ctl 6 then 16 else if bitOf ctl 4 then 4 else 8
  let off := f.addr % 64
  let old := leNat (lineGet d off size)
  let src := bitsOf f.payload.toNat 0 (8 * size)
  let new := if bitOf ctl 5 then (if old = bitsOf f.payload.toNat 128 (8 * size) then src else old) else amoNew (bitsOf ctl 0 4) size old src
  linePut d off (leBytes new size)

/-- The line goes to its requester: a tile, or a hub's device, which keeps a copy in a cache of its own (R441), or one that keeps none. -/
def State.answerLine (s : State) (st : Nat) (t : HTx) (d : Line) (poison dirty : Bool) : State :=
  let src := t.req.src.val
  let s := if isTile src ∧ t.req.op ≤ 2 then
      s.modCache src fun c => { c with fills := c.fills.map fun f => if f.line = t.line then { f with granted := true } else f } else s
  s.homeDone st t fun s => s.niOffer st { t.req.reply 0x30 .ok d (if poison then 255 else 0) with pin := dirty }

/-- Dirty data that a snoop collected and the requester does not own: to memory for a WB-NT line, else dirty into the LLC (R190, R352). -/
def State.homeKeep (s : State) (st : Nat) (t : HTx) (nt : Bool) (d : Line) (poison : Bool) : State :=
  if t.got.isNone then s
  else if nt || t.nt then (s.llcDrop st t.line).sliceWriteMem st t.line d poison t.key t.piste .memWb
  else s.llcPut st t.line (t.line' d poison true)

/-- Every copy that had to answer has, and the line's data are at hand: finish a request (R352). `d` is the line with its poison mark. A
shared read with no byte enabled fills the LLC alone (R184). (DEDUCED, assumption 25) -/
def State.homeFinish (s : State) (st : Nat) (t : HTx) (d : Line) (poison dirty : Bool) : State :=
  let f := t.req
  let line := t.line
  let src := f.src.val
  if f.op = 1 then
    let s := if f.be ≠ 0 then s.dirGrant st line src false f.pin (t.bucket, t.lane) else s
    let s := if t.got.isSome then s.homeKeep st t f.noalloc d poison
      else if f.noalloc || (tfind (s.slice st).llc line).isSome then s
      else s.llcPut st line (t.line' d poison false)
    s.answerLine st t d poison false
  else if f.op = 2 then
    ((s.llcDrop st line).dirGrant st line src true f.pin (t.bucket, t.lane)).answerLine st t d poison dirty
  else if f.op = 3 then (s.homeKeep st t f.noalloc d poison).answerLine st t d poison false
  else if f.op = 7 then
    -- an atomic on a poisoned line changes nothing and answers the mark
    let d' := if poison then d else farAtomic f d
    let s := if f.noalloc then (s.llcDrop st line).sliceWriteMem st line d' poison f.key f.piste .memWb
      else s.llcPut st line (t.line' d' poison true)
    s.answerLine st t d poison false
  else
    -- a partial write merged into the line (R216, R353)
    let d' := lineMerge d f.payload f.be
    s.llcPut st line (t.line' d' (poison || f.poison ≠ 0) true) |>.homeDone st t fun s => s.replyAck st f .ok

/-- A write-back to memory that the request itself waits for: MAINT and back-invalidates. -/
def State.homeWriteWait (s : State) (st : Nat) (t : HTx) (d : Line) (poison : Bool) : State :=
  (s.setTx st t.id (some { t with wait := .mem })).sliceWriteMem st t.line d poison t.key t.piste (.mem t.id)

/-- BIRsp of a back-invalidate: 0 BIRspI, 1 BIRspS, 2 BIRspE, in the answer's payload (R438). -/
def State.biAnswer (s : State) (st : Nat) (t : HTx) (rsp : Nat) : State :=
  s.homeDone st t fun s => s.niOffer st { t.req.reply 0x30 .ok (BitVec.ofNat 512 rsp) 0 with }

/-- What the directory shows of a line: 0 none, 1 shared, 2 owned. -/
def Slice.dirState (x : Slice) (line : Nat) : Nat :=
  match tfind x.dir line with | some d => if d.excl then 2 else 1 | none => 0

/-- The operation code of a drain's own work on a line, which no flit carries (R358). (DESIGN CHOICE, assumption 104) -/
def opDrain : Nat := 0x40

/-- A maintenance request goes to the memory target, whose own copies are named too: a cache channel acts on the line (R363, R430). -/
def State.homeTell (s : State) (st : Nat) (t : HTx) : State :=
  (s.setTx st t.id (some { t with wait := .mem, wrote := true })).send st { Req.plain 8 0 (t.line * 64) (.mem t.id) with
    be := t.req.be % 4, key := t.key, piste := t.piste, dst := (s.memTarget (some st) (t.line * 64)).map fun n => Fin.ofNat 194 n }

/-- The LLC copy of a line after a maintenance action on it: cleaned with what the slice collected, or gone (R363). -/
def State.llcMaint (s : State) (st : Nat) (t : HTx) (act : Nat) : State :=
  match act, tfind (s.slice st).llc t.line with
  | 0, some l => s.setSlice st { s.slice st with llc := tput (s.slice st).llc t.line (match t.got with
      | some (d, p) => { l with data := d, poison := p, dirty := false }
      | none => { l with dirty := false }) }
  | 0, none => s
  | _, _ => s.llcDrop st t.line

/-- No snoop of the transaction is owed any more (R352, R363, R438): go on with what the request asks for. -/
def State.homeSnooped (s : State) (st : Nat) (t : HTx) : State :=
  let f := t.req
  let line := t.line
  let llc := tfind (s.slice st).llc line
  let data : Option (Line × Bool × Bool) := match t.got, llc with
    | some (d, p), _ => some (d, p, true)
    | none, some l => some (l.data, l.poison, l.dirty)
    | none, none => none
  -- the LLC's own data go under the line's own key
  let t := match t.got, llc with | none, some l => { t with key := l.key, piste := l.piste } | _, _ => t
  if f.op = 8 then
    match f.be % 4, data with
    -- an INVAL was told to the memory target first, which accepted it
    | 1, _ => (s.llcMaint st t 1).homeDone st t fun s => s.replyAck st f .ok
    | _, some (d, p, true) => s.homeWriteWait st { t with wrote := false } d p
    | act, _ => (s.llcMaint st t act).homeTell st t
  else if f.op = opDrain then
    let s := (s.llcDrop st line).modSlice st fun x => { x with dir := terase x.dir line }
    match data with
    | some (d, p, true) => (s.homeWriteWait st t d p).inc (pgSlice st) F.SLICE_DRAIN_STAT_WRITTEN
    | _ => s.setTx st t.id none
  else if f.op = 0x12 then
    let k := f.be % 4
    if k = 2 then
      let d := (s.slice st).dirState line
      s.biAnswer st t (if d = 0 ∧ llc.isSome then 1 else d)
    else
    let s := if k = 0 then s.llcDrop st line else (match llc with
      | some l => s.setSlice st { s.slice st with llc := tput (s.slice st).llc line (match t.got with
          | some (d, p) => { l with data := d, poison := p, dirty := false }
          | none => { l with dirty := false }) }
      | none => s)
    match data with
    | some (d, p, true) => s.homeWriteWait st t d p
    | _ => s.biAnswer st t (if k = 0 then 0 else if (s.slice st).dirState line = 0 ∧ llc.isNone then 0 else 1)
  else if (f.op = 4 ∨ f.op = 6) ∧ f.be = 2 ^ 64 - 1 then
    -- a whole line written goes under the writer's key
    let t := { t with key := f.key, piste := f.piste }
    if f.noalloc then (s.llcDrop st line).homeWriteWait st t f.payload (f.poison ≠ 0)
    else (s.llcPut st line (t.line' f.payload (f.poison ≠ 0) true)).homeDone st t fun s => s.replyAck st f .ok
  else if (f.op = 4 ∨ f.op = 6) ∧ data.isNone ∧ f.noalloc then
    (s.setTx st t.id (some { t with wait := .mem })).send st { Req.plain 4 0 f.addr (.mem t.id) with
      be := f.be, data := f.payload, poison := f.poison, key := f.key, piste := f.piste,
      dst := (s.memTarget (some st) (line * 64)).map fun n => Fin.ofNat 194 n }
  else match data with
    | some (d, p, dirty) => (s.sliceEvent st 0x100 f).homeFinish st t d p dirty
    | none => (s.sliceEvent st 0x101 f).homeMem st t

/-- Start a request whose directory room is assured: snoop whoever must be snooped (R352, R363, R438). -/
def State.homeGo (s : State) (st : Nat) (t : HTx) : State :=
  let f := t.req
  let line := t.line
  match tfind (s.slice st).dir line with
  | none => s.homeSnooped st { t with wait := .snoops [] }
  | some d =>
    -- a LOCKFILL of a line its tile holds only sets the pin (R374)
    if f.op = 1 ∧ f.be = 0 ∧ f.pin then
      let s := if (s.dirTargets d).contains f.src.val then s.modSlice st fun x => { x with dir := tput x.dir line (d.pinFor f.src.val true) } else s
      s.homeDone st t fun s => s.replyAck st f .ok
    else
    let all := s.dirTargets d
    let others := all.filter (· ≠ f.src.val)
    let shared : Bool := f.op = 1 || f.op = 3 || (f.op = 8 && f.be % 4 = 0) || (f.op = 0x12 && f.be % 4 ≠ 0)
    let who := if shared then (if d.excl then (if f.op = 1 then others else all) else []) else if f.op = 2 then others else all
    let who := if f.op = 0x12 ∧ f.be % 4 = 2 then [] else who
    if who.isEmpty then s.homeSnooped st { t with wait := .snoops [] } else s.homeSnoop st t (!shared) who .snoops line

/-- The slice serves requests (R37, R375). -/
def State.sliceOn (s : State) (st : Nat) : Bool := s.flag (pgSlice st) F.PAGE_STAT_ENABLED && !(s.slice st).dead

/-- Start a request that has its transaction: a maintenance INVAL asks the memory target first, since one that is refused has no effect
(R218). -/
def State.homeStart (s : State) (st : Nat) (t : HTx) : State := if t.req.op = 8 ∧ t.req.be % 4 = 1 then s.homeTell st t else s.homeGo st t

/-- A fresh number for a transaction. -/
def Slice.freshTx (x : Slice) : Nat := x.txs.foldl (fun n t => if n ≤ t.id then t.id + 1 else n) 0

/-- Bucket and lane a line is held under: those of its directory entry or LLC copy, else those the map gives it now (R355). -/
def State.lineAt (s : State) (st line : Nat) : Nat × Nat :=
  match tfind (s.slice st).dir line with
  | some d => (d.bucket, d.lane)
  | none => match tfind (s.slice st).llc line with
    | some l => (l.bucket, l.lane)
    | none => s.lineBucket line

/-- A line leaves an L2, or its owner cleans it and keeps it; data that a snoop has taken already are old (R350, R352, R363). -/
def State.homeBack (s : State) (st : Nat) (t : HTx) : State :=
  let f := t.req
  let owner : Bool := match tfind (s.slice st).dir t.line with | some d => d.excl && decide (d.sharers = [f.src.val]) | none => false
  let s := if f.pin then s else s.dirDrop st t.line f.src.val
  if f.be = 0 ∨ owner = false then s.homeDone st t fun s => s.replyAck st f .ok
  else if f.noalloc then (s.llcDrop st t.line).homeWriteWait st t f.payload (f.poison ≠ 0)
  else (s.llcPut st t.line (t.line' f.payload (f.poison ≠ 0) true)).homeDone st t fun s => s.replyAck st f .ok

/-- A read of a line gets room in the directory first: at once, or once a victim's copies have been called back (R351). -/
def State.homeEnter (s : State) (st : Nat) (t : HTx) : State :=
  let opened (s : State) : State := s.modSlice st fun x => { x with txs := x.txs ++ [t] }
  match s.dirVictim st t.line with
  | none => s
  | some (s, some (v, d)) => (opened s).homeSnoop st t true (s.dirTargets d) (.victim v) v
  | some (s, none) => (opened s).homeGo st t

/-- A request at its home slice (R352): one request for a line at a time, in order of arrival. A request that must wait changes
nothing. -/
def State.homeReq (s : State) (st : Nat) (f : Flit) : State :=
  let line := f.addr / 64
  let earlier := ((s.ni st).serv.takeWhile fun g => g ≠ f).any fun g => g.addr / 64 = line && (g.cls = 0 || g.op = 0x12) && g.src ≠ f.src
  if ¬ s.sliceOn st ∨ (s.slice st).txs.any (fun t => t.line = line || t.victim = some line) ∨ (earlier ∧ (s.ni st).serv.contains f) then s
  else
    let bl := s.lineAt st line
    let t : HTx := ⟨(s.slice st).freshTx, f, line, .snoops [], none, false, f.key, f.piste, false, bl.1, bl.2⟩
    let opened (s : State) : State := s.modSlice st fun x => { x with txs := x.txs ++ [t] }
    if f.op = 5 then (opened s).homeBack st t
    else if (f.op = 1 ∨ f.op = 2) ∧ f.be ≠ 0 then s.homeEnter st t
    else (opened s).homeStart st t

/-- An answer to a snoop, whole: data newer than memory with the key they are written under, and whether the tile keeps a shared copy. -/
def State.snoopAnswer (s : State) (st id tile : Nat) (got : Option (Line × Bool)) (kept nt : Bool) (key : Nat) : State :=
  match (s.slice st).txs.find? fun t => t.id = id with
  | none => s
  | some t =>
    let piste := if isTile tile then s.tilePiste tile else t.req.piste
    match t.wait with
    | .snoops owed =>
      if ¬ owed.contains tile then s
      else
        let s := if kept then
            (let x := s.slice st
             s.setSlice st { x with dir := match tfind x.dir t.line with | some d => tput x.dir t.line { d with excl := false } | none => x.dir })
          else s.dirDrop st t.line tile
        let t := { t with wait := .snoops (owed.filter (· ≠ tile)) }
        let t := if got.isSome then { t with got := got, nt := nt, key := key, piste := piste } else t
        let s := s.setTx st id (some t)
        if (owed.filter (· ≠ tile)).isEmpty then
          -- a coarse entry whose invalidation every tile has answered is gone
          let shared : Bool := t.req.op = 1 || t.req.op = 3 || (t.req.op = 8 && t.req.be % 4 = 0) || (t.req.op = 0x12 && t.req.be % 4 ≠ 0)
          let x := s.slice st
          let s := if shared then s else s.setSlice st { x with dir := match tfind x.dir t.line with
            | some d => if d.coarse.isSome then terase x.dir t.line else x.dir
            | none => x.dir }
          s.homeSnooped st t
        else s
    | .victim v owed =>
      if ¬ owed.contains tile then s
      else
        let s := match got with
          | some (d, p) =>
            if nt then s.sliceWriteMem st v d p key piste .memWb
            else
              let bl := match tfind (s.slice st).dir v with | some e => (e.bucket, e.lane) | none => (t.bucket, t.lane)
              s.llcPut st v ⟨d, p, true, 0, bl.1, bl.2, key, piste⟩
          | none => s
        let rest := owed.filter (· ≠ tile)
        let t := { t with wait := .victim v rest }
        let s := s.setTx st id (some t)
        if rest.isEmpty then
          let x := s.slice st
          (s.setSlice st { x with dir := terase x.dir v }).homeGo st { t with wait := .snoops [] }
        else s
    | .mem => s

/-- The memory target answered (R352). A maintenance request whose write-back was refused leaves the dirty data in the LLC (R218); one
that was performed is told to the target, whose answer ends it. -/
def State.homeMemRsp (s : State) (st id : Nat) (r : Resp) (d : Line) (poison : Bool) : State :=
  match (s.slice st).txs.find? fun t => t.id = id with
  | none => s
  | some t =>
    let f := t.req
    let act := f.be % 4
    if f.op = 8 then
      if t.wrote then
        (if act = 1 ∧ r = .ok then s.homeGo st t else s.homeDone st t fun s => s.replyAck st f r)
      else if r = .ok then (s.llcMaint st t act).homeTell st t
      else
        let s := match t.got with | some (d, p) => s.llcPut st t.line (t.line' d p true) | none => s
        s.homeDone st t fun s => s.replyAck st f r
    else if f.op = opDrain then s.setTx st t.id none
    else if f.op = 0x12 then s.biAnswer st t (if f.be % 4 = 0 then 0 else if (s.slice st).dirState t.line = 0 ∧ (tfind (s.slice st).llc t.line).isNone then 0 else 1)
    else if f.op = 5 ∨ ((f.op = 4 ∨ f.op = 6) ∧ (f.be = 2 ^ 64 - 1 ∨ f.noalloc)) then s.homeDone st t fun s => s.replyAck st f r
    else if r = .ok then s.homeFinish st t d poison false
    else s.homeDone st t fun s => s.replyAck st f r

/-- A poisoned answer for a snoop nobody answers (R442): the line is poisoned at the home slice. -/
def State.poisonHome (s : State) (st line : Nat) : State :=
  let x := s.slice st
  match tfind x.llc line with
  | some l => s.setSlice st { x with llc := tput x.llc line { l with poison := true } }
  | none =>
    let bl := s.lineBucket line
    s.llcPut st line ⟨0, true, true, 0, bl.1, bl.2, 0, 0⟩

/-! ### Drains -/

/-- A line or entry belongs to the lanes being drained (R358, R382). -/
def drainHit (d : Nat × Nat × Bool) (bucket lane : Nat) : Bool := d.2.2 || (bucket = d.1 && bitOf d.2.1 lane)

/-- GO of SLICE_DRAIN (R358, R382). -/
def State.drainGo (s : State) (st : Nat) : State :=
  let pg := pgSlice st
  if s.flag pg F.SLICE_DRAIN_STAT_BUSY then s.set pg F.SLICE_DRAIN_STAT_REJECT 0 1
  else
    let x := s.slice st
    ((s.set pg F.SLICE_DRAIN_STAT_BUSY 0 1).set pg F.SLICE_DRAIN_STAT_WRITTEN 0 0).setSlice st
      { x with drain := some (s.get pg F.SLICE_DRAIN_BUCKET 0, s.get pg F.SLICE_DRAIN_LANES 0, s.flag pg F.SLICE_DRAIN_ALL) }

/-- A write to memory that a slice has sent is not answered yet. -/
def State.memWbOut (s : State) (st : Nat) : Bool :=
  (s.ni st).reqs.any (fun q => q.org = .memWb) || (s.ni st).outst.any fun o => o.req.org = .memWb

/-- The work of a drain on one line: a transaction that invalidates every L2 copy and writes dirty data to memory (R358, R373). -/
def State.drainLine (s : State) (st line : Nat) (bl : Nat × Nat) : State :=
  let n : NiId := Fin.ofNat 194 st
  let f : Flit :=
    { op := opDrain, cls := 0, src := n, dst := n, tag := 0, epoch := false, piste := 0, key := 0, spec := false, poison := 0,
      status := .ok, noalloc := false, pin := false, addr := line * 64, be := 0, tkt := false, grant := false, cal := false,
      dlvc := false, route := 0, hop := 0, payload := 0 }
  let t : HTx := ⟨(s.slice st).freshTx, f, line, .snoops [], none, false, 0, 0, false, bl.1, bl.2⟩
  (s.modSlice st fun x => { x with txs := x.txs ++ [t] }).homeGo st t

/-- SLICE_DRAIN_DONE: a drain goes on. Once no other transaction of its lanes is left it works on every line and entry of them; with
none of either left, and every write answered, it is done (R358, R383). (DESIGN CHOICE, assumption 104) -/
def State.drainDone (s : State) (st : Nat) : State :=
  let x := s.slice st
  match x.drain with
  | none => s
  | some all =>
    let hit := drainHit all
    if x.txs.any fun t => hit t.bucket t.lane && t.req.op ≠ opDrain then s
    else
      let lines := (x.dir.filter fun e => hit e.2.bucket e.2.lane).map (fun e => (e.1, e.2.bucket, e.2.lane)) ++
        ((x.llc.filter fun e => hit e.2.bucket e.2.lane && (tfind x.dir e.1).isNone).map fun e => (e.1, e.2.bucket, e.2.lane))
      if !lines.isEmpty then
        (lines.filter fun l => !x.txs.any fun t => t.line = l.1 || t.victim = some l.1).foldl (fun (s : State) l => s.drainLine st l.1 l.2) s
      else if (x.txs.any fun t => hit t.bucket t.lane) || s.memWbOut st then s
      else
        let s := s.setSlice st { x with drain := none }
        (s.set (pgSlice st) F.SLICE_DRAIN_STAT_BUSY 0 0).set (pgSlice st) F.SLICE_DRAIN_STAT_DONE 0 1

/-- Counts a SLICE page shows (R351, R616). -/
def State.sliceView (s : State) (st : Nat) (f : Fld) : Option Nat :=
  if f.fid = F.SLICE_STAT_DIR_USED.fid then some (s.slice st).dir.length
  else if f.fid = F.SLICE_STAT_LLC_USED.fid then some (s.slice st).llc.length
  else none

end Sys2Proof.Machine
end

