-- ==== Sys2Proof/Machine/SysRegs.lean ====
section
/-! DEFINITION. The status registers of R136, R264 and R316, their rights, and the counters RDCNT names (R135-R144, R624). -/

namespace Sys2Proof.Machine

/-- Access of a status register. -/
inductive SrAcc where
  | none | ro | rw
deriving DecidableEq, Repr

/-- Which numbers are assigned, and how (R136, R264, R316). PMB_STAT, of which every field is RO (R289), is read-only as a whole. (DEDUCED,
assumption 112) -/
def srAcc (n : Nat) : SrAcc :=
  if n = 0x000 ∨ n = 0x102 ∨ n = 0x104 then .ro
  else if n = 0x001 ∨ n = 0x100 ∨ n = 0x101 ∨ n = 0x103 ∨ n = 0x108 ∨ n = 0x110 then .rw
  else if n = 0x200 ∨ n = 0x201 ∨ n = 0x202 ∨ n = 0x208 ∨ n = 0x209 ∨ n = 0x210 then .rw
  else .none

/-- The lowest level that reaches a number (R135). -/
def srLevel (n : Nat) : Nat := n / 256

/-- STATUS as a word (R265). -/
def Sr.status (r : Sr) : Nat := r.lvl + b2n r.ie * 4 + b2n r.fie * 8 + b2n r.ureach * 16

/-- The registers with IE, FIE and UREACH taken from a STATUS word, and LVL given. -/
def Sr.setStatus (r : Sr) (v lvl : Nat) : Sr := { r with lvl := lvl, ie := bitOf v 2, fie := bitOf v 3, ureach := bitOf v 4 }

/-- PMB_STAT as a word (R289). -/
def Sr.pmbStat (r : Sr) : Nat :=
  r.pmbResult % 2 ^ 32 * 2 ^ 32 + r.pmbSeq % 2 ^ 16 * 2 ^ 16 + b2n r.pmbLost * 8 + b2n r.pmbTimeout * 4 + b2n r.pmbDone * 2
    + b2n r.pmbBusy

/-- TILE_ID (R136). -/
def State.tileId (s : State) (st : Nat) : Nat := (s.stopLt st).getD 0 % 256 + s.tilePiste st % 64 * 2 ^ 16

/-- The value a status register reads as (R136, R137). -/
def State.srRead (s : State) (st : Nat) (n : Nat) : Word :=
  let r := (s.core st).sr
  match n with
  | 0x000 => wd (s.tileId st)
  | 0x001 => r.tp
  | 0x100 => wd r.status
  | 0x101 => r.sVbase
  | 0x102 => wd r.depth
  | 0x103 => 0
  | 0x104 => wd r.pmbStat
  | 0x108 => r.sXlat
  | 0x110 => r.sscratch
  | 0x200 => r.hVbase
  | 0x201 => r.hEdeleg
  | 0x202 => wd r.hIdeleg
  | 0x208 => r.hXlat
  | 0x209 => r.hGxlat
  | 0x210 => r.hscratch
  | _ => 0

/-- A MODE field as written: values other than 8 and 9 become 0 (R316). -/
def xlModeIn (v : Word) : Nat := if bitsOf v.toNat 60 4 = 8 ∨ bitsOf v.toNat 60 4 = 9 then bitsOf v.toNat 60 4 else 0

/-- A written S_XLAT or H_XLAT, reserved bits zero (R316). -/
def xlatIn (v : Word) : Word := wd (xlModeIn v * 2 ^ 60 + v.toNat % 2 ^ 56)
/-- A written H_GXLAT (R316). -/
def gxlatIn (v : Word) : Word :=
  wd (xlModeIn v * 2 ^ 60 + bitsOf v.toNat 44 12 * 2 ^ 44 + v.toNat % 2 ^ 40)
/-- A written vector base: bits [7:0] read zero (R266). -/
def vbaseIn (v : Word) : Word := wd (v.toNat / 256 * 256)

/-- The registers after a write of a number (R137, R265-R269, R316); PMB_RING is no stored register. -/
def Sr.write (r : Sr) (n : Nat) (v : Word) : Sr :=
  match n with
  | 0x001 => { r with tp := v }
  | 0x100 => r.setStatus v.toNat r.lvl
  | 0x101 => { r with sVbase := vbaseIn v }
  | 0x108 => { r with sXlat := xlatIn v }
  | 0x110 => { r with sscratch := v }
  | 0x200 => { r with hVbase := vbaseIn v }
  | 0x201 => { r with hEdeleg := v }
  | 0x202 => { r with hIdeleg := v.toNat % 16 }
  | 0x208 => { r with hXlat := xlatIn v }
  | 0x209 => { r with hGxlat := gxlatIn v }
  | 0x210 => { r with hscratch := v }
  | _ => r

/-- The value SRW, SRSET or SRCLR leaves (R137): `op` 0, 1, 2. -/
def srNew (op : Nat) (old v : Word) : Word := if op = 0 then v else if op = 1 then old ||| v else old &&& ~~~v

/-- RDCNT numbers that name a counter (R144). -/
def cntAssigned (n : Nat) : Bool := n < 4 || (8 ≤ n && n < 16)
/-- The UCNT bit that grants a counter to level U (R624). -/
def cntRight (n : Nat) : Nat := if n < 4 then n else n - 4
/-- The counter RDCNT reads (R144). -/
def State.cntRead (s : State) (st n : Nat) : Word :=
  if n < 4 then wd (s.get (pgPmu st) F.PMU_FIX_COUNT n) else wd (s.get (pgPmu st) F.PMU_CNT_COUNT (n - 8))

/-- FAULT_INFO of an illegal operation or privilege fault (R146). -/
def illInfo (num reason word : Nat) : Nat := num * 2 ^ 40 + reason * 2 ^ 32 + word % 2 ^ 32

/-- FAULT_INFO of a memory access or poison fault (R217). -/
def memInfo (size type istride : Nat) (older deferred atomic half : Bool) (kind : Nat) : Nat :=
  size % 256 * 2 ^ 16 + type * 2 ^ 13 + istride * 2 ^ 8 + b2n older * 128 + b2n deferred * 64 + b2n atomic * 32 + b2n half * 16 + kind

/-- FAULT_INFO of a consumed mark (R214, R217). -/
def Mark.info (m : Mark) : Nat :=
  memInfo m.size m.atype (if m.older then 0 else m.istride) m.older true m.atomic m.half m.kind
/-- The cause of a consumed mark (R214). -/
def Mark.cause (m : Mark) : Nat := if m.kind = 5 then 0x09 else 0x08

/-- FAULT_INFO of a contract fault (R103). -/
def contractInfo (pslot pstride reg rclass kind : Nat) : Nat :=
  pslot * 2 ^ 21 + pstride * 2 ^ 16 + reg * 2 ^ 8 + rclass * 16 + kind

end Sys2Proof.Machine
end

