-- ==== Sys2Proof/Machine/Exec.lean ====
section
/-! DEFINITION. The results and flags of the operations of slots A, B and V, as one function of the registers a stride reads
(R124-R132, R133-R145, R229-R254). -/

namespace Sys2Proof.Machine

/-- An operation of a stride, with its slot and the payload of an IMX in front of it. -/
structure SlotOp where
  slot : Nat
  word : Nat
  x : OpW
  imx : Option Nat
deriving DecidableEq, Repr

/-- The 36-bit or 10-bit immediate, sign-extended to 64 bits (R118, R119). -/
def SlotOp.imm (o : SlotOp) : Word :=
  match o.imx with
  | some X => BitVec.ofInt 64 (sext (X * 1024 + o.x.imm10) 36)
  | none => BitVec.ofInt 64 (sext o.x.imm10 10)

/-- An integer specifier as a destination (R116). -/
def iDest (x : Nat) : Dest := if x < 32 then .g x else .e (x - 32)

/-- A plain result. -/
def Res.mk' (d : Dest) (v : VWord) : Res := ⟨d, v, none, none, none, none⟩
/-- A 64-bit result for an integer specifier. -/
def resI (x : Nat) (v : Word) : Res := .mk' (iDest x) (v.setWidth 256)
/-- A predicate result. -/
def resP (n : Nat) (b : Bool) : Res := .mk' (.p n) (BitVec.ofNat 256 (b2n b))
/-- A scalar FP result: bits [255:64] cleared (R224, R225). -/
def resF (n v : Nat) : Res := .mk' (.v n) (BitVec.ofNat 256 (v % 2 ^ 64))

/-- A VCFG result, packed as R227 lays it out. -/
def resCfg (c : Vcfg) : Res := .mk' .vcfg (BitVec.ofNat 256 (c.vl + c.scode * 256 + c.gcode * 1024))

/-- VCFG as the 64-bit value of R227. -/
def Vcfg.word (c : Vcfg) : Word := wd (c.vl + c.scode * 256 + c.gcode * 1024)

/-- The VCFG that SETVL makes (R229). -/
def setvlCfg (a : Word) (f : Nat) : Vcfg :=
  let c : Vcfg := ⟨0, f % 4, f / 4⟩
  { c with vl := min a.toNat c.vlmax }

/-- The VCFG that VCFGW writes (R230). -/
def vcfgwCfg (a : Word) : Vcfg :=
  let g := bitsOf a.toNat 10 2
  let c : Vcfg := ⟨0, bitsOf a.toNat 8 2, if g = 3 then 0 else g⟩
  { c with vl := min (bitsOf a.toNat 0 8) c.vlmax }

/-- The destination registers of a group result; nothing is written when VL is 0 (R232). -/
def grpRes (c : Vcfg) (d : Nat) (old new : Nat → Nat) : List Res :=
  if c.vl = 0 then []
  else
    let grp := packGroup c.sew c.g (vdest c 0 old new)
    (List.range c.g).map fun r => .mk' (.v (d + r)) (lget grp r 0)

/-- What an operation reads, resolved: registers, FSTAT, and the carve address. -/
structure Ops where
  a : Word
  b : Word
  pa : Bool
  pb : Bool
  /-- Vector groups of A, B and D as element functions. -/
  va : Nat → Nat
  vb : Nat → Nat
  vd : Nat → Nat
  /-- Bits [63:0] of fA, fB, fD. -/
  fa : Nat
  fb : Nat
  fd : Nat
  cfg : Vcfg
  rm : Nat
  carve : Nat

/-- The operands of an operation as its stride reads them (R59, R65). -/
def Core.operands (c : Core) (k : Nat) (x : OpW) : Ops :=
  let cfg := c.rdCfg k
  { a := (c.rdI k x.a).v, b := (c.rdI k x.b).v, pa := c.rdP k (x.a % 8), pb := c.rdP k (x.b % 8),
    va := elemAt (c.rdGrp k x.a cfg.g) cfg.sew, vb := elemAt (c.rdGrp k x.b cfg.g) cfg.sew,
    vd := elemAt (c.rdGrp k x.d cfg.g) cfg.sew,
    fa := (c.rdV k x.a).v.toNat % 2 ^ 64, fb := (c.rdV k x.b).v.toNat % 2 ^ 64, fd := (c.rdV k x.d).v.toNat % 2 ^ 64,
    cfg := cfg, rm := rmode c.arch.fstat, carve := (c.sta k).addr }

/-- Results of the integer and predicate operations (R124-R132). -/
def intRes (o : SlotOp) (r : Ops) : List Res :=
  let x := o.x
  if x.o = 0x00 then [resI x.d (aluVal x.f r.a r.b)]
  else if x.o = 0x01 then [resI x.d (shiftVal x.f r.a r.b)]
  else if x.o = 0x02 then [resI x.d (mulVal x.f r.a r.b)]
  else if x.o = 0x03 then [resI x.d (divVal x.f r.a r.b)]
  else if 0x08 ≤ x.o ∧ x.o ≤ 0x0B then [resI x.d (immVal x.o r.a o.imm)]
  else if 0x0C ≤ x.o ∧ x.o ≤ 0x0F then [resI x.d (immVal x.o r.a (wd x.imm10))]
  else if x.o = 0x20 then [resP x.d (cmpVal x.f r.a r.b)]
  else if 0x21 ≤ x.o ∧ x.o ≤ 0x26 then [resP x.d (cmpVal (x.o - 0x21) r.a o.imm)]
  else if x.o = 0x27 then
    if x.f < 7 then [resP x.d (plogVal x.f r.pa r.pb)]
    else if x.f = 7 then [resI x.d (wd (b2n r.pa))]
    else [resP x.d (r.a ≠ 0)]
  else if 0x28 ≤ x.o ∧ x.o ≤ 0x2A then [resI x.d (constVal x.o (toBits (o.imm.toInt) 36) o.imm r.a (wd r.carve))]
  else []

/-- Results and flags of the scalar FP operations (R246-R248). -/
def fpRes (o : SlotOp) (r : Ops) : List Res × Nat :=
  let x := o.x
  if 0x60 ≤ x.o ∧ x.o ≤ 0x63 then
    let t := x.o - 0x60
    let a := unbox t r.fa
    let b := unbox t r.fb
    if x.f < 9 then
      let v := fpBin t r.rm x.f a b
      ([resF x.d (box t v.1)], v.2)
    else if x.f = 9 then
      let v := sqrtV t r.rm (fpDec t a)
      ([resF x.d (box t v.1)], v.2)
    else if x.f = 10 then
      let v := rndV t r.rm a
      ([resF x.d (box t v.1)], v.2)
    else ([resI x.d (wd (kindV t a))], 0)
  else if x.o = 0x64 then
    let t := x.f / 4
    let v := fpFma t r.rm x.f (unbox t r.fa) (unbox t r.fb) (unbox t r.fd)
    ([resF x.d (box t v.1)], v.2)
  else if x.o = 0x65 then
    let t := x.f / 4
    let v := fpCmp t x.f (unbox t r.fa) (unbox t r.fb)
    ([resI x.d (wd (b2n v.1))], v.2)
  else if x.o = 0x66 then
    let v := fpCvt r.rm (x.f % 4) (x.f / 4) (unbox (x.f % 4) r.fa)
    ([resF x.d (box (x.f / 4) v.1)], v.2)
  else if x.o = 0x67 then
    let n : Int := match x.f % 4 with
      | 0 => sext r.a.toNat 32
      | 1 => ((r.a.toNat % 2 ^ 32 : Nat) : Int)
      | 2 => r.a.toInt
      | _ => (r.a.toNat : Int)
    let v := fpOfInt (x.f / 4) r.rm n
    ([resF x.d (box (x.f / 4) v.1)], v.2)
  else if x.o = 0x68 then
    let t := x.f % 4
    let w := if x.f / 4 < 2 then 32 else 64
    let v := fpToInt t w (x.f / 4 % 2 = 0) (unbox t r.fa)
    ([resI x.d (BitVec.ofInt 64 v.1)], v.2)
  else if x.f = 0 then ([resI x.d (wd r.fa)], 0)
  else ([resF x.d r.a.toNat], 0)

/-- Results and flags of the vector operations of slot V (R249-R254). -/
def vecRes (o : SlotOp) (r : Ops) : List Res × Nat :=
  let x := o.x
  let c := r.cfg
  let fmt := (vfpFmt c x.f).getD 0
  let bx : Nat → Nat := fun _ => r.b.toNat % 2 ^ c.sew
  let bf : Nat → Nat := fun _ => unbox fmt r.fb
  if x.o = 0x73 then
    if x.f = 10 then ([resI x.d (wd (if c.vl = 0 then 0 else r.va (r.b.toNat % c.vl)))], 0)
    else
      -- at 16 bits the canonical NaN of an unboxed value is that of FP16 or of BF16; VFDUP names neither (R225, R240)
      let fb := match c.scode with
        | 0 => r.fb % 256
        | 1 => if bitsOf r.fb 16 48 = 2 ^ 48 - 1 then r.fb % 2 ^ 16 else if Config.boxFill 16 (r.fb % 2 ^ 64) % 2 = 0 then 0x7E00 else 0x7FC0
        | 2 => unbox 1 r.fb
        | _ => unbox 0 r.fb
      (grpRes c x.d r.vd (vpermEl x.f c r.va r.vb r.b.toNat fb), 0)
  else if x.o = 0x74 ∨ x.o = 0x75 then
    let v := reduceVal x.o x.f c r.rm r.va (r.vb 0)
    ([.mk' (.v x.d) (BitVec.ofNat 256 (v.1 % 2 ^ c.sew))], v.2)
  else
    let second : Nat → Nat :=
      if x.o = 0x6B then bx
      else if x.o = 0x6C ∧ x.f = 1 then bx
      else if x.o = 0x6E then bf
      else if (x.o = 0x6F ∨ x.o = 0x72) ∧ bitOf x.f 2 then bf
      else if x.o = 0x70 ∧ x.f % 8 = 1 then bf
      else r.vb
    let el := fun i => varithEl x.o x.f c r.rm (r.va i) (second i) (r.vd i)
    (grpRes c x.d r.vd (fun i => (el i).1), vflags c.vl (fun i => (el i).2))

/-- The link a taken call writes (R153). -/
def linkRes (fall : Nat) : List Res := [.mk' (.g 1) (BitVec.ofNat 256 fall)]

/-- Results and flags of the operations of slot B that read the core (R133, R144, R145, R229, R230). -/
def State.sysRes (s : State) (st : Nat) (o : SlotOp) (r : Ops) : List Res :=
  let x := o.x
  if x.o = 0x2C then
    let c := setvlCfg r.a x.f
    [resI x.d (wd c.vl), resCfg c]
  else if x.o = 0x2D then
    match x.f with
    | 0 => [resI x.d r.cfg.word]
    | 1 => [resCfg (vcfgwCfg r.a)]
    | 2 => [resI x.d (wd (s.core st).arch.fstat)]
    | _ => []
  else if x.o = 0x30 ∨ x.o = 0x32 ∨ x.o = 0x33 then [resI x.d (s.srRead st x.imm10)]
  else if x.o = 0x39 then [resI x.d (s.cntRead st x.imm10)]
  else if x.o = 0x3A then [resI x.d (wd s.chrono)]
  else []

/-- Results and flags of any operation that is no memory operation and no exit. (DESIGN CHOICE, assumption 89) -/
def State.opRes (s : State) (st : Nat) (o : SlotOp) (r : Ops) : List Res × Nat :=
  if o.x.o < 0x2C then (intRes o r, 0)
  else if o.x.o < 0x40 then (s.sysRes st o r, 0)
  else if o.x.o < 0x6A then fpRes o r
  else vecRes o r

end Sys2Proof.Machine
end

