-- ==== Sys2Proof/Machine/Stride.lean ====
section
/-! DEFINITION. What a stride checks before it issues: the operations of a stride, illegal and privilege faults, the timing
contract, consumed marks, and the addresses of memory operations (R101-R123, R146, R147, R213-R217, R255-R260). -/

namespace Sys2Proof.Machine

/-- The present slots of stride `s` with their words (R46, R50). -/
def Stn.strideWords (x : Stn) (s : Nat) : List (Nat × Nat) :=
  let before := ((List.range (4 * s)).filter fun b => bitOf x.hdr.pmap b).length
  let slots := (List.range 4).filter fun j => bitOf x.hdr.pmap (4 * s + j)
  slots.mapIdx fun i j => (j, lget x.ops (before + i) 0)

/-- Pair each operation with the payload of an IMX in the present slot before it (R120). (DEDUCED, assumption 19) -/
def pairOps : Option Nat → List (Nat × Nat) → List SlotOp
  | _, [] => []
  | pre, (sl, w) :: t =>
    ⟨sl, w, OpW.ofWord w, if isImx w then none else pre⟩ :: pairOps (if isImx w then some (imxPayload w) else none) t

/-- The IMX reasons of R120 and R146: 7 names the IMX, 8 its target. (DEDUCED, assumption 19) -/
def imxReason (c : Vcfg) (o : SlotOp) (next : Option SlotOp) : Option Nat :=
  if isImx o.word then
    if 2 ≤ o.slot then some 3
    else match next with
      | none => some 7
      | some n => if isImx n.word then some 7 else none
  else if o.imx.isSome then
    match fmtOf o.x.o o.x.f c with
    | some m => if m.ext then none else some 8
    | none => none
  else none

/-- The smaller of two reasons. -/
def minReason : Option Nat → Option Nat → Option Nat
  | some a, some b => some (if a ≤ b then a else b)
  | some a, none => some a
  | none, b => b

/-- The operation runs: its guard is true (R114); an IMX has no guard. -/
def Core.ranOp (c : Core) (k : Nat) (o : SlotOp) : Bool := isImx o.word || c.rdP k o.x.p

/-- Illegal reasons a word has whether or not it runs (R120, R123, R140, R146). -/
def decodeReason (x : Stn) (c : Vcfg) (o : SlotOp) (next : Option SlotOp) : Option Nat :=
  let place :=
    if o.x.o = 0x36 ∧ o.x.f < 2 then (if x.ptr ≠ x.hdr.nstr then some 9 else none)
    else if o.x.o = 0x37 then
      (if x.ptr ≠ x.hdr.nstr ∨ x.ops.any (fun w => isExitOp (OpW.ofWord w).o) then some 9 else none)
    else none
  minReason (minReason (illegalReason o.slot o.x c) (imxReason c o next)) place

/-- Illegal reasons that the number an operation names has, whether or not it runs (R135, R144), and UDF where it runs (R142); with the
number they report. -/
def runReason (o : SlotOp) (ran : Bool) : Option (Nat × Nat) :=
  let n := o.x.imm10
  if o.x.o = 0x30 then (if srAcc n = .none then some (0x0A, n) else none)
  else if 0x31 ≤ o.x.o ∧ o.x.o ≤ 0x33 then
    (if srAcc n = .none then some (0x0A, n) else if srAcc n = .ro then some (0x0B, n) else none)
  else if o.x.o = 0x39 then (if cntAssigned n then none else some (0x0C, n))
  else if ran ∧ o.x.o = 0x36 ∧ o.x.f = 3 then some (0x0D, 0)
  else none

/-- The privilege reason of an operation that runs (R135, R140, R144, R339, R365, R624). -/
def State.privReason (s : State) (st : Nat) (o : SlotOp) (b : Word) : Option (Nat × Nat) :=
  let lvl := (s.core st).sr.lvl
  let n := o.x.imm10
  if 0x30 ≤ o.x.o ∧ o.x.o ≤ 0x33 then (if lvl < srLevel n then some (0x10, n) else none)
  else if o.x.o = 0x39 then
    (if lvl = 0 ∧ ¬ bitOf (s.get (pgPmu st) F.PMU_CTL_UCNT 0) (cntRight n) then some (0x11, n) else none)
  else if o.x.o = 0x36 ∧ o.x.f < 2 then (if lvl ≠ o.x.f then some (0x12, 0) else none)
  else if o.x.o = 0x37 then (if lvl ≠ o.x.f + 1 then some (0x13, 0) else none)
  else if o.x.o = 0x5C then
    if lvl = 0 then some (0x10, 0x108)
    else if lvl = 1 ∧ o.x.f % 4 < 2 ∧ bitOf b.toNat 28 then some (0x10, 0x208)
    else if lvl = 1 ∧ o.x.f % 4 < 3 ∧ bitOf o.x.f 3 then some (0x10, 0x209)
    else none
  else if o.x.o = 0x5B then
    (if lvl = 0 ∧ (o.x.f / 4 = 2 ∨ o.x.f % 4 = 3) then some (0x10, 0x100) else none)
  else none

/-! ### The contract (R101-R103) -/

/-- RCLASS and REG of a register (R103). -/
def Dest.code : Dest → Nat × Nat
  | .g n => (0, n) | .e n => (0, 32 + n) | .p n => (1, n) | .v n => (2, n) | .vcfg => (3, 0) | .none => (0, 0)

/-- A register whose writes are discarded (R51, R56). -/
def Dest.discards : Dest → Bool
  | .g n => n = 0 | .p n => n = 0 | _ => false

/-- A register that is vector state (R52). -/
def Dest.isVec : Dest → Bool
  | .v _ => true | .vcfg => true | _ => false

/-- EARLY_READ for edges and predicates, SHADOW_READ for the rest (R101). -/
def Dest.shadowKind : Dest → Nat
  | .e _ => 3 | .p _ => 3 | _ => 4

/-- A register read that the header does not declare and the carve has not written (R101). -/
def Stn.undeclRead (x : Stn) : Dest → Bool
  | .g n => n ≠ 0 && !bitOf x.hdr.ird n && !(bitOf x.hdr.iwr n && (tfind x.gw n).isSome)
  | .v n => !bitOf x.hdr.vrd n && !(bitOf x.hdr.vwr n && (tfind x.vw n).isSome)
  | _ => false

/-- A register write that the header does not declare (R101). -/
def Stn.undeclWrite (x : Stn) : Dest → Bool
  | .g n => n ≠ 0 && !bitOf x.hdr.iwr n
  | .v n => !bitOf x.hdr.vwr n
  | _ => false

/-- The fixed-latency producer whose shadow covers a register. -/
def Stn.shadow (x : Stn) (d : Dest) : Option Pend := x.pend.find? fun p => p.lat.isSome && p.dsts.contains d

/-- The registers an operation reads, its guard first, and VCFG where it uses it. -/
def opReads (o : SlotOp) (m : Fmt) (c : Vcfg) : List Dest :=
  (if o.x.p = 0 then [] else [Dest.p o.x.p]) ++ readRefs o.x m c ++ (if m.rc then [Dest.vcfg] else [])

/-- Fixed-latency destinations of the other operations of the stride. -/
def otherFixed (c : Vcfg) (ops : List SlotOp) (o : SlotOp) : List (Nat × Dest) :=
  (ops.filter fun q => q.slot ≠ o.slot && !isImx q.word).flatMap fun q =>
    match fmtOf q.x.o q.x.f c with
    | some m => (match m.lat with
      | .fixed _ => (writeRefs q.x m c).map fun d => (q.slot, d)
      | _ => [])
    | none => []

/-- The contract fault of an operation, the lowest KIND it breaks (R101-R103); `lq` and `sq` are the queue entries it takes. Of several registers
that break one KIND the guard comes first, then D, A, B and VCFG; g0 as the destination of a fixed-latency operation has a shadow, but no two
writes of g0 or p0 meet. (DESIGN CHOICE, assumption 110) -/
def contractFault (x : Stn) (checking : Bool) (c : Vcfg) (ops : List SlotOp) (o : SlotOp) (m : Fmt) (lq sq : Nat) : Option Nat :=
  let rd := opReads o m c
  let wr := writeRefs o.x m c
  let info (d : Dest) (kind : Nat) : Nat := contractInfo 0 0 d.code.2 d.code.1 kind
  let prod (p : Pend) (d : Dest) (kind : Nat) : Nat := contractInfo p.slot p.stride d.code.2 d.code.1 kind
  match wr.find? fun d => x.undeclWrite d with
  | some d => some (info d 1)
  | none =>
  match (if checking then rd.find? fun d => x.undeclRead d else none) with
  | some d => some (info d 2)
  | none =>
  let sh := if checking then rd.filterMap fun d => (x.shadow d).map fun p => (p, d) else []
  match sh.find? fun e => e.2.shadowKind = 3 with
  | some (p, d) => some (prod p d 3)
  | none =>
  match sh.head? with
  | some (p, d) => some (prod p d 4)
  | none =>
  match (if x.hdr.vec then none else (rd ++ wr).find? Dest.isVec) with
  | some d => some (info d 5)
  | none =>
  let others := otherFixed c ops o
  let dbl := if checking then wr.filterMap fun d =>
      if d.discards then none
      else match x.shadow d with
        | some p => some (prod p d 6)
        | none => (others.find? fun e => e.2 = d).map fun e => contractInfo e.1 x.ptr d.code.2 d.code.1 6
    else []
  match dbl with
  | i :: _ => some i
  | [] =>
  if 256 < x.lq + lq then some (contractInfo 0 0 0 0 8)
  else if 192 < x.sq + sq then some (contractInfo 0 0 1 0 8)
  else none

/-! ### Marks (R213-R215, R260) -/

/-- The marks of the quarters of a group that hold the elements listed. -/
def Core.elemMark (c : Core) (k n : Nat) (cfg : Vcfg) (els : List Nat) : Option Mark :=
  els.findSome? fun i =>
    let per := 256 / cfg.sew
    (c.rdV k (n + i / per)).mark (i % per * cfg.sew / 64)

/-- The elements a permute reads of A and of B (R252). -/
def permReads (f vl : Nat) (n : Nat) (B : Nat → Nat) : List Nat × List Nat :=
  let is := List.range vl
  let lt (l : List Nat) : List Nat := l.filter (· < vl)
  let ev := is.filter fun i => i % 2 = 0
  let od := is.filter fun i => i % 2 = 1
  let cat (g : Nat → Nat) : List Nat × List Nat :=
    (lt (is.map g), ((is.map g).filter fun j => vl ≤ j && j < 2 * vl).map (· - vl))
  match f with
  | 0 => ((is.filter fun i => n ≤ i).map (· - n), [])
  | 1 => (lt (is.map (· + n)), [])
  | 2 => (lt (is.map B), is)
  | 3 => (lt (ev.map (· / 2)), lt (od.map fun i => (i - 1) / 2))
  | 4 => (lt (ev.map fun i => vl / 2 + i / 2), lt (od.map fun i => vl / 2 + (i - 1) / 2))
  | 5 => cat fun i => 2 * i
  | 6 => cat fun i => 2 * i + 1
  | 7 => (is, [])
  | 10 => (if vl = 0 then [] else [n % vl], [])
  | _ => ([], [])

/-- The mark a field consumes. -/
def Core.fieldMark (c : Core) (k : Nat) (kind : OK) (x : Nat) (cfg : Vcfg) (els : List Nat) : Option Mark :=
  match kind with
  | .i => (c.rdI k x).m
  | .pr => (match (c.rdI k x).m with | some m => some m | none => (c.rdI k (x + 1)).m)
  | .s => (c.rdV k x).m0
  | .v => c.elemMark k x cfg els
  | _ => none

/-- The opcode is a store: its D is data, which carries a mark without consuming it (R179, R215). -/
def isStoreOp (o f : Nat) : Bool :=
  (0x4A ≤ o && o ≤ 0x50) || o = 0x52 || o = 0x54 || o = 0x5E || (o = 0x5F && (f = 1 || f = 3))

/-- The mark an operation that runs consumes, D first, then A, then B (R214). -/
def Core.consumed (c : Core) (k : Nat) (o : SlotOp) (m : Fmt) : Option Mark :=
  let cfg := c.rdCfg k
  let x := o.x
  let all := List.range cfg.vl
  let els : List Nat × List Nat :=
    if x.o = 0x73 then permReads x.f cfg.vl (c.rdI k x.b).v.toNat (c.operands k x).vb
    else if x.o = 0x5F then ([], all.filter fun i => (c.sta k).vstart ≤ i)
    else (all, all)
  let d := if (m.du = .rd ∨ m.du = .rw) ∧ ¬ isStoreOp x.o x.f then c.fieldMark k m.d x.d cfg all else none
  match d with
  | some a => some a
  | none => match c.fieldMark k m.a x.a cfg els.1 with
    | some a => some a
    | none => c.fieldMark k m.b x.b cfg els.2

/-! ### Addresses -/

/-- The opcode is a load (R181, R182, R255). -/
def isLoadOp (o f : Nat) : Bool :=
  (0x40 ≤ o && o ≤ 0x49) || o = 0x51 || o = 0x53 || o = 0x5D || (o = 0x5F && (f = 0 || f = 2))
/-- The opcode is an atomic. -/
def isAtomOp (o : Nat) : Bool := 0x55 ≤ o && o ≤ 0x59
/-- The opcode is a vector memory operation. -/
def isVmemOp (o : Nat) : Bool := 0x5D ≤ o && o ≤ 0x5F

/-- The effective address, or the base of a vector access (R178, R255). -/
def memAddr (o : SlotOp) (r : Ops) : Nat :=
  if (0x40 ≤ o.x.o ∧ o.x.o ≤ 0x50) ∨ o.x.o = 0x5A ∨ o.x.o = 0x5D ∨ o.x.o = 0x5E then (r.a + o.imm).toNat
  else if o.x.o = 0x51 ∨ o.x.o = 0x52 then (r.a + r.b).toNat
  else r.a.toNat

/-- Bytes of a scalar access. -/
def memSize (o : SlotOp) : Nat :=
  if isAtomOp o.x.o then atomBytes o.x.o o.x.f else kindBytes (kindOf o.x.o o.x.f)

/-- One part of an access, inside one line. -/
structure Part where
  el : Nat
  va : Nat
  off : Nat
  len : Nat
deriving DecidableEq, Repr

/-- The address of element `i` of a strided or indexed access (R255). -/
def elemAddr (o : SlotOp) (r : Ops) (i : Nat) : Nat :=
  if o.x.f < 2 then (r.a.toNat + i * r.b.toNat) % 2 ^ 64
  else (r.a.toNat + r.vb i * (r.cfg.sew / 8)) % 2 ^ 64

/-- The parts of a memory operation, in ascending order of bytes or elements. -/
def memParts (o : SlotOp) (r : Ops) (vstart : Nat) : List Part :=
  let esz := r.cfg.sew / 8
  if o.x.o = 0x5D ∨ o.x.o = 0x5E then
    let lo := vstart * esz
    (splitLines ((memAddr o r + lo) % 2 ^ 64) lo (r.cfg.vl * esz - lo) 20).map fun p => ⟨p.2.1 / esz, p.1, p.2.1, p.2.2⟩
  else if o.x.o = 0x5F then
    ((List.range r.cfg.vl).filter fun i => vstart ≤ i).flatMap fun i =>
      (splitLines (elemAddr o r i) (i * esz) esz 3).map fun p => ⟨i, p.1, p.2.1, p.2.2⟩
  else if o.x.o = 0x5A ∨ o.x.o = 0x5B then [⟨0, memAddr o r, 0, 1⟩]
  else (splitLines (memAddr o r) 0 (memSize o) 3).map fun p => ⟨0, p.1, p.2.1, p.2.2⟩

/-- Load-queue and store-queue entries an operation takes (R71, R257, R366). -/
def memEntries (o : SlotOp) (r : Ops) (vstart : Nat) : Nat × Nat :=
  let x := o.x
  let n := if x.o = 0x5D ∨ x.o = 0x5E then (memParts o r vstart).length
    else if x.o = 0x5F then r.cfg.vl - vstart else 1
  if isLoadOp x.o x.f ∨ isAtomOp x.o then (n, 0)
  else if isStoreOp x.o x.f ∨ x.o = 0x5B then (0, n)
  else (0, 0)

/-- A part that has been translated: physical address, type, key. -/
structure XPart where
  part : Part
  pa : Nat
  ty : Nat
  key : Nat
deriving DecidableEq, Repr

/-- How translating the parts of an access ended. -/
inductive XStop where
  | fin
  | miss (va : Nat)
  | needD (va : Nat)
  | tfault (cause info va el : Nat)
  /-- A failed check of R187, R192, R194, R198, R275 or R399: KIND and the part. -/
  | afault (kind ty : Nat) (p : Part)
deriving DecidableEq, Repr

/-- The check of a part once its type is known (R187, R190, R194, R198, R258, R275). -/
def State.typeCheck (s : State) (st : Nat) (o : SlotOp) (va0 ty pa : Nat) (p : Part) : Option Nat :=
  let size := memSize o
  let dev := ty = 3 || ty = 4
  if o.x.o = 0x5A ∨ o.x.o = 0x5B then (if 6 ≤ ty ∧ o.x.o = 0x5B then some 7 else none)
  else if 6 ≤ ty then some 7
  else if isAtomOp o.x.o ∧ ¬ (ty = 0 ∨ ty = 1 ∨ ty = 5) then some 7
  else if isAtomOp o.x.o ∧ va0 % size ≠ 0 then some 8
  else if dev ∧ isVmemOp o.x.o then some 7
  else if dev ∧ va0 % size ≠ 0 then some 6
  else if ty = 5 ∧ ¬ inPadWin pa then some 9
  else if ty = 5 ∧ s.padLocalDenied st (pa % 2 ^ 18) p.len (isStoreOp o.x.o o.x.f || isAtomOp o.x.o) then some 2
  else none

/-- Translate and check the parts of an access in order, up to the first that does not pass (R201, R202, R259). -/
def State.xParts (s : State) (st : Nat) (c : Core) (k : Nat) (o : SlotOp) (acc : Acc) (va0 : Nat) :
    List Part → List XPart → List XPart × XStop
  | [], done => (done, .fin)
  | p :: t, done =>
    match s.xlate st c p.va acc with
    | .miss =>
      match c.walkFault p.va acc (some k) with
      | some (cause, info) => (done, .tfault cause info p.va p.el)
      | none => (done, .miss p.va)
    | .needD => (done, .needD p.va)
    | .fault cause info _ => (done, .tfault cause info p.va p.el)
    | .ok pa ty key =>
      match s.typeCheck st o va0 ty pa p with
      | some kind => (done, .afault kind ty p)
      -- the local pad is reached by PA[17:0] alone (R194)
      | none => s.xParts st c k o acc va0 t (done ++ [⟨p, if ty = 5 then s.ownPadPa st pa else pa, ty, key⟩])

/-- The access code of a memory operation (R322, R324, R365). -/
def memAcc (o : SlotOp) (lvl : Nat) : Acc :=
  let x := o.x
  if isStoreOp x.o x.f then 2
  else if isAtomOp x.o then 3
  else if x.o = 0x5A then (if x.d % 4 = 3 then 3 else 1)
  else if x.o = 0x5B then (if x.f % 4 = 1 ∧ lvl ≠ 0 then 3 else 1)
  else 1

end Sys2Proof.Machine
end

