-- ==== Sys2Proof/Machine/Issue.lean ====
section
/-! DEFINITION. Issuing a stride: holds, faults, memory operations, results, exits and the squashes they cause (R64-R66, R72,
R73, R77, R78, R143, R155-R165, R188, R197-R211, R286). -/

namespace Sys2Proof.Machine

/-- An untimed event of a groomed core (R106, R112). -/
def State.untimed (s : State) (st : Nat) : State :=
  if (s.core st).groomed then (s.satInc (pgCore st) F.CORE_UNTIMED_COUNT).coreEvent st 0x1A 1 else s

/-- A TLB misses and a walk starts, where none for it runs yet; both are counted, and the miss is an untimed event (R106, R331, R616). -/
def State.missWalk (s : State) (st code va : Nat) (acc : Acc) (stn : Option Nat) (spec pref : Bool) : State :=
  let c := (s.core st).startWalk va acc stn spec pref
  if c.walks = (s.core st).walks then s
  else (((s.setCore st c).untimed st).coreEvent st code 1).coreEvent st 0x15 1

/-- The line of a piece is timed memory: the local pad, or a line in a locked way of the core's own L2 (R105). -/
def State.timedPart (s : State) (st pa ty : Nat) : Bool :=
  ty = 5 || ((ty = 0 || ty = 1) && !inPadWin pa && s.heldLocked st (pa / 64))

/-- A translation that only the second-level TLB holds refills the first level: a first-level miss, and an untimed event (R106, R334,
R616). -/
def State.tlbRefill (s : State) (st : Nat) (fetch : Bool) (va : Nat) : State :=
  match (s.core st).tlbUp fetch va with
  | some e => ((s.modCore st fun c => c.tlbFirst fetch e).untimed st).coreEvent st (if fetch then 0x13 else 0x14) 1
  | none => s

/-- The parts of an access that issues: their translations come into the DTLB (R334), and an access with a part outside timed memory, a
device access and one that finds its locked line gone among them, is one untimed event (R106, R195, R373). -/
def State.untimedParts (s : State) (st : Nat) (ps : List XPart) : State :=
  let s := ps.foldl (fun s p => s.tlbRefill st false p.part.va) s
  if ps.any fun p => !s.timedPart st p.pa p.ty then s.untimed st else s

/-- Squash stations of a core and restart fetch; their slots go to wasted, and streaming ends with the cause given (R74, R172,
R617). -/
def State.squash (s : State) (st : Nat) (ks : List Nat) (restart : Option Nat) (cause : Nat) : State :=
  let c := s.core st
  let slots := ks.foldl (fun n k => n + (c.sta k).slots) 0
  let ops := ks.foldl (fun n k => n + (c.sta k).opsDone) 0
  let s := ((s.tdAdd st 2 slots).tdUnpend st slots)
  let fills := ks.foldl (fun n k => n + (c.sta k).fills) 0
  let s := if ks.isEmpty then s else ((s.coreEvent st 0x09 ks.length).coreEvent st 0x0A ops).coreEvent st 0x0B fills
  s.modCore st fun c => (c.squash ks restart).rinkEnd cause

/-- Squash everything younger than a station. -/
def State.squashYounger (s : State) (st k : Nat) (restart : Option Nat) (cause : Nat) : State :=
  s.squash st ((s.core st).youngerThan k) restart cause

/-- `n` core cycles pass for a station: a held stride counts them, and after two a carve that saves its track is LODGED (R66). -/
def Stn.age (x : Stn) (n : Nat) : Stn :=
  if x.st = .stalled then { x with stall := x.stall + n }
  else if x.st = .lodging then
    (if 2 ≤ x.stall + n then { x with st := .lodged, stall := 0 } else { x with stall := x.stall + n })
  else x

/-- `n` core cycles pass for every station. -/
def Core.age (c : Core) (n : Nat) : Core := c.order.foldl (fun c k => c.modSta k fun x => x.age n) c

/-- The slots of a track that issues nothing for `n` core cycles: back-starved where it holds a carve, else front-starved; a held
stride counts its track-cycles (R616, R617). -/
def State.idleTrack (s : State) (st n : Nat) (k : Option Nat) : State :=
  let s := if s.flag (pgPmu st) F.PMU_CTL_FREEZE then s else s.tdAdd st (if k.isSome then 4 else 3) (4 * n)
  match k with
  | some k =>
    let x := (s.core st).sta k
    if x.st = .stalled then s.coreOcc st (if x.ilock then 0x18 else 0x19) 1 n else s
  | none => s

/-- `n` core cycles pass: the stations age, and FIX[0], FIX[3] and the occupancies count them (R66, R611, R614, R616). -/
def State.coreCycles (s : State) (st n : Nat) : State :=
  let c := s.core st
  let s := if c.order.isEmpty ∨ n = 0 then s else s.modCore st fun c => c.age n
  let s := (s.pmuFix st 0 n).pmuFix st 3 (8 * n)
  if ¬ s.flag (pgPmu st) F.PAGE_STAT_ENABLED then s
  else
    let kept (x : Stn) : Bool := x.st = .lodging || x.st = .lodged || x.st = .resumable
    let s := s.coreOcc st 0x01 c.order.length n
    let s := s.coreOcc st 0x02 (c.order.filter fun k => kept (c.sta k)).length n
    let s := s.coreOcc st 0x03 (c.lq.length) n
    let s := s.coreOcc st 0x04 (c.sq.length) n
    s.coreOcc st 0x0C (b2n c.rink.streaming) n

/-- `n` core cycles pass in which no track issues. (DEDUCED, assumption 12) -/
def State.idleCycles (s : State) (st n : Nat) : State :=
  let c := s.core st
  ((s.coreCycles st n).idleTrack st n c.t0).idleTrack st n c.t1

/-- Charge one issued stride and its core cycle to its carve: `present` slots, all four wasted when it faulted or was suppressed
(R617). Two tracks never issue in one cycle of the model. (DEDUCED, assumption 12) -/
def State.chargeStride (s : State) (st k present : Nat) (wasted : Bool) : State :=
  let c := s.core st
  let s := (s.coreCycles st 1).idleTrack st 1 (if c.t0 = some k then c.t1 else c.t0)
  if s.flag (pgPmu st) F.PMU_CTL_FREEZE then s
  else
    (s.tdPend st 4).modCore st fun c => c.modSta k fun x =>
      { x with slots := x.slots + 4, waste := x.waste + (if wasted then 4 else 0),
               opsDone := x.opsDone + (if wasted then 0 else present) }

/-- A stride faults: earlier fixed results land, the carve is FAULTED and leaves its track (R78). -/
def State.strideFault (s : State) (st k : Nat) (f : Flt) : State :=
  (s.chargeStride st k 0 true).modCore st fun c =>
    ((c.endWalks k).modSta k fun x => { x.releaseAll with st := .faulted, flt := some f, ilock := false, wfiHeld := false }).freeTrackOf k

/-- A stride is held: its carve is STALLED (R64). The count of R66 starts when it is first held. -/
def State.strideHold (s : State) (st k : Nat) (ilock : Bool) : State :=
  s.modCore st fun c => c.modSta k fun x =>
    { x with st := .stalled, ilock := ilock, stall := if x.st = .stalled then x.stall else 0 }

/-! ### Exits -/

/-- History lengths of the tagged tables (R158). -/
def histLens : List Nat := [6, 14, 32, 72, 160]
/-- Index in the base direction table (R158). -/
def baseIdx (addr : Nat) : Nat := Config.dirIndex 0 addr [] % 8192
/-- Index in tagged table `n`, the tables laid end to end. (DESIGN CHOICE, assumption 15) -/
def predIdx (n addr : Nat) (hist : List Bool) : Nat :=
  n * 1024 + Config.dirIndex (n + 1) addr (hist.take (lget histLens n 6)) % 1024
/-- Tag in tagged table `n`. (DESIGN CHOICE, assumption 15) -/
def predTag (n addr : Nat) (hist : List Bool) : Nat := Config.dirTag (n + 1) addr (hist.take (lget histLens n 6)) % 2048

/-- Set of the target buffer that a carve address falls in: 512 sets of 4 ways. (DESIGN CHOICE, assumption 15) -/
def btbSet (addr : Nat) : Nat := addr / 64 % 512

/-- The entries of an address's set of the target buffer. -/
def Pred.btbMates (p : Pred) (addr : Nat) : List (Nat × Nat × Nat) := p.btb.filter fun e => btbSet e.1 = btbSet addr

/-- An entry must leave before the target buffer takes one for an address (R158). -/
def Pred.btbFull (p : Pred) (addr : Nat) : Bool := (tfind p.btb addr).isNone && 4 ≤ (p.btbMates addr).length

/-- The target buffer with an entry; `r` picks the way that leaves a full set. (DESIGN CHOICE, assumption 15) -/
def Pred.btbPut (p : Pred) (addr succ lvl r : Nat) : Tbl Nat (Nat × Nat) :=
  let t := if p.btbFull addr then
      (match (p.btbMates addr)[r % (p.btbMates addr).length]? with | some v => terase p.btb v.1 | none => p.btb)
    else p.btb
  tput t addr (succ, lvl)

/-- Train the direction tables and the target buffer when an exit resolves (R158, R161). -/
def Pred.train (p : Pred) (addr succ lvl : Nat) (hist : List Bool) (taken reg : Bool) (r : Nat) : Pred :=
  let bump (t : Tbl Nat DirEnt) (i tag mx : Nat) : Tbl Nat DirEnt :=
    let e := tget t i ⟨tag, mx / 2, lvl⟩
    let e := if e.tag = tag ∧ e.lvl = lvl then e else ⟨tag, mx / 2, lvl⟩
    tput t i { e with ctr := if taken then (if e.ctr < mx then e.ctr + 1 else mx) else e.ctr - 1 }
  let tagged := (List.range 5).foldl (fun t n =>
    bump t (predIdx n addr hist) (predTag n addr hist) 7) p.tagged
  { p with
    base := bump p.base (baseIdx addr) 0 3
    tagged := tagged
    btb := if reg && taken then p.btbPut addr succ lvl r else p.btb }

/-- The predictor learns what an exit did (R161). -/
def State.trainPred (s : State) (st k succ : Nat) (taken reg : Bool) : State :=
  let c := s.core st
  let x := c.sta k
  let (r, s) := if (reg && taken && c.pred.btbFull x.addr) then s.free else (0, s)
  s.modCore st fun c => { c with pred := c.pred.train x.addr succ c.sr.lvl x.mark.hist taken reg r }

/-- An exit resolves: predictor update, and on a wrong prediction the squash and redirect (R161, R163, R165). -/
def State.resolveExit (s : State) (st k : Nat) (taken : Bool) (tgt : Nat) (annul reg hasExit : Bool) : State :=
  let c := s.core st
  let x := c.sta k
  let succ := if taken then tgt else (x.addr + x.size) % 2 ^ 64
  let s := s.modCore st fun c => c.modSta k fun x =>
    { x with exit := if taken then .taken else .fell, exitTgt := tgt, annul := annul && !taken }
  let s := if hasExit ∧ ¬ c.rink.streaming then s.trainPred st k succ taken reg else s
  match x.predNext with
  | none => if (c.youngerThan k).isEmpty ∧ c.fetch.pc.isNone ∧ c.fetch.buf.isNone then
      s.modCore st fun c => { c with fetch := { c.fetch with pc := some succ } } else s
  | some p =>
    if p = succ then s
    else (s.squashYounger st k (some succ) 1).coreEvent st 0x06 1

/-- The exit of a stride issues (R152, R153, R155): `ran` is its guard. -/
def State.issueExit (s : State) (st k : Nat) (o : SlotOp) (ran : Bool) (a : Word) : State :=
  let c := s.core st
  let x := c.sta k
  let call := o.x.o = 0x3D || (o.x.o = 0x3E && o.x.f = 1)
  let reg := o.x.o = 0x3E
  let ofs := sext (o.word % 2 ^ 21) 21
  let tgt := if reg then a.toNat / 64 * 64 else toBits ((x.addr : Int) + ofs * 64) 64
  let fall := (x.addr + x.size) % 2 ^ 64
  let s := if call then
      s.modCore st fun c => c.modSta k fun x =>
        { x with
          pend := x.pend ++ [⟨x.nextTag, linkRes fall, x.ptr, 0, some 1, ran, false, 0, [.g 1]⟩]
          nextTag := x.nextTag + 1 }
    else s
  s.resolveExit st k ran tgt (bitOf o.word 21) reg true

/-! ### Memory operations -/

/-- Add a pending result to a station. -/
def Stn.addPend (x : Stn) (p : Pend) : Stn := { x with pend := x.pend ++ [p], nextTag := x.nextTag + 1 }

/-- A load or atomic issues: its queue entry, its pending result and the reads of its pieces (R71, R73, R183, R188, R197,
R205, R206). -/
def State.doLoad (s : State) (st k : Nat) (o : SlotOp) (r : Ops) (ps : List XPart) (dsts : List Dest) (cfg : Vcfg) (part : Bool) : State :=
  let c := s.core st
  let x := c.sta k
  let id := c.nextId
  let atom := isAtomOp o.x.o
  let vec := isVmemOp o.x.o
  let p0 := (ps.head?).getD ⟨⟨0, 0, 0, 0⟩, 0, 0, 0⟩
  let dev := p0.ty = 3 || p0.ty = 4
  let spec := !c.isOldest k
  let pieces : List Piece := ps.map fun p => ⟨p.pa, p.part.va, p.part.off, p.part.len⟩
  let old128 (n : Nat) : Nat := (c.rdI k n).v.toNat + (c.rdI k (n + 1)).v.toNat * 2 ^ 64
  let q16 := o.x.o = 0x59 && bitOf o.x.f 0
  let fwd := if atom ∨ vec ∨ 1 < pieces.length then Fwd.region else c.forward k p0.pa p0.part.len p0.ty false false
  let e : Lq :=
    { id := id, stn := k, stride := x.ptr, tag := x.nextTag, va := if vec then memAddr o r else p0.part.va,
      size := if vec then r.cfg.sew / 8 else memSize o, atype := p0.ty, pieces := pieces, got := [],
      st := if atom then .atomicWait else .waiting, spec := spec, acquire := isAcq o.x.o o.x.f,
      release := isRel o.x.o o.x.f, op := o.x.o, f := o.x.f, d := o.x.d,
      cmp := if q16 then old128 o.x.d else (c.rdI k o.x.d).v.toNat,
      src := if q16 then old128 o.x.b else r.b.toNat, cfg := cfg, vstart := x.vstart, bad := [], key := p0.key,
      vector := vec, ents := if vec then (memEntries o r x.vstart).1 else 1, part := part,
      fwd := match fwd with | .data _ _ j => j | _ => none, time := 0 }
  let s := (s.untimedParts st ps).modCore st fun c =>
    { c with nextId := id + 1, lq := c.lq ++ [e] }.modSta k fun x =>
      { x.addPend ⟨x.nextTag, [], x.ptr, 2, none, true, false, 0, dsts⟩ with bound := x.bound || dev }
  if atom then s
  else
    match fwd with
    | .data bs poison _ => s.modCore st fun c => c.lqGive id 0 bs (if poison then some 5 else none)
    | _ =>
      let pair := if 1 < pieces.length ∧ ¬ vec then some id else none
      ps.foldl (fun s p => s.loadPiece st id ⟨p.pa, p.part.va, p.part.off, p.part.len⟩ p.ty p.key spec pair x.addr x.ptr) s

/-- The bytes a store writes from its data register (R180, R255), with their poison (R215). -/
def Core.storeData (c : Core) (k : Nat) (o : SlotOp) (r : Ops) (p : Part) : List Byte × Bool :=
  let x := o.x
  if isVmemOp x.o then
    let esz := r.cfg.sew / 8
    let bs := (List.range p.len).map fun i =>
      BitVec.ofNat 8 (r.vd ((p.off + i) / esz) >>> (8 * ((p.off + i) % esz)))
    let els := (List.range (p.len)).map fun i => (p.off + i) / esz
    (bs, (c.elemMark k x.d r.cfg els).isSome)
  else
    let fp := 8 ≤ kindOf x.o x.f
    let v := if fp then r.fd else (c.rdI k x.d).v.toNat
    let m := if fp then (c.rdV k x.d).m0 else (c.rdI k x.d).m
    (((leBytes v (memSize o)).drop p.off).take p.len, m.isSome)

/-- Loads of younger carves that have issued and overlap one of a store's parts (R73, R75): the oldest station that holds one, its
carve's address and the load's stride. -/
def Core.depViolation (c : Core) (k : Nat) (es : List Sq) : Option (Nat × Nat × Nat) :=
  (c.youngerThan k).findSome? fun j =>
    (c.lq.find? fun e => e.stn = j && e.st ≠ .refused && e.pieces.any (fun q => es.any fun p => overlaps q.pa q.len p.pa p.data.length)).map
      fun e => (j, (c.sta j).addr, e.stride)

/-- The memory-dependence predictor holds a load until the store it met before has issued in an older carve (R73). -/
def Core.depHeld (c : Core) (k : Nat) : Bool :=
  let x := c.sta k
  c.memdep.any fun (a, i, b, j) => a = x.addr && i = x.ptr && (c.olderThan k).any fun n =>
    let y := c.sta n
    y.addr = b && y.ptr ≤ j && (match y.st with | .free | .draining | .closed | .faulted => false | _ => true)

/-- A store issues: one entry for each part, then the memory-dependence check (R71, R73, R201). -/
def State.doStore (s : State) (st k : Nat) (o : SlotOp) (r : Ops) (ps : List XPart) : State :=
  let c := s.core st
  let x := c.sta k
  let split := 1 < ps.length ∧ ¬ isVmemOp o.x.o
  let mk (i : Nat) (p : XPart) : Sq :=
    let d := c.storeData k o r p.part
    { id := c.nextId + i, lvl := c.sr.lvl, stn := some k, stride := x.ptr, va := p.part.va, pa := p.pa, data := d.1, atype := p.ty,
      half := i ≠ 0 && (split || ps.any (fun q => q.part.el = p.part.el && q.part.off < p.part.off && o.x.o = 0x5F)), poison := d.2,
      release := isRel o.x.o o.x.f, vector := isVmemOp o.x.o, split := split, key := p.key, kind := .store, sent := false,
      rsp := none }
  let es := ps.mapIdx mk
  let s := (s.untimedParts st ps).modCore st fun c => { c with nextId := c.nextId + es.length, sq := c.sq ++ es }.modSta k fun x =>
    { x with hasDevS := x.hasDevS || es.any (fun e => e.atype = 3) }
  match c.depViolation k es with
  | none => s
  | some (j, addr, stride) =>
    let m := (addr, stride, x.addr, x.ptr)
    ((s.squash st (j :: c.youngerThan j) (some addr) 2).modCore st fun c =>
      { c with memdep := if c.memdep.contains m then c.memdep else m :: c.memdep }).coreEvent st 0x07 1

/-- A prefetch that passed its checks asks for its line (R184). -/
def State.doPref (s : State) (st k : Nat) (o : SlotOp) (p : XPart) : State :=
  let line := p.pa / 64
  let s := s.untimedParts st [p]
  if ¬ (p.ty = 0 ∨ p.ty = 1) ∨ inPadWin p.pa then s
  else
    let nt := p.ty = 1
    match o.x.d % 4 with
    | 0 => (match (s.cache st).look line with
      | some (d, poison, coh) => s.intoL1 st line coh d poison
      | none => s.askLine st ⟨line, false, true, false, nt, p.key, true, none, false⟩)
    | 1 => if ((s.cache st).look line).isSome then s else s.askLine st ⟨line, false, true, false, nt, p.key, false, none, false⟩
    | 2 => s.send st { Req.plain 0x01 0 (line * 64) (.prefLlc line) with
        spec := true, noalloc := nt, key := p.key, piste := s.tilePiste st }
    | _ => if ¬ (s.core st).isOldest k then s
      else match (s.cache st).owns line, (s.cache st).look line with
      | true, some (d, poison, coh) => s.intoL1 st line coh d poison
      | _, _ => s.askLine st ⟨line, true, true, false, nt, p.key, true, none, false⟩

/-- A maintenance operation or LOCKFILL takes its store-queue entry (R362, R365, R366). -/
def State.doMaint (s : State) (st k : Nat) (o : SlotOp) (r : Ops) (p : Option XPart) : State :=
  let c := s.core st
  let lvl := c.sr.lvl
  let scope := o.x.f / 4
  let act := if o.x.f % 4 = 1 ∧ ((lvl = 0 ∧ scope ≠ 2) ∨ (lvl = 1 ∧ scope = 2)) then 2 else o.x.f % 4
  let cached := match p with | some q => q.ty = 0 || q.ty = 1 | none => true
  let e : Sq :=
    { id := c.nextId, lvl := lvl, stn := some k, stride := (c.sta k).ptr, va := r.a.toNat,
      pa := match p with | some q => q.pa / 64 * 64 | none => r.a.toNat, data := [],
      atype := match p with | some q => q.ty | none => 0, half := false, poison := false, release := false, vector := false,
      split := false, key := match p with | some q => q.key | none => 0,
      kind := .maint (if cached then act else 4) scope, sent := false, rsp := none }
  let s := match p with | some q => s.tlbRefill st false q.part.va | none => s
  s.modCore st fun c => { c with nextId := c.nextId + 1, sq := c.sq ++ [e] }

/-- What a memory operation of a stride comes to before it issues. -/
inductive MemStep where
  /-- Held: by an interlock or not, with a walk to start if any; `room` where the queue it takes entries from lacks them. -/
  | hold (ilock : Bool) (walk : Option (Nat × Acc)) (room : Bool)
  /-- A WC load held while the combining buffers of these lines are written out (R196). -/
  | flush (lines : List Nat)
  | fault (cause info addr vs : Nat) (done : List XPart)
  | go (ps : List XPart)
  /-- A PREF that is dropped. -/
  | drop
deriving DecidableEq, Repr

/-- The elements before `el`, each trimmed of bytes that belong to `el` or later (R259). -/
def partsBefore (esz el : Nat) (ps : List XPart) : List XPart :=
  ps.filterMap fun p =>
    if el * esz ≤ p.part.off then none
    else some { p with part := { p.part with len := min p.part.len (el * esz - p.part.off) } }

/-- The operation reads memory into a register. -/
def isReadOp (o : SlotOp) : Bool := isLoadOp o.x.o o.x.f || isAtomOp o.x.o

/-- Queue room and ordering holds of a memory operation, predicated off or not (R71, R72, R93, R199, R210, R211). A hold for an acquire
is an interlock; that of a FENCE, of a DEV-S access and of a full queue is not. (DEDUCED, assumption 97) -/
def State.memGate (s : State) (st k : Nat) (o : SlotOp) (r : Ops) : Option MemStep :=
  let c := s.core st
  let ents := memEntries o r (c.sta k).vstart
  let wr := isStoreOp o.x.o o.x.f || o.x.o = 0x5B || isAtomOp o.x.o
  if (0 < ents.1 && !c.lqRoom k ents.1) || (0 < ents.2 && !c.sqRoom k ents.2) then some (.hold false none true)
  else if o.x.o = 0x5A then none
  else if c.acquireHeld k then some (.hold true none false)
  else if c.devSHeld k || c.fenceHeld (isReadOp o) wr then some (.hold false none false)
  else none

/-- The holds of parts that have been translated: device accesses wait for the oldest carve and for what they must follow, a pad or an
L2 that does not serve keeps requests waiting, and loads wait for stores and buffers they overlap (R37, R64, R73, R196, R197, R206,
R208, R210, R375, R402). -/
def State.partsHeld (s : State) (st k : Nat) (o : SlotOp) (done : List XPart) : Option MemStep :=
  let c := s.core st
  let dev := done.any fun p => p.ty = 3 || p.ty = 4
  let vec := isVmemOp o.x.o
  let ld := isReadOp o
  let wcOver (b : WcBuf) : Bool := done.any fun p => p.ty = 2 && p.pa / 64 = b.line &&
    b.bytes.any fun e => decide (p.pa % 64 ≤ e.1) && decide (e.1 < p.pa % 64 + p.part.len)
  let bufs := (c.wc.filter wcOver).map fun b => b.line
  if dev && !c.isOldest k then some (.hold false none false)
  else if done.any (fun p => p.ty = 5) && !s.padServing st then some (.hold false none false)
  else if done.any (fun p => (p.ty = 0 || p.ty = 1) && !inPadWin p.pa) && !s.l2On st then some (.hold false none false)
  else if ld && dev && done.any (fun p => c.devLoadHeld k p.pa p.ty) then some (.hold false none false)
  else if ld && done.any (fun p => c.sameByteHeld k p.pa p.part.len p.ty) then some (.hold false none false)
  else if ld && !bufs.isEmpty then some (.flush bufs)
  else if ld && done.any (fun p => p.ty = 2 && c.wcOut.contains (p.pa / 64)) then some (.hold false none false)
  else if isLoadOp o.x.o o.x.f && done.any (fun p => c.forward k p.pa p.part.len p.ty (1 < done.length && !vec) vec = .hold) then
    some (.hold true none false)
  else if ld && c.depHeld k then some (.hold true none false)
  else none

/-- Queue room, ordering holds, translation, checks, device and dependence holds of a memory operation that runs (R64,
R71-R73, R197-R211, R331, R334). Elements before a faulting one meet the holds first, and a group that keeps elements from before the
carve waits until they are settled (R206, R259). -/
def State.memStep (s : State) (st k : Nat) (o : SlotOp) (r : Ops) : MemStep :=
  let c := s.core st
  let x := c.sta k
  let old := c.isOldest k
  let acc := memAcc o c.sr.lvl
  let pref := o.x.o = 0x5A
  let vec := isVmemOp o.x.o
  match s.memGate st k o r with
  | some h => h
  | none =>
  if pref ∧ o.x.d % 4 = 3 ∧ ¬ old then .drop
  else if o.x.o = 0x5B ∧ o.x.f / 4 = 2 then .go []
  else
    let va0 := memAddr o r
    let (done, stop) := s.xParts st c k o acc va0 (memParts o r x.vstart) []
    let size := memSize o
    let fault (cause info addr el : Nat) : MemStep :=
      if vec then
        let ps := partsBefore (r.cfg.sew / 8) el done
        match (if ps.isEmpty then none else s.partsHeld st k o ps) with
        | some h => h
        | none =>
          if !ps.isEmpty && isLoadOp o.x.o o.x.f && !(List.range r.cfg.g).all (fun j => c.settledV k (o.x.d + j)) then .hold false none false
          else .fault cause info addr el ps
      else .fault cause info addr 0 []
    match stop with
    -- a DTLB miss is an interlock; a walk starts where none runs and none waits for the oldest carve (R332-R334)
    | .miss va =>
      let dropped := c.walkDropped va acc (some k)
      if pref ∧ dropped then .drop
      else
        let may := old ∨ (s.flag (pgCore st) F.CORE_MMU_CTL_SPEC_WALK ∧ ¬ dropped)
        .hold true (if may ∧ ¬ c.walkRuns va acc (some k) then some (va, acc) else none) false
    | .needD va => if pref then .drop else .hold false (if old then some (va, acc) else none) false
    | .tfault cause info va el =>
      if pref then .drop else fault cause (if o.x.o = 0x5B ∧ acc = 3 then info - 1 else info) va el
    | .afault kind ty p =>
      if pref then .drop
      else
        let whole := vec = false ∧ (kind = 6 ∨ kind = 7 ∨ kind = 8) ∧ p.off = 0
        let sz := if o.x.o = 0x5B then 64 else if vec then r.cfg.sew / 8 else if whole ∨ p.len = size then size else p.len
        fault 0x08 (memInfo sz (ty % 8) 0 false false (isAtomOp o.x.o) (!vec && p.off ≠ 0) kind) p.va p.el
    | .fin => (s.partsHeld st k o done).getD (.go done)

/-! ### Faults of a stride -/

/-- The trap-stack check of a return at its stride (R286): FAULT_INFO when it fails. -/
def State.trapStackBad (s : State) (st lvl : Nat) : Option Nat :=
  let d := (s.core st).sr.depth
  if d = 0 then some 0
  else
    let base := (d - 1) * 0x400
    let info := s.padWord st (base + 0x10)
    let status := s.padWord st (base + 8)
    let h := bitOf info 18
    let rl := bitsOf status 0 2
    if h ≠ decide (lvl = 2) ∨ 2 ≤ bitsOf info 16 2 ∨ lvl < rl ∨ rl = 3 then some info else none

/-- The fault of one operation short of its memory access: cause, FAULT_INFO, FAULT_ADDR (R77, R147). BRK's breakpoint fault and a
return's trap-stack fault, which R147 does not place, come after a contract fault and a consumed mark of the same operation. (DESIGN
CHOICE, assumption 98) -/
def State.opFault (s : State) (st k : Nat) (ops : List SlotOp) (o : SlotOp) (next : Option SlotOp) : Option (Nat × Nat × Nat) :=
  let c := s.core st
  let x := c.sta k
  let cfg := c.rdCfg k
  let ran := c.ranOp k o
  let r := c.operands k o.x
  match decodeReason x cfg o next with
  | some n => some (0x01, illInfo 0 n o.word, 0)
  | none =>
  if isImx o.word then none
  else
  match runReason o ran with
  | some (n, num) => some (0x01, illInfo num n o.word, 0)
  | none =>
  match (if ran then s.privReason st o r.b else none) with
  | some (n, num) => some (0x02, illInfo num n o.word, 0)
  | none =>
  match fmtOf o.x.o o.x.f cfg with
  | none => none
  | some m =>
  let ents := memEntries o r x.vstart
  match contractFault x c.checking cfg ops o m ents.1 ents.2 with
  | some i => some (0x06, i, 0)
  | none =>
  match (if ran then c.consumed k o m else none) with
  | some mark => some (mark.cause, mark.info, mark.addr)
  | none =>
  if ran ∧ o.x.o = 0x36 ∧ o.x.f = 2 then some (0x05, 0, 0)
  else if ran ∧ o.x.o = 0x37 then (s.trapStackBad st c.sr.lvl).map fun i => (0x0A, i, 0)
  else none

/-- The first faulting operation among those listed, with its slot; an IMX extends the next present slot of the stride (R120).
(DEDUCED, assumption 19) -/
def State.firstFault (s : State) (st k : Nat) (ops : List SlotOp) : List SlotOp → Option (Nat × Nat × Nat × Nat)
  | [] => none
  | o :: t => match s.opFault st k ops o (ops.find? fun q => o.slot < q.slot) with
    | some (cause, info, addr) => some (o.slot, cause, info, addr)
    | none => s.firstFault st k ops t

/-- A stride is held by an operand or destination whose interlocked result has not landed: the flag says an operand (R64,
R90, R93, R98). -/
def Core.interlocked (c : Core) (k : Nat) (ops : List SlotOp) : Option Bool :=
  let x := c.sta k
  let cfg := c.rdCfg k
  let open_ := x.pend.filter fun p => p.lat.isNone
  let hit (ds : List Dest) : Bool := open_.any fun p => ds.any fun d => p.dsts.contains d
  let refs (g : SlotOp → Fmt → List Dest) : List Dest := ops.flatMap fun o =>
    if isImx o.word then [] else match fmtOf o.x.o o.x.f cfg with
      | some m => g o m
      | none => []
  if hit (refs fun o m => opReads o m cfg) then some true
  else if hit (refs fun o m => writeRefs o.x m cfg) then some false
  else none

/-- Some operation of the stride issues only in the oldest carve (R134, R245, R342). -/
def needsOldest (ops : List SlotOp) : Bool := ops.any fun o => !isImx o.word && oldestOnly o.x.o o.x.f

/-- A WFI that runs is held until the LEC presents a source (R143). A fault or a hold of another slot of its stride comes first, with a
source presented or not. (DESIGN CHOICE, assumption 21) -/
def State.wfiHeld (s : State) (st k : Nat) (ops : List SlotOp) : Bool :=
  ops.any (fun o => !isImx o.word && o.x.o = 0x38 && (s.core st).ranOp k o) && (s.lecPresent st).isNone

/-- XWAIT that runs is held until every broadcast is acknowledged and every earlier store performed (R342). -/
def Core.xwaitHeld (c : Core) (k : Nat) (ops : List SlotOp) : Bool :=
  ops.any (fun o => !isImx o.word && o.x.o = 0x5C && o.x.f % 4 = 3 && c.ranOp k o)
    && (!c.xinvOut.isEmpty || c.sq.any (fun e => e.stn.isNone) || !c.wcDone)

/-! ### Effects -/

/-- The effect an operation that runs leaves for its carve's commit (R79, R137, R139, R141, R211, R245, R340). -/
def commitAct (o : SlotOp) (r : Ops) (lvl : Nat) (vm : Nat) : List CAct :=
  let x := o.x
  if 0x31 ≤ x.o ∧ x.o ≤ 0x33 then [.sr (x.o - 0x31) x.imm10 r.a]
  else if x.o = 0x2D ∧ x.f = 3 then [.fstatw r.a]
  else if x.o = 0x34 then [.fence x.f]
  else if x.o = 0x35 then [.syncC]
  else if x.o = 0x36 then (if x.f = 0 then [.scall] else if x.f = 1 then [.hcall] else [])
  else if x.o = 0x37 then (if x.f = 0 then [.sret] else [.hret])
  else if x.o = 0x5C ∧ x.f % 4 < 3 then
    -- the tag word, with VMTAG replaced below level H (R339); G2 is carried above it
    let tag := r.b.toNat % 2 ^ 29
    let tag := if lvl = 2 then tag else tag % 2 ^ 16 + vm % 2 ^ 12 * 2 ^ 16
    [.xinv (x.f % 4) (bitOf x.f 2) r.a.toNat (tag + b2n (bitOf x.f 3) * 2 ^ 29)]
  else []

/-- Issue one operation: its result, its effect at commit, its exit or its memory access. -/
def State.issueOp (s : State) (st k : Nat) (before : Core) (ps : List XPart) (dropped : Bool) (o : SlotOp) : State :=
  if isImx o.word then s
  else
  let cfg := before.rdCfg k
  match fmtOf o.x.o o.x.f cfg with
  | none => s
  | some m =>
  let ran := before.ranOp k o
  let r := before.operands k o.x
  let dsts := writeRefs o.x m cfg
  if 0x3C ≤ o.x.o ∧ o.x.o ≤ 0x3E then s.issueExit st k o ran r.a
  else if 0x40 ≤ o.x.o ∧ o.x.o ≤ 0x5F then
    if ¬ ran then
      -- predicated off: its timing class stays, it writes nothing (R93)
      (if isLoadOp o.x.o o.x.f ∨ isAtomOp o.x.o then
        s.modCore st fun c => c.modSta k fun x => x.addPend ⟨x.nextTag, [], x.ptr, 2, none, false, true, 0, dsts⟩ else s)
    else if dropped then s
    else if isLoadOp o.x.o o.x.f ∨ isAtomOp o.x.o then
      if ps.isEmpty then s else s.doLoad st k o r ps dsts cfg false
    else if isStoreOp o.x.o o.x.f then s.doStore st k o r ps
    else if o.x.o = 0x5A then (match ps with | p :: _ => s.doPref st k o p | [] => s)
    else if o.x.o = 0x5B then s.doMaint st k o r ps.head?
    else s.modCore st fun c => c.modSta k fun x =>
      { x with acts := x.acts ++ commitAct o r c.sr.lvl (xlVm c.sr.hGxlat.toNat) }
  else
    let v := s.opRes st o r
    let s := s.modCore st fun c => c.modSta k fun x =>
      { x with
        acts := x.acts ++ (if ran then commitAct o r c.sr.lvl 0 else [])
        bound := x.bound || (ran && o.x.o = 0x38) }
    match m.lat with
    | .fixed n => s.modCore st fun c => c.modSta k fun x => x.addPend ⟨x.nextTag, v.1, x.ptr, o.slot, some n, ran, false, v.2, dsts⟩
    | .inter => s.modCore st fun c => c.modSta k fun x => x.addPend ⟨x.nextTag, v.1, x.ptr, o.slot, none, ran, true, v.2, dsts⟩
    | .none => s

/-- The pointer moves past a stride; after the last one every fixed result lands, an exit that never came falls through, and
the carve drains (R64, R69, R107). A fixed result whose release stride the carve does not have lands there, before an interlocked one still
outstanding (R100). (DEDUCED, assumption 111) -/
def State.advance (s : State) (st k : Nat) : State :=
  let x := (s.core st).sta k
  if x.ptr < x.hdr.nstr then
    s.modCore st fun c => (c.endWalks k).modSta k fun x =>
      { x with ptr := x.ptr + 1, st := .issuing, ilock := false, vstart := 0, wfiHeld := false, stall := 0 }
  else
    let s := if x.exit = .pending then s.resolveExit st k false 0 false false false else s
    s.modCore st fun c =>
      ((((c.endWalks k).modSta k fun x =>
        { x.releaseAll with st := .draining, ptr := x.ptr + 1, ilock := false, vstart := 0, wfiHeld := false, stall := 0 }).freeTrackOf k).tryClose k).refresh

/-- The queue entries of a stride count against the contract whether or not its operations run (R101, R102). -/
def Core.countEntries (c : Core) (k : Nat) (ops : List SlotOp) : Nat × Nat :=
  ops.foldl (fun n o =>
    if isImx o.word then n
    else let e := memEntries o (c.operands k o.x) (c.sta k).vstart; (n.1 + e.1, n.2 + e.2)) (0, 0)

/-- Issue the given operations as the stride at the pointer of station `k` (R64). -/
def State.issueOps (s : State) (st k : Nat) (ws : List (Nat × Nat)) : State :=
  let s := s.modCore st fun c => c.modSta k fun x => x.release x.ptr
  let c := s.core st
  let ops := pairOps none ws
  match c.interlocked k ops with
  | some il => s.strideHold st k il
  | none =>
  if needsOldest ops ∧ ¬ c.isOldest k then s.strideHold st k false
  else
  let mem := ops.find? fun o => !isImx o.word && 0x40 ≤ o.x.o && o.x.o ≤ 0x5B || (!isImx o.word && isVmemOp o.x.o)
  let pre := ops.takeWhile fun o => o.slot < 3
  let post := ops.dropWhile fun o => o.slot < 3
  let flt (slot cause info addr vs : Nat) : Flt := ⟨cause, false, slot, (c.sta k).ptr, addr, info, vs⟩
  -- the VSTART of a resumed stride is that of its vector memory operation (R80, R233)
  let vs (slot : Nat) : Nat := if slot = 2 then (c.sta k).vstart else 0
  match s.firstFault st k ops pre with
  | some (slot, cause, info, addr) => s.strideFault st k (flt slot cause info addr (vs slot))
  | none =>
  let step := match mem with
    | none => MemStep.go []
    | some o => if c.ranOp k o then s.memStep st k o (c.operands k o.x) else (s.memGate st k o (c.operands k o.x)).getD (.go [])
  match step, mem with
  | .hold il walk room, _ =>
    -- a store queue with no free entry is an untimed event, once for the stride it holds (R106)
    let s := if room ∧ (mem.any fun o => !isReadOp o) ∧ (c.sta k).st ≠ .stalled then s.untimed st else s
    let s := s.strideHold st k il
    match walk with
    | some (va, acc) => s.missWalk st 0x14 va acc (some k) (!c.isOldest k) (mem.any fun o => o.x.o = 0x5A)
    | none => s
  | .flush lines, _ =>
    (c.wc.filter fun b => lines.contains b.line).foldl (fun s b => s.wcFlush st b) (s.strideHold st k false)
  | .fault cause info addr vs done, some o =>
    let r := c.operands k o.x
    let cfg := { c.rdCfg k with vl := vs }
    let s := if done.isEmpty then s
      else if isStoreOp o.x.o o.x.f then s.doStore st k o r done
      else s.doLoad st k o r done ((List.range cfg.g).map fun j => Dest.v (o.x.d + j)) cfg true
    s.strideFault st k (flt 2 cause info addr vs)
  | .fault cause info addr vs _, none => s.strideFault st k (flt 2 cause info addr vs)
  | step, _ =>
  match s.firstFault st k ops post with
  | some (slot, cause, info, addr) => s.strideFault st k (flt slot cause info addr (vs slot))
  | none =>
  if s.wfiHeld st k ops then
    (s.strideHold st k false).modCore st fun c => c.modSta k fun x => { x with wfiHeld := true }
  else if c.xwaitHeld k ops then s.strideHold st k false
  else
  let ps := match step with | .go ps => ps | _ => []
  let dropped := step = .drop
  let s := if ops.any (fun o => !isImx o.word && isSerial o.x.o o.x.f) then s.untimed st else s
  let n := c.countEntries k ops
  let rdc := ops.any fun o => !isImx o.word && o.x.o = 0x3A && c.ranOp k o
  let s := s.modCore st fun c => c.modSta k fun x =>
    { x with lq := x.lq + n.1, sq := x.sq + n.2, chronos := if rdc then x.chronos ++ [s.chrono] else x.chronos }
  let s := s.chargeStride st k ops.length false
  (ops.foldl (fun s o => s.issueOp st k c ps dropped o) s).advance st k

/-- A stride of the carve on a track issues (R64): none issues unless a carve is there and past its dispatch.
(DESIGN CHOICE, assumption 21) -/
def State.canIssue (s : State) (st trk : Nat) : Option Nat :=
  let c := s.core st
  if c.stopped ∨ ¬ c.running ∨ s.frozen ∨ s.sys.halted.contains st then none
  else match c.onTrack trk with
    | some k => if (c.sta k).st = .issuing ∨ (c.sta k).st = .stalled then some k else none
    | none => none

/-- The next stride of the carve on a track issues, its words given by `ws`; a delay stride suppressed under R156 issues
nothing (R64, R93, R156). -/
def State.issueStride (s : State) (st trk : Nat) (ws : Nat → Stn → List (Nat × Nat)) : State :=
  match s.canIssue st trk with
  | none => s
  | some k =>
    let x := (s.core st).sta k
    if x.annul ∧ x.hdr.exitpos < x.ptr then
      let s := s.modCore st fun c => c.modSta k fun x => x.release x.ptr
      (s.chargeStride st k 0 true).advance st k
    else s.issueOps st k (ws k x)

/-- STRIDE_ISSUE: the next stride of the carve on the track, with the carve's own words (R64). (DESIGN CHOICE, assumption 6) -/
def State.strideIssue (s : State) (st trk : Nat) : State :=
  s.issueStride st trk fun _ x =>
    let ws := x.strideWords x.ptr
    -- an exit that a record resolved is not issued again (R81)
    if x.exit = .pending then ws else ws.filter fun w => !isExitOp (OpW.ofWord w.2).o

/-- The word of an IMX with a payload (R119). -/
def imxWord (X : Nat) : Nat := bitsOf X 23 3 * 2 ^ 29 + 63 * 2 ^ 23 + X % 2 ^ 23

/-- The words of an operation row: the operation in its slot, with an IMX in slot A or B before it where one is given.
(DESIGN CHOICE, assumption 6) -/
def rowWords (sl opcode f : Nat) (o : Op) : List (Nat × Nat) :=
  let w := OpW.toWord ⟨o.p.toNat, opcode, o.d.toNat, o.a.toNat, o.b.toNat, f⟩
  (match o.imx with
    | some X => if sl = 0 then [] else [(if sl = 1 then 0 else 1, imxWord X.toNat)]
    | none => []) ++ [(sl, w)]

/-- An operation row: the stride at the track's pointer issues holding that one operation. (DESIGN CHOICE, assumption 6) -/
def State.issueRow (s : State) (st trk sl opcode f : Nat) (o : Op) : State :=
  s.issueStride st trk fun _ _ => rowWords sl opcode f o

/-- An exit row: the exit stands in slot A of stride EXITPOS and issues once (R148-R151); `mask` keeps the fields its form has.
(DESIGN CHOICE, assumption 6) -/
def State.issueExitRow (s : State) (st trk opcode : Nat) (o : Op) (f : Option Nat) : State :=
  match s.canIssue st trk with
  | none => s
  | some k =>
    let x := (s.core st).sta k
    if x.ptr ≠ x.hdr.exitpos ∨ x.exit ≠ .pending then s
    else match f with
      | none => s.issueRow st trk 0 opcode o.f.toNat { o with imx := none }
      | some f => s.issueRow st trk 0 opcode f { o with d := o.d &&& 32#6, b := 0, imx := none }

/-- The row IMX: the carve's own stride issues with this IMX in its slot, which extends the operation in the next present
slot; the payload is the 26 bits given, or the fields of the word with O = 0x7E (R119, R120). (DESIGN CHOICE, assumption 6) -/
def State.issueImx (s : State) (st trk sl : Nat) (o : Op) : State :=
  s.issueStride st trk fun _ x =>
    (sl, imxWord (match o.imx with
      | some X => X.toNat
      | none => o.p.toNat * 2 ^ 23 + o.d.toNat * 2 ^ 16 + o.a.toNat * 2 ^ 10 + o.b.toNat * 16 + o.f.toNat)) ::
      (x.strideWords x.ptr).filter fun e => sl < e.1

end Sys2Proof.Machine
end

