-- ==== Sys2Proof/Machine/Traps.lean ====
section
/-! DEFINITION. Trap slots, frames, continuation records; entering on a fault, a call or an interrupt; returning and chaining
(R261-R286). -/

namespace Sys2Proof.Machine

/-- Pad offset of a trap slot (R272). -/
def trapSlot (k : Nat) : Nat := k * 0x400
/-- Pad offset of the continuation record of a slot. -/
def recBase (k : Nat) : Nat := k * 0x400 + 0x200

/-- The target level of a synchronous trap taken at the current level (R271). -/
def Core.trapTarget (c : Core) (cause : Nat) : Nat :=
  if c.sr.lvl = 2 then 2
  else if cause = 0x20 then 1
  else if cause = 0x21 ∨ cause = 0x0A ∨ (0x18 ≤ cause ∧ cause ≤ 0x1A) then 2
  else if cause < 64 ∧ bitOf c.sr.hEdeleg.toNat cause then 1 else 2

/-- The vector base of a level (R266). -/
def Sr.vbase (r : Sr) (lvl : Nat) : Nat := if lvl = 2 then r.hVbase.toNat else r.sVbase.toNat

/-- Write a 64-bit word of the core's own pad, poisoned where the register it comes from is marked (R215). -/
def State.putReg (s : State) (st off : Nat) (r : Rg) : State := s.padWrWord st off r.v.toNat r.m.isSome

/-- Read a saved register back, a poisoned word with a mark (R215, R217). -/
def State.getReg (s : State) (st off : Nat) : Rg :=
  let m : Option Mark := if s.padPoisoned st off 8 then
      some ⟨5, false, 5, 8, s.ownPadPa st off, false, 0, true⟩ else none
  ⟨wd (s.padWord st off), m⟩

/-- Write the frame of a trap entry into a slot (R274). -/
def State.putFrame (s : State) (st slot ret status cause source kind : Nat) (hlock : Bool) : State :=
  let b := trapSlot slot
  let c := s.core st
  let info := cause + source * 2 ^ 8 + kind * 2 ^ 16 + b2n hlock * 2 ^ 18
  let s := (s.padGrant st b 128 3).padWrWord st b ret
  let s := s.padWrWord st (b + 8) status
  let s := s.padWrWord st (b + 0x10) info
  let s := s.padWrWord st (b + 0x18) s.chrono
  let s := (List.range 7).foldl (fun s n => s.putReg st (b + 0x20 + 8 * n) (tget c.arch.g (n + 1) Rg.zero)) s
  (List.range 5).foldl (fun s n => s.padWrWord st (b + 0x58 + 8 * n) 0) s

/-- The core goes to a level with IE and UREACH cleared, and FIE where asked, its depth one more, and fetches a handler
(R267, R279-R281). -/
def Core.enter (c : Core) (lvl off : Nat) (clearFie : Bool) : Core :=
  { c with
    sr := { c.sr with lvl := lvl, ie := false, ureach := false, fie := c.sr.fie && !clearFie, depth := c.sr.depth + 1 }
    fetch := { c.fetch with pc := some ((c.sr.vbase lvl + off) % 2 ^ 64), buf := none, resume := none, predNext := none, want := [] } }

/-- A synchronous entry that finds every trap slot taken: the core stops and reports trap overflow, and the Patrol
forces the tile to T3 (R282, R588). (DEDUCED, assumption 16) -/
def State.trapOverflow (s : State) (st : Nat) : State :=
  let s := s.modCore st fun c => { c with stopped := true, fetch := { c.fetch with pc := none, buf := none, resume := none, want := [] } }
  ((s.raiseErr (pgCore st) 10).rasRecord (pgCore st) 3 1 (2 ^ 10) 0 false).set (pgTlift st) F.TLIFT_TCTL_FORCE_T3 0 1

/-- Write the continuation record of a faulting carve (R80). -/
def State.putRecord (s : State) (st slot : Nat) (x : Stn) (f : Flt) : State :=
  let b := recBase slot
  let res := match x.exit with | .pending => 0 | .fell => 1 | .taken => 2
  let pos := if f.fetch then 2 ^ 16 else f.slot * 2 ^ 8 + f.stride
  let s := (s.padGrant st b 512 3).padWrWord st b x.addr
  let s := s.padWrWord st (b + 8) pos
  let s := s.padWrWord st (b + 0x10) f.cause
  let s := s.padWrWord st (b + 0x18) f.addr
  let s := s.padWrWord st (b + 0x20) (x.preds ||| 1)
  let s := s.padWrWord st (b + 0x28) f.vstart
  let s := s.padWrWord st (b + 0x30) (if res = 0 then 0 else x.successor)
  let s := s.padWrWord st (b + 0x38) res
  let s := s.padWrWord st (b + 0x40) f.info
  let s := (List.range 23).foldl (fun s n => s.padWrWord st (b + 0x48 + 8 * n) 0) s
  (List.range 32).foldl (fun s n => s.putReg st (b + 0x100 + 8 * n) (tget x.edges n Rg.zero)) s

/-- Entry on a synchronous fault whose carve has committed its partial state (R280, R282). -/
def State.faultEntry (s : State) (st : Nat) (x : Stn) (f : Flt) : State :=
  let c := s.core st
  let d := c.sr.depth
  if 8 ≤ d then s.trapOverflow st
  else
    let t := c.trapTarget f.cause
    let s := s.putRecord st d x f
    let s := s.putFrame st d x.addr c.sr.status f.cause 0 1 (t = 2)
    (s.modCore st fun c => c.enter t 0x000 false).coreEvent st 0x1B 1

/-- Entry on a call that has committed (R281, R282): `cause` 0x20 or 0x21. -/
def State.callEntry (s : State) (st cause ret : Nat) : State :=
  let c := s.core st
  let d := c.sr.depth
  if 8 ≤ d then s.trapOverflow st
  else
    let t := c.trapTarget cause
    let s := s.putFrame st d ret c.sr.status cause 0 0 (t = 2)
    (s.modCore st fun c => c.enter t 0x040 false).coreEvent st 0x1B 1

/-- Entry without a record at the start of a carve: the stuck-stride timeout (R584). -/
def State.plainEntry (s : State) (st cause ret : Nat) : State :=
  let c := s.core st
  let d := c.sr.depth
  if 8 ≤ d then s.trapOverflow st
  else
    let t := c.trapTarget cause
    let s := s.putFrame st d ret c.sr.status cause 0 0 (t = 2)
    (s.modCore st fun c => c.enter t 0x000 false).coreEvent st 0x1B 1

/-- A STATUS word accepts a source that targets a level (R276). -/
def accepts (lvl : Nat) (ie fie : Bool) (src tgt : Nat) : Bool :=
  lvl < tgt || (lvl = tgt && (if src < 8 then fie else ie))

/-- Where the program stands, a record about to be resumed included (R81, R277). -/
def State.resumePoint (s : State) (st : Nat) : Nat :=
  let c := s.core st
  match c.order, c.fetch.buf, c.fetch.resume with
  | [], none, some slot => s.padWord st (recBase slot) / 64 * 64
  | _, _, _ => c.resumePoint

/-- Entry on an interrupt (R277, R279): everything uncommitted is squashed and the WC buffers are written out. -/
def State.interruptEntry (s : State) (st src tgt : Nat) : State :=
  let c := s.core st
  let ret := s.resumePoint st
  let s := s.wcFlushAll st
  let s := s.squash st c.order none 2
  let s := s.putFrame st c.sr.depth ret c.sr.status 0x40 src 0 (tgt = 2)
  (s.modCore st fun c => c.enter tgt (if src < 8 then 0x0C0 else 0x080) (src < 8)).coreEvent st 0x1B 1

/-- The oldest carve is bound now: R277, with a held WFI that could complete and a carve about to be refetched from a record with
FETCH = 0. -/
def State.coreBound (s : State) (st : Nat) : Bool :=
  let c := s.core st
  (match c.fetch.resume with | some slot => !bitOf (s.padWord st (recBase slot + 8)) 16 | none => false) || c.boundCarve || ((s.lecPresent st).isSome && match c.order.head? with
    | some k => (c.sta k).wfiHeld
    | none => false)

/-- INTERRUPT_ACCEPT: the core accepts the presented source where R276 and R277 let it; its frame waits for a pad that is being zeroed
(R402). -/
def State.interruptAccept (s : State) (st : Nat) : State :=
  let c := s.core st
  match s.lecPresent st with
  | none => s
  | some (src, tgt) =>
    if c.stopped ∨ ¬ c.running ∨ 8 ≤ c.sr.depth ∨ s.padBusy st ∨ s.coreBound st ∨ ¬ accepts c.sr.lvl c.sr.ie c.sr.fie src tgt then s
    else s.interruptEntry st src tgt

/-- The source a return chains to: one presented to the returning level that the STATUS of an interrupt's frame accepts (R284). -/
def State.chainSrc (s : State) (st : Nat) : Option Nat :=
  let c := s.core st
  let b := trapSlot (c.sr.depth - 1)
  let status := s.padWord st (b + 8)
  match s.lecPresent st with
  | some (src, tgt) =>
    if bitsOf (s.padWord st (b + 0x10)) 0 8 = 0x40 ∧ tgt = c.sr.lvl ∧
        accepts (bitsOf status 0 2) (bitOf status 2) (bitOf status 3) src tgt then some src else none
  | none => none

/-- A committed return (R284, R285): chain to a presented source of the returning level that the frame's STATUS accepts,
else restore the frame and continue at RET_ADDR or resume the record. -/
def State.trapReturn (s : State) (st : Nat) : State :=
  let c := s.core st
  let slot := c.sr.depth - 1
  let b := trapSlot slot
  let info := s.padWord st (b + 0x10)
  let status := s.padWord st (b + 8)
  let chain := s.chainSrc st
  let s := s.padGrant st b 128 3
  match chain with
  | some src =>
    let i := info % 2 ^ 8 + src * 2 ^ 8 + bitsOf info 16 3 * 2 ^ 16 + 2 ^ 19
    let s := s.padWrWord st (b + 0x10) i
    let s := s.padWrWord st (b + 0x18) s.chrono
    s.modCore st fun c =>
      { c with
        sr := { c.sr with ie := false, fie := c.sr.fie && !(src < 8) }
        fetch := { c.fetch with
          pc := some ((c.sr.vbase c.sr.lvl + (if src < 8 then 0x0C0 else 0x080)) % 2 ^ 64)
          buf := none
          resume := none
          predNext := none
          want := [] } }
  | none =>
    let gs := (List.range 7).map fun n => (n + 1, s.getReg st (b + 0x20 + 8 * n))
    let ret := s.padWord st b / 64 * 64
    let kind := bitsOf info 16 2
    s.modCore st fun c =>
      { c with
        arch := { c.arch with g := gs.foldl (fun t e => tset t e.1 e.2 Rg.zero) c.arch.g }
        sr := { c.sr.setStatus status (bitsOf status 0 2) with depth := slot }
        fetch := { c.fetch with
          pc := if kind = 1 then none else some ret
          buf := none
          resume := if kind = 1 then some slot else none
          predNext := none
          want := [] } }

end Sys2Proof.Machine
end

