-- ==== Sys2Proof/Machine/Fetch.lean ====
section
/-! DEFINITION. Fetching a carve with its checks, predicting its successor, resuming from a record, renaming, dispatching and
lodging (R45-R68, R81, R108, R158-R165, R170, R171, R233). -/

namespace Sys2Proof.Machine

/-! ### The header and the check code -/

/-- One bit of CRC-16/CCITT-FALSE (R53). -/
def crcBit (c : Nat) : Nat := if bitOf c 15 then (c * 2 % 2 ^ 16) ^^^ 0x1021 else c * 2 % 2 ^ 16
/-- One byte of the check code. -/
def crcByte (c : Nat) (b : Byte) : Nat := (List.range 8).foldl (fun c _ => crcBit c) (c ^^^ (b.toNat * 256))
/-- The check code of a body (R53). -/
def crc16 (bs : List Byte) : Nat := bs.foldl crcByte 0xFFFF

/-- The header of a carve from its 64 bytes (R48, R49). -/
def parseHdr (bs : List Byte) : Hdr :=
  let v := leNat bs
  let w := v % 2 ^ 64
  { fmt := bitsOf w 0 4, nstr := bitsOf w 4 5, exitpos := bitsOf w 9 5, delay := bitsOf w 14 3, chk := bitOf w 17,
    vec := bitOf w 18, grm := bitOf w 19, chkcode := bitsOf w 32 16, ird := bitsOf v 64 32, iwr := bitsOf v 96 32,
    vrd := bitsOf v 128 32, vwr := bitsOf v 160 32, pmap := bitsOf v 192 128,
    rsv := bitsOf w 48 16 ≠ 0 || bitsOf w 20 12 ≠ 0 || bitsOf v 320 192 ≠ 0 }

/-- Number of present slots (R47). -/
def Hdr.present (h : Hdr) : Nat := ((List.range 128).filter fun b => bitOf h.pmap b).length
/-- Bytes a carve occupies (R47). -/
def Hdr.bytes (h : Hdr) : Nat := 64 + 64 * ((4 * h.present + 63) / 64)

/-- The checks of R52 that the header alone decides. -/
def Hdr.bad (h : Hdr) : Bool :=
  h.fmt ≠ 5 || h.nstr < h.exitpos || h.delay ≠ h.nstr - h.exitpos || 4 < h.delay
    || h.pmap >>> (4 * (h.nstr + 1)) ≠ 0 || (!h.vec && (h.vrd ≠ 0 || h.vwr ≠ 0)) || h.rsv

/-- The 32-bit operations of a body (R46). -/
def bodyOps (body : List Byte) (k : Nat) : List Nat := (List.range k).map fun i => leNat ((body.drop (4 * i)).take 4)

/-- Stride and slot of each present operation, with its word. -/
def placed (h : Hdr) (ops : List Nat) : List (Nat × Nat × Nat) :=
  ((List.range 128).filter fun b => bitOf h.pmap b).mapIdx fun i b => (b / 4, b % 4, lget ops i 0)

/-- An exit word that fails its decode checks (R148-R151). -/
def exitWordBad (w : Nat) : Bool :=
  let x := OpW.ofWord w
  x.o = 0x3F || (x.o = 0x3E && (3 ≤ x.f || x.d % 32 ≠ 0 || x.b ≠ 0))

/-- The exit ops among the operations at hand, with stride and slot. -/
def exitOps (h : Hdr) (ops : List Nat) : List (Nat × Nat × Nat) := (placed h ops).filter fun p => isExitOp (OpW.ofWord p.2.2).o

/-- The part of the exit-op check of R52, with the decode checks of R151, that the operations read so far decide: an exit op out of
place, a second one, or one that fails its decode checks. -/
def exitMisplaced (h : Hdr) (ops : List Nat) : Bool :=
  let ex := exitOps h ops
  ex.any (fun p => p.1 ≠ h.exitpos || p.2.1 ≠ 0 || exitWordBad p.2.2) || 1 < ex.length

/-- The exit-op check of R52, with the decode checks of R151. -/
def exitBad (h : Hdr) (ops : List Nat) : Bool :=
  exitMisplaced h ops || ((exitOps h ops).isEmpty && (h.exitpos ≠ h.nstr || h.delay ≠ 0))

/-- The exit word of a carve, if it has one. -/
def exitWord (ops : List Nat) : Option Nat := ops.find? fun w => isExitOp (OpW.ofWord w).o

/-! ### Prediction -/

/-- The direction the tables give (R158): the tagged match with the longest history, else the base counter. -/
def Pred.taken (p : Pred) (addr lvl : Nat) : Bool :=
  let hit := [4, 3, 2, 1, 0].findSome? fun n =>
    match tfind p.tagged (predIdx n addr p.hist) with
    | some e => if e.tag = predTag n addr p.hist ∧ e.lvl = lvl then some (decide (4 ≤ e.ctr)) else none
    | none => none
  match hit with
  | some b => b
  | none => match tfind p.base (baseIdx addr) with
    | some e => e.lvl = lvl && 2 ≤ e.ctr
    | none => false

/-- Target-buffer lookup (R158, R161). -/
def Pred.target (p : Pred) (addr lvl : Nat) : Option Nat :=
  match tfind p.btb addr with
  | some (t, l) => if l = lvl then some t else none
  | none => none

/-- Predict the successor of a carve as it is fetched, and advance history and return stack (R158-R161). A RET goes where the stack,
or with no entry of its level on top the target buffer, says, whatever the direction tables hold; any register exit that the target
buffer misses is predicted to fall through, which R159 says of RET alone. (DESIGN CHOICE, assumption 15) -/
def Pred.predict (p : Pred) (addr size lvl : Nat) (w : Nat) : Nat × Pred :=
  let x := OpW.ofWord w
  let fall := (addr + size) % 2 ^ 64
  let rel := toBits ((addr : Int) + sext (w % 2 ^ 21) 21 * 64) 64
  let isRet := x.o = 0x3E && x.f = 2
  let stacked := p.top.filter fun e => e.2 = lvl
  let tgt : Option Nat :=
    if x.o ≠ 0x3E then some rel
    else match isRet, stacked with
      | true, some e => some e.1
      | _, _ => p.target addr lvl
  let taken := (isRet || p.taken addr lvl) && tgt.isSome
  let call := x.o = 0x3D || (x.o = 0x3E && x.f = 1)
  let q := if taken && call then p.push (fall, lvl) else if isRet && stacked.isSome then p.pop else p
  (if taken then tgt.getD fall else fall, { q with hist := (taken :: p.hist).take 160 })

/-! ### Reading lines -/

/-- What reading one line of a carve gives. -/
inductive LineRd where
  | ok (d : Line)
  | wait
  | bad (kind : Nat)
deriving DecidableEq, Repr

/-- Read one line of a carve as its attribute type says (R85, R104, R347, R349). -/
def State.fetchLine (s : State) (st pa ty key : Nat) : State × LineRd :=
  let c := s.core st
  let cc := s.cache st
  let nc (line : Nat) : State × LineRd :=
    match c.fetchNc.find? fun e => e.1 = line with
    | some (_, d, kind) => (s, if kind = 0 then .ok d else .bad kind)
    | none =>
      if c.fetch.want.contains line then (s, .wait)
      else if (ty = 3 ∨ ty = 4) ∧ ¬ c.order.isEmpty then (s, .wait)
      else
        let r := { Req.plain 0x03 0 (line * 64) (.fetchNc (line * 64)) with
          be := 2 ^ 64 - 1, spec := !c.order.isEmpty, key := key, piste := s.tilePiste st }
        ((s.send st r).modCore st fun c => { c with fetch := { c.fetch with want := c.fetch.want ++ [line] } }, .wait)
  if ty = 5 then
    let off := pa % 2 ^ 18
    let line := s.ownPadPa st pa / 64
    if ¬ inPadWin pa then (s, .bad 9)
    else if s.padLocalDenied st off 64 false then (s, .bad 2)
    else match (if c.groomed then none else tfind cc.cc line) with
      | some l => (s, .ok l.data)
      | none =>
        if s.padPoisoned st off 64 then (s, .bad 5)
        else
          let d := bytesLine (s.padRd st off 64)
          (if c.groomed then s else s.fillCc st line d, .ok d)
  else if (ty = 0 ∨ ty = 1) ∧ ¬ inPadWin pa then
    let line := pa / 64
    match (if c.groomed then none else tfind cc.cc line) with
    | some l => (s, .ok l.data)
    | none =>
      if ¬ s.l2On st then (s, .wait)
      else match cc.look line with
      | some (d, poison, _) =>
        if poison then (s, .bad 5) else (if c.groomed then s else s.fillCc st line d, .ok d)
      | none =>
        match c.fetchNc.find? fun e => e.1 = line && e.2.2 ≠ 0 with
        | some (_, _, kind) => (s, .bad kind)
        | none =>
          let s := if c.fetch.want.contains line then s else s.coreEvent st 0x0E 1
          ((s.askLine st ⟨line, false, !c.order.isEmpty, false, ty = 1, key, false, none, false⟩).modCore st fun c =>
            { c with fetch := { c.fetch with want := if c.fetch.want.contains line then c.fetch.want else c.fetch.want ++ [line] } }, .wait)
  else if 6 ≤ ty then (s, .bad 7)
  else nc (pa / 64)

/-- How reading some lines of a carve ended: with the bytes read, also where a later line fails, and the physical lines they came from,
each with whether it is timed memory (R105). -/
inductive BodyRd where
  | ok (bs : List Byte) (ls : List (Nat × Bool))
  | wait
  | fault (cause info addr : Nat) (bs : List Byte) (ls : List (Nat × Bool))
deriving DecidableEq, Repr

/-- Lines read before others. -/
def BodyRd.after (bs : List Byte) (ls : List (Nat × Bool)) : BodyRd → BodyRd
  | .ok b l => .ok (bs ++ b) (ls ++ l)
  | .wait => .wait
  | .fault cause info addr b l => .fault cause info addr (bs ++ b) (ls ++ l)

/-- Read consecutive lines of a carve, translating each page it touches (R47, R55). -/
def State.fetchLines (s : State) (st va : Nat) : Nat → State × BodyRd
  | 0 => (s, .ok [] [])
  | n + 1 =>
    let c := s.core st
    match s.xlate st c va 0 with
    | .miss =>
      match c.walkFault va 0 none with
      | some (cause, info) => (s, .fault cause info (va / 4096 * 4096) [] [])
      | none =>
        -- a walk that was dropped is repeated once every older carve has committed (R332)
        let old := c.order.isEmpty
        (if old ∨ (s.flag (pgCore st) F.CORE_MMU_CTL_SPEC_WALK ∧ ¬ c.walkDropped va 0 none) then
          s.missWalk st 0x13 va 0 none (!old) false else s, .wait)
    | .needD => (s, .wait)
    | .fault cause info _ => (s, .fault cause info (va / 4096 * 4096) [] [])
    | .ok pa ty key =>
      match (s.tlbRefill st true va).fetchLine st pa ty key with
      | (s, .wait) => (s, .wait)
      | (s, .bad kind) =>
        (s, .fault (if kind = 5 then 0x09 else 0x08) (memInfo 64 (ty % 8) 0 false false false false kind) (va / 64 * 64) [] [])
      | (s, .ok d) =>
        let r := s.fetchLines st ((va + 64) % 2 ^ 64) n
        let line := (if ty = 5 then s.ownPadPa st pa else pa) / 64
        (r.1, BodyRd.after (lineBytes d) [(line, s.timedPart st pa ty)] r.2)

/-! ### CARVE_FETCH -/

/-- The carve fetched, with a failure held if any, goes to the buffer; fetch moves on to the predicted successor (R158, R165). Each
line from outside timed memory is an untimed event (R106). -/
def State.fetchDone (s : State) (st addr : Nat) (h : Hdr) (ops : List Nat) (size : Nat) (ls : List (Nat × Bool)) (flt : Option Flt)
    (next : Option Nat) (pred : Pred) : State :=
  let s := (ls.filter fun l => !l.2).foldl (fun s _ => s.untimed st) s
  s.modCore st fun c =>
    { c with
      fetch := { c.fetch with
        pc := next
        buf := some (addr, h, ops, size, flt)
        predNext := next
        want := []
        mark := c.pred.mark
        lines := ls.map fun l => l.1 }
      fetchNc := []
      walks := c.walks.filter fun w => w.stn.isSome
      pred := pred }

/-- A fault found at fetch (R55). -/
def fetchFlt (cause info addr : Nat) : Flt := ⟨cause, true, 0, 0, addr, info, 0⟩

/-- The successor fetch goes to next, and the predictor after it (R158, R165): none where fetch must wait for the exit. -/
def State.nextFetch (s : State) (st addr size : Nat) (ops : List Nat) : Option Nat × Pred :=
  let c := s.core st
  let fall := (addr + size) % 2 ^ 64
  if c.groomed then (none, c.pred)
  else match exitWord ops with
    | none => (some fall, c.pred)
    | some w =>
      if ¬ s.flag (pgCore st) F.CORE_FLOW_CTL_PRED_EN then (none, c.pred)
      else let p := c.pred.predict addr size c.sr.lvl w; (some p.1, p.2)

/-- The rink copies the carves of the cycle it chose as they are fetched once more; the whole cycle copied is the capture (R170). -/
def State.rinkCopy (s : State) (st : Nat) (r : RinkRec) : State :=
  let c := s.core st
  let k := c.rink
  let add (n : Nat) : Option (List RinkRec) :=
    match k.cand[n]? with
    | some e => if e.addr = r.addr then some (k.copy.take n ++ [{ r with succ := e.succ }]) else none
    | none => none
  let copy := match add k.copy.length, add 0 with
    | some l, _ => l
    | none, some l => l
    | none, none => []
  if k.cand.isEmpty ∨ c.groomed ∨ ¬ s.flag (pgCore st) F.CORE_FLOW_CTL_RINK_EN then s
  else if copy.length = k.cand.length then
    (s.modCore st fun c => { c with rink := { k with cand := [], copy := [], cap := copy, pos := 0 } }).coreEvent st 0x0D 1
  else s.modCore st fun c => { c with rink := { k with copy := copy } }

/-- Fetch reads the carve at an address and checks it in the order of R55. -/
def State.fetchAt (s : State) (st pc : Nat) : State :=
  let c0 := s.core st
  match s.fetchLines st pc 1 with
  | (s, .wait) => s
  | (s, .fault cause info addr _ ls) => s.fetchDone st pc Hdr.zero [] 64 ls (some (fetchFlt cause info addr)) none c0.pred
  | (s, .ok hb hl) =>
    let h := parseHdr hb
    if h.bad then s.fetchDone st pc h [] 64 hl (some (fetchFlt 0x03 0 0)) none c0.pred
    else
      match s.fetchLines st ((pc + 64) % 2 ^ 64) ((h.bytes - 64) / 64) with
      | (s, .wait) => s
      | (s, .fault cause info addr body ls) =>
        let f := if exitMisplaced h (bodyOps body (body.length / 4)) then fetchFlt 0x03 0 0 else fetchFlt cause info addr
        s.fetchDone st pc h [] h.bytes (hl ++ ls) (some f) none c0.pred
      | (s, .ok body ls) =>
        let ops := bodyOps body h.present
        let flt : Option Flt :=
          if exitBad h ops then some (fetchFlt 0x03 0 0)
          else if (h.chk ∧ crc16 body ≠ h.chkcode) ∨ (¬ h.chk ∧ s.flag (pgCore st) F.CORE_CARVE_CTL_CHK_REQ) then
            some (fetchFlt 0x04 0 0)
          else if c0.groomed ∧ s.flag (pgCore st) F.CORE_TIME_CTL_GRM_REQ ∧ ¬ h.grm then
            some (fetchFlt 0x06 (contractInfo 0 0 0 0 7) 0)
          else none
        match flt with
        | some f => s.fetchDone st pc h ops h.bytes (hl ++ ls) (some f) none c0.pred
        | none =>
          let n := s.nextFetch st pc h.bytes ops
          (s.fetchDone st pc h ops h.bytes (hl ++ ls) none n.1 n.2).rinkCopy st
            ⟨pc, 0, h, ops, h.bytes, false, (hl ++ ls).map fun l => l.1⟩

/-- CARVE_FETCH: the next carve comes from the rink while it streams, else from memory (R52, R104, R171). The rink streams with
CORE_FLOW_CTL.PRED_EN = 0 too: R165 stops the predictor, R170 and R171 name only RINK_EN. (DESIGN CHOICE, assumption 99) -/
def State.carveFetch (s : State) (st : Nat) : State :=
  let c := s.core st
  if c.stopped ∨ ¬ c.running ∨ s.sys.pstopped.contains (s.tilePiste st) ∨ c.fetch.buf.isSome then s
  else match c.fetch.resume with
    | some slot =>
      s.fetchAt st (s.padWord st (recBase slot) / 64 * 64)
    | none =>
      match c.fetch.pc with
      | none => s
      | some pc =>
        let cap := c.rink.cap
        match cap[c.rink.pos]? with
        | some r =>
          if r.addr = pc ∧ s.flag (pgCore st) F.CORE_FLOW_CTL_RINK_EN ∧ ¬ c.groomed then
            let pos := (c.rink.pos + 1) % cap.length
            (s.fetchDone st pc r.hdr r.ops r.size (r.lines.map fun l => (l, true)) none (some r.succ) c.pred).modCore st fun c =>
              { c with rink := { c.rink with streaming := true, pos := pos } }
          else s.fetchAt st pc
        | none => s.fetchAt st pc

/-! ### Resumption -/

/-- The record in a slot is outside its encodings (R81, R233): reserved bits of POS, CAUSE, PREDS, VSTART and EXIT_STATE; and for a
record that names a stride, that stride, its VSTART and the operation this applies to. -/
def State.recordBad (s : State) (st slot : Nat) (h : Hdr) (ops : List Nat) : Bool :=
  let b := recBase slot
  let pos := s.padWord st (b + 8)
  let vs := s.padWord st (b + 0x28)
  let stride := pos % 32
  let sl := bitsOf pos 8 2
  let x : Stn := { Stn.empty with hdr := h, ops := ops }
  let vmem := ops.isEmpty || (x.strideWords stride).any fun w => w.1 = sl && !isImx w.2 && isVmemOp (OpW.ofWord w.2).o
  pos ≥ 2 ^ 17 || bitsOf pos 10 6 ≠ 0 || bitsOf pos 5 3 ≠ 0 || 256 ≤ s.padWord st (b + 0x10) || 256 ≤ s.padWord st (b + 0x20)
    || 2 ^ 16 ≤ vs || 3 ≤ s.padWord st (b + 0x38)
    || (!bitOf pos 16 && (h.nstr < stride || 127 < vs || (vs ≠ 0 && !vmem)))

/-- The registers that operations of strides before `n` name as destinations. (DEDUCED, assumption 14) -/
def writtenBefore (h : Hdr) (ops : List Nat) (cfg : Vcfg) (n : Nat) : List Dest :=
  (placed h ops).flatMap fun p =>
    if n ≤ p.1 || isImx p.2.2 then []
    else
      let x := OpW.ofWord p.2.2
      match fmtOf x.o x.f cfg with
      | some m => writeRefs x m cfg
      | none => []

/-- A station loaded from the record in a slot (R81). Registers it may read only once it has written them count as written where a
stride before the record's names them, so that it reads what those strides left (R101). (DEDUCED, assumption 14) -/
def State.resumeStn (s : State) (st slot : Nat) (x : Stn) : Stn :=
  let b := recBase slot
  let pos := s.padWord st (b + 8)
  -- bound from its refetch on, whatever becomes of that (R81, R277)
  let x := if bitOf pos 16 then x else { x with bound := true, resumed := true }
  -- a format fault of the record stands where R55 has one: after a fault on the header's own line or page
  if x.hdr.fmt = 5 ∧ s.recordBad st slot x.hdr x.ops then { x with flt := some (fetchFlt 0x03 0 0) }
  else if bitOf pos 16 ∨ x.flt.isSome then x
  else
    let stride := pos % 32
    let res := s.padWord st (b + 0x38)
    let tgt := s.padWord st (b + 0x30) / 64 * 64
    let an := match exitWord x.ops with | some w => bitOf w 21 | none => false
    let ex : ExitSt := if res = 1 then .fell else if res = 2 then .taken else if x.hdr.exitpos < stride then .fell else .pending
    let edges := (List.range 32).foldl (fun t n =>
      let r := s.getReg st (b + 0x100 + 8 * n)
      tset t n r Rg.zero) ([] : Tbl Nat Rg)
    let arch := (s.core st).arch
    let wb := writtenBefore x.hdr x.ops arch.cfg stride
    let gs := (List.range 32).filter fun n => bitOf x.hdr.iwr n && !bitOf x.hdr.ird n && wb.contains (.g n)
    let vs := (List.range 32).filter fun n => bitOf x.hdr.vwr n && !bitOf x.hdr.vrd n && wb.contains (.v n)
    { x with
      gw := gs.foldl (fun t n => tput t n (tget arch.g n Rg.zero).aged) []
      vw := vs.foldl (fun t n => tput t n (tget arch.v n VRg.zero).aged) []
      edges := edges, preds := s.padWord st (b + 0x20) % 256 ||| 1, vstart := s.padWord st (b + 0x28),
      vslot := bitsOf pos 8 2, ptr := stride, exit := ex, exitTgt := tgt, useTgt := res ≠ 0, annul := an && ex = .fell }

/-! ### RENAME, DISPATCH, LODGE -/

/-- The lowest free station (R57). -/
def Core.freeStn (c : Core) : Option Nat := (List.range 16).find? fun k => !c.order.contains k

/-- RENAME: the carve in the buffer takes a station and registers, or waits until they are free (R57, R58); in groomed mode it waits
until no other is in flight (R104). A core that does not run renames nothing (R89). -/
def State.rename (s : State) (st : Nat) : State :=
  let c := s.core st
  if ¬ c.running ∨ (c.groomed ∧ ¬ c.order.isEmpty) ∨ (c.fetch.resume.isSome ∧ s.padBusy st) then s
  else
  match c.fetch.buf, c.freeStn with
  | some (addr, h, ops, size, flt), some k =>
    let wr := ops.any fun w => !isImx w && writesCfg w
    if 289 < c.iregUsed + h.gmask.length ∨ 128 < c.vregUsed + h.vmask.length ∨ 7 < c.cfgUsed + b2n wr then s
    else
      let x : Stn :=
        { Stn.empty with
          st := .waiting, addr := addr, hdr := h, ops := ops, size := size, wrCfg := wr, predNext := c.fetch.predNext,
          flt := flt, mark := c.fetch.mark, lines := c.fetch.lines }
      let x := match c.fetch.resume with
        | some slot => s.resumeStn st slot x
        | none => x
      let x := { x with st := if x.flt.isSome then .faulted else .waiting }
      -- a resumed carve whose exit has resolved names its own successor (R81)
      let redirect := x.exit ≠ .pending && x.predNext ≠ some x.successor
      s.modCore st fun c =>
        let c := { c with order := c.order ++ [k] }.setSta k { x with predNext := if redirect then some x.successor else x.predNext }
        { c with fetch := { c.fetch with buf := none, resume := none, pc := if redirect then some x.successor else c.fetch.pc } }.refresh
  | _, _ => s

/-- Give a free track the oldest carve that is READY or RESUMABLE (R63). -/
def Core.dispatchOne (c : Core) (t : Nat) : Core :=
  if (c.onTrack t).isSome then c
  else match c.order.find? fun k => (c.sta k).st = .ready || (c.sta k).st = .resumable with
    | none => c
    | some k => (c.modSta k fun x => { x with st := .issuing, stall := 0 }).setTrack t (some k)

/-- The stalled stride of a station waits for an interlock: an operand or destination whose result has not landed, or a hold of R73,
R206 or R210 (R66, R67). -/
def State.waits (s : State) (st k : Nat) : Bool :=
  let c := s.core st
  let x := c.sta k
  let ops := pairOps none (x.strideWords x.ptr)
  (c.interlocked k ops).isSome || ops.any fun o =>
    !isImx o.word && ((0x40 ≤ o.x.o && o.x.o ≤ 0x5B) || isVmemOp o.x.o) &&
      (match (if c.ranOp k o then some (s.memStep st k o (c.operands k o.x)) else s.memGate st k o (c.operands k o.x)) with
        | some (.hold il walk _) => il && walk.isNone
        | _ => false)

/-- Lodged carves whose stalled stride waits for no interlock any more are RESUMABLE (R67). -/
def State.unlodge (s : State) (st : Nat) : State :=
  let ks := (s.core st).order.filter fun k => ((s.core st).sta k).st = .lodged && !s.waits st k
  if ks.isEmpty then s
  else s.modCore st fun c => ks.foldl (fun c k => c.modSta k fun x => { x with st := .resumable }) c

/-- DISPATCH: every free track takes a carve, the oldest the lowest-numbered track; track 1 stays empty in groomed mode (R63,
R104). -/
def State.dispatch (s : State) (st : Nat) : State :=
  if (s.core st).stopped ∨ ¬ (s.core st).running then s
  else (s.unlodge st).modCore st fun c =>
    let c := c.dispatchOne 0
    if c.groomed then c else c.dispatchOne 1

/-- LODGE_THRESH as it acts: 0-3 act as 4 (R86). -/
def State.lodgeThresh (s : State) (st : Nat) : Nat :=
  let t := s.get (pgCore st) F.CORE_CARVE_CTL_LODGE_THRESH 0
  if t < 4 then 4 else t

/-- LODGE: a carve held by an interlock for more than LODGE_THRESH core cycles leaves its track while another is ready to use it; it is
LODGING until two core cycles have passed (R66, R86). (DEDUCED, assumption 100) -/
def State.lodge (s : State) (st trk : Nat) : State :=
  let c := s.core st
  match c.onTrack trk with
  | none => s
  | some k =>
    let x := c.sta k
    let other := c.order.any fun j => j ≠ k && ((c.sta j).st = .ready || (c.sta j).st = .resumable)
    if c.running ∧ x.st = .stalled ∧ x.ilock ∧ s.lodgeThresh st < x.stall ∧ other ∧ ¬ c.groomed ∧
        s.flag (pgCore st) F.CORE_CARVE_CTL_LODGE_EN then
      (s.modCore st fun c => (c.modSta k fun x => { x with st := .lodging, stall := 0 }).freeTrackOf k).coreEvent st 0x05 1
    else s

/-- RESULT_LAND: an interlocked result that is known lands (R59, R67, R69, R90); nothing lands while the core does not run (R89). -/
def State.resultLand (s : State) (st k tag : Nat) : State :=
  if ¬ (s.core st).running then s
  else
    let s := s.modCore st fun c =>
      let x := c.sta k
      match takeFirst (fun p : Pend => p.tag = tag && p.lat.isNone && p.ready) x.pend with
      | none => c
      | some (p, rest) => ((c.setSta k ({ x with pend := rest }.land p)).tryClose k).refresh
    s.unlodge st

end Sys2Proof.Machine
end

