-- ==== Sys2Proof/Machine/Commit.lean ====
section
/-! DEFINITION. Commit of a carve with the effects that wait for it, raising a held fault, the rink's capture and the changes a
CORE page write leaves for a commit (R70, R79, R84, R109, R137, R141, R170, R174, R199, R211, R219, R245, R296, R340). -/

namespace Sys2Proof.Machine

/-- The registers a carve wrote become architectural (R70, R79); FSTATW first, then the flags (R244, R245). -/
def Arch.commit (a : Arch) (x : Stn) : Arch :=
  let g := x.gw.foldl (fun t e => if e.1 = 0 ∨ ¬ bitOf x.hdr.iwr e.1 then t else tset t e.1 e.2 Rg.zero) a.g
  let v := x.vw.foldl (fun t e => if bitOf x.hdr.vwr e.1 then tset t e.1 e.2 VRg.zero else t) a.v
  let f := x.acts.foldl (fun f act => match act with | .fstatw w => fstatWrite w.toNat | _ => f) a.fstat
  { g := g, v := v, cfg := x.cfgw.getD a.cfg, fstat := fstatAcc f x.flags }

/-- The carve's stores go to the committed part of the queue, in program order, and its loads leave theirs (R70, R71). -/
def Core.releaseQueues (c : Core) (k : Nat) : Core :=
  let mine := (c.sq.filter fun e => e.stn = some k).map fun e => { e with stn := none }
  { c with
    sq := (c.sq.filter fun e => e.stn.isNone) ++ mine ++ c.sq.filter fun e => e.stn.isSome && e.stn ≠ some k
    lq := (c.lq.filter fun e => e.stn ≠ k).map fun e => if e.fwd = some k then { e with fwd := none } else e }

/-- The committed store-queue entries. -/
def Core.committedSq (c : Core) : List Nat := (c.sq.filter fun e => e.stn.isNone).map fun e => e.id

/-- The hold a FENCE leaves for the memory operations fetched after it, by variant (R211): earlier loads have performed by
the commit, so only earlier stores are waited for. -/
def fenceHold (variant : Nat) (sqs : List Nat) : List MemHold :=
  match variant with
  | 0 => [⟨true, true, sqs, false, true⟩]
  | 2 => [⟨false, true, sqs, false, true⟩]
  | 4 => [⟨true, false, sqs, false, true⟩]
  | 5 => [⟨true, true, sqs, true, true⟩]
  | _ => []

/-- One effect that waited for its carve's commit. Calls and returns come after the rest. -/
def State.commitAct (s : State) (st : Nat) (a : CAct) : State :=
  match a with
  | .sr op n v =>
    let old := s.srRead st n
    let new := srNew op old v
    if n = 0x103 then
      s.modCore st fun c => { c with rings := c.rings ++ [(new.toNat % 2 ^ 16, c.sr.lvl, c.committedSq)] }
    else
      let s := s.modCore st fun c => { c with sr := c.sr.write n new }
      -- the LEC's copy of H_IDELEG (R296)
      if n = 0x202 then s.set (pgLec st) F.LEC_DELEG_DELEG 0 (new.toNat % 16) else s
  | .fstatw _ => s
  | .fence variant =>
    let s := s.modCore st fun c => { c with holds := (c.holds.filter fun h => !c.holdOver h) ++ fenceHold variant c.committedSq }
    if variant = 0 ∨ variant = 2 ∨ variant = 5 then s.wcFlushAll st else s
  | .syncC => (s.modCache st fun c => { c with cc := [] }).modCore st fun c => c.rinkEnd 4
  | .xinv kind piste va tag =>
    let host := bitOf tag 28
    let g2 := bitOf tag 29
    let c := s.core st
    let vm := if kind = 2 then xlVm c.sr.hGxlat.toNat else bitsOf tag 16 12
    let spec : XinvSpec := ⟨kind, va, tag % 2 ^ 16, vm, host, g2, c.sr.lvl⟩
    s.modCore st fun c =>
      let c := (c.xinvApply spec).rinkEnd 5
      if piste then
        { c with
          nextId := c.nextId + 1
          xinvOut := c.xinvOut ++ [⟨c.nextId, kind, va, tag, vm, c.sr.lvl, false, c.committedSq, 0⟩] }
      else c
  | .scall | .hcall | .sret | .hret => s

/-- The call or return among a carve's effects. -/
def State.commitTrap (s : State) (st ret : Nat) (acts : List CAct) : State :=
  if acts.contains .scall then s.callEntry st 0x20 ret
  else if acts.contains .hcall then s.callEntry st 0x21 ret
  else if acts.contains .sret ∨ acts.contains .hret then s.trapReturn st
  else s

/-- Changes written through the CORE page take effect at this commit (R109, R174, R219, R344). (DESIGN CHOICE, assumption 22) -/
def State.applyCtl (s : State) (st : Nat) : State :=
  let c := s.core st
  let p := c.pctl
  let enter := p.groom = some true ∧ ¬ c.groomed
  let s := match p.attrS with
    | some v => (List.range 8).foldl (fun (s : State) n =>
        (s.set (pgCore st) F.CORE_ATTR_S_TYPE n (bitsOf v.toNat (4 * n) 3)).set (pgCore st) F.CORE_ATTR_S_NX n (bitsOf v.toNat (4 * n + 3) 1)) s
    | none => s
  let s := match p.attrH with
    | some v => (List.range 8).foldl (fun (s : State) n =>
        (s.set (pgCore st) F.CORE_ATTR_H_TYPE n (bitsOf v.toNat (4 * n) 3)).set (pgCore st) F.CORE_ATTR_H_NX n (bitsOf v.toNat (4 * n + 3) 1)) s
    | none => s
  let s := match p.flow with
    | some (pe, re) => (s.set (pgCore st) F.CORE_FLOW_CTL_PRED_EN 0 (b2n pe)).set (pgCore st) F.CORE_FLOW_CTL_RINK_EN 0 (b2n re)
    | none => s
  let s := match p.mmu with
    | some (wc, sw) => (s.set (pgCore st) F.CORE_MMU_CTL_WCACHE_EN 0 (b2n wc)).set (pgCore st) F.CORE_MMU_CTL_SPEC_WALK 0 (b2n sw)
    | none => s
  -- on entry the prefetch streams stop and L1D copies of locked lines are cleaned and invalidated (R109)
  let s := if enter then
      let lk := s.lockMask st
      s.modCache st fun h =>
        let locked := h.l1.filter fun (e : Nat × L1Line) => match tfind h.l2 e.1 with | some l => bitOf lk l.way | none => false
        locked.foldl (fun h e => h.foldL1 e.1) { h with trackers := [] }
    else s
  s.modCore st fun c =>
    let c := if p.rinkFlush then c.rinkEnd 4
      else if decide enter || (match p.flow with | some (_, re) => !re | none => false) then c.rinkEnd 6 else c
    let c := if p.predFlush then { c with pred := Pred.empty } else c
    let c := if p.tlbFlush then c.tlbClear else c
    { c with groomed := p.groom.getD c.groomed, checking := p.check.getD c.checking, pctl := PendCtl.none }

/-- Some change waits for a commit. -/
def PendCtl.any (p : PendCtl) : Bool := p ≠ PendCtl.none

/-- The cycle of `n` carves that has committed four times in a row, oldest first (R170). -/
def rinkCycle (recent : List RinkRec) (n : Nat) : Option (List RinkRec) :=
  let r := recent.take (4 * n)
  if r.length < 4 * n then none
  else
    let cyc := (r.take n).reverse
    let same := (List.range (3 * n)).all fun i =>
      match r[i]?, r[i + n]? with
      | some a, some b => a.addr = b.addr && a.succ = b.succ
      | _, _ => false
    let linked := (List.range n).all fun i =>
      match cyc[i]?, cyc[(i + 1) % n]? with
      | some a, some b => a.succ = b.addr
      | _, _ => false
    let body := cyc.foldl (fun t a => t + (a.size - 64)) 0
    if same && linked && body ≤ 2048 && !cyc.any (fun a => a.barred) then some cyc else none

/-- The carves of `b` are those of `a`, in the same cycle begun anywhere. -/
def sameCycle (a b : List RinkRec) : Bool := a.length = b.length && b.all fun r => a.any fun q => q.addr = r.addr && q.succ = r.succ

/-- The rink notes a commit, and chooses a cycle to copy, but for the one it holds or is about to (R170). -/
def State.rinkCommit (s : State) (st : Nat) (x : Stn) : State :=
  let c := s.core st
  let r : RinkRec := ⟨x.addr, x.successor, x.hdr, x.ops, x.size, x.ops.any barsRink, x.lines⟩
  let recent := (r :: c.rink.recent).take 32
  let s := s.modCore st fun c => { c with rink := { c.rink with recent := recent } }
  if c.rink.streaming ∨ c.groomed ∨ ¬ s.flag (pgCore st) F.CORE_FLOW_CTL_RINK_EN then s
  else match ((List.range 8).map (· + 1)).findSome? fun n => rinkCycle recent n with
    | some cyc =>
      if sameCycle c.rink.cap cyc ∨ sameCycle c.rink.cand cyc then s
      else s.modCore st fun c => { c with rink := { c.rink with cand := cyc, copy := [] } }
    | none => s

/-- Slots and counters of a carve that commits, in part or in full: its pending slots are resolved, under FREEZE too, and FIX[1]
advances exactly as the committed slots do (R611, R617, R618). -/
def State.countCommit (s : State) (st : Nat) (x : Stn) : State :=
  let s := if x.opsDone = 0 then s else s.pmuCount (pgPmu st) F.PMU_FIX_COUNT 1 1 x.opsDone
  let s := s.pmuFix st 2 1
  let s := s.tdAdd st 0 x.opsDone
  let s := s.tdAdd st 2 x.waste
  let s := s.tdAdd st 1 (x.slots - x.waste - x.opsDone)
  s.tdUnpend st x.slots

/-- The oldest station younger than `k` whose carve read an earlier chrono value than `k` did (R145). (DEDUCED, assumption 96) -/
def Core.chronoPassed (c : Core) (k : Nat) : Option Nat :=
  match (c.sta k).chronos.getLast? with
  | some t => (c.youngerThan k).find? fun j => (c.sta j).chronos.any fun u => u < t
  | none => none

/-- Younger carves that read memory or the chrono out of order with the committing carve `k` are squashed, from the oldest of them
(R145, R208, R210). (DEDUCED, assumption 96) -/
def State.orderSquash (s : State) (st k : Nat) : State :=
  let c := s.core st
  let js := (c.loadPassed k).toList ++ (c.chronoPassed k).toList
  match c.order.find? fun j => js.contains j with
  | some j => (s.squash st (j :: c.youngerThan j) (some (c.sta j).addr) 2).coreEvent st 0x07 1
  | none => s

/-- The cause for which the squash of a commit ends streaming: the lowest of those it has (R172). -/
def commitCause (full : Bool) (x : Stn) (p : PendCtl) (groomed : Bool) : Nat :=
  let sync := x.acts.contains .syncC || p.rinkFlush
  let inv : CAct → Bool := fun a => match a with | .xinv _ _ _ _ => true | _ => false
  let off := (p.groom = some true && !groomed) || (match p.flow with | some (_, re) => !re | none => false)
  let own := x.acts.any (fun a => a = .syncC || inv a) || p.rinkFlush || off
  let other := !full || x.hasDevS || x.acts.any (fun a => a ≠ .syncC && !inv a) || p.check.isSome || p.attrS.isSome || p.attrH.isSome ||
    p.tlbFlush || p.mmu.isSome || p.predFlush || !own
  if other then 2 else if sync then 4 else if x.acts.any inv then 5 else 6

/-- Commit the oldest carve's state and effects, full or partial (R70, R79): the station is freed, younger carves are
squashed where an effect, a DEV-S store, a pending change or a trap asks for it. The partial commit of a raised fault counts as a
commit at which a pending change applies. (DESIGN CHOICE, assumption 22) -/
def State.commitState (s : State) (st k : Nat) (x : Stn) (full : Bool) : State :=
  let s := (s.orderSquash st k).countCommit st x
  let s := s.modCore st fun c =>
    let c := { c with arch := c.arch.commit x }.releaseQueues k
    { (c.freeTrackOf k).setSta k Stn.empty with order := c.order.filter (· ≠ k) }
  let s := if full then s.rinkCommit st x else s
  let c := s.core st
  let squash := !full || !x.acts.isEmpty || x.hasDevS || c.pctl.any
  let s := if squash then
      -- everything left in order is younger
      s.squash st c.order (if full then some x.successor else none) (commitCause full x c.pctl c.groomed)
    else s
  let s := if x.hasDevS then s.modCore st fun c =>
      let ids := (c.sq.filter fun e => e.stn.isNone && e.atype = 3).map fun e => e.id
      { c with holds := (c.holds.filter fun h => !c.holdOver h) ++ [⟨true, true, ids, true, false⟩] }
    else s
  let s := x.acts.foldl (fun s a => s.commitAct st a) s
  if (s.core st).pctl.any then s.applyCtl st else s

/-- A fifth PISTE-scope XINV waits for an earlier one (R340). -/
def Core.xinvFull (c : Core) (x : Stn) : Bool :=
  let n := (x.acts.filter fun a => match a with | .xinv _ p _ _ => p | _ => false).length
  0 < n && 4 < c.xinvOut.length + n

/-- The frame of a return that does not chain fails its validation at the commit (R285, R286): FAULT_INFO. -/
def State.returnBad (s : State) (st : Nat) (x : Stn) : Option Nat :=
  if (x.acts.contains .sret || x.acts.contains .hret) && (s.chainSrc st).isNone then s.trapStackBad st (s.core st).sr.lvl else none

/-- The carve's commit writes or reads a trap slot: a call or a return (R281, R285). -/
def Stn.trapActs (x : Stn) : Bool := x.acts.any fun a => a = .scall || a = .hcall || a = .sret || a = .hret

/-- CARVE_COMMIT: the oldest carve commits once it is CLOSED (R70); a call or a return waits for a pad that is being zeroed (R402). A return whose frame has come to fail its checks since its stride
leaves its carve FAULTED there (R285). (DEDUCED, assumption 101) -/
def State.carveCommit (s : State) (st : Nat) : State :=
  let c := s.core st
  match c.order.head? with
  | none => s
  | some k =>
    let x := c.sta k
    if x.st ≠ .closed ∨ c.stopped ∨ c.xinvFull x ∨ (x.trapActs ∧ s.padBusy st) then s
    else match s.returnBad st x with
    | some info =>
      s.modCore st fun c => c.modSta k fun x => { x with st := .faulted, flt := some ⟨0x0A, false, 1, x.hdr.nstr, 0, info, 0⟩ }
    | none =>
      let s := s.commitState st k x true
      let s := s.modCore st fun c => c.refresh
      s.commitTrap st x.successor x.acts

/-- FAULT_RAISE: the oldest carve's held fault is raised once every earlier result has landed (R55, R78, R79), and its slot can be written
(R402). -/
def State.faultRaise (s : State) (st : Nat) : State :=
  let c := s.core st
  match c.order.head? with
  | none => s
  | some k =>
    let x := c.sta k
    match x.flt with
    | none => s
    | some f =>
      if x.st ≠ .faulted ∨ ¬ x.pend.isEmpty ∨ c.stopped ∨ c.xinvFull x ∨ s.padBusy st then s
      else
        (s.commitState st k x false).faultEntry st x f

/-- The oldest carve, where it holds the track or waits off every track for its stride to go on (R68). -/
def Core.stuckCarve (c : Core) (trk : Nat) : Option Nat :=
  match c.order.head? with
  | none => none
  | some k =>
    match (c.sta k).st with
    | .stalled => if c.onTrack trk = some k then some k else none
    | .lodging | .lodged | .resumable => some k
    | _ => none

/-- STUCK_STRIDE_TIMEOUT: a stride that has waited for RAS_TMO.STUCK on its track or off it, not on a WFI and not of a bound carve, ends
in a frame of cause 0x07 once no carve is older (R68, R584). (DEDUCED, assumption 91) -/
def State.stuckStride (s : State) (st trk : Nat) : State :=
  let c := s.core st
  match c.stuckCarve trk with
  | none => s
  | some k =>
    let x := c.sta k
    if x.wfiHeld ∨ x.bound ∨ s.padBusy st then s
    else (s.squash st c.order none 2).plainEntry st 0x07 x.addr

/-- OLDEST_QUEUE_SQUASH: the oldest carve's stride lacks queue entries that younger carves hold (R72). -/
def State.oldestQueueSquash (s : State) (st : Nat) : State :=
  let c := s.core st
  match c.order.head? with
  | none => s
  | some k =>
    let x := c.sta k
    let ops := pairOps none (x.strideWords x.ptr)
    let mem := ops.find? fun o => !isImx o.word && ((0x40 ≤ o.x.o && o.x.o ≤ 0x5B) || isVmemOp o.x.o)
    let n := match mem with | some o => memEntries o (c.operands k o.x) x.vstart | none => (0, 0)
    let lack := (0 < n.1 && !c.lqRoom k n.1 && c.lq.any fun e => e.stn ≠ k) ||
      (0 < n.2 && !c.sqRoom k n.2 && c.sq.any fun e => e.stn.isSome && e.stn ≠ some k)
    if x.st = .stalled ∧ (c.interlocked k ops).isNone ∧ lack then
      s.squashYounger st k (((c.youngerThan k).head?).map fun j => (c.sta j).addr) 2
    else s

/-- SPECULATIVE_REISSUE: a load refused while speculative is sent again once its carve is the oldest (R168). -/
def State.specReissue (s : State) (st id : Nat) : State :=
  let c := s.core st
  match c.lq.find? fun e => e.id = id && e.st = .refused with
  | none => s
  | some e =>
    if ¬ c.isOldest e.stn then s
    else
      let s := s.modCore st fun c =>
        { c with lq := modFirst (fun e => e.id = id) (fun e => { e with st := .waiting, spec := false, got := [], bad := [] }) c.lq }
      e.pieces.foldl (fun s p =>
        s.loadPiece st id p e.atype e.key false (if 1 < e.pieces.length ∧ ¬ e.vector then some id else none) (c.sta e.stn).addr e.stride) s

/-- Send an atomic to its home slice or to another pad (R189, R466). -/
def State.atomicFar (s : State) (st : Nat) (e : Lq) (p : Piece) : State :=
  let flags := (if e.op = 0x59 then 0 else e.f % 16) + b2n (p.len = 4) * 16 + b2n (e.op = 0x59) * 32 + b2n (p.len = 16) * 64
  let r : Req :=
    { Req.plain 0x07 0 p.pa (.atom e.id) with
      be := beMask (p.pa % 64) p.len
      data := BitVec.ofNat 512 (e.src % 2 ^ 128 + e.cmp % 2 ^ 128 * 2 ^ 128 + flags * 2 ^ 256)
      key := e.key
      piste := s.tilePiste st
      noalloc := e.atype = 1 }
  (s.send st r).modCore st fun c =>
    { c with lq := modFirst (fun x => x.id = e.id) (fun x => { x with st := .atomicSent }) c.lq }

/-- ATOMIC_PERFORM: an atomic performs when R188 lets it: near in L1D, in the local pad, or sent to its home or another pad
(R188, R189). (DEDUCED, assumption 26) -/
def State.atomicPerform (s : State) (st id : Nat) : State :=
  let c := s.core st
  match c.lq.find? fun e => e.id = id && e.st = .atomicWait with
  | none => s
  | some e =>
    match e.pieces.head? with
    | none => s
    | some p =>
      let older := c.sq.filter fun q => q.stn.isNone
      let before := c.lq.filter fun q => q.stn = e.stn && q.stride < e.stride && q.st ≠ .done
      let held := older.any (fun q => overlaps p.pa p.len q.pa q.data.length)
        || before.any (fun q => e.release || q.pieces.any fun y => overlaps p.pa p.len y.pa y.len)
        || (e.release && (older.any Sq.undone || !c.wcDone))
      if ¬ c.isOldest e.stn then s
      else if e.release ∧ ¬ c.wc.isEmpty then s.wcFlushAll st
      else if held ∨ (e.atype = 5 ∧ ¬ s.padServing st) then s
      else
        let bind (s : State) : State := s.modCore st fun c => c.modSta e.stn fun x => { x with bound := true }
        let line := p.pa / 64
        if e.atype = 5 then
          let off := p.pa % 2 ^ 18
          let s := s.padGrant st off p.len (match c.t1 with | some k => b2n (e.stn = k) | none => 0)
          if s.padPoisoned st off p.len then bind (s.modCore st fun c => c.lqGive id 0 (s.padRd st off p.len) (some 5))
          else
            let old := s.padRd st off p.len
            let new := atomNew e.op e.f (leNat old) e.cmp e.src
            bind ((s.padWr st off (leBytes new p.len)).modCore st fun c => c.lqGive id 0 old none)
        else
          match tfind (s.cache st).l1 line with
          | some l =>
            if l.st ≠ .s ∧ ¬ inPadWin p.pa then
              let old := lineGet l.data (p.pa % 64) p.len
              if l.poison then bind (s.modCore st fun c => c.lqGive id 0 old (some 5))
              else
                let new := atomNew e.op e.f (leNat old) e.cmp e.src
                bind ((s.writeOwned st line (p.pa % 64) (leBytes new p.len) false).modCore st fun c => c.lqGive id 0 old none)
            else bind (s.atomicFar st e p)
          | none => bind (s.atomicFar st e p)

end Sys2Proof.Machine
end

