-- ==== Sys2Proof/Machine/Tile.lean ====
section
/-! DEFINITION. A tile's committed stores, responses to its requests, snoops, walks, invalidations and mailbox (R71, R82, R196-R221,
R288-R290, R323-R344, R347-R374). -/

namespace Sys2Proof.Machine

/-! ### Refused stores -/

/-- The first refusal goes to CORE_MEMERR with the store-error event; a later one sets OVF only (R218, R220, R221). -/
def State.storeErr (s : State) (st kind size type : Nat) (wc half : Bool) (pa : Nat) : State :=
  let pg := pgCore st
  if s.flag pg F.CORE_MEMERR_VALID then s.set pg F.CORE_MEMERR_OVF 0 1
  else
    let s := ((s.set pg F.CORE_MEMERR_VALID 0 1).set pg F.CORE_MEMERR_KIND 0 kind).set pg F.CORE_MEMERR_SIZE 0 size
    let s := ((s.set pg F.CORE_MEMERR_TYPE 0 type).set pg F.CORE_MEMERR_WC 0 (b2n wc)).set pg F.CORE_MEMERR_HALF 0 (b2n half)
    (s.set pg F.CORE_MEMERR_ADDR_PA 0 pa).lecEvent st 2

/-- A store-queue entry leaves its queue. -/
def State.sqDrop (s : State) (st id : Nat) : State := s.modCore st fun c => { c with sq := c.sq.filter fun e => e.id ≠ id }

/-- The other half of a split store, as a queue entry's number (R201). -/
def Sq.mate (e : Sq) : Nat := if e.half then e.id - 1 else e.id + 1

/-- A committed entry is refused (R218). Where the NI refused one half of a split store, the other is not written (R201, R202): UNMAPPED
and ACCESS_DENIED count as the NI's. (DEDUCED, assumption 52) -/
def State.sqRefuse (s : State) (st kind : Nat) (e : Sq) : State :=
  let pa := match e.kind with | .store => e.pa | .maint _ _ => e.pa / 64 * 64
  let s := (s.storeErr st kind (match e.kind with | .store => e.data.length | .maint _ _ => 64) e.atype false e.half pa).sqDrop st e.id
  if e.split ∧ kind ≤ 2 then
    s.modCore st fun c => { c with sq := c.sq.filter fun x => !(x.split && x.id = e.mate && x.mate = e.id && x.stn.isNone && !x.sent) }
  else s

/-! ### Self-modification -/

/-- The carve in the fetch buffer is thrown away, to be fetched again (R82). -/
def Core.unfetch (c : Core) (a : Nat) : Core :=
  { c with
    pred := c.pred.restore c.fetch.mark
    fetch := { c.fetch with
      pc := if c.fetch.resume.isSome then c.fetch.pc else some a
      buf := none
      predNext := none
      want := [] }
    fetchNc := [] }

/-- A committed store hits a line: younger carves in it are squashed, the carve-cache line goes, streaming ends (R82). A bound carve
is not squashed (R76). -/
def State.selfMod (s : State) (st line : Nat) : State :=
  let s := s.modCache st fun h => { h with cc := terase h.cc line }
  let c := s.core st
  let s := if (c.rink.cap ++ c.rink.copy).any fun r => r.lines.contains line then s.modCore st fun c => c.rinkEnd 3 else s
  match c.order.find? fun k => (c.sta k).lines.contains line && !(c.sta k).bound with
  | some k => (s.squash st (k :: c.youngerThan k) (some (c.sta k).addr) 2).coreEvent st 0x08 1
  | none =>
    match c.fetch.buf with
    | some (a, _) => if c.fetch.lines.contains line then s.modCore st fun c => c.unfetch a else s
    | none => s

/-! ### Draining stores -/

/-- A WC store enters its combining buffer; a full buffer, or the oldest where a fifth line is needed, is written out (R196). -/
def State.wcStore (s : State) (st : Nat) (e : Sq) : State :=
  let line := e.pa / 64
  let c := s.core st
  let s := if !c.wc.any (fun b => b.line = line) && 4 ≤ c.wc.length then
      (match c.wc.head? with | some b => s.wcFlush st b | none => s) else s
  let off := e.pa % 64
  -- a poisoned store marks the words it touches; a clean one clears those it writes whole (R215, R582)
  let mark (m w : Nat) : Nat :=
    if e.poison then (if overlaps (8 * w) 8 off e.data.length then m ||| 2 ^ w else m)
    else if off ≤ 8 * w ∧ 8 * w + 8 ≤ off + e.data.length ∧ bitOf m w then m - 2 ^ w else m
  let put (b : WcBuf) : WcBuf :=
    { b with
      bytes := (e.data.mapIdx fun i x => (off + i, x)).foldl (fun t x => tput t x.1 x.2) b.bytes
      poison := (List.range 8).foldl mark b.poison }
  let s := s.modCore st fun c =>
    if c.wc.any fun b => b.line = line then { c with wc := modFirst (fun b => b.line = line) put c.wc }
    else { c with wc := c.wc ++ [put ⟨line, [], 0⟩] }
  match (s.core st).wc.find? fun b => b.line = line with
  | some b =>
    -- a store that a FENCE of R196 still waits for goes out at once
    if b.bytes.length = 64 ∨ c.holds.any (fun h => h.stores && h.wc && h.sqs.contains e.id) then s.wcFlush st b else s
  | none => s

/-- The request that carries a store-queue entry to its target. -/
def State.sqReq (s : State) (st : Nat) (e : Sq) : Req :=
  { Req.plain 0x04 0 (e.pa / 64 * 64) (.store e.id) with
    be := beMask (e.pa % 64) e.data.length
    data := linePut 0 (e.pa % 64) e.data
    poison := if e.poison then 255 else 0
    key := e.key
    piste := s.tilePiste st
    lvl := e.lvl
    pair := if e.split then some (if e.half then e.id - 1 else e.id) else none }

/-- Mark entries as sent. -/
def State.sqSent (s : State) (st : Nat) (ids : List Nat) : State :=
  s.modCore st fun c => { c with sq := c.sq.map fun e => if ids.contains e.id then { e with sent := true } else e }

/-- The lowest-numbered empty locked way of a line's set (R372). -/
def State.lockedWay (s : State) (st line : Nat) : Option Nat :=
  freeWay 16 (usedWays (s.cache st).l2 l2Set (fun x : L2Line => x.way) (l2Set line)) fun w => bitOf (s.lockMask st) w

/-- L2 copy of a line written back and kept clean: WB with the keep mark (R363). -/
def cleanReq (line id : Nat) (l : L2Line) : Req :=
  { Req.plain 0x05 0 (line * 64) (.maint id) with
    be := 2 ^ 64 - 1, data := l.data, poison := if l.poison then 255 else 0, noalloc := l.nt, pin := true, key := l.key }

/-- One maintenance action on this L2's copy of a line (R363, R373): the state after it, and whether a dirty copy went out as a
write-back, on whose answer the rest waits. Until then the copy stays as it is, since a refused operation has no effect (R218). -/
def State.l2Maint (s : State) (st line act : Nat) (org : Org) : State × Bool :=
  let c := (s.cache st).foldL1 line
  match tfind c.l2 line with
  | none => (s.setCache st c, false)
  | some l =>
    -- INVAL discards dirty data; the directory is told that the line left (R350)
    if act = 1 then ((s.setCache st ((s.cache st).drop line)).send st (victimReq line { l with st := .s }), false)
    else if l.st = .m then ((s.setCache st c).send st { cleanReq line 0 l with org := org }, true)
    else if act = 0 then (s.setCache st c, false)
    else ((s.setCache st { c with l2 := terase c.l2 line }).send st (victimReq line l), false)

/-- The write-back of a maintenance action was performed: the copy is clean, or gone for CLINV, unless it has been written since. -/
def State.l2Cleaned (s : State) (st line act : Nat) (data : Line) : State :=
  let c := (s.cache st).foldL1 line
  match tfind c.l2 line with
  | none => s
  | some l =>
    if l.data ≠ data then s
    else if act = 0 then s.modCache st fun c =>
      let h := match tfind c.l1 line with | some a => if a.st = .m then tput c.l1 line { a with st := .e } else c.l1 | none => c.l1
      { c with l1 := h, l2 := tput c.l2 line { l with st := if l.st = .m then .e else l.st } }
    else (s.setCache st { c with l2 := terase c.l2 line }).send st (victimReq line { l with st := .s })

/-- A maintenance entry acts on a line of this L2: it is over, or waits for its write-back's answer (R363, R366). -/
def State.maintL2 (s : State) (st id line act : Nat) : State :=
  let (s, wait) := s.l2Maint st line act (.maint id)
  if wait then s.sqSent st [id] else s.sqDrop st id

/-- LOCKFILL (R372). (DEDUCED, assumption 33) -/
def State.lockFill (s : State) (st id line : Nat) (e : Sq) : State :=
  if s.flag (pgL2 st) F.L2_LOCK_STAT_BUSY then s
  else
    let c := s.cache st
    match tfind c.l2 line with
    | some l =>
      if bitOf (s.lockMask st) l.way then s.sqDrop st id
      else match s.lockedWay st line with
        -- a line that moves carries its pin mark to the home slice (R374)
        | some w => ((s.setCache st { c with l2 := tput c.l2 line { l with way := w } }).send st { Req.plain 0x01 0 (line * 64) (.maint id) with
            pin := true, key := l.key, piste := s.tilePiste st }).sqSent st [id]
        | none => (s.set (pgL2 st) F.L2_LOCK_STAT_NOROOM 0 1).sqDrop st id
    | none =>
      match s.lockedWay st line with
      | some _ => (s.askLine st ⟨line, false, false, true, e.atype = 1, e.key, false, none, false⟩).sqSent st [id]
      | none => (s.set (pgL2 st) F.L2_LOCK_STAT_NOROOM 0 1).sqDrop st id

/-- A maintenance entry performs (R363-R367). -/
def State.maintDrain (s : State) (st : Nat) (e : Sq) (act scope : Nat) : State :=
  let line := e.pa / 64
  let inFlight (l : Nat) : Bool := (s.cache st).fills.any fun f => f.line = l
  if act = 4 then s.sqDrop st e.id
  else if scope = 2 then
    let w := e.pa
    let way := bitsOf w 4 4
    let set := bitsOf w 16 10
    if bitOf w 0 then
      match (s.cache st).l2.find? fun x => l2Set x.1 = set && x.2.way = way with
      | some (l, _) => if inFlight l then s else s.maintL2 st e.id l act
      | none => s.sqDrop st e.id
    else
      match (s.cache st).l1.find? fun x => l1Set x.1 = set && x.2.way = way with
      | some (l, _) =>
        if act = 1 then (s.modCache st fun c => { c with l1 := terase c.l1 l }).sqDrop st e.id
        else
          let keep := tfind (s.cache st).l1 l
          let s := s.modCache st fun c => c.foldL1 l
          -- a cleaned line stays in L1D, no stronger than its L2 copy
          let s := if act = 0 then s.modCache st fun c =>
              { c with l1 := match keep with | some k => tput c.l1 l { k with st := if k.st = .m then .e else k.st } | none => c.l1 } else s
          s.sqDrop st e.id
      | none => s.sqDrop st e.id
  else if inFlight line then s
  else if act = 3 then s.lockFill st e.id line e
  else if scope = 0 then s.maintL2 st e.id line act
  else
    (s.send st { Req.plain 0x08 0 (line * 64) (.maint e.id) with be := act, key := e.key, piste := s.tilePiste st }).sqSent st [e.id]

/-- STORE_DRAIN: one committed entry drains where nothing it must follow is left (R71, R196, R199, R201, R208, R210, R366). -/
def State.storeDrain (s : State) (st id : Nat) : State :=
  let c := s.core st
  match c.sq.find? fun e => e.id = id && e.stn.isNone && !e.sent with
  | none => s
  | some e =>
    let older := (c.sq.takeWhile fun x => x.id ≠ id).filter fun x => x.stn.isNone
    let dev (x : Sq) : Bool := x.atype = 3 || x.atype = 4
    if e.kind = .store ∧ older.any (fun x => x.kind = .store && overlaps x.pa x.data.length e.pa e.data.length) then s
    else if older.any (fun x => x.kind ≠ .store) || (e.kind ≠ .store && !older.isEmpty) then s
    else if (e.release || e.atype = 3) && !c.wc.isEmpty then s.wcFlushAll st
    else if (e.release || e.atype = 3) && (older.any Sq.undone || !c.wcDone) then s
    else if older.any (fun x => x.atype = 3 || (dev x && dev e && x.pa / 4096 = e.pa / 4096 && !x.sent)) then s
    else
    match e.kind with
    | .maint act scope => s.maintDrain st e act scope
    | .store =>
      let line := e.pa / 64
      -- the halves of a split store that wait here: neither is written before every cached one has its line (R201)
      let es := if e.split then c.sq.filter fun x => x.stn.isNone && !x.sent && (x.id = id || (x.split && x.id = e.mate && x.mate = id)) else [e]
      let cached (x : Sq) : Bool := (x.atype = 0 || x.atype = 1) && !inPadWin x.pa
      let lack := es.filter fun x => cached x && !(s.cache st).owns (x.pa / 64)
      let pair := if e.split then some (if e.half then e.id - 1 else e.id) else none
      if es.any cached ∧ ¬ s.l2On st then s
      else if ¬ lack.isEmpty then
        lack.foldl (fun s x =>
          if (s.cache st).fills.any (fun f => f.line = x.pa / 64) then s
          else ((s.coreEvent st 0x0F 1).coreEvent st 0x10 1).askLine st ⟨x.pa / 64, true, false, false, x.atype = 1, x.key, true, pair, false⟩) s
      else if e.atype = 5 then
        -- with the core clock gated or off the pad serves only the mesh side (R393)
        if s.padServing st && s.get (pgTlift st) F.TLIFT_TSTAT_STATE 0 = 0 then
          (((s.padGrant st (e.pa % 2 ^ 18) e.data.length 1).padWr st (e.pa % 2 ^ 18) e.data e.poison).sqDrop st id).selfMod st
            (s.ownPadPa st e.pa / 64)
        else s
      else if cached e then
        if es.all cached && !c.sq.any (fun x => e.split && x.split && x.id = e.mate && x.mate = id && x.sent) then
          es.foldl (fun s x => ((s.writeOwned st (x.pa / 64) (x.pa % 64) x.data x.poison).sqDrop st x.id).selfMod st (x.pa / 64)) s
        else s
      else if e.atype = 2 then ((s.wcStore st e).sqDrop st id).selfMod st line
      else
        -- both halves of a split store go to the NI together
        let es := es.filter fun x => !cached x && x.atype ≠ 5 && x.atype ≠ 2
        let s := es.foldl (fun s x => s.send st (s.sqReq st x)) s
        (es.map fun x => x.pa / 64).foldl (fun s l => s.selfMod st l) (s.sqSent st (es.map fun x => x.id))

/-- WC_BUFFER_TIMEOUT: a buffer that has seen no store for 1,024 core cycles is written out (R196). -/
def State.wcTimeout (s : State) (st line : Nat) : State :=
  match (s.core st).wc.find? fun b => b.line = line with
  | some b => s.wcFlush st b
  | none => s

/-- DEV_S_ACKNOWLEDGE: the target's acknowledgement completes a DEV-S store, and the hold of R199 ends with it. -/
def State.devSAck (s : State) (st id : Nat) : State :=
  match (s.core st).sq.find? fun e => e.id = id && e.stn.isNone && e.sent && e.atype = 3 with
  | some e => if e.rsp = none ∨ e.rsp = some 0 then s.sqDrop st id else s
  | none => s

/-- STORE_REFUSAL: a sent entry's target refused it (R218). (DEDUCED, assumption 92) -/
def State.storeRefusal (s : State) (st id : Nat) (r : Resp) : State :=
  match (s.core st).sq.find? fun e => e.id = id && e.stn.isNone && e.sent with
  | some e =>
    let kind := match e.rsp with | some k => k | none => r.kind
    if kind = 0 then s else s.sqRefuse st kind e
  | none => s

/-! ### Responses -/

/-- The response to a store-queue entry's request: a DEV-S store waits to be acknowledged, a refused one to be recorded, any
other entry is done (R199, R218). -/
def State.storeRsp (s : State) (st id : Nat) (r : Resp) : State :=
  match (s.core st).sq.find? fun e => e.id = id with
  | none => s
  | some e =>
    if r = .ok ∧ e.atype ≠ 3 then s.sqDrop st id
    else s.modCore st fun c => { c with sq := modFirst (fun x => x.id = id) (fun x => { x with rsp := some r.kind }) c.sq }

/-- The response to a WC buffer's write (R218). -/
def State.wcRsp (s : State) (st : Nat) (q : Req) (r : Resp) : State :=
  let s := s.modCore st fun c => { c with wcOut := c.wcOut.erase (q.pa / 64) }
  if r = .ok then s
  else
    let off := ((List.range 64).find? fun i => bitOf q.be i).getD 0
    let n := ((List.range 64).filter fun i => bitOf q.be i).length
    s.storeErr st r.kind n 2 true false (q.pa + off)

/-- Data or an error for one piece of a load that read past the caches (R168, R213). (DEDUCED, assumption 52) -/
def State.loadRsp (s : State) (st id off : Nat) (q : Req) (r : Resp) (data : Line) (poison : Nat) : State :=
  s.modCore st fun c =>
    match c.lq.find? fun e => e.id = id with
    | none => c
    | some e =>
      match e.pieces.find? fun p => p.off = off with
      | none => c
      | some p =>
        if r = .denied ∧ q.spec then
          { c with lq := modFirst (fun x => x.id = id) (fun x => { x with st := .refused }) c.lq }
        else if r ≠ .ok then c.lqGive id off [] (some r.kind)
        else
          let words := (List.range 8).filter fun w => bitOf poison w && overlaps (w * 8) 8 (p.pa % 64) p.len
          c.lqGive id off (lineGet data (p.pa % 64) p.len) (if words.isEmpty then none else some 5)

/-- Loads that wait for a line take it from the caches; those it failed for are marked, or reissued once oldest (R168, R213). -/
def Core.linesArrive (c : Core) (line : Nat) (got : Option (Line × Bool)) (kind : Nat) (specDenied : Bool) : Core :=
  c.lq.foldl (fun c e =>
    if e.st ≠ .waiting ∨ ¬ (e.atype = 0 ∨ e.atype = 1) ∨ (0x55 ≤ e.op ∧ e.op ≤ 0x59) then c
    else e.pieces.foldl (fun c p =>
      if p.pa / 64 ≠ line ∨ inPadWin p.pa then c
      else match got with
        | some (d, poison) => c.lqGive e.id p.off (lineGet d (p.pa % 64) p.len) (if poison then some 5 else none)
        | none =>
          if specDenied then { c with lq := modFirst (fun x => x.id = e.id) (fun x => { x with st := .refused }) c.lq }
          else c.lqGive e.id p.off [] (some kind)) c) c

/-- Walks that wait for a line go on, or learn that it failed (R330); one whose marked read was refused is dropped (R168, R332). -/
def Core.walksArrive (c : Core) (line : Nat) (bad : Option Nat) (specDenied : Bool) : Core :=
  { c with
    walks := c.walks.map fun w =>
      if w.wait ≠ some line ∨ w.res ≠ .running then w
      else if specDenied then { w with wait := none, res := .dropped }
      else if bad.isSome then { w with bad := bad }
      else { w with wait := none } }

/-- The response to an L2 fill; data newer than memory that a home slice hands over for ownership arrive as M (R213, R350, R352,
R353, R361, R372). (DEDUCED, assumption 25) -/
def State.fillRsp (s : State) (st line : Nat) (r : Resp) (data : Line) (poison dirty : Bool) : State :=
  match takeFirst (fun f : Fill => f.line = line) (s.cache st).fills with
  | none => s
  | some (f, rest) =>
    let s := s.modCache st fun c => { c with fills := rest }
    let locks := (s.core st).sq.filter fun e => e.sent && e.kind = .maint 3 0 && e.pa / 64 = line
    if r = .ok then
      let l : L2Line := ⟨if f.excl then (if dirty then .m else .e) else .s, data, poison, 0, f.nt, f.key⟩
      let s := if f.lock then
          (match s.lockedWay st line with
           | some w => s.fillLocked st line w { l with way := w }
           | none => s.set (pgL2 st) F.L2_LOCK_STAT_NOROOM 0 1)
        else s.fillL2 st line l
      let s := if f.l1 && (tfind (s.cache st).l2 line).isSome then s.intoL1 st line l.st data poison else s
      let s := s.modCore st fun c => (c.linesArrive line (some (data, poison)) 0 false).walksArrive line none false
      locks.foldl (fun s e => s.sqDrop st e.id) s
    else
      let denied := f.spec && r = .denied
      let dropped := if denied then ((s.core st).walks.filter fun w => w.wait = some line && w.res = .running && !w.pref).length else 0
      let s := (s.modCore st fun c => (c.linesArrive line none r.kind denied).walksArrive line (some r.kind) denied).coreEvent st 0x16 dropped
      let s := if ¬ denied ∧ (s.core st).fetch.want.contains line then
          s.modCore st fun c => { c with fetchNc := c.fetchNc ++ [(line, 0, r.kind)] } else s
      -- a carve refused while speculative is asked for again when nothing is older (R168)
      let s := if denied then s.modCore st fun c => { c with fetch := { c.fetch with want := c.fetch.want.filter (· ≠ line) } } else s
      let s := locks.foldl (fun s e => s.sqRefuse st r.kind e) s
      if f.excl ∧ ¬ f.spec then
        ((s.core st).sq.filter fun e => e.stn.isNone && !e.sent && e.kind = .store && (e.atype = 0 || e.atype = 1) && e.pa / 64 = line).foldl
          (fun s e => s.sqRefuse st r.kind e) s
      else s

/-- The fill for one half of a split access whose other half the NI refused: it was not sent (R201). The load's half stays empty, walks
and other loads ask for the line again. -/
def State.fillUnsent (s : State) (st line : Nat) (pair : Option Nat) : State :=
  match takeFirst (fun f : Fill => f.line = line) (s.cache st).fills with
  | none => s
  | some (f, rest) =>
    let s := s.modCache st fun c => { c with fills := rest }
    let s := s.modCore st fun (c : Core) =>
      let c : Core := { c with walks := c.walks.map fun w => if w.wait = some line then { w with wait := none } else w }
      (c.lq.filter fun e => some e.id = pair).foldl (fun c e => (e.pieces.filter fun p => p.pa / 64 = line).foldl (fun c p => c.lqGive e.id p.off [] none) c) c
    if (s.core st).lq.any fun e => e.st = .waiting && some e.id ≠ pair && e.pieces.any fun p => p.pa / 64 = line && !e.got.any fun g => g.1 = p.off then
      s.askLine st { f with pair := none }
    else s

/-- A fetch line that no cache holds arrives (R347). -/
def State.fetchNcRsp (s : State) (st pa : Nat) (q : Req) (r : Resp) (data : Line) (poison : Nat) : State :=
  s.modCore st fun c =>
    if r = .denied ∧ q.spec then { c with fetch := { c.fetch with want := c.fetch.want.filter (· ≠ pa / 64) } }
    else { c with fetchNc := c.fetchNc ++ [(pa / 64, data, if r = .ok then (if poison = 0 then 0 else 5) else r.kind)] }

/-- The response to a far atomic: the old value, or a mark (R189, R213). -/
def State.atomRsp (s : State) (st id : Nat) (r : Resp) (data : Line) (poison : Nat) : State :=
  s.modCore st fun c =>
    match c.lq.find? fun e => e.id = id with
    | none => c
    | some e =>
      let off := match e.pieces.head? with | some p => p.pa % 64 | none => 0
      c.lqGive id 0 (if r = .ok then lineGet data off e.size else []) (if r ≠ .ok then some r.kind else if poison ≠ 0 then some 5 else none)

/-- The response to a maintenance entry's request (R366, R218). -/
def State.maintRsp (s : State) (st id : Nat) (q : Req) (r : Resp) : State :=
  match (s.core st).sq.find? fun e => e.id = id with
  | none => s
  | some e =>
    if r ≠ .ok then s.sqRefuse st r.kind e
    else (match e.kind with
      | .maint act _ => if q.op = 5 then s.l2Cleaned st (q.pa / 64) act q.data else s
      | .store => s).sqDrop st id

/-- A walk ends with a walk error: cause 0x14 and the UCR record of KIND 14, nothing installed (R330, R580). (DEDUCED, assumption 20) -/
def State.walkError (s : State) (st k : Nat) (w : Walk) (info addr : Nat) : State :=
  ((s.modCore st fun c => { c with walks := lset c.walks k { w with res := .fault 0x14 info w.va, ad := none, adSent := false } }).raiseErr
    (pgCore st) 9).rasRecord (pgCore st) 2 14 (2 ^ 9) addr false

/-- The response to an A or D update: the walk starts again from the root, whether the swap took or not (R325). -/
def State.adRsp (s : State) (st addr : Nat) (r : Resp) (poison : Nat) : State :=
  let c := s.core st
  match c.walks.findIdx? fun w => w.adSent && (match w.ad with | some (a, _, _, _) => a = addr | none => false) with
  | none => s
  | some k =>
    match c.walks[k]? with
    | none => s
    | some w =>
      if r = .ok ∧ poison = 0 then
        s.modCore st fun c => { c with walks := lset c.walks k { w with ad := none, adSent := false } }
      else s.walkError st k w (xInfo none 0 (if r = .ok then 10 else 9) false w.acc) addr

/-! ### Walks -/

/-- A table read of a walk: the tile's caches; a line that came back with an error or poison ends the walk (R327, R330). -/
def State.tableRd (s : State) (st : Nat) (w : Walk) (pa key : Nat) : TblRd :=
  let line := pa / 64
  if w.wait = some line ∧ w.bad.isSome then .bad (w.bad = some 5)
  else match (s.cache st).look line with
    | some (d, poison, _) => if poison then .bad true else .val (leNat (lineGet d (pa % 64) 8))
    | none => .wait line key

/-- PAGE_WALK: walk `k` goes on as far as the table lines at hand let it (R323-R333); its reads wait while the L2 serves none. A walk
of a carve that is not the oldest, or of a PREF, is dropped where it would fault or set a bit, and the reads of either carry the
speculative mark. (DESIGN CHOICE, assumption 28) -/
def State.pageWalk (s : State) (st k : Nat) : State :=
  let c := s.core st
  match c.walks[k]? with
  | none => s
  | some w =>
    if w.res ≠ .running ∨ w.ad.isSome ∨ (w.wait.isSome ∧ w.bad.isNone) ∨ ¬ s.l2On st then s
    else
      let on := s.flag (pgCore st) F.CORE_MMU_CTL_WCACHE_EN
      let spec := w.spec && !(match w.stn with | some j => c.isOldest j | none => c.order.isEmpty)
      let drop (s : State) : State :=
        (s.modCore st fun c => { c with walks := lset c.walks k { w with res := .dropped } }).coreEvent st 0x16 (b2n (spec && !w.pref))
      match walkAll s st c on (s.tableRd st w) w.va w.acc w.lvl with
      | .wait line key =>
        (s.askLine st ⟨line, false, spec || w.pref, false, false, key, false, none, false⟩).modCore st fun c =>
          { c with walks := lset c.walks k { w with wait := some line, bad := none } }
      | .ent e ws => s.modCore st fun c => { (c.tlbFill (w.acc = 0) e).wcFill on ws with walks := c.walks.eraseIdx k }
      | .fault cause info =>
        if spec ∨ w.pref then drop s
        else if cause = 0x14 then s.walkError st k w info ((w.wait.getD 0) * 64)
        else s.modCore st fun c => { c with walks := lset c.walks k { w with res := .fault cause info w.va } }
      | .setBits addr old new key =>
        if spec ∨ w.pref then drop s
        else s.modCore st fun c => { c with walks := lset c.walks k { w with ad := some (addr, old, new, key) } }

/-- AD_UPDATE: the A or D bits of walk `k` are set by one far compare-and-swap on the entry (R325). -/
def State.adUpdate (s : State) (st k : Nat) : State :=
  match (s.core st).walks[k]? with
  | some w =>
    match w.ad with
    | some (addr, old, new, key) =>
      if w.adSent then s
      else
        let off := addr % 64
        let r : Req := { Req.plain 0x07 0 addr (.adUpdate addr) with
          be := beMask off 8
          data := BitVec.ofNat 512 (new % 2 ^ 64 + old % 2 ^ 64 * 2 ^ 128 + 32 * 2 ^ 256)
          key := key
          piste := s.tilePiste st }
        (s.send st r).modCore st fun c => { c with walks := lset c.walks k { w with adSent := true } }
    | none => s
  | none => s

/-! ### Invalidations -/

/-- An invalidation as it travels (R339, R340): kind, level, tag words and address in the payload. -/
def xinvPayload (x : XinvOut) : Line := BitVec.ofNat 512 (x.va % 2 ^ 64 + x.tag % 2 ^ 30 * 2 ^ 64 + x.vmTag % 2 ^ 12 * 2 ^ 96 + x.lvl * 2 ^ 112 + x.kind * 2 ^ 116)

/-- The invalidation in a flit. -/
def xinvOf (p : Line) : XinvSpec :=
  let v := p.toNat
  let tag := bitsOf v 64 30
  ⟨bitsOf v 116 2, bitsOf v 0 64, tag % 2 ^ 16, bitsOf v 96 12, bitOf tag 28, bitOf tag 29, bitsOf v 112 2⟩

/-- PISTE_INVALIDATION_SEND: the oldest committed PISTE-scope XINV goes to every other tile of the piste once the stores committed
before it have been performed (R340). -/
def State.xinvSend (s : State) (st : Nat) : State :=
  let c := s.core st
  match c.xinvOut.find? fun x => !x.sent with
  | none => s
  | some x =>
    if x.after.any (fun i => c.sq.any fun e => e.id = i) ∨ ¬ c.wcDone then s
    else
      let tiles := (List.range 160).filter fun lt =>
        bitOf (s.get (pgNi st) F.NI_GATE_TILES_TILES (lt / 64)) (lt % 64) && s.stopLt st ≠ some lt
      let stops := tiles.filterMap fun lt => s.niLtStop st lt
      let s := stops.foldl (fun (s : State) d =>
        s.send st { Req.plain 0x23 3 0 (.xinv x.id) with data := xinvPayload x, piste := s.tilePiste st, dst := some (Fin.ofNat 194 d) }) s
      s.modCore st fun c =>
        { c with xinvOut := (c.xinvOut.map fun y => if y.id = x.id then { y with sent := true, acks := stops.length } else y).filter fun y => !y.sent || 0 < y.acks }

/-- A target acknowledged an invalidation, answered CLOSED, or timed out (R341, R342). -/
def State.xinvRsp (s : State) (st id : Nat) : State :=
  s.modCore st fun c =>
    { c with xinvOut := (c.xinvOut.map fun y => if y.id = id then { y with acks := y.acks - 1 } else y).filter fun y => !y.sent || 0 < y.acks }

/-- The squash a received invalidation asks for, in the first cycle with no bound carve (R341). (DEDUCED, assumption 93) -/
def State.xinvSquash (s : State) (st : Nat) : State :=
  let c := s.core st
  if c.xinvIn.all (fun x => x.squashed) || s.coreBound st then s
  else
    let at_ := if c.order.isEmpty && c.fetch.buf.isNone then c.fetch.pc else some c.resumePoint
    let resume := if c.order.isEmpty then c.fetch.resume else none
    (s.squash st c.order at_ 5).modCore st fun c =>
      { c with
        fetch := { c.fetch with resume := resume }
        xinvIn := c.xinvIn.map fun x => if x.squashed then x else { x with squashed := true, after := c.committedSq } }

/-- XINV: a tile receives a broadcast invalidation (R341, R343): a tile in T2 or T3 acknowledges at once. (DEDUCED, assumption 93) -/
def State.xinvRecv (s : State) (st : Nat) (f : Flit) : State :=
  let s := s.served st f
  if 2 ≤ s.get (pgTlift st) F.TLIFT_TSTAT_STATE 0 then s.replyAck st f .ok
  else
    let s := (s.coreEvent st 0x17 1).modCore st fun c =>
      { (c.xinvApply (xinvOf f.payload)).rinkEnd 5 with xinvIn := c.xinvIn ++ [⟨f, false, []⟩] }
    s.xinvSquash st

/-- INVALIDATION_ACK: the oldest received invalidation is acknowledged once the carves are squashed and the stores committed before
that have been performed (R341). -/
def State.xinvAck (s : State) (st : Nat) : State :=
  let s := s.xinvSquash st
  let c := s.core st
  match c.xinvIn with
  | [] => s
  | x :: rest =>
    if ¬ x.squashed ∨ x.after.any (fun i => c.sq.any fun e => e.id = i) ∨ ¬ c.wcDone then s
    else (s.modCore st fun c => { c with xinvIn := rest }).replyAck st x.req .ok

/-- TLB_FLUSH: a write of CORE_MMU_CTL.TLB_FLUSH acts at the next commit, or at once on a core that is not running (R335, R344). -/
def State.tlbFlush (s : State) (st : Nat) : State :=
  s.modCore st fun c => if c.running then { c with pctl := { c.pctl with tlbFlush := true } } else c.tlbClear

/-! ### Snoops -/

/-- A snoop's answer from a tile: data of a dirty copy, with the keep mark where a shared copy stays. -/
def State.snoopReply (s : State) (st : Nat) (f : Flit) (l : Option L2Line) (kept : Bool) : State :=
  match l with
  | some x =>
    if x.st = .m then s.niOffer st { f.reply 0x30 .ok x.data (if x.poison then 255 else 0) with pin := kept, noalloc := x.nt, key := x.key }
    else s.niOffer st { f.reply 0x31 .ok 0 0 with pin := kept }
  | none => s.replyAck st f .ok

/-- The dirty line of an L2 as a snoop finds it: in L2 with its L1D copy folded in, else in a victim's write-back that is not answered
yet (R350, R352). -/
def State.snoopLine (s : State) (st line : Nat) : Option L2Line :=
  match tfind ((s.cache st).foldL1 line).l2 line with
  | some l => some l
  | none =>
    let out := (s.ni st).outst.map (fun o => o.req) ++ (s.ni st).reqs
    (out.reverse.find? fun q => q.org = .victim line && q.be ≠ 0).map fun q => ⟨.m, q.data, q.poison ≠ 0, 0, q.noalloc, q.key⟩

/-- SNP_INV: a home slice invalidates this tile's copy; a dirty one goes back in the answer (R351, R352, R373). -/
def State.snpInv (s : State) (st : Nat) (f : Flit) : State :=
  let s := s.served st f
  let line := f.addr / 64
  let c := (s.cache st).foldL1 line
  let l := s.snoopLine st line
  (s.setCache st { c with l2 := terase c.l2 line }).snoopReply st f l false

/-- SNP_SH: a home slice drops this tile's copy to S; a dirty one goes back in the answer (R352). -/
def State.snpSh (s : State) (st : Nat) (f : Flit) : State :=
  let s := s.served st f
  let line := f.addr / 64
  let c := (s.cache st).foldL1 line
  match tfind c.l2 line with
  | some l => (s.setCache st { c with l2 := tput c.l2 line { l with st := .s } }).snoopReply st f (some l) true
  | none => (s.setCache st c).snoopReply st f (s.snoopLine st line) false

/-! ### The Patrol mailbox of a tile -/

/-- The Patrol is sent a ring: logical tile, piste, level and SEQ (R288, R551). -/
def State.ringSent (s : State) (st lvl seq : Nat) : State :=
  match s.stopLt st with
  | none => s
  | some lt =>
    let x := s.sys
    { s with sys := { x with calls := x.calls ++ [⟨some lt, 0, Fin.ofNat 64 (s.tilePiste st), lvl, seq, []⟩] } }

/-- PMB_RING: the oldest committed ring takes effect once the stores before it have drained; one that finds BUSY is lost (R288-R290). -/
def State.pmbRing (s : State) (st : Nat) : State :=
  let c := s.core st
  match c.rings with
  | [] => s
  | (seq, lvl, after) :: rest =>
    if after.any fun i => c.sq.any fun e => e.id = i then s
    else if c.sr.pmbBusy then s.setCore st { c with rings := rest, sr := { c.sr with pmbLost := true } }
    else
      (s.setCore st { c with
        rings := rest
        sr := { c.sr with pmbSeq := seq, pmbBusy := true, pmbDone := false, pmbTimeout := false, pmbLost := false } }).ringSent st lvl seq

/-- PMB_COMPLETION: the Patrol writes the response and RESULT; a completion with another SEQ, or after the timeout, is discarded. The
response waits while the pad is zeroed (R290, R402). -/
def State.pmbComplete (s : State) (st seq result : Nat) (rsp : List Word) : State :=
  let r := (s.core st).sr
  if ¬ r.pmbBusy ∨ r.pmbSeq ≠ seq ∨ s.padBusy st then s
  else
    let s := if rsp.isEmpty then s else s.padGrant st 0x3880 (8 * rsp.length) 2
    let s := (rsp.take 16).mapIdx (fun i w => (i, w)) |>.foldl (fun s e => s.padWrWord st (0x3880 + 8 * e.1) e.2.toNat) s
    (s.modCore st fun c => { c with sr := { c.sr with pmbBusy := false, pmbDone := true, pmbResult := result % 2 ^ 32 } }).lecEvent st 13

/-- PMB_TIMEOUT: a call not completed in 10 ms ends (R290). -/
def State.pmbTimeout (s : State) (st : Nat) : State :=
  if ¬ (s.core st).sr.pmbBusy then s
  else (s.modCore st fun c =>
    { c with sr := { c.sr with pmbBusy := false, pmbDone := true, pmbTimeout := true, pmbResult := 0xFFFFFFFF } }).lecEvent st 13

end Sys2Proof.Machine
end

