-- ==== Sys2Proof/Machine/Arrays.lean ====
section
/-! DEFINITION. The L2 range engine, way locking, array sweeps, and the pad's zeroing, copying and sweep (R358-R376, R402-R412). -/

namespace Sys2Proof.Machine

/-! ### Range engine -/

/-- The range engine acts on one line of this L2 (R363, R368): a write-back is owed to the run. -/
def State.rangeAct (s : State) (st line act : Nat) : State :=
  let (s, wait) := s.l2Maint st line act (.range line)
  if wait then s.modCache st fun c => { c with range := c.range.map fun r => { r with owed := r.owed ++ [line] } } else s

/-- Send range lines to their home slices, up to 32 outstanding (R368). (DESIGN CHOICE, assumption 28) -/
def State.rangePump (s : State) (st : Nat) : State :=
  (List.range 32).foldl (fun (s : State) _ =>
    match (s.cache st).range with
    | some r =>
      if r.depth = 1 ∧ ¬ r.abort ∧ r.sent < r.len ∧ r.owed.length < 32 then
        let line := r.base + r.sent
        (s.modCache st fun c => { c with range := some { r with sent := r.sent + 1, owed := r.owed ++ [line] } }).send st
          { Req.plain 8 0 (line * 64) (.range line) with be := r.act, patrol := true, piste := s.tilePiste st }
      else s
    | none => s) s

/-- The run ends: DONE, ABORTED where ABORT stopped it, and the event (R369). -/
def State.rangeEnd (s : State) (st : Nat) (aborted : Bool) : State :=
  let pg := pgL2 st
  let s := s.modCache st fun c => { c with range := none }
  let s := (s.set pg F.L2_RANGE_STAT_BUSY 0 0).set pg F.L2_RANGE_STAT_DONE 0 1
  let s := if aborted then s.set pg F.L2_RANGE_STAT_ABORTED 0 1 else s
  if s.flag pg F.L2_RANGE_CTL_EVT_EN then
    let src := s.get pg F.L2_RANGE_CTL_SOURCE 0
    if src < 32 then s.set pg F.L2_RANGE_STAT_REJECT 0 1 else s.lecEvent st src
  else s

/-- GO of L2_RANGE_CTL (R369, R381): a run of no line is over at once. -/
def State.rangeGo (s : State) (st : Nat) : State :=
  let pg := pgL2 st
  if s.flag pg F.L2_RANGE_STAT_BUSY then s.set pg F.L2_RANGE_STAT_REJECT 0 1
  else
    let r : RangeRun := ⟨s.get pg F.L2_RANGE_BASE_PA 0, s.get pg F.L2_RANGE_LEN_LINES 0, s.get pg F.L2_RANGE_CTL_ACT 0,
      s.get pg F.L2_RANGE_CTL_DEPTH 0, 0, false, 0, []⟩
    let s := ((s.set pg F.L2_RANGE_STAT_BUSY 0 1).set pg F.L2_RANGE_STAT_DONE_LINES 0 0).modCache st fun c => { c with range := some r }
    if r.len = 0 then s.rangeEnd st false else s.rangePump st

/-- ABORT: the engine stops after the line in hand (R369). -/
def State.rangeAbort (s : State) (st : Nat) : State :=
  s.modCache st fun c => { c with range := c.range.map fun r => { r with abort := true } }

/-- The answer that a line of the run is owed: its home slice's, or that of its write-back (R368). One that no run owes is of a run cut
short. -/
def State.rangeRsp (s : State) (st line : Nat) (q : Req) (r : Resp) : State :=
  match (s.cache st).range with
  | some x =>
    if ¬ x.owed.contains line then s
    else
      let d := if x.depth = 1 then x.done + 1 else x.done
      let s := if x.depth = 0 ∧ r = .ok then s.l2Cleaned st line x.act q.data else s
      let s := s.modCache st fun c => { c with range := some { x with done := d, owed := x.owed.erase line } }
      if x.depth = 1 then (s.set (pgL2 st) F.L2_RANGE_STAT_DONE_LINES 0 d).rangePump st else s
  | none => s

/-- RANGE_ENGINE_DONE: at depth ADDR_L2 the engine acts on every line of the range once no fill of one is in flight; at either depth the
run ends when each line has had its answer (R367-R370). (DEDUCED, assumption 29) -/
def State.rangeDone (s : State) (st : Nat) : State :=
  let c := s.cache st
  match c.range with
  | none => s
  | some r =>
    let inRange (l : Nat) : Bool := decide (r.base ≤ l) && decide (l < r.base + r.len)
    if r.depth = 0 ∧ ¬ r.abort ∧ r.done < r.len then
      if c.fills.any fun f => inRange f.line then s
      else
        let lines := (c.l2.filter fun e => inRange e.1).map fun e => e.1
        let s := s.modCache st fun c => { c with range := some { r with done := r.len } }
        let s := (lines.foldl (fun (s : State) l => s.rangeAct st l r.act) s).set (pgL2 st) F.L2_RANGE_STAT_DONE_LINES 0 r.len
        if ((s.cache st).range.elim true fun x => x.owed.isEmpty) then s.rangeEnd st false else s
    else if r.owed.isEmpty ∧ (r.abort ∨ r.depth = 0 ∨ r.sent = r.len) then s.rangeEnd st (r.abort && r.done < r.len)
    else s

/-! ### Way locking -/

/-- Number of ones in a mask of `n` bits. -/
def ones (n v : Nat) : Nat := ((List.range n).filter fun b => bitOf v b).length

/-- A write of WAYMASK is discarded (R371). -/
def State.lockReject (s : State) (st mask : Nat) : Bool := 12 < ones 16 mask || s.flag (pgL2 st) F.L2_LOCK_STAT_BUSY

/-- WAYMASK changes: newly locked ways are to be emptied (R371). -/
def State.lockWays (s : State) (st old mask : Nat) : State :=
  let new := mask &&& (0xFFFF - old % 2 ^ 16)
  if new = 0 then s else (s.set (pgL2 st) F.L2_LOCK_STAT_BUSY 0 1).modCache st fun c => { c with emptying := new }

/-- LOCK_EMPTYING_DONE: every line of the newly locked ways has been cleaned and invalidated (R371). (DESIGN CHOICE, assumption 28) -/
def State.lockEmptied (s : State) (st : Nat) : State :=
  if s.flag (pgL2 st) F.L2_LOCK_STAT_BUSY then
    let m := (s.cache st).emptying
    let lines := ((s.cache st).l2.filter fun e => bitOf m e.2.way).map fun e => e.1
    ((lines.foldl (fun (s : State) l => s.evictL2 st l) s).modCache st fun c => { c with emptying := 0 }).set (pgL2 st) F.L2_LOCK_STAT_BUSY 0 0
  else s

/-- NLOCKED (R379). -/
def State.l2View (s : State) (st : Nat) (f : Fld) : Option Nat :=
  if f.fid = F.L2_LOCK_STAT_NLOCKED.fid then some (ones 16 (s.lockMask st)) else none

/-! ### Sweeps of L2 and the slice -/

/-- A sweep read of L2 found something at a set and way, which the order of the sweep has reached (R375, R376); it waits for a fill of
the line there (R367). -/
def State.l2Sweep (s : State) (st set way : Nat) (e : EccFound) : State :=
  let pg := pgL2 st
  let there := (s.cache st).l2.find? fun x => l2Set x.1 = set && x.2.way = way
  if ¬ s.flag pg F.L2_SWEEP_EN ∨ 2 ≤ s.get (pgTlift st) F.TLIFT_TSTAT_STATE 0 ∨ ¬ s.l2On st ∨ set * 16 + way ≠ (s.cache st).sweep then s
  else if there.any fun x => (s.cache st).fills.any fun f => f.line = x.1 then s
  else
    let s := s.modCache st fun c => { c with sweep := (set * 16 + way + 1) % 16384 }
    match there, e with
    | _, .clean => s
    | x, .corrected => s.classErr pg 1 (match x with | some x => x.1 * 64 | none => 0)
    | _, .tagFatal => (s.modCache st fun c => { c with dead := true }).classErr pg 3 0
    | none, .uncorrectable => s.classErr pg 1 0
    | some (line, l), .uncorrectable =>
      if l.st = .m || (match tfind (s.cache st).l1 line with | some a => a.st = .m | none => false) then
        (s.modCache st fun c => { c with l2 := tput c.l2 line { l with poison := true } }).classErr pg 2 (line * 64)
      else (s.evictL2 st line).classErr pg 1 (line * 64)

/-- A sweep read of the slice found something at a set and way, which the order of the sweep has reached (R375, R376); it waits for a
transaction on the line there (R367). -/
def State.sliceSweep (s : State) (st set way : Nat) (e : EccFound) : State :=
  let pg := pgSlice st
  let x := s.slice st
  let there := x.llc.find? fun y => llcSet y.1 = set && y.2.way = way
  if ¬ s.flag pg F.SLICE_SWEEP_EN ∨ ¬ s.sliceOn st ∨ set * 16 + way ≠ x.sweep then s
  else if there.any fun y => x.txs.any fun t => t.line = y.1 then s
  else
    let s := s.setSlice st { x with sweep := (set * 16 + way + 1) % 32768 }
    match there, e with
    | _, .clean => s
    | x, .corrected => s.classErr pg 1 (match x with | some x => x.1 * 64 | none => 0)
    | _, .tagFatal => (s.setSlice st { s.slice st with dead := true }).classErr pg 3 0
    | none, .uncorrectable => s.classErr pg 1 0
    | some (line, l), .uncorrectable =>
      if l.dirty then
        (s.setSlice st { s.slice st with llc := tput (s.slice st).llc line { l with poison := true } }).classErr pg 2 (line * 64)
      else (s.llcDrop st line).classErr pg 1 (line * 64)

/-! ### The pad -/

/-- The pad holds zero everywhere, with valid check bits (R402). -/
def State.padClear (s : State) (st : Nat) : State :=
  let s := (List.range 2).foldl (fun (s : State) i => s.padGrant st (i * 0x4000) 128 4) s
  { s with
    pads := Mem.clear s.pads (st * 2 ^ 18) (2 ^ 18)
    padPoison := s.padPoison.filter fun k => k / 2 ^ 15 ≠ st }

/-- PAD_ZEROING_DONE: zeroing ends and waiting requests are served (R402). -/
def State.padZeroed (s : State) (st : Nat) : State :=
  if s.flag (pgPad st) F.PAD_STAT_ZEROING then (s.padClear st).set (pgPad st) F.PAD_STAT_ZEROING 0 0 else s

/-- GO of PAD_COPY_CTL; a ZERO run is a zeroing as R402 has it, which requests wait for (R402, R411). (DESIGN CHOICE, assumption 28) -/
def State.padCopyGo (s : State) (st : Nat) : State :=
  let pg := pgPad st
  if s.flag pg F.PAD_COPY_STAT_BUSY then s.set pg F.PAD_COPY_STAT_REJECT 0 1
  else
    let s := (s.set pg F.PAD_COPY_STAT_BUSY 0 1).set pg F.PAD_COPY_STAT_BLOCKS 0 0
    if s.get pg F.PAD_COPY_CTL_OP 0 = 0 then s.set pg F.PAD_STAT_ZEROING 0 1 else s

/-- Every 64-byte block of a pad at the same offset of another, poison with it (R403). -/
def State.padCopy (s : State) (st dst : Nat) : State :=
  let s := { s with padPoison := s.padPoison.filter fun k => k / 2 ^ 15 ≠ dst }
  let cells := (s.pads.filter fun c => st * 2 ^ 18 ≤ c.1 && c.1 < (st + 1) * 2 ^ 18).map fun c => (c.1 % 2 ^ 18, c.2)
  -- the engine is requester 4 of the source, and its writes come to the destination as the NI's, requester 2 (R389, R391)
  let s := (List.range 2).foldl (fun (s : State) i => (s.padGrant st (i * 0x4000) 128 4).padGrant dst (i * 0x4000) 128 2) s
  let pads := cells.foldl (fun m (c : Nat × Byte) => Mem.wr m (dst * 2 ^ 18 + c.1) c.2) (Mem.clear s.pads (dst * 2 ^ 18) (2 ^ 18))
  { s with
    pads := pads
    padPoison := s.padPoison ++ (s.padPoison.filter fun k => k / 2 ^ 15 = st).map fun k => dst * 2 ^ 15 + k % 2 ^ 15 }

/-- PAD_COPY_DONE: the engine's run ends, in success or at an error response of the destination, as from a tile in T3; it waits for a
destination that is being zeroed (R401-R403, R411).
(DESIGN CHOICE, assumption 28) -/
def State.padCopyDone (s : State) (st : Nat) : State :=
  let pg := pgPad st
  let d := s.get pg F.PAD_COPY_CTL_DEST 0
  if ¬ s.flag pg F.PAD_COPY_STAT_BUSY then s
  else if s.get pg F.PAD_COPY_CTL_OP 0 ≠ 0 ∧ isTile d ∧ s.flag (pgPad d) F.PAGE_STAT_ENABLED ∧ s.padBusy d then s
  else
    let s := (s.set pg F.PAD_COPY_STAT_BUSY 0 0).set pg F.PAD_COPY_STAT_DONE 0 1
    if s.get pg F.PAD_COPY_CTL_OP 0 = 0 then ((s.padClear st).set pg F.PAD_STAT_ZEROING 0 0).set pg F.PAD_COPY_STAT_BLOCKS 0 4096
    else if isTile d ∧ s.padServing d ∧ s.get (pgTlift d) F.TLIFT_TSTAT_STATE 0 ≠ 3 then (s.padCopy st d).set pg F.PAD_COPY_STAT_BLOCKS 0 4096
    else s.set pg F.PAD_COPY_STAT_ERR 0 1

/-- A column of a pad's subarray reports an error (R590). -/
def State.padColumn (s : State) (st row bank col : Nat) : State :=
  s.lineErr (pgPad st) 1 (((st * 8 + bank) * 4 + row / 512) * 144 + col)

/-- The pad's error log (R404, R410); which column failed is open. -/
def State.padErrlog (s : State) (st row bank : Nat) (ucr : Bool) : State :=
  let pg := pgPad st
  let (r, s) := s.free
  if s.flag pg F.PAD_ERRLOG_VALID then (s.set pg F.PAD_ERRLOG_OVF 0 1).padColumn st row bank (r % 144)
  else
    let s := ((s.set pg F.PAD_ERRLOG_VALID 0 1).set pg F.PAD_ERRLOG_UCR 0 (b2n ucr)).set pg F.PAD_ERRLOG_COL 0 (r % 144)
    (((s.set pg F.PAD_ERRLOG_ROW 0 row).set pg F.PAD_ERRLOG_SUB 0 (row / 512)).set pg F.PAD_ERRLOG_BANK 0 bank).padColumn st row bank (r % 144)

/-- What an error that an L2, a slice or a pad reports does to the arrays (R349, R375, R404), wherever an access of any kind found it: a
line of the carve cache, of L1D, of L2 or of the LLC is removed where it is clean, poisoned where it is dirty, and lost tags stop the
block; an uncorrectable error of the pad poisons its word, and either fills PAD_ERRLOG. Of a
corrected error, whether it took a clean line with it and from which array is open. (DEDUCED, assumption 105) -/
def State.eccEffect (s : State) (pg cls pa : Nat) : State :=
  let st := pg / 256
  let line := pa / 64
  if isTile st ∧ pg = pgL2 st then
    let c := s.cache st
    if cls = 2 then s.modCache st fun c => { c with dead := true }
    else if cls = 1 then
      match tfind c.l1 line, tfind c.l2 line with
      | some a, l => if a.st = .m then s.modCache st fun c => { c with l1 := tput c.l1 line { a with poison := true } }
        else (match l with
          | some l => if l.st = .m then s.modCache st fun c => { c with l1 := terase c.l1 line, l2 := tput c.l2 line { l with poison := true } } else s
          | none => s)
      | none, some l => if l.st = .m then s.modCache st fun c => { c with l2 := tput c.l2 line { l with poison := true } } else s
      | none, none => s
    else
      let (r, s) := s.free
      let dirty1 : Bool := match tfind c.l1 line with | some a => a.st = .m | none => false
      let dirty2 : Bool := match tfind c.l2 line with | some l => l.st = .m | none => false
      if r % 4 = 1 then s.modCache st fun c => { c with cc := terase c.cc line }
      else if r % 4 = 2 then (if dirty1 then s else s.modCache st fun c => { c with l1 := terase c.l1 line })
      else if r % 4 = 3 then (if dirty1 || dirty2 then s else s.evictL2 st line)
      else s
  else if isTile st ∧ pg = pgSlice st then
    if cls = 2 then s.modSlice st fun x => { x with dead := true }
    else match tfind (s.slice st).llc line with
      | none => s
      | some l =>
        if cls = 1 then (if l.dirty then s.modSlice st fun x => { x with llc := tput x.llc line { l with poison := true } } else s)
        else
          let (r, s) := s.free
          if r % 2 = 1 ∧ ¬ l.dirty then s.llcDrop st line else s
  else if isTile st ∧ pg = pgPad st ∧ cls < 2 then
    let w := padWordKey st pa
    let s := if cls = 1 ∧ ¬ s.padPoison.contains w then { s with padPoison := s.padPoison ++ [w] } else s
    s.padErrlog st (pa % 2 ^ 18 / 128) (pa / 16 % 8) (cls = 1)
  else s

/-- PAD_SWEEP_READ: the sweep reads the next row; of the two words of a row that fails, which one is open (R404, R405). -/
def State.padSweep (s : State) (st : Nat) (e : EccFound) : State :=
  let pg := pgPad st
  if ¬ s.flag pg F.PAD_SWEEP_EN ∨ ¬ s.padServing st ∨ s.get (pgTlift st) F.TLIFT_TSTAT_STATE 0 = 3 then s
  else
    let n := tget s.arbs (2 ^ 20 + st) 0
    let s := { s with arbs := tset s.arbs (2 ^ 20 + st) ((n + 1) % 16384) 0 }
    let s := s.padGrant st (16 * n) 16 4
    let pa := match s.stopLt st with | some lt => 0x4000000000 + lt * 2 ^ 18 + 16 * n | none => 0
    match e with
    | .clean => s
    | .corrected => (s.padErrlog st (n / 8) (n % 8) false).classErr pg 1 pa
    | _ =>
      let (r, s) := s.free
      let w := st * 2 ^ 15 + 2 * n + r % 2
      let s := { s with padPoison := if s.padPoison.contains w then s.padPoison else s.padPoison ++ [w] }
      (s.padErrlog st (n / 8) (n % 8) true).classErr pg 2 pa

/-- SPARES (R407). -/
def State.padView (s : State) (st : Nat) (f : Fld) : Option Nat :=
  if f.fid = F.PAD_STAT_SPARES.fid then some ((List.range 64).filter fun n => s.flag (pgPad st) F.PAD_REPAIR_VALID n).length
  else none

end Sys2Proof.Machine
end

