-- ==== Sys2Proof/Machine/Lec.lean ====
section
/-! DEFINITION. The registers of an event controller that act when they are read or written, its watchdog, and arriving events
(R292-R310). -/

namespace Sys2Proof.Machine

/-- The level of whoever claims or completes: the Patrol counts as H, the tile's own core has that of the carve that issues the access,
nobody else counts (R297, R298). -/
def lecLevel (w : Who) (st : Nat) : Option Nat :=
  if w.patrol then some 2 else if w.ni.val = st then some w.lvl else none

/-- A read of LEC_CLAIM (R297): the value read, and the claim. -/
def State.lecClaim (s : State) (w : Who) (st : Nat) : State × Nat :=
  match lecLevel w st with
  | none => (s, 0)
  | some lvl =>
    match s.claimLec st lvl with
    | (s, some src) => (s, 256 + src)
    | (s, none) => (s, 0)

/-- A completion that is not performed is counted (R298, R313). -/
def State.lecStray (s : State) (st : Nat) : State := s.satInc (pgLec st) F.LEC_STRAY_COUNT

/-- A write of LEC_COMPLETE (R298). -/
def State.lecComplete (s : State) (w : Who) (st src : Nat) : State :=
  let l := s.lec st
  match l.act.find? fun a => a.1 = src, lecLevel w st with
  | some (_, tgt), some lvl =>
    if lvl < tgt then s.lecStray st
    else if (l.act.getLast?.map fun a => a.1) ≠ some src ∧ s.flag (pgLec st) F.LEC_CTL_STRICT then
      -- the event-order fault goes to the Patrol (R588)
      ((s.set (pgLec st) F.LEC_STAT_ORDER_ERR 0 1).rasRecord (pgLec st) 0 2 0 0 false).notice (s.tilePiste st) 2
    else (s.setLec st { l with act := l.act.filter fun a => a.1 ≠ src }).lecWake st
  | _, _ => s.lecStray st

/-- A write of LEC_DOORBELL (R305). -/
def State.lecDoorbell (s : State) (st src : Nat) : State :=
  if src % 256 < 16 then s.set (pgLec st) F.LEC_STAT_BADEVT 0 1 else s.lecEvent st (src % 256)

/-- A write of one PEND word: bits of level sources and of sources 14 and 15 cannot be written (R301, R302). -/
def State.lecPendWrite (s : State) (st k v : Nat) : State :=
  let v := if k = 0 then v &&& (2 ^ 64 - 1 - 0xDF00) else v
  (s.set (pgLec st) F.LEC_PEND_PEND k v).lecWake st

/-- A kick of the watchdog (R310). -/
def State.lecKick (s : State) (st : Nat) : State := s.setLec st { s.lec st with wcount := 0, wfired := false }

/-- One chrono count of elapsed time for a watchdog: it counts while enabled, up to its second stage (R310). -/
def State.wdogTick (s : State) (st : Nat) : State :=
  if isTile st ∧ s.flag (pgLec st) F.LEC_WDOG_CTL_EN ∧ ¬ (s.lec st).wfired ∧ (s.lec st).wcount < 2 * s.wdogPeriod st then
    s.setLec st { s.lec st with wcount := (s.lec st).wcount + 1 }
  else s

/-- The first stage of the watchdog: source 12 is pending, and a sleeping tile asks for a wake (R303, R310). -/
def State.wdogFirst (s : State) (st : Nat) : State := if s.srcPending st 12 then s.lecWake st else s

/-- The second stage: expiry is reported to the Patrol once for each kick (R310, R588). The forced T3 of WDOG_STOP sets
FORCE_T3. -/
def State.wdogExpire (s : State) (st : Nat) : State :=
  let l := s.lec st
  if s.flag (pgLec st) F.LEC_WDOG_CTL_EN ∧ ¬ l.wfired ∧ 2 * s.wdogPeriod st ≤ l.wcount then
    let s := ((s.setLec st { l with wfired := true }).rasRecord (pgLec st) 0 3 0 0 false).notice (s.tilePiste st) 3
    if s.flag pgRas F.RAS_CTL_WDOG_STOP then s.set (pgTlift st) F.TLIFT_TCTL_FORCE_T3 0 1 else s
  else s

/-- An event at a tile's event controller: acknowledged, and the source pending, unless no such source takes events (R293). -/
def State.evtArrive (s : State) (n : Nat) (src : Nat) : State := if isTile n then s.lecEvent n src else s

/-- Registers of the LEC page that are read as computed (R302, R310, R312). -/
def State.lecView (s : State) (st : Nat) (f : Fld) (i : Nat) : Option Nat :=
  let l := s.lec st
  let a (k : Nat) : Nat := match l.act[k]? with | some x => x.1 | none => 0
  let p := s.lecPresent st
  if f.fid = F.LEC_STAT_ACT1.fid then some (a 1)
  else if f.fid = F.LEC_STAT_ACT0.fid then some (a 0)
  else if f.fid = F.LEC_STAT_DEPTH.fid then some l.act.length
  else if f.fid = F.LEC_STAT_PVALID.fid then some (b2n p.isSome)
  else if f.fid = F.LEC_STAT_PRES.fid then some (match p with | some x => x.1 | none => 0)
  else if f.fid = F.LEC_STAT_PTGT.fid then some (match p with | some x => x.2 | none => 0)
  else if f.fid = F.LEC_WDOG_CNT_CNT.fid then some (let c := l.wcount / 1024; if c < 2 ^ 32 then c else 2 ^ 32 - 1)
  else if f.fid = F.LEC_PEND_PEND.fid ∧ i = 0 then
    some ((List.range 64).foldl (fun v b => v + b2n (s.srcPending st b) * 2 ^ b) 0)
  else none

/-- What a write of a LEC register does beyond its fields: `s0` is the state before it (R302, R303, R305, R310). -/
def State.lecPost (s0 s : State) (w : Who) (st off v : Nat) : State :=
  if off = 0x118 then s.lecComplete w st (v % 256)
  else if off = 0x120 then s.lecDoorbell st (v % 256)
  else if 0x140 ≤ off ∧ off < 0x160 then s.lecPendWrite st ((off - 0x140) / 8) v
  else if off = 0x1B0 then s.lecKick st
  else if off = 0x1A8 then
    let s := if s.flag (pgLec st) F.LEC_WDOG_CTL_EN ∧ ¬ s0.flag (pgLec st) F.LEC_WDOG_CTL_EN then s.lecKick st else s
    s.lecWake st
  else s.lecWake st

end Sys2Proof.Machine
end

