-- ==== Sys2Proof/Machine/Secure.lean ====
section
/-! DEFINITION. Messages of the endpoint face, security sensors and their levels, violation reports and the key store
(R520, R524, R538-R541, R546-R549, R556). -/

namespace Sys2Proof.Machine

/-- A free line: what a line with poison holds is not given. (DESIGN CHOICE, assumption 3) (DESIGN CHOICE, assumption 24) -/
def State.freeLine (s : State) : Line × State := let (r, s) := s.free; (BitVec.ofNat 512 r, s)

/-! ### Ports and the endpoint face -/

/-- The port of a hub in endpoint mode (R502, R527). -/
def State.epPort (s : State) (h : Nat) : Option Nat :=
  if h < 2 then (match s.get (pgHub h) F.HUB_CTL_EP 0 with | 1 => some 0 | 2 => some 4 | _ => none) else none

/-- Put a packet into the transmit order of a port's link. -/
def State.tx (s : State) (h p : Nat) (m : LinkMsg) : State :=
  s.modHub h fun x => { x with tx := tput x.tx p (tget x.tx p [] ++ [m]) }

/-- Send a function's MSI-X message, or hold it in the pending-bit array while its bus master enable is 0 (R519, R520, R524). -/
def State.msix (s : State) (h pf vec : Nat) : State :=
  match s.epPort h with
  | none => s
  | some p =>
    let e := (s.hub h).ep
    if (if pf = 0 then e.bme0 else e.bme1) then s.tx h p (.msix pf vec)
    else s.modHub h fun x => { x with ep := { x.ep with held := if x.ep.held.contains (pf, vec) then x.ep.held else x.ep.held ++ [(pf, vec)] } }

/-- Bus Master Enable of a function is written: setting it sends the held messages (R520, R524). -/
def State.epBme (s : State) (h pf : Nat) (v : Bool) : State :=
  let held := (s.hub h).ep.held.filter fun e => e.1 = pf
  let s := s.modHub h fun x => { x with ep := (if pf = 0 then { x.ep with bme0 := v } else { x.ep with bme1 := v }) }
  let s := if pf = 0 then s.set (pgEp h) F.EP_STAT_PF0_BME 0 (b2n v) else s
  if v then
    let s := s.modHub h fun x => { x with ep := { x.ep with held := x.ep.held.filter fun e => e.1 ≠ pf } }
    held.foldl (fun s e => s.msix h e.1 e.2) s
  else s

/-- PF0's security alarm on every endpoint port (R519, R547). -/
def State.pf0Alarm (s : State) : State := (s.msix 0 0 3).msix 1 0 3

/-- Send the event of a page (R41). -/
def State.pageEvent (s : State) (pg : Nat) : State :=
  if s.get pg F.PAGE_EVT_VALID 0 = 0 then s
  else if 160 ≤ s.get pg F.PAGE_EVT_TILE 0 then s.set pg F.PAGE_STAT_EVT_DROP 0 1
  else s.sendEvt (niOfPage pg) (s.get pg F.PAGE_EVT_TILE 0) (s.get pg F.PAGE_EVT_SOURCE 0) (some pg)

/-! ### Sensors -/

/-- Notice reasons the model tells apart: a security event. (DESIGN CHOICE, assumption 62) -/
def noticeSensor : Nat := 8

/-- Hubs' ports of a piste whose BME is 1. -/
def State.bmePorts (s : State) (piste : Nat) : List Nat :=
  (List.range 40).filter fun k => s.get (pgPort (k / 5) (k % 5)) F.PORT_CTL_PISTE 0 = piste && s.flag (pgPort (k / 5) (k % 5)) F.PORT_CTL_BME

/-- PSTOP of a piste: its tiles stop at carve boundaries and its ports lose BME (R547). (DEDUCED, assumption 86) -/
def State.pstop (s : State) (piste : Nat) : State :=
  let ports := s.bmePorts piste
  let s := ports.foldl (fun s k => s.set (pgPort (k / 5) (k % 5)) F.PORT_CTL_BME 0 0) s
  let x := s.sys
  { s with sys := { x with
    pstopped := if x.pstopped.contains piste then x.pstopped else x.pstopped ++ [piste]
    bmeCleared := x.bmeCleared ++ ports.map fun k => (k, piste) } }.set pgSec F.SEC_STAT_PSTOPPED 0 1

/-- FREEZE: every track and hub stops (R547). (DEDUCED, assumption 86) -/
def State.freeze (s : State) : State := s.set pgSec F.SEC_STAT_FROZEN 0 1

/-- A slot of the key store holds another key, or none, from now on (R539, R541). (DEDUCED, assumption 49) -/
def State.newKey (s : State) (slot : Nat) : State :=
  { s with sys := { s.sys with keyGen := tset s.sys.keyGen slot (tget s.sys.keyGen slot 0 + 1) 0 } }

/-- The STATE word of an image slot (R607). -/
def State.tuckState (s : State) (slot v : Nat) : State := { s with tuck := Mem.wrs s.tuck (slot * 0x20000 + 4) (leBytes v 4) }

/-- ERASE: FREEZE, every slot of the key store zeroized, both tuck images invalid (R547, R607). -/
def State.erase (s : State) : State :=
  let s := (List.range 256).foldl (fun s n => ((s.set pgKeys F.KS_SLOT_KIND n 0).set pgKeys F.KS_SLOT_ERASED n 1).newKey n) s.freeze
  ((s.set pgSec F.SEC_STAT_ERASED 0 1).tuckState 0 3).tuckState 1 3

/-- An in-band interrupt of the I3C port (R634). -/
def State.ibi (s : State) : State := { s with sys := { s.sys with i3cIbi := s.sys.i3cIbi + 1 } }

/-- A sensor fires: its level acts, EVENT sets, and the notices go out (R547). The highest level reached stands, since nothing here
takes a lower one back. -/
def State.sensorFire (s : State) (n : Nat) (src : Option Nat) : State :=
  let lvl := let l := s.get pgSec F.SEC_SENSOR_LEVEL n; let f := s.get pgSec F.SEC_SENSOR_FLOOR n; if l < f then f else l
  let s := (s.satInc pgSec F.SEC_SENSOR_COUNT n).set pgSec F.SEC_SENSOR_EVENT n 1
  let s := match lvl, n, src with
    | 0, _, _ => s
    | 1, 5, some p => s.pstop p
    | 3, _, _ => s.erase
    | _, _, _ => s.freeze
  (s.notice 0 noticeSensor).pf0Alarm.ibi

/-! ### Violations -/

/-- A denial reported to the Patrol (R538). -/
def State.violation (s : State) (piste stop op pa : Nat) : State :=
  let s := if s.flag pgPmap F.PMAP_VIOL_VALID then s.set pgPmap F.PMAP_VIOL_OVF 0 1
    else ((((s.set pgPmap F.PMAP_VIOL_VALID 0 1).set pgPmap F.PMAP_VIOL_PISTE 0 piste).set pgPmap F.PMAP_VIOL_STOP 0 stop).set pgPmap
      F.PMAP_VIOL_OP 0 op).set pgPmap F.PMAP_VIOL_ADDR_PA 0 pa
  let s := s.satInc pgPmap F.PMAP_PISTE_VIOLS piste
  let t := s.get pgSec F.SEC_VCTL_THRESH 0
  if (if t = 0 then 1 else t) ≤ s.get pgPmap F.PMAP_PISTE_VIOLS piste then s.sensorFire 5 (some piste) else s

/-! ### The key store -/

/-- A command of the key store failed (R556). -/
def State.ksErr (s : State) : State := s.set pgKeys F.KS_STAT_ERR 0 1

/-- KS_CMD 1: a fresh key of a kind in a slot (R539, R556). (DESIGN CHOICE, assumption 47) -/
def State.ksGenerate (s : State) (slot kind : Nat) : State :=
  if s.flag pgKeys F.KS_SLOT_LOCK slot ∨ kind = 0 ∨ 5 < kind then s.ksErr
  else ((s.newKey slot).set pgKeys F.KS_SLOT_KIND slot kind).set pgKeys F.KS_SLOT_ERASED slot 0

/-- KS_CMD 2: the slot is cleared (R556). -/
def State.ksClear (s : State) (slot : Nat) : State :=
  if s.flag pgKeys F.KS_SLOT_LOCK slot then s.ksErr else (s.newKey slot).set pgKeys F.KS_SLOT_KIND slot 0

/-- A number in the tuck store. -/
def State.tuckNum (s : State) (off len : Nat) : Nat := leNat (Mem.rds s.tuck off len)

/-- SEQ of an image slot; one whose MAGIC is absent counts as 0 (R607). -/
def State.tuckSeq (s : State) (slot : Nat) : Nat := if s.tuckNum (slot * 0x20000) 4 = 0x5455434B then s.tuckNum (slot * 0x20000 + 0x10) 8 else 0

/-- The image slot with the higher SEQ (R608). -/
def State.tuckNewest (s : State) : Nat := if s.tuckSeq 0 < s.tuckSeq 1 then 1 else 0

/-- KS_CMD 3: the key store of the newest image, unwrapped with the WRAP slot named (R539, R556, R608). -/
def State.ksUnwrap (s : State) (slot : Nat) : State :=
  match tfind s.sys.wrapped s.tuckNewest with
  | none => s.ksErr
  | some w =>
    if s.get pgKeys F.KS_SLOT_KIND slot ≠ 4 ∨ w.wrap ≠ slot ∨ w.gen ≠ tget s.sys.keyGen slot 0 ∨ s.tuckSeq s.tuckNewest = 0
        ∨ s.tuckNum (s.tuckNewest * 0x20000 + 4) 4 = 3 then s.ksErr
    else (w.keys.mapIdx fun n k => (n, k)).foldl (fun (s : State) e =>
      let s := (s.set pgKeys F.KS_SLOT_KIND e.1 e.2.1).set pgKeys F.KS_SLOT_LOCK e.1 e.2.2.1
      { s with sys := { s.sys with keyGen := tset s.sys.keyGen e.1 e.2.2.2 0 } }) s

/-- A GO of KS_CMD; a command finishes at once (R556). (DESIGN CHOICE, assumption 47) -/
def State.ksGo (s : State) : State :=
  let slot := s.get pgKeys F.KS_CMD_SLOT 0
  match s.get pgKeys F.KS_CMD_CMD 0 with
  | 1 => s.ksGenerate slot (s.get pgKeys F.KS_CMD_KIND 0)
  | 2 => s.ksClear slot
  | 3 => s.ksUnwrap slot
  | _ => s.ksErr

end Sys2Proof.Machine
end

