-- ==== Sys2Proof/Machine/Hub.lean ====
section
/-! DEFINITION. CXL memory and caches behind a hub: the tracker, extents, back-invalidates, device caches, lost links (R435-R458). -/

namespace Sys2Proof.Machine

/-! ### Ports -/

/-- The bifurcation forms a port (R501). -/
def State.formed (s : State) (h p : Nat) : Bool :=
  match s.get (pgHub h) F.HUB_CTL_BIF 0 with
  | 0 => p = 0 || p = 4
  | 1 => p < 2 || p = 4
  | _ => p < 5

/-- Mode of a port: 0 OFF, 1 PCIe root port, 2 CXL root port, 3 endpoint (R502, R528). (DEDUCED, assumption 41) -/
def State.portMode (s : State) (h p : Nat) : Nat :=
  if s.epPort h = some p then 3
  else if ¬ s.formed h p then 0
  else match s.get (pgPort h p) F.PORT_CTL_MODE 0 with | 1 => 1 | 2 => 2 | _ => 0

/-- The link of a port is in DL_Active. -/
def State.linkUp (s : State) (h p : Nat) : Bool := s.flag (pgPort h p) F.PORT_STAT_LINK_UP

/-- A hub takes requests and sends them on its links: enabled, not frozen, not quiet for PK1 (R37, R547, R570). -/
def State.hubOn (s : State) (h : Nat) : Bool :=
  s.flag (pgHub h) F.PAGE_STAT_ENABLED && !s.frozen && !(s.hub h).quiesced

/-- A hub that has stopped for PK1 still takes what a cache channel writes back in the prepare phase, which R425 has it do after the hubs have
agreed (R570). (DESIGN CHOICE, assumption 107) -/
def State.hubTakes (s : State) (h : Nat) (f : Flit) : Bool :=
  s.hubOn h || (s.flag (pgHub h) F.PAGE_STAT_ENABLED && !s.frozen && s.get pgLift F.LIFT_PK_STAT_PHASE 0 = 1 &&
    (List.range 48).any fun c => chanStop c = f.src.val)

/-- A wake event starts the exit from PK1 (R572). -/
def State.pkWake (s : State) : State :=
  if s.get pgLift F.LIFT_PK_STAT_STATE 0 = 1 ∧ s.get pgLift F.LIFT_PK_STAT_PHASE 0 = 0 then s.set pgLift F.LIFT_PK_STAT_PHASE 0 4 else s

/-- Every hub takes requests again (R571, R572). -/
def State.hubsResume (s : State) : State :=
  (List.range 8).foldl (fun (s : State) h => s.modHub h fun x => { x with quiesced := false }) s

/-- An edge event: lost in the entry window, before it the entry is abandoned, else it wakes the package (R568). -/
def State.pkEdge (s : State) (n : Nat) : State :=
  let ph := s.get pgLift F.LIFT_PK_STAT_PHASE 0
  if ph = 2 then (s.satInc pgLift F.LIFT_WAKE_STAT_LOST).set pgLift F.LIFT_WAKE_STAT_LAST_LOST 0 n
  else if ph = 1 then s.hubsResume.set pgLift F.LIFT_PK_STAT_PHASE 0 0
  else s.pkWake

/-- A packet a hub does not take stays with the device, which has no credit for it: it must come again. On a link in low power it is link-exit
activity (R567, R570). (DEDUCED, assumption 84) -/
def State.notTaken (s : State) (h : Nat) : State :=
  if (s.hub h).quiesced ∧ s.get pgLift F.LIFT_PK_STAT_PHASE 0 ≠ 1 then s.pkEdge 9 else s

/-- An event of a hub's counters (R614). -/
def State.hubEvent (s : State) (h code k : Nat) : State := s.pmuEvent (hubStop h) code k

/-- The next identifier of a hub. -/
def State.hubId (s : State) (h : Nat) : Nat × State := ((s.hub h).nextId, s.modHub h fun x => { x with nextId := x.nextId + 1 })

/-- The hub reports that a request is on a link: the NI's own timeout for it ends (R453, R508). -/
def State.onLink (s : State) (f : Flit) : State :=
  s.modNi f.src.val fun x => { x with outst := x.outst.map fun o => if o.tag = f.tag && o.epoch = f.epoch then { o with onLink := true } else o }

/-- HDM_MEMERR (R457). -/
def State.memErr (s : State) (h kind port pa : Nat) : State :=
  let pg := pgHdm h
  if s.flag pg F.HDM_MEMERR_VALID then s.set pg F.HDM_MEMERR_OVF 0 1
  else (((s.set pg F.HDM_MEMERR_VALID 0 1).set pg F.HDM_MEMERR_KIND 0 kind).set pg F.HDM_MEMERR_PORT 0 port).set pg F.HDM_MEMERR_ADDR_PA 0 pa

/-- The hub answers without a device: a read with poisoned data, anything else as done (R450, R453). -/
def State.hubLost (s : State) (h : Nat) (f : Flit) : State :=
  let n := hubStop h
  let s := s.served n f
  if f.op ≤ 3 ∨ f.op = 7 then (let (d, s) := s.freeLine; s.replyData n f d 255) else s.replyAck n f .ok

/-- A tracked request ends without its completion: the write half of an atomic is counted as done, so its requester has the data that was
read (R450, R453). -/
def State.m2sLost (s : State) (h : Nat) (e : M2s) : State :=
  if e.kind = 3 then (s.served (hubStop h) e.f).replyData (hubStop h) e.f e.data 0 else s.hubLost h e.f

/-- CXL.cachemem traffic of a port that requires IDE needs an active stream (R455). -/
def State.cachememOn (s : State) (h p : Nat) : Bool := !s.flag (pgIde h) F.IDE_PORT_CTL_REQ p || s.flag (pgIde h) F.IDE_PORT_STAT_ACTIVE p

/-! ### Extents -/

/-- An entry of the extent table in force: valid, decoder, base and length in 2 MiB units (R446). -/
def State.extEntry (s : State) (h i : Nat) : Option (Bool × Nat × Nat × Nat) :=
  let a := s.get (pgHdm h) F.HDM_EXT_STAT_BASE 0 * 2 ^ 16 + 16 * i
  match s.peekWord a, s.peekWord (a + 8) with
  | some w0, some w1 => some (bitOf w0 63, bitsOf w0 52 6, bitsOf w0 21 31, bitsOf w1 0 32)
  | _, _ => none

/-- Binary search of the extent table (R447). An entry that cannot be read ends the search without a hit. -/
def State.extSearch (s : State) (h pa dec lo hi : Nat) : Nat → Option (Nat × Nat)
  | 0 => none
  | k + 1 =>
    if hi ≤ lo then none
    else
      let m := (lo + hi) / 2
      match s.extEntry h m with
      | none => none
      | some (v, d, b, n) =>
        if pa / 2 ^ 21 < b then s.extSearch h pa dec lo m k
        else if pa / 2 ^ 21 < b + n then (if v && d = dec then some (b, n) else none)
        else s.extSearch h pa dec (m + 1) hi k

/-- The extent of an address for a decoder, by the hub's cache of 32 and otherwise the table (R447). -/
def State.extHas (s : State) (h pa dec : Nat) : State × Bool :=
  if (s.hub h).ext.any fun e => e.2.2 = dec && e.1 ≤ pa / 2 ^ 21 && pa / 2 ^ 21 < e.1 + e.2.1 then (s, true)
  else match s.extSearch h pa dec 0 (s.get (pgHdm h) F.HDM_EXT_STAT_COUNT 0) 13 with
    | some (b, n) => (s.modHub h fun x => { x with ext := ((b, n, dec) :: x.ext).take 32 }, true)
    | none => (s, false)

/-- COMMIT: the hub takes the new table and empties its extent cache (R448, R458). -/
def State.extCommit (s : State) (h : Nat) : State :=
  let pg := pgHdm h
  ((s.set pg F.HDM_EXT_STAT_BASE 0 (s.get pg F.HDM_EXT_NEXT_BASE 0)).set pg F.HDM_EXT_STAT_COUNT 0
    (s.get pg F.HDM_EXT_NEXT_COUNT 0)).modHub h fun x => { x with ext := [], switching := true }

/-- EXTENT_SWITCHED: no lookup against the old table is left (R448). -/
def State.extSwitched (s : State) (h : Nat) : State :=
  if (s.hub h).switching then (s.modHub h fun x => { x with switching := false }).set (pgHdm h) F.HDM_EXT_STAT_SWITCHED 0 1 else s

/-! ### M2S requests -/

/-- A request to CXL memory at its hub (R436, R447, R450, R455). A request that must wait changes nothing. (PRESUMED, assumption 35) -/
def State.hubMem (s : State) (h : Nat) (f : Flit) : State :=
  let n := hubStop h
  let no (s : State) : State := (s.served n f).replyAck n f .unmapped
  if ¬ s.flag (pgHub h) F.PAGE_STAT_ENABLED then no s
  else if ¬ s.hubTakes h f then s
  else match s.hdmDecode (some n) f.addr with
  | none => no s
  | some d =>
    if d.hub ≠ h then no s
    else
      let p := d.port
      match (if d.dc then s.extHas h f.addr d.dec else (s, true)) with
      | (s, false) =>
        let s := s.memErr h 4 p f.addr
        no (if f.op = 5 ∨ f.op = 6 then s.classErr (pgHdm h) 2 f.addr else s)
      | (s, true) =>
        if (s.hub h).dead.contains p then s.hubLost h f
        else if s.portMode h p ≠ 2 ∨ ¬ s.linkUp h p then ((s.memErr h 2 p 0).classErr (pgHdm h) 2 0).hubLost h f
        else if f.op = 8 then (s.served n f).replyAck n f .ok
        else if ¬ s.cachememOn h p ∨ 1024 ≤ (s.hub h).m2s.length then s
        else
          let (id, s) := s.hubId h
          let line := f.addr / 64
          let kind := if f.op = 7 then 2 else if f.op ≤ 3 then 0 else 1
          let s := s.tx h p (if kind = 1 then .m2sWr id line f.be f.payload (f.poison ≠ 0) else .m2sRd id line)
          ((s.modHub h fun x => { x with m2s := x.m2s ++ [⟨id, p, f, line, kind, f.payload, f.poison ≠ 0, f.be, none⟩] }).onLink f).hubEvent h 0x300 1

/-- The home slice a back-invalidate goes to: the one that tracks the line, or the one of its address (R354, R438).
(DEDUCED, assumption 37) -/
def State.bisnpHome (s : State) (n line : Nat) : Option Nat :=
  match s.homeHolder line with
  | some st => some st
  | none => match s.leafMem (line * 64) with
    | .inl e => if bitOf e 63 then (let b := bucketLane e line; some (s.laneOf n b.1 b.2).1) else none
    | .inr _ => none

/-- Forward a back-invalidate to the home slice; an address with no home has no copy (R438). -/
def State.bisnpGo (s : State) (h p line kind : Nat) : State :=
  match s.bisnpHome (hubStop h) line with
  | none => s.tx h p (.biRsp line 0)
  | some st =>
    let (id, s) := s.hubId h
    (s.modHub h fun x => { x with dev := x.dev ++ [⟨id, p, kind, 0, line⟩] }).send (hubStop h)
      { Req.plain 0x12 2 (line * 64) (.bisnp id) with be := kind, dst := some (Fin.ofNat 194 st) }

/-- The tracker entry is freed; a back-invalidate that met it follows (R439). -/
def State.m2sFree (s : State) (h : Nat) (e : M2s) : State :=
  let s := s.modHub h fun x => { x with m2s := x.m2s.filter fun y => y.id ≠ e.id }
  match e.conflict with
  | some k => s.bisnpGo h e.port e.line k
  | none => s

/-- S2M_RESPONSE: a completion of a tracked request; one that comes too late is counted (R452, R453). -/
def State.s2m (s : State) (h id : Nat) (r : MemRsp) : State :=
  match (s.hub h).m2s.find? fun e => e.id = id with
  | none => s.satInc (pgHdm h) F.HDM_STAT_LATE
  | some e =>
    let n := hubStop h
    let poison := e.kind % 2 = 0 ∧ (r.poison ∨ ¬ r.hasData)
    let s := if poison then (s.memErr h 5 e.port (e.line * 64)).hubEvent h 0x303 1 else s
    let (fresh, s) := if r.hasData then (r.data, s) else s.freeLine
    if e.kind = 0 then ((s.served n e.f).replyData n e.f fresh (if poison then 255 else 0)).m2sFree h e
    else if e.kind = 1 then ((s.served n e.f).replyAck n e.f .ok).m2sFree h e
    else if e.kind = 2 then
      if poison then ((s.served n e.f).replyData n e.f fresh 255).m2sFree h e
      else
        let s := s.tx h e.port (.m2sWr id e.line (2 ^ 64 - 1) (farAtomic e.f fresh) false)
        s.modHub h fun x => { x with m2s := modFirst (fun y => y.id = id) (fun y => { y with kind := 3, data := fresh }) x.m2s }
    else ((s.served n e.f).replyData n e.f e.data 0).m2sFree h e

/-- CXL_MEM_TIMEOUT: no completion in 2 ms (R453). -/
def State.m2sTimeout (s : State) (h id : Nat) : State :=
  match (s.hub h).m2s.find? fun e => e.id = id with
  | none => s
  | some e => ((s.m2sLost h e).memErr h 1 e.port (e.line * 64)).m2sFree h e

/-! ### Back-invalidates -/

/-- BISNP: a back-invalidate from a device: forwarded, or in conflict with a request that is out (R438, R439). -/
def State.bisnpRecv (s : State) (h p line kind : Nat) : State :=
  if s.portMode h p ≠ 2 ∨ ¬ s.linkUp h p ∨ ¬ s.cachememOn h p then s
  else if ¬ s.hubOn h then s.notTaken h
  else
    let s := s.hubEvent h 0x302 1
    match (s.hub h).m2s.find? fun e => e.line = line && e.port = p && e.conflict.isNone with
    | some e =>
      (s.tx h p (.biConflict e.id)).modHub h fun x =>
        { x with m2s := modFirst (fun y => y.id = e.id) (fun y => { y with conflict := some (kind % 3) }) x.m2s }
    | none => s.bisnpGo h p line (kind % 3)

/-- BICONFLICTACK: before the request's completion, the back-invalidate comes first, and the line counts as absent (R439). -/
def State.biAck (s : State) (h id : Nat) : State :=
  match (s.hub h).m2s.find? fun e => e.id = id && e.conflict.isSome with
  | none => s
  | some e =>
    (s.tx h e.port (.biRsp e.line 0)).modHub h fun x =>
      { x with m2s := modFirst (fun y => y.id = id) (fun y => { y with conflict := none }) x.m2s }

/-- The home slice answered a back-invalidate (R438). -/
def State.bisnpRsp (s : State) (h id : Nat) (d : Line) : State :=
  match (s.hub h).dev.find? fun e => e.id = id with
  | none => s
  | some e => (s.modHub h fun x => { x with dev := x.dev.filter fun y => y.id ≠ id }).tx h e.port (.biRsp e.line (d.toNat % 4))

/-! ### Device caches -/

/-- The port of a hub that carries CXL.cache, and whether it does now (R441). -/
def State.cachePort (s : State) (h : Nat) : Option Nat :=
  let p := s.get (pgHdm h) F.HDM_CACHE_CTL_PORT 0
  if s.flag (pgHdm h) F.HDM_CACHE_CTL_EN ∧ p < 4 ∧ s.portMode h p = 2 then some p else none

/-- A snoop of a home slice at a hub: sent to the device, or answered where no device caches (R441). -/
def State.hubSnoop (s : State) (h : Nat) (f : Flit) : State :=
  let n := hubStop h
  match s.cachePort h with
  | none => (s.served n f).replyAck n f .ok
  | some p =>
    if ((s.hub h).h2d.any fun e => e.f = f) ∨ ¬ s.cachememOn h p then s
    else
      let (id, s) := s.hubId h
      (s.modHub h fun x => { x with h2d := x.h2d ++ [⟨id, p, f⟩] }).tx h p (.h2dSnp id (f.addr / 64) (f.op = 0x10))

/-- H2D_SNOOP_RESPONSE: the device answers a snoop (R442). -/
def State.h2dAnswer (s : State) (h id : Nat) (r : SnpRsp) : State :=
  match (s.hub h).h2d.find? fun e => e.id = id with
  | none => s
  | some e =>
    let n := hubStop h
    let s := (s.modHub h fun x => { x with h2d := x.h2d.filter fun y => y.id ≠ id }).served n e.f
    let keep := r.keepS && e.f.op = 0x11
    if r.hasData then s.niOffer n { e.f.reply 0x30 .ok r.data (if r.poison then 255 else 0) with pin := keep }
    else s.niOffer n { e.f.reply 0x31 .ok 0 0 with pin := keep }

/-- H2D_SNOOP_TIMEOUT: the hub answers for the device, poisons the line at its home slice and ends CXL.cache on the port (R442).
(DEDUCED, assumption 37) -/
def State.h2dTimeout (s : State) (h id : Nat) : State :=
  match (s.hub h).h2d.find? fun e => e.id = id with
  | none => s
  | some e =>
    let n := hubStop h
    let s := (s.modHub h fun x => { x with h2d := x.h2d.filter fun y => y.id ≠ id }).served n e.f
    let s := (s.poisonHome e.f.src.val (e.f.addr / 64)).replyAck n e.f .ok
    (s.memErr h 6 e.port e.f.addr).set (pgHdm h) F.HDM_CACHE_CTL_EN 0 0

/-- A device's cache request is refused: a read gets poisoned data, a write is dropped (R442). -/
def State.d2hRefuse (s : State) (h p devId kind line : Nat) : State :=
  let s := s.memErr h 7 p (line * 64)
  if kind < 3 then (let (d, s) := s.freeLine; s.tx h p (.h2dRsp devId 0 (some d) true)) else s.tx h p (.h2dRsp devId 0 none false)

/-- D2H_REQUEST: a device's cache request goes to the line's home slice under the piste of its port (R442). -/
def State.d2h (s : State) (h p : Nat) (q : CacheReq) : State :=
  if s.cachePort h ≠ some p ∨ ¬ s.linkUp h p ∨ ¬ s.cachememOn h p then s
  else if ¬ s.hubOn h then s.notTaken h
  else if ¬ (inNear (q.line * 64) || inHdm (q.line * 64)) ∨ 4 < q.kind then s.d2hRefuse h p q.id q.kind q.line
  else
    let (id, s) := s.hubId h
    let op := match q.kind with | 0 => 1 | 1 => 2 | 2 => 3 | _ => 5
    (s.modHub h fun x => { x with dev := x.dev ++ [⟨id, p, q.kind, q.id, q.line⟩] }).send (hubStop h)
      { Req.plain op 0 (q.line * 64) (.d2h id) with
        be := if q.kind = 4 then 0 else 2 ^ 64 - 1
        data := q.data
        poison := if q.poison then 255 else 0
        piste := s.get (pgPort h p) F.PORT_CTL_PISTE 0
        key := s.get (pgPort h p) F.PORT_CTL_KEY 0 }

/-- The home slice, or the NI's check, answered a device's cache request (R442). -/
def State.d2hRsp (s : State) (h id : Nat) (r : Resp) (d : Line) (poison : Bool) : State :=
  match (s.hub h).dev.find? fun e => e.id = id with
  | none => s
  | some e =>
    let s := s.modHub h fun x => { x with dev := x.dev.filter fun y => y.id ≠ id }
    if r ≠ .ok then s.d2hRefuse h e.port e.devId e.kind e.line
    else s.tx h e.port (.h2dRsp e.devId (match e.kind with | 0 => 1 | 1 => 2 | _ => 0) (if e.kind < 3 then some d else none) poison)

/-! ### Lost links -/

/-- A port's CXL.mem goes down: outstanding requests complete, later ones are answered in the same way, back-invalidates from the
port are abandoned (R450, R455). -/
def State.cxlDown (s : State) (h p kind : Nat) : State :=
  if s.portMode h p ≠ 2 then s
  else
    let mine := (s.hub h).m2s.filter fun e => e.port = p
    let s := s.modHub h fun x => { x with
      m2s := x.m2s.filter fun e => e.port ≠ p
      dev := x.dev.filter fun e => e.port ≠ p
      dead := if x.dead.contains p then x.dead else x.dead ++ [p] }
    let s := mine.foldl (fun s e => s.m2sLost h e) s
    (s.memErr h kind p 0).classErr (pgHdm h) 2 0

/-- CACHEMEM_IDE_FAIL: an integrity check of a stream failed (R455). (DEDUCED, assumption 36) -/
def State.cachememFail (s : State) (h p : Nat) : State :=
  if s.portMode h p ≠ 2 then s
  else
    let pg := pgIde h
    let s := ((s.set pg F.IDE_PORT_STAT_INSECURE p 1).set pg F.IDE_PORT_STAT_FAIL p 1).set pg F.IDE_PORT_STAT_ACTIVE p 0
    (s.cxlDown h p 8).sensorFire 4 none

/-! ### Decoder writes -/

/-- A valid decoder names a port. -/
def State.hdmNames (s : State) (h p : Nat) : Bool :=
  (List.range 64).any fun k =>
    let pg := pgHdm (k / 8)
    let j := k % 8
    s.flag pg F.HDM_DEC_CTL_VALID j && (List.range (iwWays (s.get pg F.HDM_DEC_CTL_IW j))).any fun e =>
      let t := if e < 8 then s.get pg F.HDM_DEC_TGT0_TGT (j * 8 + e) else s.get pg F.HDM_DEC_TGT1_TGT (j * 8 + e - 8)
      bitsOf t 4 3 = h && bitsOf t 0 3 = p

/-- A write of VALID = 1 that is discarded; `v` is the value written to HDM_DEC_CTL (R444). -/
def State.hdmBad (s : State) (h j v : Nat) : Bool :=
  let pg := pgHdm h
  let base := s.get pg F.HDM_DEC_BASE_BASE j * 2 ^ 28
  let size := s.get pg F.HDM_DEC_SIZE_SIZE j * 2 ^ 28
  let iw := bitsOf v 0 4
  let n := iwWays (if iw ≤ 4 ∨ (8 ≤ iw ∧ iw ≤ 10) then iw else 0)
  !inHdm base || !inHdm (base + size - 1) || size = 0 || size % (n * 2 ^ 28) ≠ 0
    || (List.range n).any (fun e =>
        4 < bitsOf (if e < 8 then s.get pg F.HDM_DEC_TGT0_TGT (j * 8 + e) else s.get pg F.HDM_DEC_TGT1_TGT (j * 8 + e - 8)) 0 3)
    || (bitOf v 17 && bitOf v 16)

/-- Two valid decoders claim one address, one of them this one (R444). (PRESUMED, assumption 34) -/
def State.hdmOverlap (s : State) (h j : Nat) : Bool :=
  let rng (k : Nat) : Nat × Nat :=
    (s.get (pgHdm (k / 8)) F.HDM_DEC_BASE_BASE (k % 8), s.get (pgHdm (k / 8)) F.HDM_DEC_SIZE_SIZE (k % 8))
  let a := rng (8 * h + j)
  (List.range 64).any fun k => k ≠ 8 * h + j && s.flag (pgHdm (k / 8)) F.HDM_DEC_CTL_VALID (k % 8)
    && (rng k).1 < a.1 + a.2 && a.1 < (rng k).1 + (rng k).2

/-- After a decoder register has been written: the copies are sent, an overlap shows, and ports that no decoder names any more are
no longer answered as lost (R444, R445, R450). -/
def State.hdmPost (s0 s : State) (h off : Nat) : State :=
  let pg := pgHdm h
  let j := (off - 0x100) / 0x40
  let s := State.tblCopy s0 s pg off (some (pg, F.HDM_STAT_PENDING))
  let s := if s.flag pg F.HDM_DEC_CTL_VALID j ∧ s.hdmOverlap h j then s.set pg F.HDM_STAT_OVERLAP 0 1 else s
  (List.range 8).foldl (fun s k => s.modHub k fun x => { x with dead := x.dead.filter fun p => s.hdmNames k p }) s

end Sys2Proof.Machine
end

