-- ==== Sys2Proof/Machine/Ports.lean ====
section
/-! DEFINITION. PCIe root ports of a hub: outbound accesses, inbound requests, MSIs, the slot shift chain, links going up and down
(R306-R308, R501-R517, R528). -/

namespace Sys2Proof.Machine

/-- PORT_ERRLOG (R528). -/
def State.portErr (s : State) (h p kind rid addr : Nat) : State :=
  let pg := pgPort h p
  if s.flag pg F.PORT_ERRLOG_VALID then s.set pg F.PORT_ERRLOG_OVF 0 1
  else (((s.set pg F.PORT_ERRLOG_VALID 0 1).set pg F.PORT_ERRLOG_KIND 0 kind).set pg F.PORT_ERRLOG_RID 0 rid).set pg F.PORT_ERRADDR_ADDR 0 addr

/-! ### Windows -/

/-- The claimed ranges of a port as an NI's copy has them: MMIO and configuration, each only when it lies in the MMIO range (R506). -/
def State.portWins (s : State) (n : Option Nat) (h p : Nat) : List (Nat × Nat × Bool) :=
  let pg := pgPort h p
  let g (f : Fld) : Nat := s.viewGet n pg f 0
  let b := g F.PORT_MMIO_BASE_BASE * 2 ^ 20
  let l := g F.PORT_MMIO_LIMIT_LIMIT * 2 ^ 20 + 0xFFFFF
  let e := g F.PORT_ECAM_BASE * 2 ^ 20
  let z := (g F.PORT_ECAM_SUB + 1 - g F.PORT_ECAM_SEC) * 2 ^ 20
  (if g F.PORT_MMIO_LIMIT_VALID = 1 ∧ b ≤ l ∧ inMmio b ∧ inMmio l then [(b, l + 1 - b, false)] else [])
    ++ (if g F.PORT_ECAM_VALID = 1 ∧ 0 < z ∧ inMmio e ∧ inMmio (e + z - 1) then [(e, z, true)] else [])

/-- Hub, port and kind (configuration or memory) that claim an MMIO address: the lowest-numbered port (R506). -/
def State.mmioClaim (s : State) (n : Option Nat) (pa : Nat) : Option (Nat × Nat × Bool) :=
  (List.range 40).findSome? fun k =>
    let h := k / 5
    let p := k % 5
    if s.portMode h p = 1 ∨ s.portMode h p = 2 then
      ((s.portWins n h p).find? fun w => w.1 ≤ pa && pa < w.1 + w.2.1).map fun w => (h, p, w.2.2)
    else none

/-! ### Outbound -/

/-- Number of bytes a mask names, and the first. -/
def beSpan (be : Nat) : Nat × Nat :=
  (((List.range 64).filter fun i => bitOf be i).length, ((List.range 64).find? fun i => bitOf be i).getD 0)

/-- An outbound access that does not end in a successful completion completes all the same (R508). -/
def State.outBad (s : State) (h p kind : Nat) (f : Flit) : State :=
  let n := hubStop h
  let s := (s.portErr h p kind 0 (f.addr / 64 * 64 + (beSpan f.be).2)).served n f
  if f.op = 3 then s.replyData n f (BitVec.ofNat 512 (2 ^ 512 - 1)) 0 else s.replyAck n f .ok

/-- A device access at its hub becomes a TLP (R502, R507, R508). A request that must wait changes nothing. (PRESUMED, assumption 39) -/
def State.hubMmio (s : State) (h : Nat) (f : Flit) : State :=
  let n := hubStop h
  if ¬ s.flag (pgHub h) F.PAGE_STAT_ENABLED then (s.served n f).replyAck n f .unmapped
  else if ¬ s.hubOn h then s
  else
    let (cnt, off) := beSpan f.be
    let pa := f.addr / 64 * 64 + off
    match s.mmioClaim (some n) pa with
    | none => (s.served n f).replyAck n f .unmapped
    | some (h', p, cfg) =>
      if h' ≠ h then (s.served n f).replyAck n f .unmapped
      else if f.op ≠ 3 ∧ f.op ≠ 4 then (s.served n f).replyAck n f .ok
      else if cfg ∧ ¬ ((cnt = 1 ∨ cnt = 2 ∨ cnt = 4) ∧ f.be = beMask off cnt ∧ off / 4 = (off + cnt - 1) / 4) then s.outBad h p 5 f
      else if ¬ s.linkUp h p then
        (if f.op = 4 ∧ ¬ cfg then (s.served n f).replyAck n f .ok else s.outBad h p 4 f)
      else if ¬ cfg ∧ s.flag (pgIde h) F.IDE_IO_CTL_REQ p ∧ ¬ s.flag (pgIde h) F.IDE_IO_STAT_ACTIVE p then s
      else if 512 ≤ ((s.hub h).outs.filter fun e => e.port = p).length then s
      else
        let (id, s) := s.hubId h
        let add (s : State) (m : LinkMsg) (wr : Bool) : State :=
          ((s.tx h p m).modHub h fun x => { x with outs := x.outs ++ [⟨id, p, f, wr, cfg, m⟩] }).onLink f
        if cfg then
          let o := pa - s.viewGet (some n) (pgPort h p) F.PORT_ECAM_BASE 0 * 2 ^ 20
          let sec := s.viewGet (some n) (pgPort h p) F.PORT_ECAM_SEC 0
          let bus := sec + o / 2 ^ 20
          let devfn := bitsOf o 12 8
          -- on the secondary bus only device 0 is there
          if bus = sec ∧ 8 ≤ devfn then s.outBad h p 2 f
          else if f.op = 3 then add s (.cfgRd id bus devfn (o % 4096) (f.be >>> (off / 4 * 4) % 16) (bus ≠ sec)) false
          else add s (.cfgWr id bus devfn (o % 4096) (f.be >>> (off / 4 * 4) % 16) (bus ≠ sec) (leNat (lineGet f.payload (off / 4 * 4) 4))) true
        else if f.op = 3 then add s (.memRd id pa f.be) false
        else ((s.tx h p (.memWr pa f.be f.payload (f.poison ≠ 0))).served n f).replyAck n f .ok

/-- A read that PF0 made for the Patrol is answered, or ends without data (R519, R552). -/
def State.dmaDone (s : State) (h id : Nat) (data : Option (List Byte)) : State :=
  let x := s.sys
  { s with sys := { x with svcs := x.svcs.map fun r =>
      if r.call.lt.isNone ∧ r.call.hub.val = h ∧ r.dma.any fun e => e.1 = id ∧ e.2.isNone then
        match data with
        | some bs => { r with dma := r.dma.map fun e => if e.1 = id then (id, some bs) else e }
        | none => { r with bad := true }
      else r } }

/-- Every read that PF0 has out at a hub ends without data (R517, R525). -/
def State.dmaEnd (s : State) (h : Nat) : State :=
  let x := s.sys
  { s with sys := { x with svcs := x.svcs.map fun r =>
      if r.call.lt.isNone ∧ r.call.hub.val = h ∧ r.dma.any fun e => e.2.isNone then { r with bad := true } else r } }

/-- A packet that is posted. -/
def tlpPosted : TlpKind → Bool
  | .memWr | .msg => true
  | _ => false

/-- A completion of an outbound request or of a read of PF0 is taken; one that nothing waits for is discarded (R508).
(PRESUMED, assumption 38) -/
def State.tlpTake (s : State) (h p id : Nat) (c : Cpl) : State :=
  match (s.hub h).outs.find? fun e => e.id = id && e.port = p with
  | none => if s.epPort h = some p then s.dmaDone h id (if c.status = 0 ∧ ¬ c.ep then some c.data else none) else s
  | some e =>
    let n := hubStop h
    let off := (beSpan e.f.be).2
    -- a retry status of a configuration request has it sent again
    if c.status = 3 ∧ e.cfg then s.tx h p e.msg
    else
      let s := s.modHub h fun x => { x with outs := x.outs.filter fun y => y.id ≠ id }
      match c.status with
      | 0 =>
        let s := if c.ep then s.portErr h p 10 0 (e.f.addr / 64 * 64 + off) else s
        let s := s.served n e.f
        if e.write then s.replyAck n e.f .ok
        else s.replyData n e.f (linePut 0 off (c.data.take (64 - off))) (if c.ep then 255 else 0)
      | 2 => s.outBad h p 3 e.f
      | _ => s.outBad h p 2 e.f

/-- TLP_COMPLETION: a completion without RO set passes no posted write that came on its link before it (R508, R511). -/
def State.tlpDone (s : State) (h p id : Nat) (c : Cpl) : State :=
  let port := if s.epPort h = some p then 5 else p
  let after := ((s.hub h).inb.filter fun e => e.port = port && tlpPosted e.t.kind).map fun e => e.id
  if c.relaxed ∨ after.isEmpty then s.tlpTake h p id c else s.modHub h fun x => { x with cpls := x.cpls ++ [(p, id, c, after)] }

/-- Completions are taken whose earlier writes have been performed (R511). -/
def State.cplPump (s : State) (h : Nat) : State :=
  (s.hub h).cpls.foldl (fun (s : State) e =>
    if e.2.2.2.any fun i => (s.hub h).inb.any fun y => y.id = i then s
    else (s.modHub h fun x => { x with cpls := x.cpls.erase e }).tlpTake h e.1 e.2.1 e.2.2.1) s

/-- COMPLETION_TIMEOUT (R508). -/
def State.outTimeout (s : State) (h p id : Nat) : State :=
  match (s.hub h).outs.find? fun e => e.id = id && e.port = p with
  | none => if s.epPort h = some p then s.dmaDone h id none else s
  | some e => (s.modHub h fun x => { x with outs := x.outs.filter fun y => y.id ≠ id }).outBad h p 1 e.f

/-! ### Inbound -/

/-- A packet refused before it enters the mesh: UR, or dropped (R503, R509). -/
def State.inbRefuse (s : State) (h p kind : Nat) (t : Tlp) : State :=
  let s := (s.portErr h p kind t.rid t.addr).hubEvent h 0x305 1
  if tlpPosted t.kind then s else s.tx h p (.cpl t.rid t.tag 1 [] false)

/-- Bytes of memory a packet names: a compare-and-swap carries two operands of them. -/
def tlpSpan (t : Tlp) : Nat := match t.kind with | .atomCas => t.len / 2 | _ => t.len

/-- Pieces of a packet at 64-byte line boundaries: address, length, offset in the packet (R510). -/
def tlpPieces (addr len : Nat) : List (Nat × Nat × Nat) :=
  (List.range (if len = 0 then 0 else (addr % 64 + len + 63) / 64)).map fun i =>
    let a := if i = 0 then addr else addr / 64 * 64 + 64 * i
    let e := min (addr + len) (addr / 64 * 64 + 64 * (i + 1))
    (a, e - a, a - addr)

/-- The request of one piece (R510). -/
def InTlp.req (e : InTlp) (walloc : Bool) (pc : Nat × Nat × Nat) : Req :=
  let t := e.t
  let base := { Req.plain 3 0 pc.1 (.inbound e.id) with piste := e.piste, key := e.key, noalloc := true, be := beMask (pc.1 % 64) pc.2.1 }
  match t.kind with
  | .memRd => base
  | .memWr =>
    let whole : Bool := pc.2.1 = 64 && (inNear pc.1 || inHdm pc.1)
    { base with
      op := if whole then 6 else 4
      data := linePut 0 (pc.1 % 64) ((t.data.drop pc.2.2).take pc.2.1)
      poison := if t.ep then 255 else 0
      noalloc := !(walloc && whole) }
  | _ =>
    let size := tlpSpan t
    let cas : Bool := t.kind = .atomCas
    let f := match t.kind with | .atomFetchAdd => 1 | _ => 0
    let opnd := leNat ((t.data.drop (if cas then size else 0)).take size)
    let cmp := leNat (t.data.take size)
    { base with
      op := 7
      be := beMask (pc.1 % 64) size
      data := BitVec.ofNat 512 (opnd + (if cas then cmp * 2 ^ 128 else 0)
        + (f + (if size = 4 then 16 else 0) + (if cas then 32 else 0) + (if size = 16 then 64 else 0)) * 2 ^ 256) }

/-- A later packet may not pass an earlier one that is not performed: of one requester, a write that has not RO set passes no write and a
read passes none; of two, the later one passes only with IDO set, or as a write with RO set past a write (R511). -/
def InTlp.blocks (e r : InTlp) : Bool :=
  e.port = r.port
    && (if tlpPosted e.t.kind && tlpPosted r.t.kind && r.t.relaxed then false
      else if e.t.rid ≠ r.t.rid then !r.t.ido else tlpPosted e.t.kind)

/-- Send the pieces of every record that nothing earlier holds back (R511). -/
def State.inPump (s : State) (h : Nat) : State :=
  ((s.hub h).inb.mapIdx fun i e => (i, e)).foldl (fun (s : State) x =>
    let e := x.2
    if e.sent ∨ ((s.hub h).inb.take x.1).any (fun y => y.blocks e) then s
    else
      let walloc := e.port < 5 && s.flag (pgPort h e.port) F.PORT_CTL_WALLOC
      let s := s.modHub h fun y => { y with inb := modFirst (fun z => z.id = e.id) (fun z => { z with sent := true }) y.inb }
      (tlpPieces e.t.addr (tlpSpan e.t)).foldl (fun s pc => s.send (hubStop h) (e.req walloc pc)) s) s

/-- Take a packet in: a record of it, and its pieces as soon as the ordering rules let them go (R510, R511). -/
def State.inTake (s : State) (h port : Nat) (t : Tlp) (piste key bank : Nat) : State :=
  let (id, s) := s.hubId h
  let e : InTlp := ⟨id, port, t, (tlpPieces t.addr (tlpSpan t)).length, [], none, bank, false, false, piste, key⟩
  (s.modHub h fun x => { x with inb := x.inb ++ [e] }).inPump h

/-- Completions of a performed packet, in address order, up to the first piece that failed (R509, R510). -/
def State.inAnswer (s : State) (h p : Nat) (e : InTlp) : State :=
  let t := e.t
  let st : Nat := match e.bad with | some .denied | some .closed | some .linkLost => 2 | some _ => 1 | none => 0
  if tlpPosted t.kind then
    (if e.bad.isSome ∧ e.port < 5 then (s.portErr h p (if st = 2 then 6 else 7) t.rid t.addr).hubEvent h 0x305 1 else s)
  else
    let good := (tlpPieces t.addr (tlpSpan t)).takeWhile fun pc => e.got.any fun g => g.1 = pc.2.2
    let s := if e.silent then s else good.foldl (fun (s : State) pc =>
      match e.got.find? fun g => g.1 = pc.2.2 with
      | some (_, bs, bad) => s.tx h p (.cpl t.rid t.tag 0 bs bad)
      | none => s) s
    if e.bad.isSome then
      let s := if e.port < 5 then (s.portErr h p (if st = 2 then 6 else 7) t.rid t.addr).hubEvent h 0x305 1 else s
      if e.silent then s else s.tx h p (.cpl t.rid t.tag st [] false)
    else s

/-! ### MSIs -/

/-- An MSI is dropped (R307, R308). -/
def State.msiDrop (s : State) (h p rid addr : Nat) : State := s.portErr h p 9 rid addr

/-- The doorbell of a source in control space by logical tile (R33, R307). -/
def doorbellPa (lt : Nat) : Nat := 0xFFF8000000000 + lt * 2 ^ 20 + 6 * 2 ^ 12 + 0x120

/-- Deliver MSIs whose earlier writes have been performed (R307). -/
def State.msiPump (s : State) (h : Nat) : State :=
  (s.hub h).msis.foldl (fun (s : State) m =>
    if m.sent ∨ 0 < m.tries ∨ m.after.any (fun i => (s.hub h).inb.any fun e => e.id = i) then s
    else
      let s := s.modHub h fun x => { x with msis := modFirst (fun y => y.id = m.id) (fun y => { y with sent := true }) x.msis }
      s.send (hubStop h) { Req.plain 4 0 (doorbellPa m.tile / 64 * 64) (.msi m.id) with
        be := beMask (doorbellPa m.tile % 64) 8, data := linePut 0 (doorbellPa m.tile % 64) (leBytes m.source 8), piste := m.piste }) s

/-- Step 3 on: queue an MSI for delivery behind the port's posted writes (R307). -/
def State.msiQueue (s : State) (h p n rid : Nat) : State :=
  let pg := pgPort h p
  let (id, s) := s.hubId h
  let after := ((s.hub h).inb.filter fun e => e.port = p && tlpPosted e.t.kind).map fun e => e.id
  (s.modHub h fun x => { x with msis := x.msis ++
    [⟨id, p, n, s.get pg F.PORT_IRT_TILE n, s.get pg F.PORT_IRT_SOURCE n, s.get pg F.PORT_IRT_PISTE n, rid, after, false, 0⟩] }).msiPump h

/-- The entry itself lets an MSI through (R307). -/
def State.irtOk (s : State) (pg n : Nat) : Bool :=
  s.flag pg F.PORT_IRT_VALID n && s.get pg F.PORT_IRT_TILE n < 160 && 32 ≤ s.get pg F.PORT_IRT_SOURCE n

/-- MSI: an exact write to the capture address (R307, R509, R512). (DEDUCED, assumption 42) -/
def State.msi (s : State) (h p pa data rid : Nat) : State :=
  let pg := pgPort h p
  if ¬ s.linkUp h p ∨ ¬ (s.portMode h p = 1 ∨ s.portMode h p = 2) ∨ pa / 4 ≠ s.get pg F.PORT_MSI_ADDR_PA 0 ∨ pa % 4 ≠ 0
      ∨ (s.flag (pgIde h) F.IDE_IO_CTL_REQ p ∧ ¬ s.flag (pgIde h) F.IDE_IO_STAT_ACTIVE p) then s
  else if ¬ s.hubOn h then s.notTaken h
  else if ¬ s.flag pg F.PORT_CTL_BME then (s.portErr h p 8 rid pa).hubEvent h 0x305 1
  else
    let n := data % 128
    if 128 ≤ data % 2 ^ 32 ∨ ¬ s.irtOk pg n ∨ (s.flag pg F.PORT_IRT_RID_CHK n ∧ rid ≠ s.get pg F.PORT_IRT_RID n) then s.msiDrop h p rid pa
    else if s.flag pg F.PORT_IRT_MASKED n then s.set pg F.PORT_IRT_PBIT n 1
    else s.msiQueue h p n rid

/-- MASKED of an entry was cleared while PBIT was 1: one held MSI under the entry as it now stands (R307). -/
def State.irtUnmask (s0 s : State) (h p n : Nat) : State :=
  let pg := pgPort h p
  if s0.flag pg F.PORT_IRT_MASKED n ∧ ¬ s.flag pg F.PORT_IRT_MASKED n ∧ s.flag pg F.PORT_IRT_PBIT n then
    let s := s.set pg F.PORT_IRT_PBIT n 0
    if s.irtOk pg n then s.msiQueue h p n 0 else s.msiDrop h p 0 0
  else s

/-- The response to a doorbell write of an MSI (R308). -/
def State.msiRsp (s : State) (h id : Nat) (r : Resp) : State :=
  match (s.hub h).msis.find? fun m => m.id = id with
  | none => s
  | some m =>
    if r = .closed ∧ m.tries < 63 then
      s.modHub h fun x => { x with msis := modFirst (fun y => y.id = id) (fun y => { y with sent := false, tries := y.tries + 1 }) x.msis }
    else
      let s := s.modHub h fun x => { x with msis := x.msis.filter fun y => y.id ≠ id }
      if r = .ok then s else s.msiDrop h m.port m.rid 0

/-- MSI_RETRY: a refused doorbell write is sent again after 1 µs (R308). -/
def State.msiRetry (s : State) (h p n : Nat) : State :=
  match (s.hub h).msis.find? fun m => m.port = p && m.n = n && !m.sent && 0 < m.tries with
  | none => s
  | some m =>
    let s := s.modHub h fun x => { x with msis := modFirst (fun y => y.id = m.id) (fun y => { y with sent := true }) x.msis }
    s.send (hubStop h) { Req.plain 4 0 (doorbellPa m.tile / 64 * 64) (.msi m.id) with
      be := beMask (doorbellPa m.tile % 64) 8, data := linePut 0 (doorbellPa m.tile % 64) (leBytes m.source 8), piste := m.piste }

/-- A packet whose pieces are all answered ends; packets and MSIs that waited for it go on (R307, R509-R511). -/
def State.inEnd (s : State) (h : Nat) (e : InTlp) : State :=
  let p := if e.port = 5 then (s.epPort h).getD 0 else e.port
  let s := s.modHub h fun x => { x with inb := x.inb.filter fun y => y.id ≠ e.id }
  (((s.inAnswer h p e).inPump h).msiPump h).cplPump h

/-- The mesh answered one piece (R509). -/
def State.inRsp (s : State) (h id : Nat) (q : Req) (r : Resp) (d : Line) (poison : Nat) : State :=
  match (s.hub h).inb.find? fun e => e.id = id with
  | none => s
  | some e =>
    let off := q.pa - e.t.addr
    let len := (beSpan q.be).1
    let e := if r = .ok then
        { e with got := e.got ++ [(off, lineGet d (q.pa % 64) len, decide (poison ≠ 0))], left := e.left - 1 }
      else { e with bad := some (e.bad.getD r), left := e.left - 1 }
    let s := s.modHub h fun x => { x with inb := modFirst (fun y => y.id = id) (fun _ => e) x.inb }
    if e.left = 0 then s.inEnd h e else s

/-- INBOUND_REQUEST: the checks of R509, and the packet's way into the mesh (R503, R505, R509, R510, R512). -/
def State.inbound (s : State) (h p : Nat) (t : Tlp) : State :=
  let pg := pgPort h p
  if ¬ s.linkUp h p ∨ ¬ (s.portMode h p = 1 ∨ s.portMode h p = 2) then s
  else if ¬ s.hubOn h then s.notTaken h
  else if s.flag (pgIde h) F.IDE_IO_CTL_REQ p ∧ ¬ s.flag (pgIde h) F.IDE_IO_STAT_ACTIVE p then s
  else
    let s := s.hubEvent h 0x304 1
    let msi := s.get pg F.PORT_MSI_ADDR_PA 0 * 4
    let exact : Bool := t.kind = .memWr && t.addr = msi && t.len = 4
    let p2p : Bool := match s.mmioClaim none t.addr with
      | some (h', p', _) => s.flag pg F.PORT_CTL_P2P && s.get (pgPort h' p') F.PORT_CTL_PISTE 0 = s.get pg F.PORT_CTL_PISTE 0
      | none => false
    if t.kind = .msg then s
    else if t.kind = .io ∨ t.kind = .cfg ∨ t.at_ ≠ 0 ∨ t.pasid ∨ t.len = 0 then s.inbRefuse h p 7 t
    else if 2 ^ 52 ≤ t.addr then s.inbRefuse h p 7 t
    else if exact then s.msi h p t.addr (leNat (t.data.take 4)) t.rid
    else if t.addr / 4096 = msi / 4096 then s.inbRefuse h p 7 t
    else if ¬ s.flag pg F.PORT_CTL_BME then s.inbRefuse h p 8 t
    else if inCtlStop t.addr ∨ inCtlLt t.addr ∨ inPatrolWin t.addr ∨ (inMmio t.addr ∧ ¬ p2p) then s.inbRefuse h p 7 t
    else if (t.kind = .atomFetchAdd ∨ t.kind = .atomSwap ∨ t.kind = .atomCas) ∧ ¬ (inNear t.addr || inHdm t.addr) then s.inbRefuse h p 7 t
    else s.inTake h p t (s.get pg F.PORT_CTL_PISTE 0) (s.get pg F.PORT_CTL_KEY 0) 0

/-! ### Slots -/

/-- A slot. -/
def State.slot (s : State) (h p : Nat) : Slot := tget (s.hub h).slots p Slot.reset
/-- The state with a slot replaced. -/
def State.setSlot (s : State) (h p : Nat) (x : Slot) : State := s.modHub h fun y => { y with slots := tset y.slots p x Slot.reset }

/-- Set a Slot Status bit; with its enable and the hot-plug interrupt enable the port page's event goes out (R515).
(PRESUMED, assumption 40) -/
def State.slotBit (s : State) (h p b : Nat) : State :=
  let x := s.slot h p
  if bitOf x.sts b then s
  else
    let s := s.setSlot h p { x with sts := x.sts + 2 ^ b }
    if bitOf x.ctl (if b = 8 then 12 else b) ∧ bitOf x.ctl 5 then s.pageEvent (pgPort h p) else s

/-- A state bit of Slot Status follows an input. -/
def Slot.level (x : Slot) (b : Nat) (v : Bool) : Slot :=
  { x with sts := if bitOf x.sts b then (if v then x.sts else x.sts - 2 ^ b) else (if v then x.sts + 2 ^ b else x.sts) }

/-- The output bits of a slot (R514): power, clock, PERST_N, the indicators and the interlock pulse. -/
def Slot.out (x : Slot) (frames : Nat) : Nat :=
  let led (c : Nat) : Nat := match c with | 1 => 1 | 2 => frames / 21000 % 2 | _ => 0
  b2n x.pwrEn + 2 * b2n x.refclk + 4 * b2n x.perst + 8 * led (bitsOf x.ctl 8 2) + 16 * led (bitsOf x.ctl 6 2) + 32 * b2n x.pulse

/-- A Slot Control write goes into the frame that is shifted: power on sets PWR_EN, power off clears PERST_N first (R515, R516).
(PRESUMED, assumption 40) -/
def Slot.apply (x : Slot) : Slot :=
  let was := bitOf x.app 10
  let off := bitOf x.ctl 10
  { x with
    app := x.ctl
    cmd := 2
    pulse := bitOf x.ctl 11
    pwrEn := x.pwrEn || (was && !off)
    perst := x.perst && !(!was && off) }

/-- An input that needs four frames to agree: the new accepted value and count (R515). -/
def agree (cur new : Bool) (n : Nat) : Bool × Nat := if cur = new then (cur, 0) else if 3 ≤ n then (new, 0) else (cur, n + 1)

/-- One frame for one slot (R514-R516). -/
def State.slotFrame (s : State) (h p : Nat) (i : SlotIn) : State :=
  if ¬ s.flag (pgPort h p) F.PORT_CTL_HP then s
  else
    -- the board latches what the last frame shifted: a shifted command is done
    let x := s.slot h p
    let s := if 2 ≤ x.cmd then (s.setSlot h p { x with cmd := x.cmd - 2 }).slotBit h p 4 else s
    let x := s.slot h p
    let x := if x.cmd = 1 then x.apply else { x with pulse := false }
    let (pr, cp) := agree x.inp.prsntN i.prsntN x.agP
    let (mr, cm) := agree x.inp.mrlN i.mrlN x.agM
    let (at_, ca) := agree x.inp.attnN i.attnN x.agA
    let old := x.inp
    let fault : Bool := !i.pfaultN && x.pwrEn
    let y : Slot := { x with
      inp := ⟨pr, mr, at_, i.pgood, i.pfaultN, i.emil⟩
      agP := cp
      agM := cm
      agA := ca
      refclk := x.refclk || (x.pwrEn && old.pgood && i.pgood)
      perst := x.perst && !fault
      pwrEn := x.pwrEn && !fault }
    let s := s.setSlot h p (((y.level 6 (!pr)).level 5 mr).level 7 i.emil)
    let s := if pr ≠ old.prsntN then s.slotBit h p 3 else s
    let s := if mr ≠ old.mrlN then s.slotBit h p 2 else s
    let s := if at_ ≠ old.attnN ∧ ¬ at_ then s.slotBit h p 0 else s
    if fault then s.slotBit h p 1 else s

/-- SSC_FRAME: one frame of a hub's chain (R514). -/
def State.sscFrame (s : State) (h : Nat) (ins : List SlotIn) : State :=
  if ¬ s.flag (pgHub h) F.HUB_SSC_CTL_EN then s
  else
    let s := (ins.take 5).mapIdx (fun p i => (p, i)) |>.foldl (fun s e => s.slotFrame h e.1 e.2) s
    let s := s.inc (pgHub h) F.HUB_SSC_STAT_FRAMES
    let frames := s.get (pgHub h) F.HUB_SSC_STAT_FRAMES 0
    let bits := (List.range 5).foldl (fun v p =>
      v + (if s.flag (pgPort h p) F.PORT_CTL_HP then (s.slot h p).out frames else 0) * 2 ^ (16 * p)) 0
    s.modHub h fun x => { x with sscOut := x.ssc, ssc := bits }

/-- A write of Slot Control: it joins a command that no frame carries yet, or goes into the frame after one that is being shifted
(R515). (PRESUMED, assumption 40) -/
def State.slotControl (s : State) (h p v : Nat) : State :=
  if s.flag (pgPort h p) F.PORT_CTL_HP then s.setSlot h p { s.slot h p with ctl := v % 2 ^ 16, cmd := if (s.slot h p).cmd < 2 then 1 else 3 } else s

/-- PGOOD_TIMEOUT: no power good 100 ms after PWR_EN (R516). -/
def State.pgoodTimeout (s : State) (h p : Nat) : State :=
  let x := s.slot h p
  if s.flag (pgPort h p) F.PORT_CTL_HP ∧ x.pwrEn ∧ ¬ x.inp.pgood then (s.setSlot h p { x with pwrEn := false }).slotBit h p 1 else s

/-- SLOT_PERST_RELEASE: 100 ms after PGOOD the card leaves reset and the link trains (R516). -/
def State.slotPerst (s : State) (h p : Nat) : State :=
  let x := s.slot h p
  if s.flag (pgPort h p) F.PORT_CTL_HP ∧ x.pwrEn ∧ x.refclk ∧ x.inp.pgood ∧ ¬ bitOf x.app 10 then s.setSlot h p { x with perst := true } else s

/-- SLOT_POWER_OFF: seven frames after PERST_N fell for a power-off (R516). -/
def State.slotOff (s : State) (h p : Nat) : State :=
  let x := s.slot h p
  if s.flag (pgPort h p) F.PORT_CTL_HP ∧ bitOf x.app 10 ∧ ¬ x.perst then s.setSlot h p { x with pwrEn := false, refclk := false } else s

/-! ### Links -/

/-- Width of a port under the bifurcation (R501). -/
def State.portWidth (s : State) (h p : Nat) : Nat :=
  if p = 4 then 4 else match s.get (pgHub h) F.HUB_CTL_BIF 0 with | 0 => 16 | 1 => 8 | _ => 4

/-- A link leaves DL_Active (R517). -/
def State.linkDrop (s : State) (h p : Nat) : State :=
  if ¬ s.linkUp h p then s
  else
    let s := s.set (pgPort h p) F.PORT_STAT_LINK_UP 0 0
    let mine := (s.hub h).outs.filter fun e => e.port = p
    let s := s.modHub h fun x => { x with
      outs := x.outs.filter fun e => e.port ≠ p
      inb := x.inb.map fun e => if e.port = p ∨ (e.port = 5 ∧ s.epPort h = some p) then { e with silent := true } else e
      cpls := x.cpls.filter fun e => e.1 ≠ p }
    let s := mine.foldl (fun s e => s.outBad h p 4 e.f) s
    let s := if s.epPort h = some p then s.dmaEnd h else s
    s.slotBit h p 8

/-- LINK_DOWN of a port, with R450 for CXL.mem (R517). -/
def State.portDown (s : State) (h p kind : Nat) : State := if s.linkUp h p then (s.cxlDown h p kind).linkDrop h p else s

/-- The boot endpoint's hub and port, as the fuses name it (R644). -/
def bootPort (fuse : Nat) : Option (Nat × Nat) :=
  match fuse with | 1 => some (0, 0) | 2 => some (0, 4) | 3 => some (1, 0) | 4 => some (1, 4) | _ => none

/-- Links of a hub's port may train: the hub is enabled, or the port is the boot endpoint, which runs from step 1 on (R37, R644). -/
def State.mayTrain (s : State) (h p : Nat) : Bool :=
  s.flag (pgHub h) F.PAGE_STAT_ENABLED || (bootPort s.sys.bootEp = some (h, p) && 1 ≤ s.sys.bootStep)

/-- LINK_UP: the link of a port that may train reaches DL_Active at a rate and width the port has; 64 GT/s is in Flit mode only, and a
slot's card is out of reset (R501, R503, R516, R517, R528). -/
def State.linkTrain (s : State) (h p gen width : Nat) (flit : Bool) : State :=
  let pg := pgPort h p
  let m := let m := s.get pg F.PORT_CTL_MAXGEN 0; if m = 0 ∨ m = 7 then 6 else m
  if ¬ s.mayTrain h p ∨ s.portMode h p = 0 ∨ s.linkUp h p ∨ gen = 0 ∨ m < gen ∨ width = 0 ∨ s.portWidth h p < width ∨ (gen = 6 ∧ ¬ flit)
      ∨ (s.portMode h p ≠ 3 ∧ s.flag (pgPort h p) F.PORT_CTL_HP ∧ ¬ (s.slot h p).perst) then s
  else
    let s := (((s.set pg F.PORT_STAT_LINK_UP 0 1).set pg F.PORT_STAT_GEN 0 gen).set pg F.PORT_STAT_WIDTH 0 width).set pg F.PORT_STAT_FLIT 0 (b2n flit)
    s.slotBit h p 8

/-- LINK_IDE_FAIL: a TLP failed its integrity check (R505). -/
def State.linkIdeFail (s : State) (h p : Nat) : State :=
  if s.portMode h p = 0 then s
  else
    let pg := pgIde h
    let s := ((s.set pg F.IDE_IO_STAT_INSECURE p 1).set pg F.IDE_IO_STAT_FAIL p 1).set pg F.IDE_IO_STAT_ACTIVE p 0
    (s.portDown h p 8).sensorFire 4 none

/-- LANE_SPARE: a SerDes lane failed and the port runs narrower; the record is of KIND 10 (R599). -/
def State.laneSpare (s : State) (h p width : Nat) : State :=
  if s.linkUp h p ∧ 0 < width ∧ width < s.get (pgPort h p) F.PORT_STAT_WIDTH 0 then
    (s.set (pgPort h p) F.PORT_STAT_WIDTH 0 width).rasRecord (pgPort h p) 0 10 0 0 false
  else s

/-- Registers of hub pages that are read as computed (R501, R528). -/
def State.hubView (s : State) (h : Nat) (f : Fld) : Option Nat :=
  if f.fid = F.HUB_STAT_FORMED.fid then some ((List.range 5).foldl (fun v p => v + b2n (s.formed h p) * 2 ^ p) 0)
  else if f.fid = F.HUB_CTL_EP.fid ∧ 2 ≤ h then some 0
  else none

/-- Registers of a port page that are read as computed (R501, R528). -/
def State.portView (s : State) (h p : Nat) (f : Fld) : Option Nat :=
  if f.fid = F.PORT_STAT_FORMED.fid then some (b2n (s.formed h p))
  else if f.fid = F.PORT_CTL_MODE.fid ∧ s.epPort h = some p then some 3
  else none

end Sys2Proof.Machine
end

