-- ==== Sys2Proof/Machine/Ep.lean ====
section
/-! DEFINITION. The endpoint face of a hub: mailbox, console, peer windows and function-level resets (R518-R525, R529). -/

namespace Sys2Proof.Machine

/-- Apply a function to the endpoint face of a hub. -/
def State.modEp (s : State) (h : Nat) (f : EpFace → EpFace) : State := s.modHub h fun x => { x with ep := f x.ep }

/-- A function of a hub's endpoint takes packets: the hub has an endpoint port and the function is in no reset (R502, R525). -/
def State.pfOn (s : State) (h pf : Nat) : Bool := (s.epPort h).isSome && !bitOf (s.get (pgEp h) F.EP_STAT_FLR 0) pf

/-! ### PF0 -/

/-- EP_MAILBOX_RING: the composer has written the request words and rings (R290, R519). (DEDUCED, assumption 45) -/
def State.epRing (s : State) (h seq : Nat) (words : List Word) : State :=
  if ¬ s.pfOn h 0 then s
  else
    let s := (words.take 16).mapIdx (fun i w => (i, w)) |>.foldl (fun s e => s.set (pgEp h) F.EP_MBX_REQ_WORD e.1 e.2.toNat) s
    if (s.hub h).ep.busy then s.modEp h fun e => { e with lost := true }
    else
      let x := s.sys
      let s := { s with sys := { x with calls := x.calls ++ [Call.mk none (Fin.ofNat 8 h) 0 0 (seq % 2 ^ 16) []] } }
      s.modEp h fun e =>
        { e with seq := seq % 2 ^ 16, busy := true, done := false, tmo := false, lost := false, age := 0 }

/-- RESULT of EP_MBX_STAT is written: a call that is out ends, with MSI-X vector 0; any other write is discarded, `old` being what
RESULT was (R290, R519, R529). -/
def State.epResult (s : State) (h old result : Nat) : State :=
  if (s.hub h).ep.busy then
    ((s.set (pgEp h) F.EP_MBX_STAT_RESULT 0 result).modEp h fun e => { e with busy := false, done := true }).msix h 0 0
  else s.set (pgEp h) F.EP_MBX_STAT_RESULT 0 old

/-- One chrono count of PF0's mailbox: a call that is out for 10 ms ends with RESULT all ones and TIMEOUT, and MSI-X vector 0
(R290, R519). (DEDUCED, assumption 45) -/
def State.epMbxTick (s : State) (h : Nat) : State :=
  let e := (s.hub h).ep
  if ¬ e.busy then s
  else if e.age + 1 < 10000000 then s.modEp h fun e => { e with age := e.age + 1 }
  else
    ((s.set (pgEp h) F.EP_MBX_STAT_RESULT 0 0xFFFFFFFF).modEp h fun e =>
      { e with busy := false, done := true, tmo := true, age := 0 }).msix h 0 0

/-- Fields of EP_MBX_STAT beside RESULT (R289, R529). -/
def EpFace.mbxStat (e : EpFace) : Nat := e.seq * 2 ^ 16 + 8 * b2n e.lost + 4 * b2n e.tmo + 2 * b2n e.done + b2n e.busy

/-- CONSOLE_IN_WRITE: a byte from the composer waits for the Patrol (R519). (DEDUCED, assumption 46) -/
def State.conIn (s : State) (h : Nat) (b : Byte) : State :=
  if s.pfOn h 0 then (s.set (pgEp h) F.EP_CON_IN_VALID 0 1).set (pgEp h) F.EP_CON_IN 0 b.toNat else s

/-- A read of EP_CON consumes the byte from the composer; vector 2 says that there is room (R519, R529). -/
def State.conInRead (s : State) (h : Nat) : State :=
  if s.flag (pgEp h) F.EP_CON_IN_VALID then (s.set (pgEp h) F.EP_CON_IN_VALID 0 0).msix h 0 2 else s

/-- A console byte for the composer; vector 1 announces it (R519, R529). -/
def State.conOutWrite (s : State) (h : Nat) (b : Byte) : State := (s.modEp h fun e => { e with conOut := some b }).msix h 0 1

/-- CONSOLE_OUT_READ: the composer reads the waiting byte, which is consumed (R519). -/
def State.conOutRead (s : State) (h : Nat) : State :=
  if ¬ s.pfOn h 0 then s
  else match (s.hub h).ep.conOut with
    | some b => (s.modEp h fun e => { e with conOut := none }).answer .ok (BitVec.ofNat 64 (256 + b.toNat))
    | none => s.answer .ok 0

/-! ### Peer windows -/

/-- A bit of PF1_EVT sets; a change from 0 to 1 sends PF1's vector (R524). -/
def State.pf1Evt (s : State) (h : Nat) (refused : Bool) : State :=
  let e := (s.hub h).ep
  if (if refused then e.evtR else e.evtC) then s
  else (s.modEp h fun e => if refused then { e with evtR := true } else { e with evtC := true }).msix h 1 0

/-- EP_WERR (R521, R529). -/
def State.winRefuse (s : State) (h kind : Nat) (t : Tlp) : State :=
  let pg := pgEp h
  let s := if s.flag pg F.EP_WERR_VALID then s.set pg F.EP_WERR_OVF 0 1
    else ((((s.set pg F.EP_WERR_VALID 0 1).set pg F.EP_WERR_KIND 0 kind).set pg F.EP_WERR_RID 0 t.rid).set pg F.EP_WERR_OFS 0 (t.addr / 256)).pf1Evt h true
  let s := s.hubEvent h 0x305 1
  if tlpPosted t.kind then s else s.tx h ((s.epPort h).getD 0) (.cpl t.rid t.tag 1 [] false)

/-- The active window that matches an offset: number, LO and HI words (R521). -/
def State.winMatch (s : State) (h o : Nat) : Option (Nat × Nat) :=
  (List.range 32).findSome? fun w =>
    let lo := s.get (pgEp h) F.EP_WACT_LO_VALUE w
    let ofs := bitsOf lo 12 28 * 4096
    if bitOf lo 63 ∧ ofs ≤ o ∧ o < ofs + 2 ^ bitsOf lo 46 6 then some (lo, s.get (pgEp h) F.EP_WACT_HI_VALUE w) else none

/-- PF1_REQUEST: an inbound request to BAR2 through the active windows (R505, R521-R523, R525). -/
def State.pf1Request (s : State) (h : Nat) (t : Tlp) : State :=
  match s.epPort h with
  | none => s
  | some p =>
    if ¬ s.pfOn h 1 ∨ ¬ s.linkUp h p ∨ s.frozen ∨ t.kind = .msg then s
    else if s.flag (pgIde h) F.IDE_IO_CTL_REQ p ∧ ¬ s.flag (pgIde h) F.IDE_IO_STAT_ACTIVE p then s
    else
      let s := s.hubEvent h 0x304 1
      if t.kind = .io ∨ t.kind = .cfg ∨ t.at_ ≠ 0 ∨ t.pasid ∨ t.len = 0 then s.winRefuse h 1 t
      else match s.winMatch h t.addr with
        | none => s.winRefuse h 1 t
        | some (lo, hi) =>
          let ofs := bitsOf lo 12 28 * 4096
          let wr := t.kind ≠ .memRd
          let rd := t.kind ≠ .memWr
          let pa := bitsOf hi 12 40 * 4096 + (t.addr - ofs)
          if ofs + 2 ^ bitsOf lo 46 6 < t.addr + tlpSpan t then s.winRefuse h 2 t
          else if rd ∧ ¬ bitOf lo 62 then s.winRefuse h 3 t
          else if wr ∧ ¬ bitOf lo 61 then s.winRefuse h 4 t
          else if rd ∧ wr ∧ ¬ (inNear pa || inHdm pa) then s.winRefuse h 1 t
          else s.inTake h 5 { t with addr := pa } (bitsOf lo 54 6) (bitsOf lo 52 2) (s.get (pgEp h) F.EP_STAT_ACTIVE 0)

/-- Packets matched against the bank that is no longer active and not yet performed (R523). -/
def State.oldOut (s : State) (h : Nat) : Nat :=
  ((s.hub h).inb.filter fun e => e.port = 5 && e.bank ≠ s.get (pgEp h) F.EP_STAT_ACTIVE 0).length

/-- WIN_COMMIT: the shadow bank becomes the active one, and the old one shows as the shadow until it has been copied (R522, R523).
(DEDUCED, assumption 44) -/
def State.winCommit (s : State) (h : Nat) : State :=
  let pg := pgEp h
  if s.flag pg F.EP_STAT_COMMIT_BUSY ∨ s.oldOut h ≠ 0 then s.set pg F.EP_STAT_REJECT 0 1
  else
    let s0 := s
    let s := (List.range 32).foldl (fun (s : State) w =>
      let s := ((s.set pg F.EP_WACT_LO_VALUE w (s0.rawReg pg (0x200 + 16 * w))).set pg F.EP_WACT_HI_VALUE w (s0.rawReg pg (0x208 + 16 * w)))
      (s.setRaw pg (0x200 + 16 * w) (s0.get pg F.EP_WACT_LO_VALUE w)).setRaw pg (0x208 + 16 * w) (s0.get pg F.EP_WACT_HI_VALUE w)) s
    ((s.set pg F.EP_STAT_ACTIVE 0 (1 - s0.get pg F.EP_STAT_ACTIVE 0)).set pg F.EP_STAT_COMMIT_BUSY 0 1).pf1Evt h false

/-- WINDOW_COPY_DONE: the shadow bank holds what the active bank holds (R522). -/
def State.winCopied (s : State) (h : Nat) : State :=
  let pg := pgEp h
  if ¬ s.flag pg F.EP_STAT_COMMIT_BUSY then s
  else
    let s := (List.range 32).foldl (fun (s : State) w =>
      (s.setRaw pg (0x200 + 16 * w) (s.get pg F.EP_WACT_LO_VALUE w)).setRaw pg (0x208 + 16 * w) (s.get pg F.EP_WACT_HI_VALUE w)) s
    s.set pg F.EP_STAT_COMMIT_BUSY 0 0

/-- PF1_EVT_READ: both bits are returned and cleared (R524). -/
def State.pf1EvtRead (s : State) (h : Nat) : State :=
  if ¬ s.pfOn h 1 then s
  else
    let e := (s.hub h).ep
    (s.modEp h fun e => { e with evtC := false, evtR := false }).answer .ok (BitVec.ofNat 64 (b2n e.evtC + 2 * b2n e.evtR))

/-! ### Function-level reset -/

/-- Both window banks at reset (R525). -/
def State.winReset (s : State) (h : Nat) : State :=
  (List.range 32).foldl (fun (s : State) w =>
    ((s.set (pgEp h) F.EP_WACT_LO_VALUE w 0).set (pgEp h) F.EP_WACT_HI_VALUE w 0).setRaw (pgEp h) (0x200 + 16 * w) 0 |>.setRaw (pgEp h) (0x208 + 16 * w) 0) s

/-- FLR: the function stops and its state returns to reset (R525). -/
def State.flr (s : State) (h pf : Nat) : State :=
  if ¬ s.pfOn h pf then s
  else
    let s := s.set (pgEp h) F.EP_STAT_FLR 0 (s.get (pgEp h) F.EP_STAT_FLR 0 + 2 ^ pf)
    let s := s.modEp h fun e => { e with held := e.held.filter fun v => v.1 ≠ pf }
    if pf = 0 then
      let s := if (s.hub h).ep.busy then
          (s.set (pgEp h) F.EP_MBX_STAT_RESULT 0 0xFFFFFFFF).modEp h fun e => { e with busy := false, done := true }
        else s
      ((s.dmaEnd h).modEp h fun e => { e with bme0 := false }).set (pgEp h) F.EP_STAT_PF0_BME 0 0
    else
      let s := s.winReset h
      s.modHub h fun x => { x with
        inb := x.inb.map fun e => if e.port = 5 then { e with silent := true } else e
        ep := { x.ep with bme1 := false, evtC := false, evtR := false } }

/-- FLR_DONE: the function's transactions in the mesh have ended (R525). -/
def State.flrDone (s : State) (h pf : Nat) : State :=
  let v := s.get (pgEp h) F.EP_STAT_FLR 0
  if ¬ bitOf v pf ∨ (pf = 1 ∧ (s.hub h).inb.any fun e => e.port = 5) then s
  else ((s.set (pgEp h) F.EP_STAT_FLR 0 (v - 2 ^ pf)).set (pgEp h) F.EP_STAT_FLR_DONE 0 1).pageEvent (pgEp h)

/-- Registers of an EP page that are read as computed (R523, R529). -/
def State.epView (s : State) (h : Nat) (f : Fld) : Option Nat :=
  if f.fid = F.EP_STAT_OLD_OUT.fid then some (s.oldOut h)
  else if f.fid = F.EP_STAT_LINK_UP.fid then some (match s.epPort h with | some p => b2n (s.linkUp h p) | none => 0)
  else none

end Sys2Proof.Machine
end

