-- ==== Sys2Proof/Machine/Gates.lean ====
section
/-! DEFINITION. The four gates of a tile's NI (R22, R44, R491, R492). -/

namespace Sys2Proof.Machine

/-- An address of control space. -/
def inCtl (pa : Nat) : Bool := inCtlStop pa || inCtlLt pa

/-- The gate an inbound request passes: 0 CORE, 1 L2, 2 PAD, 3 PAGES (R491). -/
def gateOf (f : Flit) : Option Nat :=
  if f.op = 0x23 then some 0
  else if f.op = 0x10 ∨ f.op = 0x11 then some 1
  else if f.cls = 0 ∧ inPadWin f.addr then some 2
  else if f.op = 0x20 ∨ f.op = 0x21 ∨ f.op = 0x22 ∨ inCtl f.addr then some 3
  else none

/-- The gate of the block that sent a request. -/
def orgGate : Org → Option Nat
  | .load _ _ | .store _ | .wcBuf _ | .atom _ | .adUpdate _ | .fetchNc _ | .xinv _ => some 0
  | .fill _ | .victim _ | .range _ | .maint _ | .prefLlc _ => some 1
  | _ => none

/-- The state of a gate. -/
def State.gate (s : State) (n g : Nat) : Gate := lget (s.ni n).gates g .open_
/-- The state with a gate set. -/
def State.setGate (s : State) (n g : Nat) (v : Gate) : State := s.modNi n fun x => { x with gates := lset x.gates g v }

/-- A gate's block has nothing left to issue, nothing of it is outstanding and nothing inbound is in service (R492). -/
def State.gateIdle (s : State) (n g : Nat) : Bool :=
  let x := s.ni n
  !(x.reqs.any fun r => orgGate r.org = some g) && !(x.outst.any fun o => orgGate o.req.org = some g)
    && !(x.serv.any fun f => gateOf f = some g) && (g ≠ 0 || ((s.core n).sq.isEmpty && (s.core n).wc.isEmpty))
    && (g ≠ 1 || (s.cache n).fills.isEmpty)

/-- A register-page access of the Patrol passes a closed PAGES gate (R22, R492). -/
def patrolPage (f : Flit) : Bool := f.src.val = 192 && gateOf f = some 3 && f.op ≠ 0x22

/-- The gate is closed, and every waiting request is answered CLOSED (R492). -/
def State.closeGate (s : State) (n g : Nat) : State :=
  let hit (f : Flit) : Bool := gateOf f = some g && !patrolPage f && f.op ≠ 0x23
  let gone := (s.ni n).inq.filter hit
  let s := (s.setGate n g .closed).modNi n fun x => { x with inq := x.inq.filter fun f => !hit f }
  gone.foldl (fun (s : State) f => s.replyTkt n f 0x31 .closed 0) s

/-- GATE_CLOSED: a closing gate closes once its block is idle (R492). -/
def State.gateClosed (s : State) (n g : Nat) : State := if s.gate n g = .closing ∧ s.gateIdle n g then s.closeGate n g else s

/-- A write of NI_CLOSE: gates named start to close, the others open (R492). -/
def State.niClosePost (s : State) (n v : Nat) : State :=
  (List.range 4).foldl (fun (s : State) g =>
    if bitOf v g then (if s.gate n g = .open_ then s.setGate n g .closing else s) else s.setGate n g .open_) s

/-- Registers of an NI page that are read as computed (R498). -/
def State.niView (s : State) (n : Nat) (f : Fld) : Option Nat :=
  let x := s.ni n
  if f.fid = F.NI_CLOSE_STAT_IN.fid then some (x.serv.filter fun f => (gateOf f).isSome).length
  else if f.fid = F.NI_CLOSE_STAT_OUT.fid then some (x.outst.filter fun o => (orgGate o.req.org).isSome).length
  else if f.fid = F.NI_CLOSE_STAT_STATE.fid then
    some ((List.range 4).foldl (fun v g => v + (match s.gate n g with | .open_ => 0 | .closing => 1 | .closed => 2) * 4 ^ g) 0)
  else if f.fid = F.NI_EPOCH_STAT_OUT1.fid then some (x.outst.filter fun o => o.epoch).length
  else if f.fid = F.NI_EPOCH_STAT_OUT0.fid then some (x.outst.filter fun o => !o.epoch).length
  else if f.fid = F.NI_EPOCH_STAT_CUR.fid then some (b2n x.epoch)
  else none

end Sys2Proof.Machine
end

