-- ==== Sys2Proof/Machine/Near.lean ====
section
/-! DEFINITION. The near-tier memory controllers: queues and scheduling, refresh, keys, the memory-side cache, training, calendars,
sweeps (R413-R434, R539, R540). -/

namespace Sys2Proof.Machine

/-! ### Places in a channel -/

/-- Line index D of a data line (R415, R419). -/
def lineD (line : Nat) : Nat := line / 15 * 16 + line % 15

/-- Bank group, bank address and row of a line index under an ORDER (R419). -/
def bankRow (order d : Nat) : Nat × Nat × Nat :=
  let r := bitsOf d 9 17
  match order with
  | 0 => (bitsOf d 5 2, bitsOf d 7 2, r)
  | 1 => (bitsOf d 4 2, bitsOf d 6 2, r)
  | 2 => (bitsOf d 4 2, bitsOf d 7 2, r)
  | _ => (bitsOf d 4 2 ^^^ bitsOf r 0 2, bitsOf d 6 2 ^^^ bitsOf r 2 2, r)

/-- Bank (0-15) and row of a data line of a channel. -/
def State.lineBank (s : State) (c line : Nat) : Nat × Nat :=
  let b := bankRow (s.get (pgCh c) F.NMC_CH_CTL_ORDER 0) (lineD line)
  (b.1 * 4 + b.2.1, b.2.2)

/-- Position in the channel list, within `n` positions from `first`, of a channel. -/
def State.chanPos (s : State) (first n c : Nat) : Option Nat :=
  (List.range n).find? fun p => s.get pgNtmap F.NTMAP_CHAN_CH ((first + p) % 48) = c

/-- The grain number that lies at grain `q` of position `p` (the inverse of `setPos`, R418). -/
def grainAt (n p q : Nat) : Nat :=
  let a := nExp n
  q * n + ((p % 2 ^ a ^^^ xorPieces a q) + 2 ^ a * (p / 2 ^ a))

/-- The physical address of a cached line: from its frame and tag (R428, R429). -/
def State.framePa (s : State) (c line tag : Nat) : Nat :=
  match nCode (s.get pgNtmap F.NTMAP_CACHE_NCODE 0) with
  | none => 0
  | some n => match s.chanPos (s.get pgNtmap F.NTMAP_CACHE_FIRST 0) n c with
    | none => 0
    | some p => grainAt n p ((tag * 15 + line / 2 ^ 22) * 2 ^ 22 + line % 2 ^ 22) * 64

/-- The physical address of a data line of a flat channel, or of what a frame holds; 0 where there is none. -/
def State.linePa (s : State) (c line : Nat) : Nat :=
  if s.get (pgCh c) F.NMC_CH_CTL_MODE 0 = 2 then s.framePa c line (s.nearMetaOf c line).tag
  else
    ((List.range 8).foldl (fun (b : Nat × Option Nat) k =>
      match b.2, nCode (s.get pgNtmap F.NTMAP_SET_NCODE k) with
      | none, some n =>
        if s.get pgNtmap F.NTMAP_SET_VALID k = 0 then b
        else match s.chanPos (s.get pgNtmap F.NTMAP_SET_FIRST k) n c with
          | some p =>
            let g := 2 ^ (8 + s.get pgNtmap F.NTMAP_SET_GRAIN k)
            (b.1, some (b.1 + grainAt n p (line * 64 / g) * g + line * 64 % g))
          | none => (b.1 + n * chanBytes, none)
      | _, _ => b) (0, none)).2.getD 0

/-- An event of a channel's NMC for its counters. -/
def State.nmcEvent (s : State) (c code k : Nat) : State := s.pmuEvent (chanStop c) code k

/-! ### Queues -/

/-- The channel's page is enabled and the channel is trained (R37, R427). -/
def State.chanUp (s : State) (c : Nat) : Bool :=
  s.flag (pgCh c) F.PAGE_STAT_ENABLED && s.flag (pgNmc (c / 6)) F.PAGE_STAT_ENABLED && s.flag (pgCh c) F.NMC_CH_STAT_READY

/-- The channel issues requests: up, out of self-refresh, not zeroing, not frozen (R425, R602). -/
def State.chanServing (s : State) (c : Nat) : Bool :=
  s.chanUp c && !s.flag (pgCh c) F.NMC_CH_STAT_SELF_REFRESH && !s.flag (pgCh c) F.NMC_CH_STAT_ZEROING && !s.sys.tuckFrozen

/-- The calendar entry of a slot. -/
def State.calSlot (s : State) (c k : Nat) : Nat := s.get (pgCh c) F.NMC_CAL_SLOT k

/-- A piste owns a PISTE slot of a channel's calendar. -/
def State.calOwns (s : State) (c piste : Nat) : Bool := (List.range 64).any fun k => s.calSlot c k = 64 + piste

/-- A request the calendar can never serve (R431). -/
def State.calDenies (s : State) (c : Nat) (f : Flit) : Bool :=
  s.flag (pgCh c) F.NMC_CAL_STAT_ACTIVE && f.src.val ≠ 192 && !s.calOwns c f.piste && !(List.range 64).any fun k => s.calSlot c k / 64 = 2

/-- A request reaches its NMC (R420, R428, R431, R432): it joins the channel's queue, is answered at once where no channel serves
it, or waits while the queue is full. (DEDUCED, assumption 33) -/
def State.nearReq (s : State) (n : Nat) (f : Flit) : State :=
  let no (s : State) (r : Resp) : State := (s.served n f).replyAck n f r
  let go (s : State) (c mode line tag : Nat) (cache : Bool) : State :=
    if chanStop c ≠ n ∨ ¬ s.chanUp c ∨ ¬ s.flag (pgCh c) F.PAGE_CTL_ENABLE then no s .unmapped
    else if s.get (pgCh c) F.NMC_CH_CTL_MODE 0 ≠ mode then no (s.raiseErr (pgCh c) 16) .unmapped
    else if s.calDenies c f then no s .denied
    else
      let wr := f.op = 4 || f.op = 5 || f.op = 6
      let q := (s.chan c).queue
      if (q.filter fun x => x.write = wr).length < (if wr then 48 else 64) ∧ ¬ q.any (fun x => x.f = f) ∧ ¬ (s.chan c).waiting.any (fun x => x.f = f) then
        s.modChan c fun x => { x with queue := x.queue ++ [⟨f, line, tag, cache, wr⟩] }
      else s
  if inNear f.addr then
    match s.nearFlat (some n) f.addr with
    | none => no s .unmapped
    | some (c, d) => go s c 1 (d / 64) 0 false
  else
    match s.nearCache (some n) f.addr with
    | none => no s .unmapped
    | some (c, line, tag) => go s c 2 line tag true

/-- The key slot of a request (R540). -/
def State.reqSlot (s : State) (n : Nat) (f : Flit) : Nat :=
  match s.leafMem f.addr with
  | .inl e =>
    let g := bitsOf e 50 6
    if bitOf e 63 ∧ bitOf e 57 ∧ s.niGet n pgPmap F.PMAP_GKEY_OVR g = 1 then s.niGet n pgPmap F.PMAP_GKEY_SLOT g
    else s.slotOf (some n) f.piste f.key
  | .inr _ => s.slotOf (some n) f.piste f.key

/-- Send the channel's own request to the hub behind its cache (R430). -/
def State.chanToHub (s : State) (c op pa be : Nat) (d : Line) (poison : Bool) (piste : Nat) (org : Org) : State :=
  match s.hdmDecode (some (chanStop c)) pa with
  | none => s
  | some h => s.send (chanStop c) { Req.plain op 0 pa org with
      be := be, data := d, poison := if poison then 255 else 0, piste := piste, dst := some (Fin.ofNat 194 (hubStop h.hub)) }

/-- The frame's dirty line goes to the hub (R430). -/
def State.frameOut (s : State) (c line piste : Nat) : State :=
  let m := s.nearMetaOf c line
  if m.valid ∧ m.dirty then
    let d := s.nearRead c line (s.keyOf 1)
    let s := if (s.hdmDecode (some (chanStop c)) (s.framePa c line m.tag)).isSome then
        s.modChan c fun x => { x with victims := x.victims ++ [line] }
      else s
    s.chanToHub c 6 (s.framePa c line m.tag) (2 ^ 64 - 1) d.1 d.2 piste (.nearWb c line)
  else s

/-- Answer a queued request. -/
def State.nearAns (s : State) (c : Nat) (f : Flit) (r : Resp) (d : Option (Line × Bool)) : State :=
  let n := chanStop c
  let s := s.served n f
  match d with
  | some (d, p) => s.replyData n f d (if p then 255 else 0)
  | none => s.replyAck n f r

/-- A flat line is read or written under the key of its request (R416, R426, R540). -/
def State.flatPerform (s : State) (c : Nat) (q : NearReq) : State :=
  let f := q.f
  let slot := s.reqSlot (chanStop c) f
  if s.get pgKeys F.KS_SLOT_KIND slot = 0 then s.nearAns c f .denied none
  else
    let key := s.keyOf slot
    let (d, p) := s.nearRead c q.line key
    if f.op ≤ 3 then s.nearAns c f .ok (some (d, p))
    else if f.op = 8 then s.nearAns c f .ok none
    else if f.op = 7 then (if p then s else s.nearWrite c q.line key (farAtomic f d) false).nearAns c f .ok (some (d, p))
    else if f.be = 2 ^ 64 - 1 then (s.nearWrite c q.line key f.payload (f.poison ≠ 0)).nearAns c f .ok none
    else (s.nearWrite c q.line key (lineMerge d f.payload f.be) (p || f.poison ≠ 0)).nearAns c f .ok none

/-- A request to the memory-side cache (R430). A dirty frame that CLEAN or CLINV names stays as it is until the hub has answered its
write. -/
def State.cachePerform (s : State) (c : Nat) (q : NearReq) : State :=
  let f := q.f
  let key := s.keyOf 1
  let m := s.nearMetaOf c q.line
  let hit := m.valid && m.tag = q.tag
  let pass (s : State) (op be : Nat) (d : Line) (p : Bool) : State :=
    (s.modChan c fun x => { x with waiting := x.waiting ++ [q] }).chanToHub c op f.addr be d p f.piste (.nearPass c f)
  let setM (s : State) (v d : Bool) : State := s.setNearMeta c q.line { s.nearMetaOf c q.line with tag := q.tag, valid := v, dirty := d }
  if 2 ^ 18 ≤ q.tag then pass (s.satInc (pgCh c) F.NMC_CH_CSTAT_BYPASS) f.op f.be f.payload (f.poison ≠ 0)
  else
    let s := s.nmcEvent c (if hit then 0x205 else 0x206) 1
    let (d, p) := s.nearRead c q.line key
    if f.op = 8 then
      if ¬ hit then pass s 8 f.be 0 false
      else match f.be % 4 with
        | 0 => if m.dirty then pass s 6 (2 ^ 64 - 1) d p else s.nearAns c f .ok none
        | 1 => (setM s false false).nearAns c f .ok none
        | _ => if m.dirty then pass s 6 (2 ^ 64 - 1) d p else (setM s false false).nearAns c f .ok none
    else if f.op ≤ 3 then
      if hit then s.nearAns c f .ok (some (d, p))
      else
        let s := s.frameOut c q.line f.piste
        let s := if m.valid then s.setNearMeta c q.line { m with valid := false, dirty := false } else s
        (s.modChan c fun x => { x with waiting := x.waiting ++ [q] }).chanToHub c 1 f.addr (2 ^ 64 - 1) 0 false f.piste (.nearFill c q.line)
    else if f.op = 7 then
      if hit then (setM (if p then s else s.nearWrite c q.line key (farAtomic f d) false) true true).nearAns c f .ok (some (d, p))
      else pass s 7 f.be f.payload false
    else if f.be = 2 ^ 64 - 1 then
      let s := if hit then s else s.frameOut c q.line f.piste
      (setM (s.nearWrite c q.line key f.payload (f.poison ≠ 0)) true true).nearAns c f .ok none
    else if hit then (setM (s.nearWrite c q.line key (lineMerge d f.payload f.be) (p || f.poison ≠ 0)) true true).nearAns c f .ok none
    else pass s f.op f.be f.payload (f.poison ≠ 0)

/-- An activate or a row hit for a request; after an activate an RFM may be drawn (R421, R424). -/
def State.openRow (s : State) (c line : Nat) : State :=
  let b := s.lineBank c line
  if tfind (s.chan c).rows b.1 = some b.2 then s.nmcEvent c 0x201 1
  else
    let s := (s.nmcEvent c 0x202 1).modChan c fun x => { x with rows := tput x.rows b.1 b.2 }
    let k := s.get (pgCh c) F.NMC_CH_CTL_RFM_K 0
    if k = 0 then s
    else
      let (r, s) := s.free
      if r % 2 ^ (if k < 5 then 5 else k) = 0 then
        s.modChan c fun x => { x with rfm := if x.rfm.contains b.1 then x.rfm else x.rfm ++ [b.1] }
      else s

/-- Perform one queued request, which leaves its queue (R420, R430). -/
def State.nearIssue (s : State) (c : Nat) (q : NearReq) : State :=
  let s := (s.openRow c q.line).modChan c fun x => { x with queue := match takeFirst (fun y => y = q) x.queue with
    | some (_, r) => r
    | none => x.queue }
  if q.cache then s.cachePerform c q else s.flatPerform c q

/-- A fill or a victim write of a frame, or a request passed on for it, is in flight (R430). -/
def State.frameWaits (s : State) (c line : Nat) : Bool :=
  ((s.chan c).waiting.any fun x => x.cache && x.line = line) || (s.chan c).victims.contains line

/-- The oldest queued request to the line of `q`: requests to one line keep their order (R420). A frame that waits for the hub keeps
its requests waiting (R430). -/
def State.lineFirst (s : State) (c : Nat) (q : NearReq) : Option NearReq :=
  if s.frameWaits c q.line then none
  else (s.chan c).queue.find? fun x => x.line = q.line

/-- Writes are being issued: a burst that goes on, or one that starts with 32 writes queued or no read (R420). -/
def Chan.bursting (x : Chan) : Bool :=
  let w := (x.queue.filter fun q => q.write).length
  (x.burst && 0 < w) || 32 ≤ w || x.queue.all fun q => q.write

/-- The request the channel's scheduler issues next (R420, R421). -/
def State.nearPick (s : State) (c : Nat) : Option NearReq :=
  let x := s.chan c
  let cand := x.queue.filter fun q => q.write = x.bursting && !s.frameWaits c q.line
  let best := if s.flag (pgCh c) F.NMC_CH_STAT_FALLBACK then
      (List.range 16).findSome? fun i => cand.find? fun q => (s.lineBank c q.line).1 = (x.rot + 1 + i) % 16
    else match cand.find? fun q => (let b := s.lineBank c q.line; tfind x.rows b.1 = some b.2) with
      | some q => some q
      | none => cand.head?
  best.bind fun q => s.lineFirst c q

/-- NMC_REQUEST_ISSUE: one request by the scheduling policy (R420, R421). Fallback ends with the queues empty; with requests left,
whether its conditions still hold is a matter of time, and open. (DESIGN CHOICE, assumption 106) -/
def State.nmcIssue (s : State) (c : Nat) : State :=
  if ¬ s.chanServing c ∨ s.flag (pgCh c) F.NMC_CAL_STAT_ACTIVE then s
  else match s.nearPick c with
    | none => s
    | some q =>
      let x := s.chan c
      let wl := (x.queue.filter fun y => y.write).length - b2n q.write
      let rl := (x.queue.filter fun y => !y.write).length - b2n (!q.write)
      let s := s.modChan c fun x => { x with
        rot := if s.flag (pgCh c) F.NMC_CH_STAT_FALLBACK then (s.lineBank c q.line).1 else x.rot
        burst := x.bursting && (16 < wl || (rl = 0 && 0 < wl)) }
      let s := s.nearIssue c q
      if ¬ s.flag (pgCh c) F.NMC_CH_STAT_FALLBACK then s
      else if (s.chan c).queue.isEmpty then s.set (pgCh c) F.NMC_CH_STAT_FALLBACK 0 0
      else
        let (r, s) := s.free
        if r % 2 = 0 then s.set (pgCh c) F.NMC_CH_STAT_FALLBACK 0 0 else s

/-- FALLBACK_SCHEDULING: the activate window is full or a request is over age (R421). -/
def State.fallback (s : State) (c : Nat) : State :=
  if (s.chan c).queue.isEmpty ∨ s.flag (pgCh c) F.NMC_CAL_STAT_ACTIVE then s
  else s.set (pgCh c) F.NMC_CH_STAT_FALLBACK 0 1

/-- NEAR_CACHE_FILL: the line returns from the hub; it answers the waiting request and, without an error, fills the frame (R430). -/
def State.nearFill (s : State) (c line : Nat) (r : Resp) (d : Line) (poison : Bool) : State :=
  match takeFirst (fun q : NearReq => q.line = line && q.cache && q.f.op ≤ 3) (s.chan c).waiting with
  | none => s
  | some (q, rest) =>
    let s := s.modChan c fun x => { x with waiting := rest }
    if r = .ok then
      ((s.nearWrite c line (s.keyOf 1) d poison).setNearMeta c line ⟨q.tag, false, true, poison, s.keyOf 1⟩).nearAns c q.f .ok (some (d, poison))
    else s.nearAns c q.f r none

/-- The write of a dirty frame that CLEAN or CLINV named is in memory: the frame is clean, and CLINV leaves none (R430). -/
def State.frameCleaned (s : State) (c : Nat) (q : NearReq) : State :=
  let m := s.nearMetaOf c q.line
  if q.f.op = 8 ∧ q.cache ∧ m.valid ∧ m.tag = q.tag then s.setNearMeta c q.line { m with valid := q.f.be % 4 = 0, dirty := false } else s

/-- The hub answered a request a channel passed on (R429, R430). -/
def State.nearPassRsp (s : State) (c : Nat) (f : Flit) (op : Nat) (r : Resp) (d : Line) (poison : Bool) : State :=
  let s : State := match takeFirst (fun q : NearReq => q.f = f) (s.chan c).waiting with
    | some (q, l) =>
      let s := s.modChan c fun x => { x with waiting := l }
      if r = .ok then s.frameCleaned c q else s
    | none => s
  s.nearAns c f r (if r = .ok ∧ op = 0x30 then some (d, poison) else none)

/-! ### Refresh, row management, sweeps -/

/-- A bank has a queued request. -/
def State.bankBusy (s : State) (c bank : Nat) : Bool := (s.chan c).queue.any fun q => (s.lineBank c q.line).1 = bank

/-- Close the open row of a bank. -/
def State.closeRow (s : State) (c bank : Nat) : State := s.modChan c fun x => { x with rows := terase x.rows bank }

/-- PAGE_IDLE_PRECHARGE (R422). -/
def State.idlePrecharge (s : State) (c bank : Nat) : State := if s.bankBusy c bank then s else s.closeRow c bank

/-- The channel's row commands run now: not in self-refresh, and under a calendar only in its REFRESH slots (R425, R431). -/
def State.rowsRun (s : State) (c : Nat) : Bool :=
  s.chanUp c && !s.flag (pgCh c) F.NMC_CH_STAT_SELF_REFRESH
    && (!s.flag (pgCh c) F.NMC_CAL_STAT_ACTIVE || s.calSlot c (s.chan c).slot / 64 = 3)

/-- PER_BANK_REFRESH: to an idle bank, else postponed (R423). -/
def State.bankRefresh (s : State) (c bank : Nat) : State :=
  if ¬ s.rowsRun c then s
  else if s.bankBusy c bank then s.modChan c fun x => { x with postponed := x.postponed + 1 }
  else (s.closeRow c bank).nmcEvent c 0x203 1

/-- ALL_BANK_REFRESH, once refreshes have been postponed: all banks precharged and refreshed, nothing postponed any more (R423). -/
def State.allRefresh (s : State) (c : Nat) : State :=
  if ¬ s.rowsRun c ∨ (s.chan c).postponed = 0 then s
  else (s.modChan c fun x => { x with rows := [], postponed := 0 }).nmcEvent c 0x203 1

/-- RFM: a drawn or demanded command to its bank once that is idle, else postponed (R424). -/
def State.rfmIssue (s : State) (c bank : Nat) : State :=
  if ¬ s.rowsRun c ∨ ¬ (s.chan c).rfm.contains bank then s
  else if s.bankBusy c bank then s.modChan c fun x => { x with postponed := x.postponed + 1 }
  else
    ((s.modChan c fun x => { x with rfm := x.rfm.filter (· ≠ bank) }).closeRow c bank).nmcEvent c 0x204 1

/-- DEVICE_RFM_DEMAND: the device's demand is never turned off (R424). -/
def State.rfmDemand (s : State) (c bank : Nat) : State :=
  s.modChan c fun x => { x with rfm := if x.rfm.contains bank then x.rfm else x.rfm ++ [bank] }

/-- The channel's error log (R416, R434). -/
def State.chanErrlog (s : State) (c d : Nat) (ucr inMeta : Bool) : State :=
  let pg := pgCh c
  let b := bankRow (s.get pg F.NMC_CH_CTL_ORDER 0) d
  let s := s.lineErr pg 4 (2 ^ 30 + ((c * 4 + b.1) * 4 + b.2.1) * 2 ^ 17 + b.2.2)
  if s.flag pg F.NMC_CH_ERRLOG_VALID then s.set pg F.NMC_CH_ERRLOG_OVF 0 1
  else (((s.set pg F.NMC_CH_ERRLOG_VALID 0 1).set pg F.NMC_CH_ERRLOG_UCR 0 (b2n ucr)).set pg F.NMC_CH_ERRLOG_META 0 (b2n inMeta)).set pg F.NMC_CH_ERRLOG_D 0 d

/-- NMC_SWEEP_READ: the sweep reads the next line and handles what it finds (R416, R434). -/
def State.nmcSweep (s : State) (c : Nat) (e : EccFound) : State :=
  if ¬ s.chanServing c ∨ ¬ s.rowsRun c ∨ ¬ s.flag (pgCh c) F.NMC_CH_SWEEP_EN then s
  else
    let line := (s.chan c).sweep
    let s := s.modChan c fun x => { x with sweep := (line + 1) % 62914560 }
    match e with
    | .clean => s
    | .corrected => (s.chanErrlog c (lineD line) false false).classErr (pgCh c) 1 (s.linePa c line)
    | e =>
      let s := s.setNearMeta c line { s.nearMetaOf c line with poison := true }
      (s.chanErrlog c (if e = .tagFatal then line / 15 * 16 + 15 else lineD line) true (e = .tagFatal)).classErr (pgCh c) 2 (s.linePa c line)

/-- The channel and data line that hold an address of the near tier, in a set or in the cache. -/
def State.nearPlace (s : State) (c pa : Nat) : Option Nat :=
  if s.get (pgCh c) F.NMC_CH_CTL_MODE 0 = 2 then
    (s.nearCache none pa).bind fun x => let m := s.nearMetaOf c x.2.1; if x.1 = c ∧ m.valid ∧ m.tag = x.2.2 then some x.2.1 else none
  else if inNear pa then (s.nearFlat none pa).bind fun x => if x.1 = c then some (x.2 / 64) else none
  else none

/-- What an error that a channel reports does: its log, and the poisoned line where it could not be corrected (R416). Whether it lay in a
metadata line is open. (DEDUCED, assumption 105) -/
def State.nearEcc (s : State) (pg cls pa : Nat) : State :=
  match pageTypeNo pg with
  | some .nmcCh =>
    let c := (nmcAt (pg / 256)).getD 0 * 6 + pg % 256 - 1
    if 2 ≤ cls then s
    else match s.nearPlace c pa with
      | none => s
      | some line =>
        let (r, s) := s.free
        let s := if cls = 1 then s.setNearMeta c line { s.nearMetaOf c line with poison := true } else s
        s.chanErrlog c (if r % 2 = 1 then line / 15 * 16 + 15 else lineD line) (cls = 1) (r % 2 = 1)
  | _ => s

/-- SEGMENT_ZEROING_DONE: the unretained segments hold zero lines with valid metadata (R425). -/
def State.segZeroed (s : State) (c : Nat) : State :=
  let seg : Nat := 480 * 2 ^ 20
  let s := (s.chan c).zero.foldl (fun (s : State) k =>
    { s with
      near := Mem.clear s.near (c * 2 ^ 32 + k * seg) seg
      nearMeta := s.nearMeta.filter fun e => !(nearKey c (k * seg / 64) ≤ e.1 && e.1 < nearKey c ((k + 1) * seg / 64)) }) s
  (s.modChan c fun x => { x with zero := [] }).set (pgCh c) F.NMC_CH_STAT_ZEROING 0 0

/-! ### Training -/

/-- TRAIN_GO, from the Patrol, on an enabled NMC (R37, R427, R433). -/
def State.trainGo (s : State) (k : Nat) : State :=
  if s.flag (pgNmc k) F.PAGE_STAT_ENABLED then s.set (pgNmc k) F.NMC_STAT_TRAINING 0 1 else s

/-- TRAINING_DONE: channels serve, those that failed are forced OFF (R427). -/
def State.trainDone (s : State) (k fail : Nat) : State :=
  if ¬ s.flag (pgNmc k) F.NMC_STAT_TRAINING then s
  else
    let s := (List.range 6).foldl (fun (s : State) i =>
      let pg := pgCh (6 * k + i)
      if bitOf fail i then ((s.set pg F.NMC_CH_CTL_MODE 0 0).set pg F.NMC_CH_STAT_TRAIN_FAIL 0 1).set pg F.NMC_CH_STAT_READY 0 0
      else (s.set pg F.NMC_CH_STAT_TRAIN_FAIL 0 0).set pg F.NMC_CH_STAT_READY 0 1) s
    ((s.set (pgNmc k) F.NMC_STAT_TRAIN_FAIL 0 fail).set (pgNmc k) F.NMC_STAT_READY 0 (63 - fail % 64)).set (pgNmc k) F.NMC_STAT_TRAINING 0 0

/-! ### Calendars -/

/-- REF_OK (R431): some REFRESH slot, and enough of them for the device. (DESIGN CHOICE, assumption 32) -/
def State.refOk (s : State) (c : Nat) : Bool :=
  let n := ((List.range 64).filter fun k => s.calSlot c k / 64 = 3).length
  0 < n && Config.refOk n (s.get (pgCh c) F.NMC_CAL_CTL_T_SLOT 0)

/-- Queued requests that the calendar can never serve are refused (R431). -/
def State.calRefuse (s : State) (c : Nat) : State :=
  let out := (s.chan c).queue.filter fun q => s.calDenies c q.f
  let s := s.modChan c fun x => { x with queue := x.queue.filter fun q => !s.calDenies c q.f }
  out.foldl (fun (s : State) q => s.nearAns c q.f .denied none) s

/-- CALENDAR_ACTIVATE: EN takes effect at a period boundary, or at once on an inactive calendar (R431). -/
def State.calActivate (s : State) (c : Nat) : State :=
  let pg := pgCh c
  let en := s.flag pg F.NMC_CAL_CTL_EN
  let on := s.flag pg F.NMC_CAL_STAT_ACTIVE
  if en = on ∨ (on ∧ (s.chan c).slot ≠ 0) then s
  else
    let s := (s.set pg F.NMC_CAL_STAT_ACTIVE 0 (b2n en)).modChan c fun x => { x with slot := 0, rows := [] }
    if en then (s.set pg F.NMC_CAL_STAT_PERIODS 0 0).calRefuse c else s

/-- Serve up to `a` queued requests that pass a test, oldest first, every access with its bank closed after it (R431). -/
def State.calServe (s : State) (c : Nat) (ok : NearReq → Bool) : Nat → State
  | 0 => s
  | a + 1 =>
    match (s.chan c).queue.find? fun q => ok q && s.lineFirst c q = some q with
    | none => s
    | some q => State.calServe ((s.nearIssue c q).modChan c fun x => { x with rows := [] }) c ok a

/-- NMC_CAL_SLOT: one slot of the calendar (R431). -/
def State.calSlotRun (s : State) (c : Nat) : State :=
  let pg := pgCh c
  if ¬ s.flag pg F.NMC_CAL_STAT_ACTIVE ∨ ¬ s.chanServing c then s
  else
    let k := (s.chan c).slot
    let e := s.calSlot c k
    let a := (let v := s.get pg F.NMC_CAL_CTL_ACC 0; if v = 0 then 1 else if 16 < v then 16 else v)
    let s := match e / 64 with
      | 1 => s.calServe c (fun q => q.f.piste = e % 64 && q.f.src.val ≠ 192) a
      | 2 => s.calServe c (fun q => q.f.src.val = 192 || !s.calOwns c q.f.piste) a
      | 3 =>
        let s := (s.nmcEvent c 0x203 4).modChan c fun x => { x with rows := [] }
        let s := (s.chan c).rfm.foldl (fun (s : State) b => s.rfmIssue c b) s
        s.calServe c (fun q => q.f.src.val = 192) a
      | _ => s
    let s := s.modChan c fun x => { x with slot := (k + 1) % 64 }
    if k = 63 then s.inc pg F.NMC_CAL_STAT_PERIODS else s

/-- READY of an NMC page: the channels that are trained and serve (R433). -/
def State.nmcView (s : State) (k : Nat) (f : Fld) : Option Nat :=
  if f.fid = F.NMC_STAT_READY.fid then some ((List.range 6).foldl (fun v i => v + b2n (s.chanUp (6 * k + i)) * 2 ^ i) 0) else none

/-- Fields of a channel page read as computed (R431, R434). -/
def State.chanView (s : State) (c : Nat) (f : Fld) : Option Nat :=
  if f.fid = F.NMC_CAL_STAT_REF_OK.fid then some (b2n (s.refOk c))
  else if f.fid = F.NMC_CH_STAT_CAL_ACTIVE.fid then some (s.get (pgCh c) F.NMC_CAL_STAT_ACTIVE 0)
  else if f.fid = F.NMC_CH_STAT_READY.fid then some (b2n (s.chanUp c))
  else none

/-- A cache channel that retains nothing in PK1 writes back every dirty line and invalidates every frame (R425). -/
def State.cacheFlush (s : State) (c : Nat) : State :=
  (s.nearMeta.filter fun e => c * 2 ^ 26 ≤ e.1 && e.1 < (c + 1) * 2 ^ 26).foldl (fun (s : State) e =>
    let line := e.1 % 2 ^ 26
    let s := s.frameOut c line 0
    s.setNearMeta c line { s.nearMetaOf c line with valid := false, dirty := false }) s

/-- An NMC's channel enters self-refresh (R37, R425). -/
def State.selfRefresh (s : State) (c : Nat) : State :=
  (s.modChan c fun x => { x with rows := [] }).set (pgCh c) F.NMC_CH_STAT_SELF_REFRESH 0 1

/-- A channel leaves self-refresh after PK1: unretained segments are zeroed, or read as they lie, which is open (R425).
(DESIGN CHOICE, assumption 31) -/
def State.selfRefreshExit (s : State) (c : Nat) : State :=
  let pg := pgCh c
  let s := s.set pg F.NMC_CH_STAT_SELF_REFRESH 0 0
  let lost := (List.range 8).filter fun k => !bitOf (s.get pg F.NMC_CH_PASR_RETAIN 0) k
  if lost.isEmpty then s
  else if s.flag pg F.NMC_CH_PASR_ZERO_EXIT then
    (s.modChan c fun x => { x with zero := lost }).set pg F.NMC_CH_STAT_ZEROING 0 1
  else
    -- each stored line of a segment that was not refreshed comes back as bits and poison that nothing fixes
    let seg : Nat := 480 * 2 ^ 20 / 64
    (s.nearMeta.filter fun e => c * 2 ^ 26 ≤ e.1 && e.1 < (c + 1) * 2 ^ 26 && lost.contains (e.1 % 2 ^ 26 / seg)).foldl (fun (s : State) e =>
      let (r, s) := s.free
      let line := e.1 % 2 ^ 26
      let s := { s with near := Mem.wrs s.near (nearAddr c line) (leBytes (r / 2) 64) }
      s.setNearMeta c line { s.nearMetaOf c line with poison := r % 2 = 1 }) s

end Sys2Proof.Machine
end

