-- ==== Sys2Proof/Machine/TileRows.lean ====
section
/-! DEFINITION. Meanings of the commands of a tile's store queue, walker, invalidations and mailbox. -/

namespace Sys2Proof.Machine

/-- STORE_DRAIN (R71): a committed store leaves its queue for L1D, the pad or memory. -/
def execStoreDrain (st : Stop) (sq : Nat) (s : State) : Out := onTile st s fun s => s.storeDrain st sq

/-- WC_BUFFER_TIMEOUT (R196): an untouched buffer is written out. -/
def execWcBufferTimeout (st : Stop) (line : Nat) (s : State) : Out := onTile st s fun s => s.wcTimeout st line

/-- DEV_S_ACKNOWLEDGE (R199): the target's acknowledgement completes a DEV-S store. -/
def execDevSAcknowledge (st : Stop) (sq : Nat) (s : State) : Out := onTile st s fun s => s.devSAck st sq

/-- STORE_REFUSAL (R218): a refused entry is recorded and raises STORE_ERR. -/
def execStoreRefusal (st : Stop) (sq : Nat) (r : Resp) (s : State) : Out := onTile st s fun s => s.storeRefusal st sq r

/-- PMB_RING (R288): the oldest committed ring rings the Patrol's mailbox. -/
def execPmbRing (st : Stop) (s : State) : Out := onTile st s fun s => s.pmbRing st

/-- PMB_COMPLETION (R290): the Patrol answers the call with a matching sequence number. -/
def execPmbCompletion (st : Stop) (seq result : Nat) (rsp : List Word) (s : State) : Out :=
  onTile st s fun s => s.pmbComplete st seq result rsp

/-- PMB_TIMEOUT (R290): a call that was not completed in 10 ms ends. -/
def execPmbTimeout (st : Stop) (s : State) : Out := onTile st s fun s => if s.frozen then s else s.pmbTimeout st

/-- PAGE_WALK (R323): a walk goes on through its tables. -/
def execPageWalk (st : Stop) (k : Nat) (s : State) : Out := onTile st s fun s => s.pageWalk st k

/-- AD_UPDATE (R325): the walker sets A or D by a far compare-and-swap. -/
def execAdUpdate (st : Stop) (k : Nat) (s : State) : Out := onTile st s fun s => s.adUpdate st k

/-- PISTE_INVALIDATION_SEND (R340): an invalidation goes to every other tile of the piste. -/
def execPisteInvalidationSend (st : Stop) (s : State) : Out := onTile st s fun s => s.xinvSend st

/-- INVALIDATION_ACK (R341): a received invalidation is acknowledged. -/
def execInvalidationAck (st : Stop) (s : State) : Out := onTile st s fun s => s.xinvAck st

/-- LEC_TIMER (R309): the chrono has reached the comparator of timer `n`, so its source is pending and may wake the tile. -/
def execLecTimer (st : Stop) (n : Fin 4) (s : State) : Out :=
  onTile st s fun s => if s.srcPending st (8 + n) then s.lecWake st else s

end Sys2Proof.Machine
end

