-- ==== Sys2Proof/Machine/Lift.lean ====
section
/-! DEFINITION. The Lift: performance states, tile states, wakes, package states and the chrono (R557-R577). -/

namespace Sys2Proof.Machine

/-! ### Performance states -/

/-- An entry of the P-state table is valid. -/
def State.psValid (s : State) (n : Nat) : Bool := n < 16 && s.flag pgLift F.LIFT_PSTATE_VALID n

/-- The highest-numbered valid entry. -/
def State.psLast (s : State) : Nat := ((List.range 16).reverse.find? fun n => s.psValid n).getD 0

/-- The next valid entry at or after a number, else the highest-numbered one (R559). -/
def State.psAt (s : State) (n : Nat) : Nat := ((List.range 16).find? fun k => n ≤ k && s.psValid k).getD s.psLast

/-- The state a tile asks for before room is considered, with CAPPED (R559, R561). -/
def State.psAsk (s : State) (st : Nat) : Nat × Bool :=
  let tl := pgTlift st
  if s.sys.emerg.contains (dieOf st) then (s.psLast, true)
  else if s.flag tl F.TLIFT_PFIX_FIX then (s.get tl F.TLIFT_PFIX_PSTATE 0, false)
  else
    let p := s.psAt (s.get tl F.TLIFT_PREQ_PSTATE 0)
    let c := s.get pgLift F.LIFT_PWR_STAT_CAP 0
    if p < c then (s.psAt c, true) else (p, false)

/-- The tile's grant is not bound by MAXT: fixed, or in an emergency (R559). -/
def State.psFree (s : State) (st : Nat) : Bool := s.sys.emerg.contains (dieOf st) || s.flag (pgTlift st) F.TLIFT_PFIX_FIX

/-- Tiles in T0 or T1 that hold an entry, one stop left out. -/
def State.psHeld (s : State) (n but : Nat) : Nat :=
  ((List.range 160).filterMap fun lt => s.ltStop lt).filter (fun st =>
    st ≠ but && s.get (pgTlift st) F.TLIFT_TSTAT_STATE 0 ≤ 1 && s.get (pgTlift st) F.TLIFT_PSTAT_TARGET 0 = n) |>.length

/-- The first valid entry from `n` on with room for a tile (R558, R559). -/
def State.psRoom (s : State) (st n : Nat) : Nat :=
  ((List.range 16).find? fun k => n ≤ k && s.psValid k && (let m := s.get pgLift F.LIFT_PSTATE_MAXT k; m = 0 || s.psHeld k st < m)).getD s.psLast

/-- Decide one tile's grant; a tile that is moving keeps its target until the move ends (R559, R560). -/
def State.psDecide (s : State) (st : Nat) : State :=
  let tl := pgTlift st
  let s := s.set tl F.TLIFT_PSTAT_FIXED 0 (s.get tl F.TLIFT_PFIX_FIX 0)
  if s.flag tl F.TLIFT_PSTAT_MOVING then s
  else
    let (a, capped) := s.psAsk st
    let g := if s.psFree st then a else s.psRoom st a
    let s := ((s.set tl F.TLIFT_PSTAT_TARGET 0 g).set tl F.TLIFT_PSTAT_CAPPED 0 (b2n capped)).set tl F.TLIFT_PSTAT_LIMITED 0 (b2n (g ≠ a))
    if s.get tl F.TLIFT_TSTAT_STATE 0 = 0 ∧ g ≠ s.get tl F.TLIFT_PSTAT_CUR 0 then s.set tl F.TLIFT_PSTAT_MOVING 0 1 else s

/-- Decide every running or halted tile in ascending logical order; tiles that leave an entry free it first (R559). -/
def State.psAll (s : State) : State :=
  let run := ((List.range 160).filterMap fun lt => s.ltStop lt).filter fun st => s.get (pgTlift st) F.TLIFT_TSTAT_STATE 0 ≤ 1
  let leave := run.filter fun st =>
    !s.flag (pgTlift st) F.TLIFT_PSTAT_MOVING && s.get (pgTlift st) F.TLIFT_PSTAT_TARGET 0 < (s.psAsk st).1
  (leave ++ run).foldl (fun s st => s.psDecide st) s

/-- PSTATE_MOVE: the ramp ends and the tile runs at its target; a request that came meanwhile is taken now (R560). -/
def State.psMove (s : State) (st : Nat) : State :=
  let tl := pgTlift st
  if ¬ s.flag tl F.TLIFT_PSTAT_MOVING ∨ s.get tl F.TLIFT_TSTAT_STATE 0 ≠ 0 then s
  else ((s.set tl F.TLIFT_PSTAT_CUR 0 (s.get tl F.TLIFT_PSTAT_TARGET 0)).set tl F.TLIFT_PSTAT_MOVING 0 0).psAll

/-- The table keeps its order with an entry as written, and some entry stays valid (R558). -/
def State.psTableOk (s : State) (n : Nat) (valid : Bool) (freq mv : Nat) : Bool :=
  let row (k : Nat) : Bool × Nat × Nat :=
    if k = n then (valid, freq, mv) else (s.psValid k, s.get pgLift F.LIFT_PSTATE_FREQ k, s.get pgLift F.LIFT_PSTATE_MV k)
  let rows := ((List.range 16).map row).filter fun r => r.1
  let rec falls : List (Bool × Nat × Nat) → Bool
    | a :: b :: t => decide (b.2.1 < a.2.1) && decide (b.2.2 ≤ a.2.2) && falls (b :: t)
    | _ => true
  !rows.isEmpty && falls rows && rows.all fun r => decide (40 ≤ r.2.1 ∧ r.2.1 ≤ 136 ∧ 500 ≤ r.2.2 ∧ r.2.2 ≤ 1000)

/-- A write of LIFT_PSTATE[n] is discarded (R558). -/
def State.psReject (s : State) (n v : Nat) : Bool := !s.psTableOk n (bitOf v 63) (bitsOf v 0 8) (bitsOf v 16 12)

/-- The energy estimators of every stop advance by what the calibrated estimators add up, which no rule gives (R613, R619).
(DESIGN CHOICE, assumption 85) -/
def State.energyAdd (s : State) : State :=
  (List.range 192).foldl (fun (s : State) st =>
    let pg := pgPmu st
    if s.flag pg F.PMU_CTL_FREEZE then s
    else
      let s := s.inc pg F.PMU_E_MESH_PJ 0 (Config.energy (2 * st + 1) s.chrono)
      if isTile st then s.inc pg F.PMU_E_CORE_PJ 0 (Config.energy (2 * st) s.chrono) else s) s

/-- POWER_ESTIMATE: AVG, CAP and the thermal emergencies (R561). (DESIGN CHOICE, assumption 85) -/
def State.powerEstimate (s : State) (watts : Nat) (temps : List Int) : State :=
  let s := s.energyAdd
  let pwr := (watts :: s.sys.pwr).take 100
  let avg := pwr.foldl (· + ·) 0 / pwr.length
  let lim := s.get pgLift F.LIFT_PLIM_WATTS 0
  let hot := s.get pgLift F.LIFT_THERM_HOT 0
  let tj := s.get pgLift F.LIFT_THERM_TJMAX 0
  let temps := (List.range 4).map fun d => lget temps d (lget s.sys.temps d 0)
  let slow : Bool := lim < avg || temps.any fun t => (hot : Int) ≤ t
  let fast : Bool := avg * 100 < 95 * lim && temps.all fun t => t + 5 < (hot : Int)
  let sr := if slow then s.sys.slowRun + 1 else 0
  let fr := if fast then s.sys.fastRun + 1 else 0
  let cap := s.get pgLift F.LIFT_PWR_STAT_CAP 0
  let cap := if slow ∧ s.sys.slowRun % 10 = 0 then s.psAt (cap + 1)
    else if fast ∧ fr % 100 = 0 then ((List.range cap).reverse.find? fun k => s.psValid k).getD cap
    else cap
  let emerg := (List.range 4).filter fun d => (tj : Int) ≤ lget temps d 0 || (s.sys.emerg.contains d && (hot : Int) ≤ lget temps d 0)
  let x := s.sys
  let s := { s with sys := { x with
    pwr := pwr
    temps := temps
    slowRun := sr
    fastRun := fr
    emerg := emerg } }
  (((s.set pgLift F.LIFT_PWR_STAT_AVG 0 (if avg < 1024 then avg else 1023)).set pgLift F.LIFT_PWR_STAT_CAP 0 cap).set pgLift
    F.LIFT_PWR_STAT_THERM_EMERG 0 (b2n (!emerg.isEmpty))).psAll

/-! ### Tile states -/

/-- The core may run when it is powered: its page is enabled (R37). -/
def State.coreOn (s : State) (st : Nat) : Bool := s.flag (pgCore st) F.PAGE_STAT_ENABLED

/-- The oldest carve holds a WFI (R563). -/
def State.oldestWfi (s : State) (st : Nat) : Bool :=
  match (s.core st).order.head? with | some k => ((s.core st).sta k).wfiHeld | none => false

/-- The core stops fetching with every uncommitted carve squashed, to fetch the oldest again later (R563, R593); streaming ends with the
cause given (R172). -/
def State.coreHalt (s : State) (st cause : Nat) : State :=
  let c := s.core st
  let at_ := match c.order.head? with | some k => some (c.sta k).addr | none => c.fetch.pc
  let s := if c.order.isEmpty then s.modCore st fun c => c.rinkEnd cause else s.squash st c.order at_ cause
  s.modCore st fun c => { c with running := false }

/-- L1D is written back into L2, and with `all` every L2 line is written back or reported (R377). -/
def State.cachesOut (s : State) (st : Nat) (all : Bool) : State :=
  let s := (s.cache st).l1.foldl (fun (s : State) e => s.modCache st fun c => c.foldL1 e.1) s
  if all then (s.cache st).l2.foldl (fun (s : State) e => s.evictL2 st e.1) s else s

/-- Caches, TLBs and carve cache of a core that loses power, and with `all` the L2 as well (R335, R349, R377). -/
def State.powerLost (s : State) (st : Nat) (all : Bool) : State :=
  let s := s.modCore st fun c => { c.tlbClear with fetchNc := [] }
  if all then (s.setCache st Caches.empty).clearBlock (pgL2 st)
  else s.modCache st fun c => { c with cc := [], l1 := [], trackers := [] }

/-- TILE_STATE_ENTRY: entry to TARGET, or forced entry to T3, one phase further (R563, R565, R568). (DEDUCED, assumption 84) -/
def State.tileEntry (s : State) (st : Nat) : State :=
  let tl := pgTlift st
  let cur := s.get tl F.TLIFT_TSTAT_STATE 0
  let ph := s.get tl F.TLIFT_TSTAT_PHASE 0
  let force := s.flag tl F.TLIFT_TCTL_FORCE_T3
  let tgt := if force ∧ ph ≠ 2 then 3 else if ph = 0 then s.get tl F.TLIFT_TCTL_TARGET 0 else tget s.sys.enterTo st 0
  let setPh (s : State) (v : Nat) : State :=
    { s.set tl F.TLIFT_TSTAT_PHASE 0 v with sys := { s.sys with enterTo := tset s.sys.enterTo st (if v = 0 then 0 else tgt) 0 } }
  if cur = 3 ∨ ph = 4 ∨ (cur ≠ 0 ∧ ¬ force) then s
  else if ph = 0 then
    if ¬ force ∧ (¬ s.oldestWfi st ∨ (s.lecPresent st).isSome ∨ tgt = 0) then s
    else if force ∧ s.coreBound st then s
    else if tgt = 1 then (setPh s 2).modCore st fun c => { c with running := false }
    else setPh (s.coreHalt st 2) 1
  else if ph = 1 then
    if ¬ force ∧ (s.lecPresent st).isSome then
      let s := (List.range 3).foldl (fun (s : State) g => s.setGate st g .open_) s
      (setPh s 0).modCore st fun c => { c with running := s.coreOn st }
    else
      let s := (s.wcFlushAll st).cachesOut st (tgt = 3)
      if ¬ (s.core st).sq.isEmpty ∨ ¬ s.gateIdle st 0 ∨ (tgt = 3 ∧ ¬ (s.gateIdle st 1 ∧ s.gateIdle st 2)) then s
      else setPh ((List.range (if tgt = 3 then 3 else 1)).foldl (fun (s : State) g => s.closeGate st g) s) 2
  else
    let s := (setPh s 0).set tl F.TLIFT_TSTAT_STATE 0 tgt
    ((if tgt = 1 then s else s.powerLost st (tgt = 3)).psAll).lecWake st

/-- The core after a wake from T3: everything architectural at reset, predictor and rink as they were, fetch at TLIFT_RESTART
(R162, R562, R564). -/
def State.coreRestart (s : State) (st : Nat) : State :=
  let a := s.get (pgTlift st) F.TLIFT_RESTART_ADDR 0 * 64
  let s := s.modCore st fun c => { Core.reset with
    pred := c.pred
    rink := c.rink
    pctl := c.pctl
    running := s.coreOn st
    fetch := { Core.reset.fetch with pc := some a } }
  s.set (pgLec st) F.LEC_DELEG_DELEG 0 0

/-- Power is back: from T2 with the state retained, from T3 with a reset core and a pad to be zeroed (R402, R564). -/
def State.powerUp (s : State) (st : Nat) : State :=
  let tl := pgTlift st
  let cur := s.get tl F.TLIFT_TSTAT_STATE 0
  let s := (List.range (if cur = 3 then 3 else 1)).foldl (fun (s : State) g => s.setGate st g .open_) s
  let s := if cur = 3 then (s.coreRestart st).set (pgPad st) F.PAD_STAT_ZEROING 0 (b2n (s.flag (pgPad st) F.PAGE_STAT_ENABLED))
    else s.modCore st fun c => { c with running := s.coreOn st }
  let s := { s with
    wakeQ := s.wakeQ.filter (· ≠ st)
    sys := { s.sys with pk1Barred := false } }
  let s := ((s.set tl F.TLIFT_TSTAT_STATE 0 0).set tl F.TLIFT_TSTAT_PHASE 0 0).psDecide st
  ((s.set tl F.TLIFT_PSTAT_CUR 0 (s.get tl F.TLIFT_PSTAT_TARGET 0)).set tl F.TLIFT_PSTAT_MOVING 0 0)

/-- TILE_WAKE: a halted tile with a presentation runs again; a tile whose power-up was granted is awake (R562, R564). -/
def State.tileWake (s : State) (st : Nat) : State :=
  let tl := pgTlift st
  let cur := s.get tl F.TLIFT_TSTAT_STATE 0
  if cur = 1 then
    if (s.lecPresent st).isSome then
      let s := { s with wakeQ := s.wakeQ.filter (· ≠ st) }
      ((s.set tl F.TLIFT_TSTAT_STATE 0 0).modCore st fun c => { c with running := s.coreOn st }).psDecide st
    else s
  else if 2 ≤ cur ∧ s.get tl F.TLIFT_TSTAT_PHASE 0 = 4 then s.powerUp st
  else s

/-- A sleeping tile's LEC asks for a wake: the request stands while a source is presented (R303, R563, R567). -/
def State.wakeAsked (s : State) (st : Nat) : Bool := s.wakeQ.contains st && (s.lecPresent st).isSome

/-- A tile may power up for a wake request: it asks, it is off, its core is enabled and FORCE_T3 does not hold it (R37, R565, R573). -/
def State.mayWake (s : State) (st : Nat) : Bool :=
  let tl := pgTlift st
  s.wakeAsked st && 2 ≤ s.get tl F.TLIFT_TSTAT_STATE 0 && s.get tl F.TLIFT_TSTAT_PHASE 0 ≠ 4 && s.coreOn st && !s.flag tl F.TLIFT_TCTL_FORCE_T3

/-- WAKE_TOKEN_GRANT: every free token goes to a waiting tile, in ascending logical order (R573). -/
def State.tokenGrant (s : State) : State :=
  if s.get pgLift F.LIFT_PK_STAT_STATE 0 ≠ 0 ∨ s.get pgLift F.LIFT_PK_STAT_PHASE 0 ≠ 0 then s
  else
    let k := let t := s.get pgLift F.LIFT_WAKE_TOKENS 0; if t = 0 then 1 else t
    let who := (((List.range 160).filterMap fun lt => s.ltStop lt).filter fun st => s.mayWake st).take (k - s.sys.tokensOut)
    who.foldl (fun (s : State) st =>
      { (s.set (pgTlift st) F.TLIFT_TSTAT_PHASE 0 4) with
        wakeQ := s.wakeQ.filter (· ≠ st)
        sys := { s.sys with tokensOut := s.sys.tokensOut + 1 } }) s

/-- WAKE_TOKEN_RETURN: a spent token is free again (R573). -/
def State.tokenReturn (s : State) : State := { s with sys := { s.sys with tokensOut := s.sys.tokensOut - 1 } }

/-! ### Package states -/

/-- Some wake event is present as a level (R567, R568). -/
def State.wakePending (s : State) : Bool := !s.sys.wakeLevels.isEmpty || s.wakeQ.any fun st => s.mayWake st

/-- WAKE_EVENT: a tile's LEC, or the WAKE_N input of a hub (R303, R567). -/
def State.wakeEvent (s : State) : WakeEv → State
  | .tile lt => match s.ltStop lt with
    | some st => let s := s.lecWake st; if s.wakeAsked st then s.pkWake else s
    | none => s
  | .source n =>
    if ¬ bitOf (s.get pgLift F.LIFT_WAKE_CFG_EN 0) n.val then s
    else if bitOf (s.get pgLift F.LIFT_WAKE_CFG_EDGE 0) n.val then s.pkEdge n.val
    else
      let x := s.sys
      { s with sys := { x with wakeLevels := if x.wakeLevels.contains n.val then x.wakeLevels else x.wakeLevels ++ [n.val] } }.pkWake

/-- LIFT_WAKE_TMR: the chrono has reached the comparator (R567, R575). -/
def State.wakeTmr (s : State) : State :=
  let c := s.get pgLift F.LIFT_WAKE_TMR_CMP 0
  if c ≠ 0 ∧ c ≤ s.chrono then
    let x := s.sys
    { s with sys := { x with wakeLevels := if x.wakeLevels.contains 8 then x.wakeLevels else x.wakeLevels ++ [8] } }.pkWake
  else s

/-- A write of LIFT_WAKE_TMR ends the level of the wake timer where the comparator is no longer passed. -/
def State.tmrPost (s : State) : State :=
  let c := s.get pgLift F.LIFT_WAKE_TMR_CMP 0
  if c = 0 ∨ s.chrono < c then { s with sys := { s.sys with wakeLevels := s.sys.wakeLevels.filter (· ≠ 8) } } else s

/-- A participant refuses: the refusal is recorded, and the attempt is rolled back where any participant has stopped (R571). -/
def State.pkAbort (s : State) (kind index reason : Nat) (tmo : Bool) : State :=
  let ph := if s.get pgLift F.LIFT_PK_STAT_PHASE 0 = 1 then 3 else 0
  let s := (((s.set pgLift F.LIFT_ABORT_WHO_VALID 0 1).set pgLift F.LIFT_ABORT_WHO_KIND 0 kind).set pgLift F.LIFT_ABORT_WHO_INDEX 0 index).set
    pgLift F.LIFT_ABORT_WHO_REASON 0 reason
  let s := ((s.set pgLift F.LIFT_ABORT_WHO_TMO 0 (b2n tmo)).satInc pgLift F.LIFT_PK_STAT_ABORTS).set pgLift F.LIFT_PK_STAT_PHASE 0 ph
  { (s.raiseErr pgLift 16) with sys := { s.sys with pk1Barred := true } }

/-- Stops of the enabled tiles, in ascending logical order. -/
def State.tileStops (s : State) : List (Nat × Nat) := (List.range 160).filterMap fun lt => (s.ltStop lt).map fun st => (lt, st)

/-- The first participant that refuses on its own account: tiles, then hubs, then NMCs (R570). -/
def State.pkRefuser (s : State) : Option (Nat × Nat × Nat) :=
  match s.tileStops.find? fun t => s.wakeAsked t.2 with
  | some t => some (0, t.1, 1)
  | none =>
    match (List.range 8).find? fun h => let x := s.hub h
        s.get pgLift F.LIFT_PK_STAT_PHASE 0 = 0 && !(x.m2s.isEmpty && x.outs.isEmpty && x.inb.isEmpty && x.msis.isEmpty &&
          x.h2d.isEmpty && x.dev.isEmpty && x.cpls.isEmpty && x.tx.all fun e => e.2.isEmpty) with
    | some h => some (1, h, 2)
    | none =>
      match (List.range 8).find? fun k =>
          s.flag (pgNmc k) F.NMC_STAT_TRAINING || (List.range 6).any fun c => s.flag (pgCh (6 * k + c)) F.NMC_CH_STAT_ZEROING with
      | some k => some (2, k, 4)
      | none => none

/-- The cache channels whose RETAIN is zero. -/
def State.pkFlushed (s : State) : List Nat :=
  (List.range 48).filter fun c => s.get (pgCh c) F.NMC_CH_CTL_MODE 0 = 2 && s.get (pgCh c) F.NMC_CH_PASR_RETAIN 0 = 0

/-- The Lift may attempt PK1: enabled, in PK0, no refusal since a tile last ran, every enabled tile in T2 or T3 (R570, R571). -/
def State.pk1Ready (s : State) : Bool :=
  s.get pgLift F.LIFT_PK_STAT_STATE 0 = 0 && s.get pgLift F.LIFT_PK_STAT_PHASE 0 = 0 && s.flag pgLift F.LIFT_PK_CTL_PK1_EN
    && !s.sys.pk1Barred && s.tileStops.all fun t => 2 ≤ s.get (pgTlift t.2) F.TLIFT_TSTAT_STATE 0

/-- An NMC still has requests, or frames that wait for a hub, before it can agree (R570). -/
def State.nmcWaits (s : State) : Bool :=
  (List.range 48).any fun c => let x := s.chan c; !(x.queue.isEmpty && x.waiting.isEmpty && x.victims.isEmpty)

/-- PK1_ENTRY: the next part of the way into PK1. With every enabled tile asleep for DELAY the tiles and hubs are asked and the hubs stop; then
the NMCs stop, cache channels that retain nothing written back and invalidated, and the entry is committed; then its window closes. A refusal
is rolled back (R568, R570, R571). (DEDUCED, assumption 84) -/
def State.pk1Entry (s : State) (refuse : Option Refuser) : State :=
  let ph := s.get pgLift F.LIFT_PK_STAT_PHASE 0
  if s.get pgLift F.LIFT_PK_STAT_STATE 0 ≠ 0 then s
  else if ph = 2 then
    let s := (s.set pgLift F.LIFT_PK_STAT_STATE 0 1).set pgLift F.LIFT_PK_STAT_PHASE 0 0
    if s.wakePending then s.pkWake else s
  else if ph = 3 then s.hubsResume.set pgLift F.LIFT_PK_STAT_PHASE 0 0
  else if ph = 0 ∧ ¬ s.pk1Ready then s
  else match s.pkRefuser, refuse with
    | some (k, i, r), _ => s.pkAbort k i r false
    | none, some r => s.pkAbort r.kind r.index r.reason false
    | none, none =>
      if ph = 0 then
        let s := (List.range 8).foldl (fun (s : State) h => s.modHub h fun x => { x with quiesced := true }) s
        s.set pgLift F.LIFT_PK_STAT_PHASE 0 1
      else if s.nmcWaits then s
      else
        let s := s.pkFlushed.foldl (fun s c => s.cacheFlush c) s
        if s.nmcWaits then s
        else
          let s := (List.range 48).foldl (fun s c => s.selfRefresh c) s
          s.set pgLift F.LIFT_PK_STAT_PHASE 0 2

/-- Every router reloads its mesh cycle count from the chrono (R479, R572). -/
def State.reloadCycles (s : State) : State :=
  { s with routers := (List.range 192).foldl (fun (t : Tbl Nat Router) r =>
      let x := tget t r Router.empty
      tset t r { x with cyc := (List.range 6).foldl (fun c o => tset c o s.chrono 0) x.cyc } Router.empty) s.routers }

/-- PK1_EXIT: the package is back in PK0 (R572). (DEDUCED, assumption 84) -/
def State.pk1Exit (s : State) : State :=
  if s.get pgLift F.LIFT_PK_STAT_STATE 0 = 1 ∧ s.get pgLift F.LIFT_PK_STAT_PHASE 0 = 4 then
    let s := (List.range 48).foldl (fun s c => s.selfRefreshExit c) s
    let s := s.reloadCycles.hubsResume
    (s.set pgLift F.LIFT_PK_STAT_STATE 0 0).set pgLift F.LIFT_PK_STAT_PHASE 0 0
  else s

/-- Registers of the Lift's pages that are read as computed (R576, R577). -/
def State.liftView (s : State) (f : Fld) : Option Nat :=
  if f.fid = F.LIFT_WAKE_QUEUED.fid then some (s.wakeQ.filter fun st => s.wakeAsked st && 2 ≤ s.get (pgTlift st) F.TLIFT_TSTAT_STATE 0).length else none

/-- PHASE of a tile that waits for a token (R576). -/
def State.tliftView (s : State) (st : Nat) (f : Fld) : Option Nat :=
  if f.fid = F.TLIFT_TSTAT_PHASE.fid ∧ s.mayWake st ∧ s.get (pgTlift st) F.TLIFT_TSTAT_PHASE 0 = 0 then some 3 else none

end Sys2Proof.Machine
end

