-- ==== Sys2Proof/Machine/Ras.lean ====
section
/-! DEFINITION. Errors and repair: reports, wear, the claim and Patrol watchdogs, tile swaps, slice retirement, wires and links
(R578-R600). -/

namespace Sys2Proof.Machine

/-! ### Reports -/

/-- A block that met a FATAL error stops (R578). -/
def State.blockStops (s : State) (pg : Nat) : State :=
  let st := pg / 256
  match pageTypeNo pg with
  | some .core => s.modCore st fun c => { c with stopped := true }
  | some .l2 => s.modCache st fun c => { c with dead := true }
  | some .slice => s.setSlice st { s.slice st with dead := true }
  | _ => s

/-- RAS_REPORT: an error of a class detected by a page's block (R578, R579). (DEDUCED, assumption 90) -/
def State.rasReport (s : State) (pg cls pa : Nat) : State :=
  if (pageTypeNo pg).isNone ∨ 3 ≤ cls then s
  else
    let s := ((s.eccEffect pg cls pa).nearEcc pg cls pa).classErr pg (cls + 1) pa
    if cls = 2 then s.blockStops pg else s

/-- The notice of one tile, beside the reason NOTICE_READ gives its piste (R586). -/
def State.noticeTile (s : State) (st reason : Nat) : State :=
  let p := s.tilePiste st
  let s := { s with sys := { s.sys with notices := tput s.sys.notices p (tget s.sys.notices p [] ++ [reason]) } }
  match s.stopLt st with
  | some lt => s.sendEvt 192 lt 4
  | none => s

/-- CLAIM_WATCHDOG: an entry of the active stack has gone without its COMPLETE for RAS_TMO.CLAIM (R583, R586, R589). -/
def State.claimWatchdog (s : State) (st act : Nat) : State :=
  let l := s.lec st
  if s.frozen ∨ l.act.length ≤ act then s
  else
    let s := (s.setLec st { l with act := l.act.eraseIdx act }).rasRecord (pgLec st) 0 4 0 0 false
    (s.noticeTile st 4).lecWake st

/-- PATROL_WATCHDOG: a pair that missed its kick is reset and authenticates its image again; nothing in hardware is lost (R587). -/
def State.patrolWatchdog (s : State) : State := if s.frozen then s else s.rasRecord pgRas 0 13 0 0 false

/-- AGING_MONITOR_READ: tiles whose delay margin has fallen below AGE_PS (R590). -/
def State.agingRead (s : State) (margins : List (Nat × Nat)) : State :=
  margins.foldl (fun (s : State) m =>
    match s.stopLt m.1 with
    | none => s
    | some lt =>
      if m.2 < s.get pgRas F.RAS_WEAR_AGE_PS 0 then
        let s := s.rasRecord (pgTlift m.1) 0 7 0 0 false
        if s.flag pgRas F.RAS_CTL_AUTO_SWAP then s.rasAsk 0 lt 0xFF else s
      else s) s

/-! ### Choosing a spare -/

/-- Hops of the shortest way between two stops (R468, R471). -/
def hops (a b : Nat) : Nat :=
  let d (n x y : Nat) : Nat := let k := (y % n + n - x % n) % n; if k ≤ n - k then k else n - k
  d 16 (a % 16) (b % 16) + d 12 (a / 16) (b / 16)

/-- Spare slots with AVAIL = 1: slot and stop (R19). -/
def State.spares (s : State) : List (Nat × Nat) :=
  (List.range 16).filterMap fun k => if s.flag pgTmap F.TMAP_SPARE_AVAIL k then some (k, s.get pgTmap F.TMAP_SPARE_STOP k) else none

/-- The nearest of a list of spares, the lowest stop among equals (R591). -/
def nearest (st : Nat) : List (Nat × Nat) → Option (Nat × Nat)
  | [] => none
  | a :: t => match nearest st t with
    | none => some a
    | some b => if hops st a.2 < hops st b.2 ∨ (hops st a.2 = hops st b.2 ∧ a.2 < b.2) then some a else some b

/-- The spare a failing stop gets: of its own die, of the dies joined to it, of the diagonal die (R591). -/
def State.chooseSpare (s : State) (st : Nat) : Option (Nat × Nat) :=
  let d := dieOf st
  let of (p : Nat → Bool) : Option (Nat × Nat) := nearest st (s.spares.filter fun e => p (dieOf e.2))
  match of (· = d) with
  | some e => some e
  | none => match of (fun x => x = d ^^^ 1 || x = d ^^^ 2) with
    | some e => some e
    | none => of (· = d ^^^ 3)

/-! ### Swaps -/

/-- The operation ends: DONE, and ERR with its code where it failed (R609). -/
def State.rasEnd (s : State) (err : Nat) : State :=
  let s := { s with sys := { s.sys with rasRun := none } }
  let s := ((s.set pgRas F.RAS_OP_STAT_BUSY 0 0).set pgRas F.RAS_OP_STAT_STEP 0 0).set pgRas F.RAS_OP_STAT_DONE 0 1
  if err = 0 then s else (s.set pgRas F.RAS_OP_STAT_ERR 0 1).set pgRas F.RAS_OP_STAT_ERRCODE 0 err

/-- Go to a step. (DESIGN CHOICE, assumption 59) -/
def State.rasStep (s : State) (r : RasRun) (step sub : Nat) : State :=
  let t1 := if step = r.step then r.t1 else s.chrono
  { (s.set pgRas F.RAS_OP_STAT_STEP 0 step) with sys := { s.sys with rasRun := some { r with
      step := step
      sub := sub
      t1 := t1 } } }

/-- Start an operation: a swap needs a mapped tile and a spare, a retirement a slice (R591, R592, R596, R597). -/
def State.rasStart (s : State) (op who spare : Nat) : State :=
  let s := (s.set pgRas F.RAS_OP_STAT_BUSY 0 1).set pgRas F.RAS_OP_STAT_ERRCODE 0 0
  if op = 2 then
    if isTile who then s.rasStep ⟨2, 0, who, 0, 0, 0, s.chrono, s.chrono⟩ 1 0 else s.rasEnd 3
  else match s.ltStop who with
    | none => s.rasEnd 3
    | some st =>
      let sp := if spare = 0xFF then s.chooseSpare st else s.spares.find? fun e => e.2 = spare
      match sp with
      | none => s.rasEnd (if spare = 0xFF then 1 else 3)
      | some (_, b) =>
        -- the spare is powered and its pad zeroed, and the inactive route arrays equal the active ones (R592)
        let s := [pgCore b, pgL2 b, pgPad b, pgSlice b, pgPmu b, pgSpot b].foldl (fun (s : State) pg => (s.set pg F.PAGE_CTL_ENABLE 0 1).set pg F.PAGE_STAT_ENABLED 0 1) s
        let s := ((s.setCore b Core.reset).setCache b Caches.empty).padClear b
        let s := (List.range 4).foldl (fun (s : State) g => s.setGate b g .closed) s
        let cur := s.get pgMesh F.MESH_EPOCH_CUR 0
        let s := allNis.foldl (fun (s : State) n => (List.range 192).foldl (fun (s : State) d =>
          let i := cur * 192 + d
          let j := (1 - cur) * 192 + d
          (s.set (pgNi n) F.NI_ROUTE_ROUTE j (s.get (pgNi n) F.NI_ROUTE_ROUTE i)).set (pgNi n) F.NI_ROUTE_VALID j (s.get (pgNi n) F.NI_ROUTE_VALID i)) s) s
        s.rasStep ⟨op, who, st, b, 0, 0, s.chrono, s.chrono⟩ 1 0

/-- GO of RAS_OP (R596). -/
def State.rasGo (s : State) (op who spare : Nat) : State :=
  if s.flag pgRas F.RAS_OP_STAT_BUSY then s.set pgRas F.RAS_OP_STAT_REJECT 0 1 else s.rasStart op who spare

/-- Fields of a page that a swap moves: what software writes, and what R593 names besides. -/
def movedFld (f : Fld) : Bool :=
  f.ty = .rw || f.ty = .rwl || f.ty = .rwp
    || [F.LEC_STAT_BADEVT, F.LEC_STAT_ORDER_ERR, F.PMU_TD_COUNT, F.PMU_TD_PEND_SLOTS, F.PMU_E_CORE_PJ, F.PMU_E_MESH_PJ, F.PMU_OVF_OVF,
        F.PMU_SPLIT_STAT_WRITTEN, F.PMU_SPLIT_STAT_ERR, F.PMU_SPLIT_STAT_BUSY, F.PAGE_ERR_BLK, F.PAGE_ERR_FATAL, F.PAGE_ERR_UCR,
        F.PAGE_ERR_CE, F.PAGE_ERR_DENIED, F.PAGE_ERR_NOT_PATROL, F.PAGE_ERR_LOCKED_WR, F.PAGE_ERR_SIZE].any fun g => g.fid = f.fid

/-- The fields of one page copied to the same page of another tile: of the LEC page every one (R304). (DEDUCED, assumption 60) -/
def State.movePage (s : State) (a b : Nat) : State :=
  match pageTypeNo a with
  | none => s
  | some t => ((pageFlds t).filter fun f => a % 256 = 6 || movedFld f).foldl (fun (s : State) f =>
      (List.range (f.n * f.rep)).foldl (fun (s : State) i => s.set b f i (s.get a f i)) s) s

/-- Step 4: page state, gate registers, the event controller and the PMU, and with `full` the core (R593, R594). -/
def State.moveState (s : State) (a b : Nat) (full : Bool) : State :=
  let s := [0, 1, 6, 7, 8].foldl (fun (s : State) k => s.movePage (pageNo a k) (pageNo b k)) s
  let s := s.set (pgCore b) F.PAGE_STAT_ENABLED 0 (s.get (pgCore a) F.PAGE_STAT_ENABLED 0)
  let s := s.set (pgL2 b) F.PAGE_STAT_ENABLED 0 (s.get (pgL2 a) F.PAGE_STAT_ENABLED 0)
  let s := s.set (pgPmu b) F.PAGE_STAT_ENABLED 0 (s.get (pgPmu a) F.PAGE_STAT_ENABLED 0)
  let s := s.set (pgNi b) F.NI_GATE_PISTE_PISTE 0 (s.tilePiste a)
  let s := (List.range 3).foldl (fun (s : State) i => s.set (pgNi b) F.NI_GATE_TILES_TILES i (s.get (pgNi a) F.NI_GATE_TILES_TILES i)) s
  let s := s.set (pgNi b) F.NI_SEALED_MASK 0 (s.get (pgNi a) F.NI_SEALED_MASK 0)
  let s := (s.setLec b (s.lec a)).setLec a Lec.empty
  if full then
    let c := s.core a
    s.setCore b { Core.reset with
      arch := c.arch
      sr := c.sr
      fetch := { c.fetch with want := [], mark := PredMark.empty }
      rink := { Rink.empty with endCause := c.rink.endCause }
      nextId := c.nextId
      pctl := c.pctl
      rings := c.rings
      groomed := c.groomed
      checking := c.checking
      stopped := c.stopped }
  else s

/-- Step 5: the map with the tile on its spare goes into the copy not in use (R19, R487, R593). -/
def State.swapMap (s : State) (r : RasRun) : State :=
  let s := (List.range 160).foldl (fun (s : State) lt =>
    if lt = r.lt then s.tmapWrite lt r.dst true else s.tmapWrite lt (s.get pgTmap F.TMAP_ENT_STOP lt) (s.flag pgTmap F.TMAP_ENT_VALID lt)) s
  (List.range 16).foldl (fun (s : State) k =>
    if s.get pgTmap F.TMAP_SPARE_STOP k = r.dst then s.tmapWrite (160 + k) (256 + r.src) false
    else s.tmapWrite (160 + k) (s.get pgTmap F.TMAP_SPARE_STOP k + 256 * s.get pgTmap F.TMAP_SPARE_RETIRED k) (s.flag pgTmap F.TMAP_SPARE_AVAIL k)) s

/-- The epoch switch may start: nothing of the last one is pending (R487). -/
def State.switchFree (s : State) : Bool :=
  s.get pgMesh F.MESH_EPOCH_STAT_SWITCH_PEND 0 = 0 && s.get pgMesh F.MESH_EPOCH_STAT_DRAIN_PEND 0 = 0

/-- MESH_EPOCH.SWITCH: sent to every NI, or discarded while the last switch is pending (R487). -/
def State.epochSwitch (s : State) : State :=
  if s.switchFree then
    (s.tblSend [] .switch (some (pgMesh, F.MESH_EPOCH_STAT_SWITCH_PEND))).set pgMesh F.MESH_EPOCH_STAT_DRAIN_PEND 0 194
  else s.set pgMesh F.MESH_EPOCH_STAT_REJECT 0 1

/-- Lines a failed L2 owned in E or M become poisoned at their home slices, and its copies are forgotten (R594). -/
def State.ownedPoison (s : State) (a : Nat) : State :=
  s.slices.foldl (fun (s : State) e =>
    e.2.dir.foldl (fun (s : State) d =>
      if (s.dirTargets d.2).contains a then
        let s := if d.2.excl then s.poisonHome e.1 d.1 else s
        s.dirDrop e.1 d.1 a
      else s) s) s

/-- A failed or frozen tile's snoops in service are answered as by a tile without the line (R594). -/
def State.snoopsOff (s : State) (a : Nat) : State :=
  let s := (s.core a).xinvIn.foldl (fun (s : State) x => s.replyAck a x.req .closed) s
  ((s.ni a).serv.filter fun f => gateOf f = some 1).foldl (fun (s : State) f => (s.replyAck a f .closed).served a f) s

/-- The old stop's core, L2 and pad lose power; its router and slice stay (R593). -/
def State.stopOff (s : State) (a : Nat) : State :=
  let s := (((s.powerLost a true).setCore a Core.reset).setCache a Caches.empty).padClear a
  let s := [pgCore a, pgL2 a, pgPad a, pgPmu a, pgSpot a].foldl (fun (s : State) pg => (s.set pg F.PAGE_CTL_ENABLE 0 0).set pg F.PAGE_STAT_ENABLED 0 0) s
  { (s.set (pgTlift a) F.TLIFT_TSTAT_STATE 0 3) with wakeQ := s.wakeQ.filter (· ≠ a) }

/-- Step 6: the spare's gates open and the tile runs there (R593-R595). -/
def State.swapRelease (s : State) (r : RasRun) : State :=
  let cur := s.get (pgTlift r.src) F.TLIFT_TSTAT_STATE 0
  let cold : Bool := r.op = 1 || cur = 3
  let s := (List.range 4).foldl (fun (s : State) g => s.setGate r.dst g .open_) s
  let s := if r.op = 1 then (s.coreRestart r.dst).set (pgTlift r.dst) F.TLIFT_TSTAT_STATE 0 0
    else s.set (pgTlift r.dst) F.TLIFT_TSTAT_STATE 0 cur
  let s := if cur = 0 ∧ ¬ cold then s.modCore r.dst fun c => { c with running := s.coreOn r.dst } else s
  let s := s.stopOff r.src
  let s := s.psDecide r.dst
  let s := (s.set (pgTlift r.dst) F.TLIFT_PSTAT_CUR 0 (s.get (pgTlift r.dst) F.TLIFT_PSTAT_TARGET 0)).set (pgTlift r.dst) F.TLIFT_PSTAT_MOVING 0 0
  let s := s.satInc pgTmap F.TMAP_ENT_SWAPS r.lt
  let s := if r.op = 1 then
      (let t := s.get pgPmap F.PMAP_PISTE_NOTICE_TILE (s.tilePiste r.dst)
       if t < 160 then s.sendEvt 192 t 0 else s)
    else s
  let dt := s.chrono - r.t0
  let s := s.set pgRas F.RAS_OP_STAT_TIME 0 (if dt < 2 ^ 16 then dt else 2 ^ 16 - 1)
  ((((s.rasRecord (pgCore r.dst) 0 8 0 0 false).repairEntry 5 r.src).rasEnd 0).lecWake r.dst)

/-- One step of a swap, taken when what it waits for has come (R593, R594). -/
def State.swapGo (s : State) (r : RasRun) : State :=
  let a := r.src
  let cur := s.get (pgTlift a) F.TLIFT_TSTAT_STATE 0
  match r.step with
  | 1 =>
    if r.op = 1 then
      -- nothing of the failed tile is moved; its pad is copied
      let s := (s.modCore a fun c => { c with running := false }).snoopsOff a
      let s := ((List.range 4).foldl (fun (s : State) g => s.closeGate a g) s).ownedPoison a
      let s := if cur = 3 then s else s.padCopy a r.dst
      (s.moveState a r.dst false).rasStep { r with t0 := s.chrono } 5 0
    else if cur = 3 then (s.moveState a r.dst false).rasStep { r with t0 := s.chrono } 5 0
    else if r.sub = 0 then
      if s.coreBound a ∨ s.get (pgTlift a) F.TLIFT_TSTAT_PHASE 0 ≠ 0 then s
      else
        let s := (s.coreHalt a 7).wcFlushAll a
        let s := if (s.cache a).range.isSome then (s.rangeAbort a).rangeEnd a true else s
        let s := [0, 2, 3].foldl (fun (s : State) g => if s.gate a g = .open_ then s.setGate a g .closing else s) s
        s.rasStep { r with t0 := s.chrono } 1 1
    else if ¬ (s.core a).sq.isEmpty ∨ ¬ (s.core a).xinvIn.isEmpty ∨ ¬ (s.cache a).fills.isEmpty ∨ ¬ s.gateIdle a 0 ∨ ¬ s.gateIdle a 2 ∨ ¬ s.gateIdle a 3
        ∨ (tfind s.splits (pgPmu a)).isSome then s
    else ([0, 2, 3].foldl (fun (s : State) g => s.closeGate a g) s).rasStep r 2 0
  | 2 =>
    let s := s.cachesOut a true
    if s.gateIdle a 1 then (s.closeGate a 1).rasStep r 3 0 else s
  | 3 => (s.padCopy a r.dst).rasStep r 4 0
  | 4 => (s.moveState a r.dst true).rasStep r 5 0
  | 5 =>
    if r.sub = 0 then
      if s.switchFree then (s.swapMap r).epochSwitch.rasStep r 5 1 else s
    else if s.get pgMesh F.MESH_EPOCH_STAT_SWITCH_PEND 0 = 0 then s.rasStep r 6 0 else s
  | _ => s.swapRelease r

/-! ### Retiring a slice -/

/-- The remap register of a bucket. -/
def bremapOff (b : Nat) : Nat := 0x100 + 8 * b

/-- The lanes that name a slice: bucket and lane. -/
def State.lanesOf (s : State) (st : Nat) : List (Nat × Nat) :=
  (List.range 256).flatMap fun b => (List.range 4).filterMap fun l => if s.get pgBremap (laneFld l) b = st then some (b, l) else none

/-- Remap entries changed by a function and sent to every NI (R357). -/
def State.bremapSet (s : State) (bs : List Nat) (f : State → Nat → State) : State :=
  bs.foldl (fun (s : State) b => State.tblCopy s (f s b) pgBremap (bremapOff b) (some (pgBremap, F.BREMAP_STAT_PENDING))) s

/-- A slice's home lanes get other slices: the chosen spare's, else one by one the slice named by the fewest lanes, lowest stop
first (R597). -/
def State.lanesMove (s : State) (st : Nat) (lanes : List (Nat × Nat)) : State :=
  let clear (s : State) (e : Nat × Nat) : State :=
    let h := s.get pgBremap F.BREMAP_ENT_HOLD e.1
    s.set pgBremap F.BREMAP_ENT_HOLD e.1 (if bitOf h e.2 then h - 2 ^ e.2 else h)
  let s0 := s
  let s := match s.chooseSpare st with
    | some (_, b) => lanes.foldl (fun (s : State) e => clear (s.set pgBremap (laneFld e.2) e.1 b) e)
        ((s.set (pgSlice b) F.PAGE_CTL_ENABLE 0 1).set (pgSlice b) F.PAGE_STAT_ENABLED 0 1)
    | none => lanes.foldl (fun (s : State) e =>
        let cand := (List.range 192).filter fun x => isTile x && x ≠ st && s.sliceOn x
        let best := cand.foldl (fun (b : Option (Nat × Nat)) x =>
          let n := (s.lanesOf x).length
          match b with
          | some (_, m) => if n < m then some (x, n) else b
          | none => some (x, n)) none
        clear (s.set pgBremap (laneFld e.2) e.1 ((best.map fun x => x.1).getD st)) e) s
  let bs := (lanes.map fun e => e.1).eraseDups
  bs.foldl (fun (s : State) b =>
    let olds := (F.BREMAP_ENT_HOLD :: (List.range 4).map laneFld).map fun f => (fkey pgBremap f b, s0.get pgBremap f b)
    s.tblSend olds .copy (some (pgBremap, F.BREMAP_STAT_PENDING))) s

/-- Leaf entries of the piste map that are valid (R532, R533). -/
def State.mapLeaves (s : State) : List Nat :=
  let root := s.get pgPmap F.PMAP_ROOT_PA 0 * 2 ^ 19
  (List.range 65536).flatMap fun i =>
    match s.peekWord (root + 8 * i) with
    | none => []
    | some e =>
      if ¬ bitOf e 63 then []
      else if ¬ bitOf e 62 then [leafClean e]
      else (List.range 32768).filterMap fun j =>
        match s.peekWord (bitsOf e 0 34 * 2 ^ 18 + 8 * j) with
        | some w => if bitOf w 63 ∧ ¬ bitOf w 62 then some (leafClean w) else none
        | none => none

/-- Pistes whose bucket range includes a slice (R355, R598). -/
def State.slicePistes (s : State) (st : Nat) : List Nat :=
  let bs := (s.lanesOf st).map fun e => e.1
  let own := s.mapLeaves.filter fun e =>
    let lo := bitsOf e 38 8
    bitOf e 63 && bs.any fun b => lo ≤ b && b < lo + 2 ^ bitsOf e 46 4
  (List.range 64).filter fun p => own.any fun e =>
    if bitOf e 57 then bitOf (s.get pgPmap F.PMAP_GROUP_MASK (bitsOf e 50 6)) p else bitsOf e 50 6 = p

/-- The drain of a slice whose tags or directory failed: every L2 of the device gives up the lines whose home it is, and the slice
writes back the dirty lines whose entries read cleanly, which ones is open (R598). -/
def State.scanOut (s : State) (st : Nat) : State :=
  let s := (List.range 192).foldl (fun (s : State) t =>
    if ¬ isTile t then s
    else
      let s := (s.cache t).l1.foldl (fun (s : State) e => s.modCache t fun c => c.foldL1 e.1) s
      ((s.cache t).l2.filter fun e => (let b := s.lineBucket e.1; (s.laneOf t b.1 b.2).1 = st)).foldl (fun (s : State) e =>
        let s := s.modCache t fun c => { c with l2 := terase c.l2 e.1 }
        if e.2.st = .m then s.sliceWriteMem st e.1 e.2.data e.2.poison e.2.key (s.tilePiste t) .memWb else s) s) s
  let s := (s.slice st).llc.foldl (fun (s : State) e =>
    let (r, s) := s.free
    if e.2.dirty ∧ r % 2 = 1 then s.sliceWriteMem st e.1 e.2.data e.2.poison e.2.key e.2.piste .memWb else s) s
  let s := s.setSlice st { Slice.empty with dead := true, txs := (s.slice st).txs }
  (s.slicePistes st).foldl (fun (s : State) p =>
    let t := s.get pgPmap F.PMAP_PISTE_NOTICE_TILE p
    if t < 160 then s.sendEvt 192 t 0 else s) s

/-- One step of a slice's retirement: hold, drain, rewrite (R358, R597, R598). -/
def State.retireGo (s : State) (r : RasRun) : State :=
  let st := r.src
  let pending := s.get pgBremap F.BREMAP_STAT_PENDING 0 ≠ 0
  match r.step, r.sub with
  | 1, 0 =>
    let lanes := s.lanesOf st
    (s.bremapSet ((lanes.map fun e => e.1).eraseDups) fun s b =>
      lanes.foldl (fun (s : State) e => if e.1 = b then s.set pgBremap F.BREMAP_ENT_HOLD b (s.get pgBremap F.BREMAP_ENT_HOLD b ||| 2 ^ e.2) else s) s).rasStep
        { r with t0 := s.chrono } 1 1
  | 1, _ =>
    if pending then s
    else if (s.slice st).dead then (s.scanOut st).rasStep r 3 0
    else
      let s := s.set (pgSlice st) F.SLICE_DRAIN_ALL 0 1
      if s.flag (pgSlice st) F.SLICE_DRAIN_STAT_BUSY then s else (s.drainGo st).rasStep r 2 0
  | 2, _ => if s.flag (pgSlice st) F.SLICE_DRAIN_STAT_BUSY then s.drainDone st else s.rasStep r 3 0
  | 3, 0 => (s.lanesMove st (s.lanesOf st)).rasStep r 3 1
  | _, _ =>
    if pending then s
    else
      let s := (s.set (pgSlice st) F.PAGE_CTL_ENABLE 0 0).set (pgSlice st) F.PAGE_STAT_ENABLED 0 0
      let s := s.setSlice st { Slice.empty with txs := (s.slice st).txs }
      let dt := s.chrono - r.t0
      let s := s.set pgRas F.RAS_OP_STAT_TIME 0 (if dt < 2 ^ 16 then dt else 2 ^ 16 - 1)
      ((s.rasRecord (pgSlice st) 0 9 0 0 false).repairEntry 6 st).rasEnd 0

/-! ### Running operations -/

/-- The bound of a step in nanoseconds (R593, R597). -/
def stepBound (op step : Nat) : Nat :=
  if op = 2 then (match step with | 2 => 30000 | _ => 3000)
  else match step with | 1 => 2000 | 2 => 8200 | 3 => 4100 | 4 => 2000 | 5 => 4000 | _ => 1000

/-- The operation in progress goes on where it can; one that finds the package in PK1 first wakes it (R596, R606, R609).
(DESIGN CHOICE, assumption 59) -/
def State.rasGoOn (s : State) : State :=
  match s.sys.rasRun with
  | none => s
  | some r =>
    if s.frozen then s
    else if s.get pgLift F.LIFT_PK_STAT_STATE 0 = 1 then s.pkWake
    else if r.t1 + stepBound r.op r.step + 1000000 < s.chrono then s.rasEnd 2
    else if r.op = 2 then s.retireGo r else s.swapGo r

/-- The Patrol runs its repair operations, one at a time (R596); none before the boot is over. (DESIGN CHOICE, assumption 59) -/
def State.rasAdvance (s : State) : State :=
  match s.sys.rasRun, s.sys.rasWait with
  | some _, _ => (List.range 8).foldl (fun (s : State) _ => s.rasGoOn) s
  | none, (op, who, sp) :: rest =>
    if s.frozen then s else { s with sys := { s.sys with rasWait := rest } }.rasStart op who sp
  | none, [] => s

/-- LIFT_HANDSHAKE_TIMEOUT: a participant of a PK1 attempt counts as refusing; a tile that reports no power-good is marked failed
and swapped cold (R570, R583, R594). -/
def State.handshakeTimeout (s : State) (kind index reason : Nat) : State :=
  if s.frozen then s
  else match (if kind = 0 then s.ltStop index else none) with
    | some st =>
      if s.get (pgTlift st) F.TLIFT_TSTAT_PHASE 0 = 4 then
        let x := s.sys
        { (s.set (pgTlift st) F.TLIFT_TSTAT_PHASE 0 0) with sys := { x with
            failedStops := if x.failedStops.contains st then x.failedStops else x.failedStops ++ [st] } }.rasAsk 1 index 0xFF
      else if s.get pgLift F.LIFT_PK_STAT_PHASE 0 = 1 then s.pkAbort kind index reason true else s
    | none => if s.get pgLift F.LIFT_PK_STAT_PHASE 0 = 1 then s.pkAbort kind index reason true else s

/-! ### Wires and links -/

/-- The output of a stop crosses to another die (R10, R599). -/
def dieLink (st dir : Nat) : Bool := dir < 4 && dieOf st ≠ dieOf (nbr st dir)

/-- Wires of a link direction that have failed. -/
def State.wiresLost (s : State) (st dir : Nat) : Nat := tget s.sys.wires (st * 4 + dir) 0

/-- One more wire of a link direction fails. (DEDUCED, assumption 58) -/
def State.wireFails (s : State) (st dir : Nat) : State :=
  { s with sys := { s.sys with wires := tset s.sys.wires (st * 4 + dir) (s.wiresLost st dir + 1) 0 } }

/-- WIRE_SPARE: a wire of a die-to-die link fails and a spare takes its place; no flit is lost (R599). -/
def State.wireSpare (s : State) (st dir : Nat) : State :=
  if dieLink st dir ∧ s.wiresLost st dir < 2 then (s.wireFails st dir).rasRecord (pgRouter st) 0 10 0 0 false else s

/-- LINK_LOSS: the third wire of a direction fails and the link is lost; its routers absorb what reaches it (R489, R599).
(DEDUCED, assumption 58) -/
def State.linkLoss (s : State) (st dir : Nat) : State :=
  if dieLink st dir ∧ s.wiresLost st dir = 2 then
    let s := s.wireFails st dir
    let both := [(st, dir), (nbr st dir, (dir + 2) % 4)].filter fun e => !s.sys.lostLinks.contains e
    { s with sys := { s.sys with lostLinks := s.sys.lostLinks ++ both } }.rasRecord (pgRouter st) 0 10 0 0 false
  else s

end Sys2Proof.Machine
end

