-- ==== Sys2Proof/Machine/Splits.lean ====
section
/-! DEFINITION. Split records and the controls of the counters (R616-R625). -/

namespace Sys2Proof.Machine

/-- Write TD_CLR: the top-down counters to zero, FIX[3] to the pending slots (R618). -/
def State.tdClr (s : State) (pg : Nat) : State :=
  ((List.range 5).foldl (fun (s : State) c => s.set pg F.PMU_TD_COUNT c 0) s).set pg F.PMU_FIX_COUNT 3 (s.get pg F.PMU_TD_PEND_SLOTS 0)

/-- Event codes a PMU page supports (R616). -/
def State.pmuCode (pg code : Nat) : Bool :=
  let st := pg / 256
  let both := [0x110, 0x111, 0x112, 0x120, 0x121, 0x122]
  if isTile st then (1 ≤ code && code ≤ 0x1B) || (0x100 ≤ code && code ≤ 0x103) || both.contains code
  else
    let a := lget agentStops (pg % 256 - 208) 0
    both.contains code || (if (nmcAt a).isSome then 0x200 ≤ code && code ≤ 0x207 else 0x300 ≤ code && code ≤ 0x306)

/-- What a write of a PMU register does beyond its fields: TD_CLR, unsupported event codes, FIX[3] and an agent's counters that read
zero (R613, R616, R618, R625). -/
def State.pmuPost (s0 s : State) (pg off v : Nat) : State :=
  if off = 0x100 then (if bitOf v 13 then s.tdClr pg else s)
  else if off = 0x158 then s.set pg F.PMU_FIX_COUNT 3 (s0.get pg F.PMU_FIX_COUNT 3)
  else if (off = 0x148 ∨ off = 0x150) ∧ ¬ isTile (pg / 256) then s.set pg F.PMU_FIX_COUNT ((off - 0x140) / 8) 0
  else if 0x1A0 ≤ off ∧ off < 0x1E0 then
    let n := (off - 0x1A0) / 8
    if State.pmuCode pg (s.get pg F.PMU_EVSEL_EVENT n) then s else s.set pg F.PMU_EVSEL_EVENT n 0
  else s

/-- The 32 words of a split record, SEQ left for its last line (R623). -/
def State.splitWords (s : State) (pg : Nat) : List Nat :=
  let k := s.get pg F.PMU_SPLIT_CTL_K 0
  let k := if k < 10 then 10 else if 24 < k then 24 else k
  let st := if isTile (pg / 256) then pg / 256 else lget agentStops (pg % 256 - 208) 0
  let src := st + (match pageTypeNo pg with | some t => t.code | none => 0) * 2 ^ 8 + s.pageInstance pg * 2 ^ 24
    + s.get pg F.PAGE_OWNER_PISTE 0 * 2 ^ 40 + k * 2 ^ 48
  [s.chrono, src]
    ++ (List.range 8).map (fun n => s.get pg F.PMU_CNT_COUNT n) ++ (List.range 4).map (fun i => s.get pg F.PMU_FIX_COUNT i)
    ++ (List.range 5).map (fun c => s.get pg F.PMU_TD_COUNT c)
    ++ [s.get pg F.PMU_TD_PEND_SLOTS 0, s.get pg F.PMU_E_CORE_PJ 0, s.get pg F.PMU_E_MESH_PJ 0, s.get pg F.PMU_OVF_OVF 0]
    ++ (List.range 8).map (fun n => s.rawReg pg (0x1A0 + 8 * n)) ++ [0]

/-- The NI a PMU writes through: that of its own stop (R621). -/
def pmuNi (pg : Nat) : Nat := if isTile (pg / 256) then pg / 256 else lget agentStops (pg % 256 - 208) 0

/-- SPLIT_LATCH: the counters are latched and the head word is asked for a number; a latch that cannot be taken is counted
(R620-R622). -/
def State.splitLatch (s : State) (pg : Nat) : State :=
  if ¬ s.flag pg F.PMU_SPLIT_CTL_EN ∨ ¬ s.flag pg F.PAGE_STAT_ENABLED then s
  else if (tfind s.splits pg).isSome ∨ s.sys.tuckFrozen ∨ (isTile (pg / 256) ∧ s.gate (pg / 256) 3 ≠ .open_) then
    s.satInc pg F.PMU_SPLIT_STAT_MISSED
  else
    let piste := s.get pg F.PAGE_OWNER_PISTE 0
    let head := s.get pg F.PMU_SPLIT_HEAD_PA 0 * 8
    let s := { (s.set pg F.PMU_SPLIT_STAT_BUSY 0 1) with splits := tput s.splits pg ⟨s.splitWords pg, 0, 4, piste⟩ }
    s.send (pmuNi pg) { Req.plain 7 0 head (.split pg) with be := beMask (head % 64) 8, data := 1, piste := piste }

/-- Line `i` of a split record goes out (R621). -/
def State.splitLine (s : State) (pg i : Nat) (x : Split) : State :=
  let log2 := let l := s.get pg F.PMU_SPLIT_RING_LOG2 0; if l < 4 then 4 else l
  let pa := s.get pg F.PMU_SPLIT_RING_BASE 0 * 4096 + 256 * (x.n % 2 ^ log2) + 64 * i
  let bytes := ((x.words.drop (8 * i)).take 8).flatMap fun w => leBytes w 8
  s.send (pmuNi pg) { Req.plain 6 0 pa (.split pg) with be := 2 ^ 64 - 1, data := bytesLine bytes, piste := x.piste }

/-- An answer to a split record's request (R621, R622). -/
def State.splitRsp (s : State) (pg : Nat) (r : Resp) (pa : Nat) (d : Line) : State :=
  match tfind s.splits pg with
  | none => s
  | some x =>
    let drop (s : State) : State := { (s.set pg F.PMU_SPLIT_STAT_BUSY 0 0) with splits := terase s.splits pg }
    if r ≠ .ok then ((drop s).set pg F.PMU_SPLIT_STAT_ERR 0 1).set pg F.PMU_SPLIT_CTL_EN 0 0
    else if x.left = 4 then
      let n := leNat (lineGet d (pa % 64) 8)
      let x := { x with n := n, left := 3, words := lset x.words 31 n }
      (List.range 3).foldl (fun (s : State) i => s.splitLine pg i x) { s with splits := tput s.splits pg x }
    else if x.left = 1 then ({ s with splits := tput s.splits pg { x with left := 0 } }).splitLine pg 3 x
    else if x.left = 0 then (drop s).inc pg F.PMU_SPLIT_STAT_WRITTEN
    else { s with splits := tput s.splits pg { x with left := x.left - 1 } }

end Sys2Proof.Machine
end

