-- ==== Sys2Proof/Machine/View.lean ====
section
/-! DEFINITION. What a read of a register page returns (R4, R36-R40, and the register tables of each chapter). -/

namespace Sys2Proof.Machine

/-- Registers of the CORE page that are read as computed, or show a value that waits for a commit (R61, R109-R111, R174, R175, R219,
R344, R345). OLDEST reads 0 while no station is busy (R87). (DESIGN CHOICE, assumption 109) -/
def State.coreView (s : State) (st : Nat) (f : Fld) (i : Nat) : Option Nat :=
  let c := s.core st
  let p := c.pctl
  let stn (k : Nat) : StnSt := (c.sta k).st
  let attr (v : Option Word) (b : Nat) (w : Nat) : Option Nat := v.map fun v => bitsOf v.toNat (4 * i + b) w
  if f.fid = F.CORE_CARVE_STAT_VREG_FREE.fid then some (128 - c.vregUsed)
  else if f.fid = F.CORE_CARVE_STAT_IREG_FREE.fid then some (289 - c.iregUsed)
  else if f.fid = F.CORE_CARVE_STAT_OLDEST.fid then some (c.order.head?.getD 0)
  else if f.fid = F.CORE_CARVE_STAT_T1_BUSY.fid then some (b2n c.t1.isSome)
  else if f.fid = F.CORE_CARVE_STAT_T0_BUSY.fid then some (b2n c.t0.isSome)
  else if f.fid = F.CORE_CARVE_STAT_LODGED.fid then
    some ((List.range 16).filter fun k => stn k = .lodging || stn k = .lodged || stn k = .resumable).length
  else if f.fid = F.CORE_CARVE_STAT_STN_BUSY.fid then some ((List.range 16).foldl (fun v k => v + b2n (stn k ≠ .free) * 2 ^ k) 0)
  else if f.fid = F.CORE_STN_STATE_STN.fid then some (stn i).code
  else if f.fid = F.CORE_TIME_STAT_APPLYING.fid then some (b2n (p.groom.isSome || p.check.isSome))
  else if f.fid = F.CORE_TIME_STAT_CHECKING.fid then some (b2n c.checking)
  else if f.fid = F.CORE_TIME_STAT_GROOMED.fid then some (b2n c.groomed)
  else if f.fid = F.CORE_FLOW_CTL_RINK_EN.fid then p.flow.map fun v => b2n v.2
  else if f.fid = F.CORE_FLOW_CTL_PRED_EN.fid then p.flow.map fun v => b2n v.1
  else if f.fid = F.CORE_RINK_STAT_BODY.fid then some (c.rink.cap.foldl (fun t a => t + (a.size - 64)) 0)
  else if f.fid = F.CORE_RINK_STAT_CARVES.fid then some c.rink.cap.length
  else if f.fid = F.CORE_RINK_STAT_ENDCAUSE.fid then some c.rink.endCause
  else if f.fid = F.CORE_RINK_STAT_STREAMING.fid then some (b2n c.rink.streaming)
  else if f.fid = F.CORE_RINK_STAT_CAPTURED.fid then some (b2n (!c.rink.cap.isEmpty))
  else if f.fid = F.CORE_ATTR_S_NX.fid then attr p.attrS 3 1
  else if f.fid = F.CORE_ATTR_S_TYPE.fid then attr p.attrS 0 3
  else if f.fid = F.CORE_ATTR_H_NX.fid then attr p.attrH 3 1
  else if f.fid = F.CORE_ATTR_H_TYPE.fid then attr p.attrH 0 3
  else if f.fid = F.CORE_MMU_CTL_WCACHE_EN.fid then p.mmu.map fun v => b2n v.1
  else if f.fid = F.CORE_MMU_CTL_SPEC_WALK.fid then p.mmu.map fun v => b2n v.2
  else if f.fid = F.CORE_TLB_STAT_ACK_PEND.fid then some (c.xinvOut.foldl (fun t x => t + x.acks) 0)
  else if f.fid = F.CORE_TLB_STAT_XINV_OUT.fid then some c.xinvOut.length
  else none

/-- Header fields that are read as computed (R36, R37). -/
def State.headView (s : State) (pg : Nat) (f : Fld) : Option Nat :=
  if f.fid = F.PAGE_ID_INSTANCE.fid then some (s.pageInstance pg)
  else if f.fid = F.PAGE_STAT_LOCKED.fid then some (s.get pg F.PAGE_CTL_LOCK 0)
  else if f.fid = F.PAGE_STAT_ERR_ANY.fid then some (b2n (s.errAny pg))
  else none

/-- Registers of the endpoint page beside `epView`: the mailbox status (R289, R529). -/
def State.epStat (s : State) (h : Nat) : Nat := (s.hub h).ep.mbxStat

/-- The value a field reads as. -/
def State.fldView (s : State) (pg : Nat) (f : Fld) (i : Nat) : Nat :=
  let st := pg / 256
  let hub := (hubAt st).getD 0
  let v : Option Nat :=
    if f.off < 0x100 then s.headView pg f
    else match pageTypeNo pg with
      | some .core => s.coreView st f i
      | some .l2 => s.l2View st f
      | some .pad => s.padView st f
      | some .slice => s.sliceView st f
      | some .lec => s.lecView st f i
      | some .ni => s.niView (niOfNiPage pg) f
      | some .tlift => s.tliftView st f
      | some .nmc => s.nmcView ((nmcAt st).getD 0) f
      | some .nmcCh => s.chanView ((nmcAt st).getD 0 * 6 + pg % 256 - 1) f
      | some .hub => s.hubView hub f
      | some .port => s.portView hub (pg % 256 - 1) f
      | some .ep => s.epView hub f
      | some .lift => s.liftView f
      | some .tmap =>
        if f.fid = F.TMAP_ENT_DIE.fid then some (dieOf (s.get pg F.TMAP_ENT_STOP i))
        else if f.fid = F.TMAP_SPARE_DIE.fid then some (dieOf (s.get pg F.TMAP_SPARE_STOP i)) else none
      | _ => none
  v.getD (s.get pg f i)

/-- The value a register reads as, without side effect: write-only fields read zero (R4), reserved offsets read zero (R40). -/
def State.regView (s : State) (pg off : Nat) : Nat :=
  let v := (fieldsAt pg off).foldl (fun v e =>
    if e.1.ty = .wo then v
    else (List.range e.1.rep).foldl (fun v j => v + s.fldView pg e.1 (e.2 * e.1.rep + j) % 2 ^ e.1.w * 2 ^ (e.1.lo + e.1.rs * j)) v) 0
  if pageTypeNo pg = some .ep ∧ off = 0x900 then v + s.epStat ((hubAt (pg / 256)).getD 0) else v

/-- A read of a register, with what the read does (R43): LEC_CLAIM claims and EP_CON consumes a byte. -/
def State.pageRead (s : State) (w : Who) (pg off : Nat) : State × Nat :=
  if pageTypeNo pg = some .lec ∧ off = 0x110 then s.lecClaim w (pg / 256)
  else if pageTypeNo pg = some .ep ∧ off = 0x908 then (s.conInRead ((hubAt (pg / 256)).getD 0), s.regView pg off)
  else (s, s.regView pg off)

end Sys2Proof.Machine
end

