-- ==== Sys2Proof/Machine/Page.lean ====
section
/-! DEFINITION. What a write of a register page does: the checks of R38-R40, the field rules of R4 and R6, and what follows a write
of each register (R36-R44 and the register tables of each chapter). -/

namespace Sys2Proof.Machine

/-! ### Discarded fields -/

/-- What becomes of a field that a write would change, once its access type lets it through. -/
inductive FldAct where
  /-- The value is stored. -/
  | store
  /-- The value is discarded without a record, or another unit takes it. -/
  | silent
  /-- Discarded with LOCKED_WR. -/
  | locked
  /-- Discarded with a REJECT field of the block. -/
  | reject (pg : Nat) (f : Fld)
deriving DecidableEq, Repr

/-- One of the channel's calendar fields is written while the calendar is requested or active (R431). -/
def State.calBusy (s : State) (pg : Nat) : Bool := s.flag pg F.NMC_CAL_CTL_EN || s.flag pg F.NMC_CAL_STAT_ACTIVE

/-- Some output has the same slot VALID in both classes (R480). -/
def State.calClash (s : State) (pg : Nat) : Bool :=
  (List.range 6).any fun o => (List.range 64).any fun k =>
    128 ≤ s.get pg F.ROUTER_CAL_SLOT (2 * o * 64 + k) && 128 ≤ s.get pg F.ROUTER_CAL_SLOT ((2 * o + 1) * 64 + k)

/-- Discards of the header's ENABLE (R37, R359). -/
def State.enableAct (s : State) (pg new : Nat) : FldAct :=
  match pageTypeNo pg with
  | none => .silent
  | some t =>
    if 0 < new then .store
    else if t.fixedEnable then .locked
    else if t = .l2 ∧ s.flag (pgCore (pg / 256)) F.PAGE_CTL_ENABLE then .locked
    else if t = .slice ∧ ¬ (s.lanesOf (pg / 256)).isEmpty then .locked
    else .store

/-- What becomes of field `i` of a page that a write of `v` to its register would change to `new`. (DEDUCED, assumption 77) -/
def State.fldAct (s : State) (pg : Nat) (f : Fld) (i new v : Nat) : FldAct :=
  let is (g : Fld) : Bool := f.fid = g.fid
  let hub := (hubAt (pg / 256)).getD 0
  if f.off < 0x100 then
    if is F.PAGE_CTL_ENABLE then s.enableAct pg new
    else if is F.PAGE_OWNER_ALL_READ ∧ pg = pgTmap then .silent
    else .store
  else match pageTypeNo pg with
  | some .core =>
    -- these wait for a commit (R174, R219, R344)
    if f.off = 0x130 ∨ f.off = 0x140 ∨ f.off = 0x148 ∨ f.off = 0x160 then .silent else .store
  | some .l2 => if is F.L2_LOCK_WAYMASK ∧ s.lockReject (pg / 256) new then .reject pg F.L2_LOCK_STAT_REJECT else .store
  | some .pad =>
    if 0x200 ≤ f.off ∧ (s.flag pg F.PAD_REPAIR_FUSE i ∨ s.flag pg F.PAGE_CTL_ENABLE) then .locked else .store
  | some .router =>
    if is F.ROUTER_CAL_SLOT ∧ s.flag pg F.ROUTER_CAL_CTL_EN then .reject pg F.ROUTER_CAL_CTL_REJECT
    else if is F.ROUTER_CAL_CTL_EN ∧ new = 1 ∧ s.calClash pg then .reject pg F.ROUTER_CAL_CTL_REJECT
    else .store
  | some .lec => if is F.LEC_PEND_PEND then .silent else .store
  | some .nmcCh =>
    if (is F.NMC_CH_CTL_MODE ∨ is F.NMC_CH_CTL_ORDER) ∧ s.flag pg F.PAGE_CTL_ENABLE then .locked
    else if (is F.NMC_CAL_CTL_T_SLOT ∨ is F.NMC_CAL_CTL_ACC ∨ is F.NMC_CAL_SLOT) ∧ s.calBusy pg then .reject pg F.NMC_CAL_STAT_REJECT
    else if is F.NMC_CAL_CTL_EN ∧ new = 1 ∧ ¬ s.refOk ((nmcAt (pg / 256)).getD 0 * 6 + pg % 256 - 1) then .reject pg F.NMC_CAL_STAT_REJECT
    else .store
  | some .hub =>
    if (is F.HUB_CTL_EP ∨ is F.HUB_CTL_BIF) ∧ s.flag pg F.PAGE_CTL_ENABLE then .locked
    else .store
  | some .port => if is F.PORT_CTL_MODE ∧ s.flag (pgHub hub) F.PAGE_CTL_ENABLE then .locked else .store
  | some .ep =>
    if is F.EP_MBX_STAT_RESULT then .silent
    else if 0x200 ≤ f.off ∧ f.off < 0x400 ∧ s.flag pg F.EP_STAT_COMMIT_BUSY then .reject pg F.EP_STAT_REJECT
    else .store
  | some .hdm =>
    if 0x100 ≤ f.off ∧ f.off < 0x140 then
      let dec := if is F.HDM_DEC_TGT0_TGT ∨ is F.HDM_DEC_TGT1_TGT then i / 8 else i
      let ctl : Bool := f.off = 0x110
      if s.flag pg F.HDM_DEC_CTL_VALID dec ∧ ¬ (ctl ∧ ¬ bitOf v 63) then .reject pg F.HDM_STAT_REJECT
      else if ctl ∧ bitOf v 63 ∧ s.hdmBad hub dec v then .reject pg F.HDM_STAT_REJECT
      else .store
    else if is F.HDM_CACHE_CTL_PORT ∧ bitOf v 3 ∧ 3 < new then .reject pg F.HDM_STAT_REJECT
    else .store
  | some .tmap => .silent
  | some .keys => if is F.KS_SLOT_LOCK ∧ new = 0 then .silent else .store
  | some .ras => if is F.TUCK_CTL_RESET ∧ bitsOf v 0 12 ≤ new then .silent else .store
  | some .lift =>
    if f.off = 0x100 ∧ s.psReject i v then .reject pg F.LIFT_STAT_REJECT
    else if is F.LIFT_CHRONO_COUNT ∧ new < s.chrono then .reject pg F.LIFT_STAT_REJECT
    else .store
  | _ => .store

/-- The value a field takes for a value written to it: codes a register table says are written as another, bounds it is written
within, and EP on a hub that has no endpoint port (R381, R434, R456, R502, R527, R555, R577, R609). -/
def State.fldNorm (s : State) (pg : Nat) (f : Fld) (i new : Nat) : Nat :=
  let is (g : Fld) : Bool := f.fid = g.fid
  if is F.NMC_CH_CTL_MODE ∨ is F.HUB_CTL_BIF ∨ is F.RAS_OP_OP ∨ is F.L2_RANGE_CTL_ACT then (if new = 3 then 0 else new)
  else if is F.HUB_CTL_EP then (if new = 3 ∨ 2 ≤ (hubAt (pg / 256)).getD 0 then 0 else new)
  else if is F.HDM_DEC_CTL_IG then (if 7 ≤ new then 0 else new)
  else if is F.HDM_DEC_CTL_IW then (if new ≤ 4 ∨ (8 ≤ new ∧ new ≤ 10) then new else 0)
  else if is F.LIFT_PLIM_WATTS then (if new < 360 then 360 else if 560 < new then 560 else new)
  else if is F.SEC_SENSOR_LEVEL then (if new < s.get pg F.SEC_SENSOR_FLOOR i then s.get pg F.SEC_SENSOR_FLOOR i else new)
  else new

/-- The type a field is written under: every writable field of the tile-map page is the Patrol's alone (R17). -/
def fldType (pg : Nat) (f : Fld) : FTy := if pg = pgTmap ∧ (f.ty = .rw ∨ f.ty = .rwl) then .rwp else f.ty

/-- One field of a written register, by its access type (R4, R6, R17); `s0` is the state before the write. -/
def State.fldWrite (s0 s : State) (w : Who) (pg : Nat) (f : Fld) (i v raw : Nat) : State :=
  let new := s0.fldNorm pg f i raw
  let change (s : State) : State :=
    match s0.fldAct pg f i new v with
    | .store => s.set pg f i new
    | .silent => s
    | .locked => s.raiseErr pg 1
    | .reject p g => s.set p g 0 1
  match fldType pg f with
  | .ro | .wo => s
  | .w1c =>
    let left := s.get pg f i &&& (2 ^ f.w - 1 - new)
    if pg = pgTmap ∧ ¬ w.patrol then (if left = s.get pg f i then s else s.raiseErr pg 2) else s.set pg f i left
  | .rw => if new = s0.fldView pg f i then s else change s
  | .rwl => if new = s0.fldView pg f i then s else if s0.flag pg F.PAGE_CTL_LOCK then s.raiseErr pg 1 else change s
  | .rwp => if new = s0.fldView pg f i then s else if w.patrol then change s else s.raiseErr pg 2

/-- Every field of a written register. -/
def State.fldsWrite (s0 : State) (w : Who) (pg off v : Nat) : State :=
  (fieldsAt pg off).foldl (fun (s : State) e =>
    (List.range e.1.rep).foldl (fun (s : State) j =>
      State.fldWrite s0 s w pg e.1 (e.2 * e.1.rep + j) v (bitsOf v (e.1.lo + e.1.rs * j) e.1.w)) s) s0

/-! ### Stopping and starting blocks -/

/-- A link IDE stream, and a CXL.cachemem stream, is active from the time its key slot holds an IDE key and its link is up; a write
of its control register, or the link coming up, establishes it. (DEDUCED, assumption 36) -/
def State.ideEst (s : State) (h p : Nat) : State :=
  let pg := pgIde h
  let ok (slot : Nat) : Bool := s.linkUp h p && s.get pgKeys F.KS_SLOT_KIND slot = 3
  let a := ok (s.get pg F.IDE_PORT_CTL_KEYSLOT p)
  let b := ok (s.get pg F.IDE_IO_CTL_KEYSLOT p)
  let s := (s.set pg F.IDE_PORT_STAT_ACTIVE p (b2n a)).set pg F.IDE_IO_STAT_ACTIVE p (b2n b)
  let s := if a then s.set pg F.IDE_PORT_STAT_INSECURE p 0 else s
  if b then s.set pg F.IDE_IO_STAT_INSECURE p 0 else s

/-- Some port of a lane group, 2h + g, is set to a mode other than OFF and is no hot-plug port (R501, R631). -/
def State.groupOn (s : State) (m : Nat) : Bool :=
  (if m % 2 = 0 then [0, 1, 2, 3] else [4]).any fun p =>
    s.formed (m / 2) p && s.portMode (m / 2) p ≠ 0 && !s.flag (pgPort (m / 2) p) F.PORT_CTL_HP

/-- PERST_N of a lane group falls when its last such port is OFF (R631). -/
def State.perstFall (s : State) (h : Nat) : State :=
  { s with sys := { s.sys with perst := s.sys.perst.filter fun m => m / 2 ≠ h || s.groupOn m } }

/-- PERST_N_RELEASE: PERST_N of a lane group rises (R631). -/
def State.perstRelease (s : State) (m : Nat) : State :=
  if m < 16 ∧ 6 ≤ s.sys.bootStep ∧ s.flag (pgHub (m / 2)) F.PAGE_CTL_ENABLE ∧ s.groupOn m ∧ ¬ s.sys.perst.contains m then
    { s with sys := { s.sys with perst := s.sys.perst ++ [m] } }
  else s

/-- A block whose ENABLE was cleared stops once it has come to the point R37 names. -/
def State.blockStop (s : State) (pg : Nat) : State :=
  let st := pg / 256
  let done (s : State) : State := (s.set pg F.PAGE_STAT_ENABLED 0 0).set pg F.PAGE_STAT_BUSY 0 0
  match pageTypeNo pg with
  | some .core => if s.coreBound st then s else done (s.coreHalt st 2)
  | some .l2 =>
    let s := s.cachesOut st true
    if s.gateIdle st 1 then done s else s
  | some .slice => if (s.slice st).txs.isEmpty then done s else s
  | some .pmu => if (tfind s.splits pg).isSome then s else done s
  | some .nmc =>
    let k := (nmcAt st).getD 0
    if (List.range 6).all fun c => (s.chan (6 * k + c)).queue.isEmpty && (s.chan (6 * k + c)).waiting.isEmpty then
      done ((List.range 6).foldl (fun (s : State) c => s.selfRefresh (6 * k + c)) s)
    else s
  | some .nmcCh =>
    let c := (nmcAt st).getD 0 * 6 + pg % 256 - 1
    if (s.chan c).queue.isEmpty ∧ (s.chan c).waiting.isEmpty then done (s.selfRefresh c) else s
  | some .hub =>
    let h := (hubAt st).getD 0
    -- the boot endpoint runs regardless (R37, R644)
    let s := ((List.range 5).filter fun p => bootPort s.sys.bootEp ≠ some (h, p)).foldl (fun (s : State) p => (s.portDown h p 2).ideEst h p) s
    done { s with sys := { s.sys with perst := s.sys.perst.filter fun g => g / 2 ≠ h } }
  | _ => done s

/-- A block whose ENABLE was set operates (R37): a pad is zeroed first (R402), a channel leaves self-refresh. -/
def State.blockStart (s : State) (pg : Nat) : State :=
  let st := pg / 256
  let s := (s.set pg F.PAGE_STAT_ENABLED 0 1).set pg F.PAGE_STAT_BUSY 0 0
  match pageTypeNo pg with
  | some .core => if s.get (pgTlift st) F.TLIFT_TSTAT_STATE 0 = 0 then s.modCore st fun c => { c with running := true } else s
  | some .pad => s.set pg F.PAD_STAT_ZEROING 0 1
  | some .nmcCh => s.set pg F.NMC_CH_STAT_SELF_REFRESH 0 0
  | some .nmc => (List.range 6).foldl (fun (s : State) c =>
      let p := pgCh ((nmcAt st).getD 0 * 6 + c)
      if s.flag p F.PAGE_STAT_ENABLED then s.set p F.NMC_CH_STAT_SELF_REFRESH 0 0 else s) s
  | _ => s

/-- ENABLE was written (R36, R37). -/
def State.enablePost (s0 s : State) (pg : Nat) : State :=
  let was := s0.flag pg F.PAGE_CTL_ENABLE
  let is := s.flag pg F.PAGE_CTL_ENABLE
  if is ∧ ¬ was then s.blockStart pg
  else if was ∧ ¬ is then (s.set pg F.PAGE_STAT_BUSY 0 1).blockStop pg
  else s

/-- PAGE_ERR_INJ: bits at positions that exist, by the path of a real error (R36). -/
def State.errInj (s : State) (pg v : Nat) : State :=
  [0, 1, 2, 3, 8, 9, 10, 16].foldl (fun (s : State) b =>
    if bitOf v b ∧ (errFld b (pageTypeNo pg)).isSome then
      (if 8 ≤ b ∧ b ≤ 10 then s.classErr pg (b - 7) 0 true else s.raiseErr pg b)
    else s) s

/-! ### After a write -/

/-- A field that a write made nonzero outside its range takes another value. -/
def State.norm (s : State) (pg : Nat) (f : Fld) (i : Nat) (bad : Nat → Bool) (v : Nat) : State :=
  if bad (s.get pg f i) then s.set pg f i v else s

/-- The predictor, target buffer, return stack and rink capture are cleared at a change of piste (R162). -/
def State.predClear (s : State) (st : Nat) : State :=
  (s.modCore st fun c => { (c.rinkEnd 7).tlbClear with pred := Pred.empty }).modCache st fun c => { c with trackers := [] }

/-- After a write of a CORE register (R109, R174, R219, R344). (DESIGN CHOICE, assumption 22) -/
def State.corePost (s0 s : State) (st off v : Nat) : State :=
  let pg := pgCore st
  let ctl (f : PendCtl → PendCtl) : State := s.modCore st fun c => { c with pctl := f c.pctl }
  if off = 0x118 then
    let g := s.flag pg F.CORE_TIME_CTL_GROOM_EN
    let k := s.flag pg F.CORE_TIME_CTL_CHECK_EN
    ctl fun p => { p with
      groom := if g = s0.flag pg F.CORE_TIME_CTL_GROOM_EN then p.groom else some g
      check := if k = s0.flag pg F.CORE_TIME_CTL_CHECK_EN then p.check else some k }
  else if off = 0x130 then
    ctl fun p => { p with
      flow := some (bitOf v 0, bitOf v 1)
      predFlush := p.predFlush || bitOf v 2
      rinkFlush := p.rinkFlush || bitOf v 3 }
  else if off = 0x140 then ctl fun p => { p with attrS := some (wd (v % 2 ^ 32)) }
  else if off = 0x148 then ctl fun p => { p with attrH := some (wd (v % 2 ^ 32)) }
  else if off = 0x160 then
    let s := ctl fun p => { p with mmu := some (bitOf v 1, bitOf v 0) }
    if bitOf v 2 then s.tlbFlush st else s
  else s

/-- After a write of an L2 register (R369, R371, R381). -/
def State.l2Post (s0 s : State) (st off v : Nat) : State :=
  let pg := pgL2 st
  if off = 0x100 then s.lockWays st (s0.get pg F.L2_LOCK_WAYMASK 0) (s.get pg F.L2_LOCK_WAYMASK 0)
  else if off = 0x128 then
    let s := if bitOf v 0 then s.rangeGo st else s
    if bitOf v 1 then s.rangeAbort st else s
  else s

/-- After a write of a PAD register (R411, R412). -/
def State.padPost (s : State) (w : Who) (st off v : Nat) : State :=
  let pg := pgPad st
  if off = 0x120 then (if w.patrol ∧ bitOf v 16 then s.padCopyGo st else s)
  else if 0x200 ≤ off then
    let n := (off - 0x200) / 8
    if 143 < s.get pg F.PAD_REPAIR_COL n then s.set pg F.PAD_REPAIR_VALID n 0 else s
  else s

/-- After a write of ROUTER_CTL: DRAIN moves the router between LIVE and DRAINING (R488). -/
def State.routerPost (s0 s : State) (pg off : Nat) : State :=
  if off = 0x100 then
    let d := s.flag pg F.ROUTER_CTL_DRAIN
    if d ∧ ¬ s0.flag pg F.ROUTER_CTL_DRAIN then s.set pg F.ROUTER_STAT_STATE 0 1
    else if ¬ d then s.set pg F.ROUTER_STAT_STATE 0 0
    else s
  else s

/-- After a write of an NI register (R162, R470, R492). -/
def State.niPost (s0 s : State) (w : Who) (pg off v : Nat) : State :=
  let n := niOfNiPage pg
  if ¬ w.patrol then s
  else if off = 0x100 then s.niClosePost n (v % 16)
  else if off = 0x120 then
    if isTile n ∧ s.get pg F.NI_GATE_PISTE_PISTE 0 ≠ s0.get pg F.NI_GATE_PISTE_PISTE 0 then s.predClear n else s
  else if 0x400 ≤ off then
    let i := (off - 0x400) / 8
    if s.flag pg F.NI_ROUTE_VALID i ∧ ¬ routeOk (s.get pg F.NI_ROUTE_ROUTE i) then (s.set pg F.NI_ROUTE_VALID i 0).set pg F.NI_STAT_BADROUTE 0 1
    else s
  else s

/-- After a write of a SPOT register: the trace pointer starts again with a new ring (R496). -/
def State.spotPost (s : State) (pg off : Nat) : State :=
  if off % 64 = 0x18 ∨ off % 64 = 0x20 then (if off < 0x180 then s.set pg F.SPOT_TPTR_TPTR ((off - 0x100) / 64) 0 else s) else s

/-- After a write of a HUB or PORT register (R307, R502, R506, R528, R549). -/
def State.portPost (s0 s : State) (w : Who) (h p off : Nat) : State :=
  let pg := pgPort h p
  if off = 0x100 then
    let x := s.sys
    { s with sys := { x with bmeCleared := x.bmeCleared.filter fun e => e.1 ≠ 5 * h + p } }.perstFall h
  else if off = 0x118 ∨ off = 0x120 ∨ off = 0x128 then
    if w.patrol then
      let s := if off = 0x128 ∧ s.get pg F.PORT_ECAM_SUB 0 < s.get pg F.PORT_ECAM_SEC 0 then s.set pg F.PORT_ECAM_VALID 0 0 else s
      State.tblCopy s0 s pg off (some (pgHub h, F.HUB_STAT_PENDING))
    else s
  else if 0x800 ≤ off then State.irtUnmask s0 s h p ((off - 0x800) / 8)
  else s

/-- After a write of a calendar entry: one that comes while the calendar is in force is discarded (R431, R480). -/
def State.calPost (s0 s : State) (w : Who) (pg off : Nat) : State :=
  if ¬ w.patrol then s
  else match pageTypeNo pg with
  | some .nmcCh => if 0x140 ≤ off ∧ off < 0x180 ∧ s0.calBusy pg then s.set pg F.NMC_CAL_STAT_REJECT 0 1 else s
  | some .router => if 0x200 ≤ off ∧ off < 0x500 ∧ s0.flag pg F.ROUTER_CAL_CTL_EN then s.set pg F.ROUTER_CAL_CTL_REJECT 0 1 else s
  | _ => s

/-- After a write of an EP register (R519, R522, R529). -/
def State.epPost (s0 s : State) (w : Who) (h off v : Nat) : State :=
  let pg := pgEp h
  if off = 0x108 then (if w.patrol ∧ bitOf v 8 then s.winCommit h else s)
  else if 0x200 ≤ off ∧ off < 0x400 ∧ w.patrol ∧ s0.flag pg F.EP_STAT_COMMIT_BUSY then s.set pg F.EP_STAT_REJECT 0 1
  else if 0x200 ≤ off ∧ off < 0x400 ∧ off % 16 = 0 then
    let n := (off - 0x200) / 16
    let z := s.get pg F.EP_WSH_LO_LOG2SZ n
    if z < 12 ∨ 40 < z then s.set pg F.EP_WSH_LO_VALID n 0 else s
  else if off = 0x900 then (if w.patrol then s.epResult h (s0.get pg F.EP_MBX_STAT_RESULT 0) (v / 2 ^ 32) else s)
  else if off = 0x908 then s.conOutWrite h (BitVec.ofNat 8 v)
  else s

/-- After a write of an HDM register (R444, R445, R448, R456-R458). -/
def State.hdmRegPost (s0 s : State) (w : Who) (h off v : Nat) : State :=
  let pg := pgHdm h
  if ¬ w.patrol then s
  else if 0x100 ≤ off ∧ off < 0x300 then
    -- a register of a valid decoder takes nothing but a DEC_CTL with VALID = 0 (R444)
    let s := if s0.flag pg F.HDM_DEC_CTL_VALID ((off - 0x100) / 0x40) ∧ ¬ (off % 0x40 = 0x10 ∧ ¬ bitOf v 63) then s.set pg F.HDM_STAT_REJECT 0 1 else s
    State.hdmPost s0 s h off
  else if off = 0x318 then (if bitOf v 3 ∧ 3 < v % 8 then s.set pg F.HDM_STAT_REJECT 0 1 else s)
  else if off = 0x308 ∧ bitOf v 63 then
    if (s.hub h).switching then s.set pg F.HDM_STAT_REJECT 0 1 else s.extCommit h
  else s

/-- After a write of an NTMAP register: entries out of range are written invalid, and every NI gets a copy (R432). -/
def State.ntmapPost (s0 s : State) (w : Who) (off : Nat) : State :=
  let bad (first ncode : Nat) : Bool := match nCode ncode with | none => true | some n => 48 < first + n
  if ¬ w.patrol ∨ 0x1B0 ≤ off then s
  else
    let s := if 0x100 ≤ off ∧ off < 0x140 then
        (let k := (off - 0x100) / 8
         if bad (s.get pgNtmap F.NTMAP_SET_FIRST k) (s.get pgNtmap F.NTMAP_SET_NCODE k) || 6 ≤ s.get pgNtmap F.NTMAP_SET_GRAIN k then
           s.set pgNtmap F.NTMAP_SET_VALID k 0 else s)
      else if off = 0x140 ∧ bad (s.get pgNtmap F.NTMAP_CACHE_FIRST 0) (s.get pgNtmap F.NTMAP_CACHE_NCODE 0) then
        s.set pgNtmap F.NTMAP_CACHE_VALID 0 0
      else s
    State.tblCopy s0 s pgNtmap off (some (pgNtmap, F.NTMAP_STAT_PENDING))

/-- After a write of a PMAP register (R536, R545). -/
def State.pmapPost (s0 s : State) (w : Who) (off v : Nat) : State :=
  let pend := some (pgPmap, F.PMAP_STAT_PENDING)
  if off = 0x100 then (if bitOf v 1 then s.tblSend [] .pmapInv pend else s)
  else if ¬ w.patrol then s
  else if 0x200 ≤ off ∧ off < 0x400 then
    let p := (off - 0x200) / 8
    if s.flag pgPmap F.PMAP_PISTE_SEALED p then (s.set pgPmap F.PMAP_PISTE_DBG p 0).set pgPmap F.PMAP_PISTE_AGENT p 0 else s
  else if 0x400 ≤ off ∧ off < 0x8A0 then State.tblCopy s0 s pgPmap off pend
  else s

/-- After a write of a RAS register (R596). -/
def State.rasPost (s : State) (off v : Nat) : State :=
  if off = 0x128 then
    if bitOf v 63 then
      let op := s.get pgRas F.RAS_OP_OP 0
      let stop := s.get pgRas F.RAS_OP_STOP 0
      if op = 2 then s.rasGo 2 stop 0xFF else s.rasGo op (s.get pgRas F.RAS_OP_TILE 0) stop
    else s
  else s

/-- After a write of a TMAP entry by the Patrol: the copy not in use takes it (R487). (DESIGN CHOICE, assumption 55) -/
def State.tmapPost (s : State) (w : Who) (off v : Nat) : State :=
  if ¬ w.patrol then s
  else if 0x100 ≤ off ∧ off < 0x600 then s.tmapWrite ((off - 0x100) / 8) (v % 256) (bitOf v 16)
  else if 0x600 ≤ off ∧ off < 0x680 then s.tmapWrite (160 + (off - 0x600) / 8) (v % 256 + 256 * b2n (bitOf v 9)) (bitOf v 8)
  else s

/-- After a write of a LIFT register (R558, R559, R567, R577). -/
def State.liftPost (s : State) (off : Nat) : State :=
  if off < 0x180 then s.psAll
  else if off = 0x198 then
    let t := s.get pgLift F.LIFT_THERM_TJMAX 0
    s.norm pgLift F.LIFT_THERM_HOT 0 (fun a => t < a) t
  else if off = 0x1C8 then
    let x := s.sys
    let keep (n : Nat) : Bool := 8 ≤ n || (bitOf (s.get pgLift F.LIFT_WAKE_CFG_EN 0) n && !bitOf (s.get pgLift F.LIFT_WAKE_CFG_EDGE 0) n)
    { s with sys := { x with wakeLevels := x.wakeLevels.filter keep } }
  else if off = 0x1D8 then s.tmrPost
  else s

/-- What a write of a register does beyond its fields. -/
def State.pagePost (s0 s : State) (w : Who) (pg off v : Nat) : State :=
  let st := pg / 256
  let h := (hubAt st).getD 0
  if off = 0x018 then State.enablePost s0 s pg
  else if off = 0x038 then (if pg = pgTmap ∧ ¬ w.patrol then s else s.errInj pg v)
  else if off < 0x100 then s
  else match pageTypeNo pg with
  | some .core => State.corePost s0 s st off v
  | some .l2 => State.l2Post s0 s st off v
  | some .pad => s.padPost w st off v
  | some .slice => if off = 0x100 ∧ w.patrol ∧ bitOf v 16 then s.drainGo st else s
  | some .router => State.calPost s0 (State.routerPost s0 s pg off) w pg off
  | some .ni => State.niPost s0 s w pg off v
  | some .lec => State.lecPost s0 s w st off v
  | some .pmu => State.pmuPost s0 s pg off v
  | some .tlift => if off = 0x100 ∨ off = 0x110 then s.psAll else s
  | some .spot => s.spotPost pg off
  | some .nmc => if off = 0x100 ∧ w.patrol ∧ bitOf v 16 then s.trainGo ((nmcAt st).getD 0) else s
  | some .nmcCh => State.calPost s0 s w pg off
  | some .hub => s
  | some .port => State.portPost s0 s w h (pg % 256 - 1) off
  | some .ep => State.epPost s0 s w h off v
  | some .hdm => State.hdmRegPost s0 s w h off v
  | some .ide =>
    if off % 0x80 < 0x28 ∧ w.patrol then s.ideEst h ((off % 0x80) / 8) else s
  | some .tmap => s.tmapPost w off v
  | some .bremap =>
    if off < 0x900 ∧ w.patrol then State.tblCopy s0 s pg off (some (pgBremap, F.BREMAP_STAT_PENDING)) else s
  | some .ntmap => State.ntmapPost s0 s w off
  | some .mesh =>
    if off = 0x100 ∧ bitOf v 8 then s.epochSwitch
    else if off = 0x110 ∧ w.patrol then s.tblSend [] (.sealed (s.get pgMesh F.MESH_SEALED_MASK 0)) none
    else if off = 0x120 ∧ bitOf v 63 then s.tblSend [] (.lost (s.get pgMesh F.MESH_LOST_STOP 0) (s.get pgMesh F.MESH_LOST_PORT 0)) none
    else s
  | some .pmap => State.pmapPost s0 s w off v
  | some .keys =>
    if 0x900 ≤ off ∧ off < 0xB00 then (if w.patrol then State.tblCopy s0 s pg off (some (pgPmap, F.PMAP_STAT_PENDING)) else s)
    else if off = 0xB00 ∧ bitOf v 16 then s.ksGo
    else s
  | some .sec => s
  | some .ras => s.rasPost off v
  | some .lift => s.liftPost off
  | none => s

/-! ### Accesses -/

/-- An admitted write of 64 bits (R4, R6, R40). -/
def State.pageWrite (s : State) (w : Who) (pg off v : Nat) : State :=
  if (fieldsAt pg off).isEmpty then s else State.pagePost s (s.fldsWrite w pg off v) w pg off v

/-- The access may change something: R38 lets a reader of an ALL_READ page read only. (DEDUCED, assumption 53) -/
def pgWrites : PgKind → Bool
  | .single wr _ => wr
  | .line | .vector => false
  | .burst | .atomic => true

/-- A page admits a requester (R38). -/
def State.pageAdmits (s : State) (w : Who) (pg : Nat) (wr : Bool) : Bool :=
  w.patrol || (s.get pg F.PAGE_OWNER_PLOCK 0 = 0 && (w.piste = s.get pg F.PAGE_OWNER_PISTE 0 || (s.flag pg F.PAGE_OWNER_ALL_READ && !wr)))

/-- A tile page does not answer: its block is off, or the PAGES gate is closing or closed to anyone but the Patrol (R22, R44, R492). -/
def State.pageClosed (s : State) (w : Who) (pg : Nat) : Bool :=
  let st := pg / 256
  let ts := s.get (pgTlift st) F.TLIFT_TSTAT_STATE 0
  isTile st && ((pg % 256 = 0 && 2 ≤ ts) || ((pg % 256 = 1 || pg % 256 = 2) && ts = 3) || (!w.patrol && s.gate st 3 ≠ .open_))

/-- An access that has reached a register page: the response, and the value of a read (R37-R44). (DESIGN CHOICE, assumption 88) -/
def State.pageAccess (s : State) (w : Who) (st slot off : Nat) (k : PgKind) (v : Nat) : State × Resp × Nat :=
  let pg := pageNo st slot
  if (pageType st slot).isNone then (s, .pageError, 0)
  else if s.pageClosed w pg then (s, .closed, 0)
  else if ¬ s.pageAdmits w pg (pgWrites k) then (s.raiseErr pg 3, .denied, 0)
  else match k with
  | .single wr 8 =>
    if off % 8 ≠ 0 then (s.raiseErr pg 0, .pageError, 0)
    else if wr then (s.pageWrite w pg off v, .ok, 0)
    else
      let (s, x) := s.pageRead w pg off
      (s, .ok, x)
  | _ => (s.raiseErr pg 0, .pageError, 0)

/-- An access to control space by its address, as its NI decodes it (R30-R34). -/
def State.ctlAccess (s : State) (w : Who) (pa : Nat) (k : PgKind) (v : Nat) : State × Resp × Nat :=
  let hi := bitsOf pa 20 8
  let slot := bitsOf pa 12 8
  let off := pa % 4096
  if inCtlStop pa then
    if 192 ≤ hi then (s, .unmapped, 0)
    else if isTile hi ∧ ¬ w.patrol then (s, .denied, 0)
    else s.pageAccess w hi slot off k v
  else if inCtlLt pa then
    match s.niLtStop w.ni.val hi with
    | none => (s, .unmapped, 0)
    | some st => if 10 ≤ slot then (s, .pageError, 0) else s.pageAccess w st slot off k v
  else (s, .unmapped, 0)

/-- A write of one register field's worth by whoever `w` is, with the response shown (R38-R40). (DESIGN CHOICE, assumption 88) -/
def State.regWrite (s : State) (w : Who) (pg off v : Nat) : State :=
  let (s, r, x) := s.pageAccess w (pg / 256) (pg % 256) off (.single true 8) v
  s.answer r (wd x)

/-- A register's value as a read-modify-write starts from it: nothing in its write-1-to-clear and write-only fields. -/
def State.rmwBase (s : State) (pg off : Nat) : Nat :=
  (fieldsAt pg off).foldl (fun v e =>
    if e.1.ty = .w1c ∨ e.1.ty = .wo then v
    else (List.range e.1.rep).foldl (fun v j => v + s.fldView pg e.1 (e.2 * e.1.rep + j) % 2 ^ e.1.w * 2 ^ (e.1.lo + e.1.rs * j)) v) 0

/-- A register's value with some fields (field, copy within the register, value) changed and every other as it stands.
(DESIGN CHOICE, assumption 11) -/
def State.rmw (s : State) (pg off : Nat) (fs : List (Fld × Nat × Nat)) : Nat :=
  fs.foldl (fun v e =>
    let lo := e.1.lo + e.1.rs * e.2.1
    v - bitsOf v lo e.1.w * 2 ^ lo + e.2.2 % 2 ^ e.1.w * 2 ^ lo) (s.rmwBase pg off)

/-- A read-modify-write of a register by `w`: some fields changed, every other as it stands. (DESIGN CHOICE, assumption 11) -/
def State.regMod (s : State) (w : Who) (pg off : Nat) (fs : List (Fld × Nat × Nat)) : State := s.regWrite w pg off (s.rmw pg off fs)

end Sys2Proof.Machine
end

