-- ==== Sys2Proof/Machine/ArrayRows.lean ====
section
/-! DEFINITION. Meanings of the commands of caches, slices, pads, near-tier channels and split records (R369-R377, R402-R405, R420-R434, R618-R622). -/

namespace Sys2Proof.Machine

/-- RANGE_ENGINE_DONE (R369): The range engine finishes, sets DONE and raises its source if enabled. -/
def execRangeEngineDone (st : Stop) (s : State) : Out := onTile st s fun s => s.rangeDone st

/-- LOCK_EMPTYING_DONE (R371): Newly locked ways finish emptying and L2_LOCK_STAT.BUSY clears. -/
def execLockEmptyingDone (st : Stop) (s : State) : Out := onTile st s fun s => s.lockEmptied st

/-- CACHE_SWEEP_READ (R376): The L2 or slice sweep reads one line every 2^K mesh cycles and handles errors found. -/
def execCacheSweepRead (st : Stop) (slice : Bool) (set way : Nat) (e : EccFound) (s : State) : Out :=
  onTile st s fun s => if slice then s.sliceSweep st set way e else s.l2Sweep st set way e

/-- SLICE_DRAIN_DONE (R358): A drain finishes and SLICE_DRAIN_STAT.DONE sets. -/
def execSliceDrainDone (st : Stop) (s : State) : Out := onTile st s fun s => s.drainDone st

/-- PAD_ZEROING_DONE (R402): Pad zeroing ends and PAD_STAT.ZEROING clears, releasing waiting requests. -/
def execPadZeroingDone (st : Stop) (s : State) : Out := onTile st s fun s => s.padZeroed st

/-- PAD_COPY_DONE (R403): The copy engine finishes its run, or stops on an error response. -/
def execPadCopyDone (st : Stop) (s : State) : Out := onTile st s fun s => s.padCopyDone st

/-- PAD_SWEEP_READ (R405): The pad sweep reads one row every 2^K mesh cycles and handles errors under R404. -/
def execPadSweepRead (st : Stop) (e : EccFound) (s : State) : Out := onTile st s fun s => s.padSweep st e

/-- NMC_REQUEST_ISSUE (R421): A channel issues the next queued request by its scheduling policy. -/
def execNmcRequestIssue (c : Fin 48) (s : State) : Out := act s fun s => s.nmcIssue c

/-- FALLBACK_SCHEDULING (R421): A full activate window or an over-age request switches the channel to per-bank rotating scheduling. -/
def execFallbackScheduling (c : Fin 48) (s : State) : Out := act s fun s => s.fallback c

/-- PAGE_IDLE_PRECHARGE (R422): A bank idle for IDLE NMC cycles is precharged. -/
def execPageIdlePrecharge (c : Fin 48) (bank : Fin 16) (s : State) : Out := act s fun s => s.idlePrecharge c bank

/-- PER_BANK_REFRESH (R423): A due per-bank refresh is issued to an idle bank. -/
def execPerBankRefresh (c : Fin 48) (bank : Fin 16) (s : State) : Out := act s fun s => s.bankRefresh c bank

/-- ALL_BANK_REFRESH (R423): Refresh postponed to the limit stops new accesses and issues all-bank refresh. -/
def execAllBankRefresh (c : Fin 48) (s : State) : Out := act s fun s => s.allRefresh c

/-- RFM (R424): A drawn refresh management command is issued to its bank when idle. -/
def execRfm (c : Fin 48) (bank : Fin 16) (s : State) : Out := act s fun s => s.rfmIssue c bank

/-- DEVICE_RFM_DEMAND (R424): The device signals an RFM demand, which the channel honours. -/
def execDeviceRfmDemand (c : Fin 48) (bank : Fin 16) (s : State) : Out := act s fun s => s.rfmDemand c bank

/-- TRAINING_DONE (R427): Training ends, setting READY or forcing failed channels OFF with TRAIN_FAIL. -/
def execTrainingDone (n : Fin 8) (fail : BitVec 6) (s : State) : Out := act s fun s => s.trainDone n fail.toNat

/-- DQS_OSCILLATOR (R427): Every OSC_PERIOD µs the channel runs the DQS interval oscillator and adjusts write timing. -/
def execDqsOscillator (_c : Fin 48) (s : State) : Out := .next s

/-- NMC_SWEEP_READ (R434): The channel sweep reads one line every 2^K NMC cycles and handles errors. -/
def execNmcSweepRead (c : Fin 48) (e : EccFound) (s : State) : Out := act s fun s => s.nmcSweep c e

/-- NEAR_CACHE_FILL (R430): A cache-channel miss returns from the hub and installs the line in its frame. -/
def execNearCacheFill (c : Fin 48) (line : Nat) (data : Line) (poison : Bool) (s : State) : Out :=
  act s fun s => s.nearFill c line .ok data poison

/-- SEGMENT_ZEROING_DONE (R425): Zeroing of unretained segments after PK1 ends and the channel serves requests. -/
def execSegmentZeroingDone (c : Fin 48) (s : State) : Out := act s fun s => s.segZeroed c

/-- CALENDAR_ACTIVATE (R431): At the next period boundary the calendar becomes active or inactive. -/
def execCalendarActivate (c : Fin 48) (s : State) : Out := act s fun s => s.calActivate c

/-- NMC_CAL_SLOT (R431): At each calendar slot the channel serves the requests that slot's kind allows. -/
def execNmcCalSlot (c : Fin 48) (s : State) : Out := act s fun s => s.calSlotRun c

/-- SPLIT_LATCH (R620): At each 2^K mesh-cycle boundary the PMU latches its counters and writes a split record. -/
def execSplitLatch (p : Nat) (s : State) : Out := act s fun s => s.splitLatch (pgPmu p)

end Sys2Proof.Machine
end

