-- ==== Sys2Proof/Machine/CarveRows.lean ====
section
/-! DEFINITION. Meanings of the carve machine's own steps: fetch, rename, dispatch, issue, lodging, landing, commit, squashes,
faults, modes (R52-R79, R109, R168, R173). -/

namespace Sys2Proof.Machine

/-- CARVE_FETCH (R52): fetch reads a carve and holds any failure in its station. -/
def execCarveFetch (st : Stop) (s : State) : Out := onTile st s fun s => s.carveFetch st

/-- RENAME (R57): rename allocates a station and registers for one carve, or stalls. -/
def execRename (st : Stop) (s : State) : Out := onTile st s fun s => s.rename st

/-- DISPATCH (R63): each free track takes the oldest READY or RESUMABLE carve. -/
def execDispatch (st : Stop) (s : State) : Out := onTile st s fun s => s.dispatch st

/-- STRIDE_ISSUE (R64): a track issues the next stride of its carve once nothing holds it. -/
def execStrideIssue (st : Stop) (trk : Fin 2) (s : State) : Out := onTile st s fun s => s.strideIssue st trk

/-- LODGE (R66): a stalled carve leaves its track. -/
def execLodge (st : Stop) (trk : Fin 2) (s : State) : Out := onTile st s fun s => s.lodge st trk

/-- RESULT_LAND (R90): an interlocked result lands. -/
def execResultLand (st : Stop) (stn : Fin 16) (tag : Nat) (s : State) : Out := onTile st s fun s => s.resultLand st stn tag

/-- CARVE_COMMIT (R70): the oldest CLOSED carve commits. -/
def execCarveCommit (st : Stop) (s : State) : Out := onTile st s fun s => s.carveCommit st

/-- OLDEST_QUEUE_SQUASH (R72): younger carves are squashed for the oldest carve's queue entries. -/
def execOldestQueueSquash (st : Stop) (s : State) : Out := onTile st s fun s => s.oldestQueueSquash st

/-- FAULT_RAISE (R79): the held fault of the oldest carve is raised. -/
def execFaultRaise (st : Stop) (s : State) : Out := onTile st s fun s => s.faultRaise st

/-- SPECULATIVE_REISSUE (R168): a read refused while speculative is reissued by the oldest carve. -/
def execSpeculativeReissue (st : Stop) (lq : Nat) (s : State) : Out := onTile st s fun s => s.specReissue st lq

/-- STUCK_STRIDE_TIMEOUT (R584): a stride stalled for the timeout ends in a trap. -/
def execStuckStrideTimeout (st : Stop) (trk : Fin 2) (s : State) : Out := onTile st s fun s => s.stuckStride st trk

/-- INTERRUPT_ACCEPT (R276, R277): the core accepts the presented source. -/
def execInterruptAccept (st : Stop) (s : State) : Out := onTile st s fun s => s.interruptAccept st

/-- ATOMIC_PERFORM (R188): an atomic of the oldest carve performs. -/
def execAtomicPerform (st : Stop) (lq : Nat) (s : State) : Out := onTile st s fun s => s.atomicPerform st lq

end Sys2Proof.Machine
end

