-- ==== Sys2Proof/Machine/ExitRows.lean ====
section
/-! DEFINITION. Meanings of the exits of slot A (R148-R157). The slot of the row is slot A whatever it says. -/

namespace Sys2Proof.Machine

/-- EXIT_R (R152): Relative exit that takes its target when its guard is true. -/
def execExitR (st : Stop) (trk : Fin 2) (_sl : Fin 4) (o : Op) (s : State) : Out :=
  onTile st s fun s => s.issueExitRow st trk 0x3C o none

/-- CALL_R (R153): Relative exit that, when taken, writes the fall-through address to g1. -/
def execCallR (st : Stop) (trk : Fin 2) (_sl : Fin 4) (o : Op) (s : State) : Out :=
  onTile st s fun s => s.issueExitRow st trk 0x3D o none

/-- EXIT_X (R148): Register exit to the address in A. -/
def execExitX (st : Stop) (trk : Fin 2) (_sl : Fin 4) (o : Op) (s : State) : Out :=
  onTile st s fun s => s.issueExitRow st trk 0x3E o (some 0)

/-- CALL_X (R153): Register exit to A that, when taken, writes the fall-through address to g1. -/
def execCallX (st : Stop) (trk : Fin 2) (_sl : Fin 4) (o : Op) (s : State) : Out :=
  onTile st s fun s => s.issueExitRow st trk 0x3E o (some 1)

/-- RET (R148): Register exit to A, predicted from the return stack. -/
def execRet (st : Stop) (trk : Fin 2) (_sl : Fin 4) (o : Op) (s : State) : Out :=
  onTile st s fun s => s.issueExitRow st trk 0x3E o (some 2)

end Sys2Proof.Machine
end

