-- ==== Sys2Proof/Machine/HubRows.lean ====
section
/-! DEFINITION. Meanings of the commands of port hubs, links, slots and the endpoint face (R306-R308, R437-R458, R501-R529, R631). -/

namespace Sys2Proof.Machine

/-- MSI (R307): An inbound write to the capture address is checked against PORT_IRT and delivered as a doorbell after earlier writes perform. -/
def execMsi (h : Fin 8) (p : Fin 5) (pa data rid : Nat) (s : State) : Out := act s fun s => s.msi h p pa data rid

/-- MSI_RETRY (R308): A doorbell refused CLOSED is sent again every 1 µs up to 64 attempts, then dropped. -/
def execMsiRetry (h : Fin 8) (p : Fin 5) (n : Fin 128) (s : State) : Out := act s fun s => s.msiRetry h p n

/-- BISNP (R438): A back-invalidate snoop is handled at the home slice and answered with BIRsp. -/
def execBisnp (h : Fin 8) (p : Fin 5) (line kind : Nat) (s : State) : Out := act s fun s => s.bisnpRecv h p line kind

/-- D2H_REQUEST (R442): A CXL.cache device request is admitted or refused with poison or drop. -/
def execD2hRequest (h : Fin 8) (p : Fin 5) (q : CacheReq) (s : State) : Out := act s fun s => s.d2h h p q

/-- H2D_SNOOP_TIMEOUT (R442): An H2D snoop unanswered for 2 ms is answered by the hub, poisoned and CXL.cache disabled. -/
def execH2dSnoopTimeout (h : Fin 8) (id : Nat) (s : State) : Out := act s fun s => s.h2dTimeout h id

/-- H2D_SNOOP_RESPONSE (R442): A CXL.cache device answers an H2D snoop, and the hub completes the snoop at the home slice. -/
def execH2dSnoopResponse (h : Fin 8) (id : Nat) (r : SnpRsp) (s : State) : Out := act s fun s => s.h2dAnswer h id r

/-- BICONFLICTACK (R439): The device's BIConflictAck arrives at the hub and orders the conflicting BISnp before or after the outstanding request. -/
def execBiconflictack (h : Fin 8) (id : Nat) (s : State) : Out := act s fun s => s.biAck h id

/-- EXTENT_SWITCHED (R448): Every lookup against the old table has finished and SWITCHED sets. -/
def execExtentSwitched (h : Fin 8) (s : State) : Out := act s fun s => s.extSwitched h

/-- CXL_LINK_DOWN (R450): A CXL.mem link going down completes outstanding requests with poison or drop and records LINK_DOWN or VIRAL. -/
def execCxlLinkDown (h : Fin 8) (p : Fin 5) (viral : Bool) (s : State) : Out :=
  act s fun s => if viral then s.cxlDown h p 3 else (s.portDown h p 2).ideEst h p

/-- S2M_RESPONSE (R452): A CXL.mem response completes its request, installing poison when indicated. -/
def execS2mResponse (h : Fin 8) (id : Nat) (r : MemRsp) (s : State) : Out := act s fun s => s.s2m h id r

/-- CXL_MEM_TIMEOUT (R453): An M2S request without completion after 2 ms completes with poison or drop and records TIMEOUT. -/
def execCxlMemTimeout (h : Fin 8) (id : Nat) (s : State) : Out := act s fun s => s.m2sTimeout h id

/-- CACHEMEM_IDE_FAIL (R455): A CXL.cachemem integrity failure makes the stream insecure and acts as a link loss with IDE_FAIL. -/
def execCachememIdeFail (h : Fin 8) (p : Fin 5) (s : State) : Out := act s fun s => s.cachememFail h p

/-- INBOUND_REQUEST (R509): An inbound memory TLP is checked, cut into mesh requests and answered. -/
def execInboundRequest (h : Fin 8) (p : Fin 5) (t : Tlp) (s : State) : Out := act s fun s => s.inbound h p t

/-- PF1_REQUEST (R521): An inbound request to PF1 BAR2 is matched against the active window bank and forwarded or refused. -/
def execPf1Request (h : Fin 8) (t : Tlp) (s : State) : Out := act s fun s => s.pf1Request h t

/-- TLP_COMPLETION (R508): A completion from the device completes an outbound request. -/
def execTlpCompletion (h : Fin 8) (p : Fin 5) (id : Nat) (c : Cpl) (s : State) : Out :=
  act s fun s => s.tlpDone h p id c

/-- COMPLETION_TIMEOUT (R508): An outbound request with no completion within PORT_CTO completes with all ones and logs CTO. -/
def execCompletionTimeout (h : Fin 8) (p : Fin 5) (id : Nat) (s : State) : Out := act s fun s => s.outTimeout h p id

/-- SSC_FRAME (R514): The hub runs one slot shift chain frame, latching outputs and sampling slot inputs. -/
def execSscFrame (h : Fin 8) (ins : List SlotIn) (s : State) : Out := act s fun s => s.sscFrame h ins

/-- SLOT_CONTROL_WRITE (R515): A write of Slot Control is applied at a following frame and sets Command Completed. -/
def execSlotControlWrite (_w : Who) (h : Fin 8) (p : Fin 5) (v : BitVec 16) (s : State) : Out :=
  act s fun s => s.slotControl h p v.toNat

/-- PGOOD_TIMEOUT (R516): PGOOD absent 100 ms after PWR_EN sets Power Fault Detected and clears PWR_EN. -/
def execPgoodTimeout (h : Fin 8) (p : Fin 5) (s : State) : Out := act s fun s => s.pgoodTimeout h p

/-- SLOT_PERST_RELEASE (R516): 100 ms after PGOOD the hub sets PERST_N and link training starts. -/
def execSlotPerstRelease (h : Fin 8) (p : Fin 5) (s : State) : Out := act s fun s => s.slotPerst h p

/-- SLOT_POWER_OFF (R516): Seven frames after PERST_N falls the hub clears REFCLK_EN and PWR_EN. -/
def execSlotPowerOff (h : Fin 8) (p : Fin 5) (s : State) : Out := act s fun s => s.slotOff h p

/-- LINK_DOWN (R517): A PCIe link leaving DL_Active completes outstanding requests with LINK_DOWN. -/
def execLinkDown (h : Fin 8) (p : Fin 5) (s : State) : Out := act s fun s => (s.portDown h p 2).ideEst h p

/-- LINK_IDE_FAIL (R505): A link IDE integrity failure makes the stream insecure and takes the port down. -/
def execLinkIdeFail (h : Fin 8) (p : Fin 5) (s : State) : Out := act s fun s => (s.linkIdeFail h p).ideEst h p

/-- LINK_UP (R517): A port's link finishes training and reaches DL_Active, setting PORT_STAT.LINK_UP and Data Link Layer State Changed and ending the LINK_DOWN completion regime. -/
def execLinkUp (h : Fin 8) (p : Fin 5) (gen width : Nat) (flit : Bool) (s : State) : Out :=
  act s fun s => (s.linkTrain h p gen width flit).ideEst h p

/-- LANE_SPARE (R599): A failed SerDes lane makes the port reduce its width. -/
def execLaneSpare (h : Fin 8) (p : Fin 5) (width : Nat) (s : State) : Out := act s fun s => s.laneSpare h p width

/-- PERST_N_RELEASE (R631): 100 ms after REFCLK runs and a non-hot-plug port is set active, PERST_N of the group goes high. -/
def execPerstNRelease (g : Nat) (s : State) : Out := act s fun s => s.perstRelease g

/-- EP_MAILBOX_RING (R519): A composer write to PF0 BAR0 0x0100 rings the mailbox. -/
def execEpMailboxRing (h : Fin 8) (seq : Nat) (words : List Word) (s : State) : Out :=
  act s fun s => (s.epRing h seq words).pkEdge 8

/-- CONSOLE_IN_WRITE (R519): A composer write of a console byte makes it available in EP_CON.IN. -/
def execConsoleInWrite (h : Fin 8) (b : Byte) (s : State) : Out := act s fun s => s.conIn h b

/-- CONSOLE_OUT_READ (R519): A composer read of console out returns and consumes the waiting byte. -/
def execConsoleOutRead (h : Fin 8) (s : State) : Out := act s fun s => s.conOutRead h

/-- PF0_BME_CLEAR (R520): Clearing PF0 Bus Master Enable holds new requests and MSI-X messages until it is set again. -/
def execPf0BmeClear (h : Fin 8) (pf : Fin 2) (v : Bool) (s : State) : Out := act s fun s => s.epBme h pf v

/-- WINDOW_COPY_DONE (R522): The copy of the new active bank into the shadow bank ends and COMMIT_BUSY clears. -/
def execWindowCopyDone (h : Fin 8) (s : State) : Out := act s fun s => s.winCopied h

/-- PF1_EVT_READ (R524): A read of PF1_EVT returns and clears COMMITTED and REFUSED. -/
def execPf1EvtRead (h : Fin 8) (s : State) : Out := act s fun s => s.pf1EvtRead h

/-- FLR (R525): A function-level reset stops the function's TLPs and returns its state to reset. -/
def execFlr (h : Fin 8) (pf : Fin 2) (s : State) : Out := act s fun s => s.flr h pf

/-- FLR_DONE (R525): The FLR completes, sets FLR_DONE and sends the page event. -/
def execFlrDone (h : Fin 8) (pf : Fin 2) (s : State) : Out := act s fun s => s.flrDone h pf

end Sys2Proof.Machine
end

