-- ==== Sys2Proof/Machine/IntegerRows.lean ====
section
/-! DEFINITION. Meanings of the integer, shift, multiply, divide, compare, predicate and constant operations of a stride (R124-R132): each issues the next stride of the carve on a track
with that operation in it. -/

namespace Sys2Proof.Machine

/-- ALU (R124): Opcode 0x00 computes the integer function F selects into D. -/
def execAlu (st : Stop) (trk : Fin 2) (sl : Fin 4) (o : Op) (s : State) : Out :=
  onTile st s fun s => s.issueRow st trk sl 0x00 o.f.toNat o

/-- SHIFT (R125): Opcode 0x01 computes the shift, count or extension F selects into D. -/
def execShift (st : Stop) (trk : Fin 2) (sl : Fin 4) (o : Op) (s : State) : Out :=
  onTile st s fun s => s.issueRow st trk sl 0x01 o.f.toNat o

/-- MUL (R127): Opcode 0x02 computes the multiply F selects with latency 3. -/
def execMul (st : Stop) (trk : Fin 2) (sl : Fin 4) (o : Op) (s : State) : Out :=
  onTile st s fun s => s.issueRow st trk sl 0x02 o.f.toNat o

/-- DIV (R128): Opcode 0x03 computes a divide or remainder, interlocked and occupying the divider. -/
def execDiv (st : Stop) (trk : Fin 2) (sl : Fin 4) (o : Op) (s : State) : Out :=
  onTile st s fun s => s.issueRow st trk sl 0x03 o.f.toNat o

/-- ADDI (R126): Adds the sign-extended immediate to A. -/
def execAddi (st : Stop) (trk : Fin 2) (sl : Fin 4) (o : Op) (s : State) : Out :=
  onTile st s fun s => s.issueRow st trk sl 0x08 o.f.toNat o

/-- ANDI (R126): ANDs the sign-extended immediate with A. -/
def execAndi (st : Stop) (trk : Fin 2) (sl : Fin 4) (o : Op) (s : State) : Out :=
  onTile st s fun s => s.issueRow st trk sl 0x09 o.f.toNat o

/-- ORI (R126): ORs the sign-extended immediate with A. -/
def execOri (st : Stop) (trk : Fin 2) (sl : Fin 4) (o : Op) (s : State) : Out :=
  onTile st s fun s => s.issueRow st trk sl 0x0A o.f.toNat o

/-- XORI (R126): XORs the sign-extended immediate with A. -/
def execXori (st : Stop) (trk : Fin 2) (sl : Fin 4) (o : Op) (s : State) : Out :=
  onTile st s fun s => s.issueRow st trk sl 0x0B o.f.toNat o

/-- SLLI (R126): Shifts A left by imm[5:0]. -/
def execSlli (st : Stop) (trk : Fin 2) (sl : Fin 4) (o : Op) (s : State) : Out :=
  onTile st s fun s => s.issueRow st trk sl 0x0C o.f.toNat o

/-- SRLI (R126): Shifts A right with zero fill by imm[5:0]. -/
def execSrli (st : Stop) (trk : Fin 2) (sl : Fin 4) (o : Op) (s : State) : Out :=
  onTile st s fun s => s.issueRow st trk sl 0x0D o.f.toNat o

/-- SRAI (R126): Shifts A right with sign fill by imm[5:0]. -/
def execSrai (st : Stop) (trk : Fin 2) (sl : Fin 4) (o : Op) (s : State) : Out :=
  onTile st s fun s => s.issueRow st trk sl 0x0E o.f.toNat o

/-- RORI (R126): Rotates A right by imm[5:0]. -/
def execRori (st : Stop) (trk : Fin 2) (sl : Fin 4) (o : Op) (s : State) : Out :=
  onTile st s fun s => s.issueRow st trk sl 0x0F o.f.toNat o

/-- CMP (R129): Opcode 0x20 sets predicate D from the register comparison F selects. -/
def execCmp (st : Stop) (trk : Fin 2) (sl : Fin 4) (o : Op) (s : State) : Out :=
  onTile st s fun s => s.issueRow st trk sl 0x20 o.f.toNat o

/-- CMPEQI (R130): Sets predicate D when A equals the sign-extended immediate. -/
def execCmpeqi (st : Stop) (trk : Fin 2) (sl : Fin 4) (o : Op) (s : State) : Out :=
  onTile st s fun s => s.issueRow st trk sl 0x21 o.f.toNat o

/-- CMPNEI (R130): Sets predicate D when A differs from the sign-extended immediate. -/
def execCmpnei (st : Stop) (trk : Fin 2) (sl : Fin 4) (o : Op) (s : State) : Out :=
  onTile st s fun s => s.issueRow st trk sl 0x22 o.f.toNat o

/-- CMPLTI (R130): Sets predicate D when A is signed-less than the immediate. -/
def execCmplti (st : Stop) (trk : Fin 2) (sl : Fin 4) (o : Op) (s : State) : Out :=
  onTile st s fun s => s.issueRow st trk sl 0x23 o.f.toNat o

/-- CMPGEI (R130): Sets predicate D when A is signed-greater or equal to the immediate. -/
def execCmpgei (st : Stop) (trk : Fin 2) (sl : Fin 4) (o : Op) (s : State) : Out :=
  onTile st s fun s => s.issueRow st trk sl 0x24 o.f.toNat o

/-- CMPLTUI (R130): Sets predicate D when A is unsigned-less than the sign-extended immediate. -/
def execCmpltui (st : Stop) (trk : Fin 2) (sl : Fin 4) (o : Op) (s : State) : Out :=
  onTile st s fun s => s.issueRow st trk sl 0x25 o.f.toNat o

/-- CMPGEUI (R130): Sets predicate D when A is unsigned-greater or equal to the sign-extended immediate. -/
def execCmpgeui (st : Stop) (trk : Fin 2) (sl : Fin 4) (o : Op) (s : State) : Out :=
  onTile st s fun s => s.issueRow st trk sl 0x26 o.f.toNat o

/-- PLOG (R131): Opcode 0x27 computes the predicate logic or conversion F selects. -/
def execPlog (st : Stop) (trk : Fin 2) (sl : Fin 4) (o : Op) (s : State) : Out :=
  onTile st s fun s => s.issueRow st trk sl 0x27 o.f.toNat o

/-- LI (R132): Loads the sign-extended immediate into D. -/
def execLi (st : Stop) (trk : Fin 2) (sl : Fin 4) (o : Op) (s : State) : Out :=
  onTile st s fun s => s.issueRow st trk sl 0x28 o.f.toNat o

/-- LIH (R132): Keeps the low 36 bits of A and inserts imm[27:0] at bit 36. -/
def execLih (st : Stop) (trk : Fin 2) (sl : Fin 4) (o : Op) (s : State) : Out :=
  onTile st s fun s => s.issueRow st trk sl 0x29 o.f.toNat o

/-- CADR (R132): Writes the carve address plus the sign-extended immediate to D. -/
def execCadr (st : Stop) (trk : Fin 2) (sl : Fin 4) (o : Op) (s : State) : Out :=
  onTile st s fun s => s.issueRow st trk sl 0x2A o.f.toNat o

/-- IMX (R119): Extends the immediate of the next present slot of its stride to 36 bits. -/
def execImx (st : Stop) (trk : Fin 2) (sl : Fin 4) (o : Op) (s : State) : Out :=
  onTile st s fun s => s.issueImx st trk sl o

end Sys2Proof.Machine
end

