-- ==== Sys2Proof/Machine/LiftRows.lean ====
section
/-! DEFINITION. Meanings of the commands of the Lift, the event controllers' watchdogs, and of error reports and repair (R303, R310, R546-R550, R558-R600). -/

namespace Sys2Proof.Machine

/-- WATCHDOG_FIRST_STAGE (R310): The watchdog count reaching PERIOD x 1,024 makes source 12 pending. -/
def execWatchdogFirstStage (st : Stop) (s : State) : Out := onTile st s fun s => s.wdogFirst st

/-- WATCHDOG_EXPIRY (R310): The watchdog count reaching twice the period reports expiry to the Patrol and stops counting. -/
def execWatchdogExpiry (st : Stop) (s : State) : Out := onTile st s fun s => s.wdogExpire st

/-- SENSOR_FIRE (R547): A security sensor fires and hardware applies its level, sets EVENT and raises notices. -/
def execSensorFire (sn : Fin 6) (src : Option (Fin 64)) (s : State) : Out :=
  act s fun s => s.sensorFire sn (src.map fun p => p.val)

/-- PSTATE_MOVE (R560): A tile ramps voltage and changes frequency to its newly granted state. -/
def execPstateMove (st : Stop) (s : State) : Out := onTile st s fun s => s.psMove st

/-- POWER_ESTIMATE (R561): Every 10 µs the Lift estimates package power and moves CAP. -/
def execPowerEstimate (watts : Nat) (temps : List Int) (s : State) : Out := act s fun s => s.powerEstimate watts temps

/-- TILE_STATE_ENTRY (R563): A tile whose oldest carve holds WFI with nothing presentable enters TARGET. -/
def execTileStateEntry (st : Stop) (s : State) : Out := onTile st s fun s => s.tileEntry st

/-- TILE_WAKE (R564): A tile wakes from T1, T2 or T3, restoring or resetting its core state. -/
def execTileWake (st : Stop) (s : State) : Out := onTile st s fun s => s.tileWake st

/-- WAKE_EVENT (R567): A level or edge wake event reaches the Lift. -/
def execWakeEvent (e : WakeEv) (s : State) : Out := act s fun s => s.wakeEvent e

/-- WAKE_TOKEN_GRANT (R573): Each Lift cycle free tokens are granted to waiting tiles in logical order. -/
def execWakeTokenGrant (s : State) : Out := act s fun s => s.tokenGrant

/-- WAKE_TOKEN_RETURN (R573): A spent token returns 200 Lift cycles after its power-up began. -/
def execWakeTokenReturn (s : State) : Out := act s fun s => s.tokenReturn

/-- PK1_ENTRY (R570): With every tile in T2 or T3 for DELAY, the Lift runs prepare and commit into PK1. -/
def execPk1Entry (refuse : Option Refuser) (s : State) : Out := act s fun s => s.pk1Entry refuse

/-- PK1_EXIT (R572): A wake event in PK1 returns the NMCs, mesh and hubs to PK0. -/
def execPk1Exit (s : State) : Out := act s fun s => s.pk1Exit

/-- LIFT_HANDSHAKE_TIMEOUT (R583): A participant silent for 100 µs counts as refusing, or a tile without power-good is marked failed. -/
def execLiftHandshakeTimeout (r : Refuser) (s : State) : Out :=
  act s fun s => (s.handshakeTimeout r.kind r.index r.reason).rasAdvance

/-- LIFT_WAKE_TMR (R567): The chrono reaching LIFT_WAKE_TMR asserts a level wake. -/
def execLiftWakeTmr (s : State) : Out := act s fun s => s.wakeTmr

/-- RAS_REPORT (R579): A class error report writes a machine-check record and raises the class source at the target tile. -/
def execRasReport (r : ErrReport) (s : State) : Out :=
  act s fun s => (s.rasReport (pageNo r.page.stop r.page.slot) r.cls (r.pa.getD 0)).rasAdvance

/-- AGING_MONITOR_READ (R590): Once a second the Lift reads each tile's aging margin and reports wear below AGE_PS. -/
def execAgingMonitorRead (margins : List (Stop × Nat)) (s : State) : Out :=
  act s fun s => (s.agingRead (margins.map fun m => (m.1.val, m.2))).rasAdvance

/-- CLAIM_WATCHDOG (R586): An active-stack entry without COMPLETE by RAS_TMO.CLAIM is removed and reported. -/
def execClaimWatchdog (st : Stop) (act : Fin 2) (s : State) : Out := onTile st s fun s => s.claimWatchdog st act

/-- PATROL_WATCHDOG (R587): A Patrol pair that misses its 1 s kick is reset and reauthenticates. -/
def execPatrolWatchdog (_pair : Fin 2) (s : State) : Out := act s fun s => s.patrolWatchdog

/-- WIRE_SPARE (R599): A failed die-to-die wire is replaced by a spare and failed flits are replayed. -/
def execWireSpare (st : Stop) (dir : Fin 4) (s : State) : Out := act s fun s => s.wireSpare st dir

/-- LINK_LOSS (R599): A third failed wire loses the link, whose routers absorb flits until rerouted. -/
def execLinkLoss (st : Stop) (dir : Fin 4) (s : State) : Out := act s fun s => s.linkLoss st dir

end Sys2Proof.Machine
end

