-- ==== Sys2Proof/Machine/MemoryRows.lean ====
section
/-! DEFINITION. Meanings of the loads, stores, atomics, prefetch, maintenance and invalidation operations of slot M (R176-R189, R337-R342, R362-R366): each issues the next stride of the carve on a track
with that operation in it. -/

namespace Sys2Proof.Machine

/-- LD_B (R181): Loads a byte, sign-extended. -/
def execLdB (st : Stop) (trk : Fin 2) (sl : Fin 4) (o : Op) (s : State) : Out :=
  onTile st s fun s => s.issueRow st trk sl 0x40 o.f.toNat o

/-- LD_BU (R181): Loads a byte, zero-extended. -/
def execLdBu (st : Stop) (trk : Fin 2) (sl : Fin 4) (o : Op) (s : State) : Out :=
  onTile st s fun s => s.issueRow st trk sl 0x41 o.f.toNat o

/-- LD_H (R181): Loads two bytes, sign-extended. -/
def execLdH (st : Stop) (trk : Fin 2) (sl : Fin 4) (o : Op) (s : State) : Out :=
  onTile st s fun s => s.issueRow st trk sl 0x42 o.f.toNat o

/-- LD_HU (R181): Loads two bytes, zero-extended. -/
def execLdHu (st : Stop) (trk : Fin 2) (sl : Fin 4) (o : Op) (s : State) : Out :=
  onTile st s fun s => s.issueRow st trk sl 0x43 o.f.toNat o

/-- LD_W (R181): Loads four bytes, sign-extended. -/
def execLdW (st : Stop) (trk : Fin 2) (sl : Fin 4) (o : Op) (s : State) : Out :=
  onTile st s fun s => s.issueRow st trk sl 0x44 o.f.toNat o

/-- LD_WU (R181): Loads four bytes, zero-extended. -/
def execLdWu (st : Stop) (trk : Fin 2) (sl : Fin 4) (o : Op) (s : State) : Out :=
  onTile st s fun s => s.issueRow st trk sl 0x45 o.f.toNat o

/-- LD_D (R181): Loads eight bytes. -/
def execLdD (st : Stop) (trk : Fin 2) (sl : Fin 4) (o : Op) (s : State) : Out :=
  onTile st s fun s => s.issueRow st trk sl 0x46 o.f.toNat o

/-- LDF_D (R181): Loads eight bytes into an FP register. -/
def execLdfD (st : Stop) (trk : Fin 2) (sl : Fin 4) (o : Op) (s : State) : Out :=
  onTile st s fun s => s.issueRow st trk sl 0x47 o.f.toNat o

/-- LDF_W (R181): Loads four bytes into an FP register, boxed. -/
def execLdfW (st : Stop) (trk : Fin 2) (sl : Fin 4) (o : Op) (s : State) : Out :=
  onTile st s fun s => s.issueRow st trk sl 0x48 o.f.toNat o

/-- LDF_H (R181): Loads two bytes into an FP register, boxed. -/
def execLdfH (st : Stop) (trk : Fin 2) (sl : Fin 4) (o : Op) (s : State) : Out :=
  onTile st s fun s => s.issueRow st trk sl 0x49 o.f.toNat o

/-- ST_B (R181): Stores the low byte of D. -/
def execStB (st : Stop) (trk : Fin 2) (sl : Fin 4) (o : Op) (s : State) : Out :=
  onTile st s fun s => s.issueRow st trk sl 0x4A o.f.toNat o

/-- ST_H (R181): Stores the low two bytes of D. -/
def execStH (st : Stop) (trk : Fin 2) (sl : Fin 4) (o : Op) (s : State) : Out :=
  onTile st s fun s => s.issueRow st trk sl 0x4B o.f.toNat o

/-- ST_W (R181): Stores the low four bytes of D. -/
def execStW (st : Stop) (trk : Fin 2) (sl : Fin 4) (o : Op) (s : State) : Out :=
  onTile st s fun s => s.issueRow st trk sl 0x4C o.f.toNat o

/-- ST_D (R181): Stores eight bytes of D. -/
def execStD (st : Stop) (trk : Fin 2) (sl : Fin 4) (o : Op) (s : State) : Out :=
  onTile st s fun s => s.issueRow st trk sl 0x4D o.f.toNat o

/-- STF_D (R181): Stores eight bytes of fD. -/
def execStfD (st : Stop) (trk : Fin 2) (sl : Fin 4) (o : Op) (s : State) : Out :=
  onTile st s fun s => s.issueRow st trk sl 0x4E o.f.toNat o

/-- STF_W (R181): Stores the low four bytes of fD. -/
def execStfW (st : Stop) (trk : Fin 2) (sl : Fin 4) (o : Op) (s : State) : Out :=
  onTile st s fun s => s.issueRow st trk sl 0x4F o.f.toNat o

/-- STF_H (R181): Stores the low two bytes of fD. -/
def execStfH (st : Stop) (trk : Fin 2) (sl : Fin 4) (o : Op) (s : State) : Out :=
  onTile st s fun s => s.issueRow st trk sl 0x50 o.f.toNat o

/-- LDX (R182): Indexed load at A + B of the kind F selects. -/
def execLdx (st : Stop) (trk : Fin 2) (sl : Fin 4) (o : Op) (s : State) : Out :=
  onTile st s fun s => s.issueRow st trk sl 0x51 o.f.toNat o

/-- STX (R182): Indexed store at A + B of the kind F selects. -/
def execStx (st : Stop) (trk : Fin 2) (sl : Fin 4) (o : Op) (s : State) : Out :=
  onTile st s fun s => s.issueRow st trk sl 0x52 o.f.toNat o

/-- LD_ACQ (R182): Acquire load at A that holds later memory operations until it performs. -/
def execLdAcq (st : Stop) (trk : Fin 2) (sl : Fin 4) (o : Op) (s : State) : Out :=
  onTile st s fun s => s.issueRow st trk sl 0x53 o.f.toNat o

/-- ST_REL (R182): Release store at A ordered after every earlier access. -/
def execStRel (st : Stop) (trk : Fin 2) (sl : Fin 4) (o : Op) (s : State) : Out :=
  onTile st s fun s => s.issueRow st trk sl 0x54 o.f.toNat o

/-- AMO (R185): Relaxed 8-byte atomic read-modify-write returning the old value. -/
def execAmo (st : Stop) (trk : Fin 2) (sl : Fin 4) (o : Op) (s : State) : Out :=
  onTile st s fun s => s.issueRow st trk sl 0x55 o.f.toNat o

/-- AMO_W (R185): Relaxed 4-byte atomic read-modify-write returning the old value sign-extended. -/
def execAmoW (st : Stop) (trk : Fin 2) (sl : Fin 4) (o : Op) (s : State) : Out :=
  onTile st s fun s => s.issueRow st trk sl 0x56 o.f.toNat o

/-- AMO_AR (R185): 8-byte atomic with acquire and release ordering. -/
def execAmoAr (st : Stop) (trk : Fin 2) (sl : Fin 4) (o : Op) (s : State) : Out :=
  onTile st s fun s => s.issueRow st trk sl 0x57 o.f.toNat o

/-- AMO_W_AR (R185): 4-byte atomic with acquire and release ordering. -/
def execAmoWAr (st : Stop) (trk : Fin 2) (sl : Fin 4) (o : Op) (s : State) : Out :=
  onTile st s fun s => s.issueRow st trk sl 0x58 o.f.toNat o

/-- CAS (R186): Compares memory with D and writes B on equality, returning the old value. -/
def execCas (st : Stop) (trk : Fin 2) (sl : Fin 4) (o : Op) (s : State) : Out :=
  onTile st s fun s => s.issueRow st trk sl 0x59 o.f.toNat o

/-- PREF (R184): Requests a line into the named cache level with a speculative mark, never faulting. -/
def execPref (st : Stop) (trk : Fin 2) (sl : Fin 4) (o : Op) (s : State) : Out :=
  onTile st s fun s => s.issueRow st trk sl 0x5A o.f.toNat o

/-- CLEAN (R363): Writes back dirty copies of the line or set/way at the named scope. -/
def execClean (st : Stop) (trk : Fin 2) (sl : Fin 4) (o : Op) (s : State) : Out :=
  onTile st s fun s => s.issueRow st trk sl 0x5B (o.f.toNat / 4 * 4 + 0) o

/-- INVAL (R363): Discards copies of the line or set/way at the named scope, dirty data included. -/
def execInval (st : Stop) (trk : Fin 2) (sl : Fin 4) (o : Op) (s : State) : Out :=
  onTile st s fun s => s.issueRow st trk sl 0x5B (o.f.toNat / 4 * 4 + 1) o

/-- CLINV (R363): Writes back dirty copies and then removes the line at the named scope. -/
def execClinv (st : Stop) (trk : Fin 2) (sl : Fin 4) (o : Op) (s : State) : Out :=
  onTile st s fun s => s.issueRow st trk sl 0x5B (o.f.toNat / 4 * 4 + 2) o

/-- LOCKFILL (R372): Moves or fills the line into an empty locked L2 way of its set, or sets NOROOM. -/
def execLockfill (st : Stop) (trk : Fin 2) (sl : Fin 4) (o : Op) (s : State) : Out :=
  onTile st s fun s => s.issueRow st trk sl 0x5B (o.f.toNat / 4 * 4 + 3) o

/-- XINV_AD (R338): At commit removes translations of the address and tag, broadcasting for PISTE scope. -/
def execXinvAd (st : Stop) (trk : Fin 2) (sl : Fin 4) (o : Op) (s : State) : Out :=
  onTile st s fun s => s.issueRow st trk sl 0x5C (o.f.toNat / 4 * 4 + 0) o

/-- XINV_TAG (R338): At commit removes non-global translations of the tag, broadcasting for PISTE scope. -/
def execXinvTag (st : Stop) (trk : Fin 2) (sl : Fin 4) (o : Op) (s : State) : Out :=
  onTile st s fun s => s.issueRow st trk sl 0x5C (o.f.toNat / 4 * 4 + 1) o

/-- XINV_ALL (R338): At commit removes every translation the level may name, broadcasting for PISTE scope. -/
def execXinvAll (st : Stop) (trk : Fin 2) (sl : Fin 4) (o : Op) (s : State) : Out :=
  onTile st s fun s => s.issueRow st trk sl 0x5C (o.f.toNat / 4 * 4 + 2) o

/-- XWAIT (R342): Holds its stride until earlier PISTE-scope XINVs are acknowledged and earlier stores performed. -/
def execXwait (st : Stop) (trk : Fin 2) (sl : Fin 4) (o : Op) (s : State) : Out :=
  onTile st s fun s => s.issueRow st trk sl 0x5C (o.f.toNat / 4 * 4 + 3) o

end Sys2Proof.Machine
end

