-- ==== Sys2Proof/Machine/Deliver.lean ====
section
/-! DEFINITION. Whom the response to a request of an NI reaches, and how an NI ends a transaction without one (R168, R213, R218, R290,
R342, R352, R486, R490, R585, R599). -/

namespace Sys2Proof.Machine

/-- The hub of an NI. -/
def niHub (n : Nat) : Nat := (hubAt n).getD 0

/-- The mesh refused an event of a page (R41). -/
def State.evtRefused (s : State) (pg : Option Nat) (r : Resp) : State :=
  match pg with
  | some p => if r = .ok then s else s.set p F.PAGE_STAT_EVT_DROP 0 1
  | none => s

/-- An access of a service has its response. -/
def State.svcRsp (s : State) (id : Nat) (r : Resp) : State :=
  let x := s.sys
  { s with sys := { x with svcs := x.svcs.map fun v => if v.id = id then { v with out := false, bad := v.bad || r ≠ .ok } else v } }

/-- The response to a request, handed to whoever sent it; `pin`, `nt` and `key` are the marks and the key select a snoop's
answer carries. -/
def State.deliver (s : State) (n : Nat) (q : Req) (op : Nat) (r : Resp) (d : Line) (poison : Nat) (pin nt : Bool) (key : Nat) : State :=
  let bad : Bool := poison ≠ 0
  match q.org with
  | .fill line => s.fillRsp n line r d bad pin
  | .load lq off => s.loadRsp n lq off q r d poison
  | .store sq => s.storeRsp n sq r
  | .wcBuf _ => s.wcRsp n q r
  | .atom lq => s.atomRsp n lq r d poison
  | .adUpdate a => s.adRsp n a r poison
  | .maint sq => s.maintRsp n sq q r
  | .range line => s.rangeRsp n line q r
  | .victim _ => s
  | .xinv id => s.xinvRsp n id
  | .event pg => s.evtRefused pg r
  | .snoop tx stop => s.snoopAnswer n tx stop (if op = 0x30 ∧ r = .ok then some (d, bad) else none) pin nt key
  | .mem tx => s.homeMemRsp n tx r d bad
  | .memWb => s
  | .inbound id => s.inRsp (niHub n) id q r d poison
  | .nearFill c line => s.nearFill c line r d bad
  | .nearWb c line => s.modChan c fun x => { x with victims := x.victims.erase line }
  | .split pg => s.splitRsp pg r q.pa d
  | .trace st p => if r = .ok then s else s.set (pgSpot st) F.SPOT_TCTL_TERR p 1
  | .patrol => s.answer r (wd (leNat (lineGet d (q.pa % 64) 8)))
  | .fetchNc pa => s.fetchNcRsp n pa q r d poison
  | .prefLlc _ => s
  | .d2h id => s.d2hRsp (niHub n) id r d bad
  | .bisnp id => s.bisnpRsp (niHub n) id d
  | .nearPass c f => s.nearPassRsp c f op r d bad
  | .msi id => s.msiRsp (niHub n) id r
  | .svc id => s.svcRsp id r

/-- The half of a split access whose other half was refused: nothing was sent for it (R201). -/
def State.deliverUnsent (s : State) (n : Nat) (q : Req) : State :=
  match q.org with
  | .fill line => s.fillUnsent n line q.pair
  | _ => s.deliver n q (if q.op = 3 then 0x30 else 0x31) .ok 0 0 false false 0

/-- A request of a core: a store, a write-combining buffer or a maintenance action (R218). -/
def coreWrite : Org → Bool
  | .store _ | .wcBuf _ | .maint _ => true
  | _ => false

/-- A request a hub sent on behalf of a device (R585). -/
def hubOrg : Org → Bool
  | .inbound _ | .d2h _ | .bisnp _ | .msi _ => true
  | _ => false

/-- An NI completes a transaction itself (R585, R599). (DEDUCED, assumption 56) -/
def State.niComplete (s : State) (n : Nat) (q : Req) (lost : Bool) : State :=
  match q.org with
  | .xinv id => (s.xinvRsp n id).set (pgCore n) F.CORE_TLB_STAT_ACK_TMO 0 1
  | o =>
    if coreWrite o then s.deliver n q 0x31 (if lost then .linkLost else .closed) 0 0 false false 0
    else if hubOrg o then s.deliver n q 0x31 .closed 0 0 false false 0
    else if q.op ≤ 3 ∨ q.op = 7 ∨ q.op = 0x20 then
      let (d, s) := s.freeLine
      s.deliver n q 0x30 .ok d 255 false false 0
    else s.deliver n q 0x31 .closed 0 0 false false 0

/-- The route word an NI's array of an epoch holds for a stop, where the entry is valid (R470, R485). -/
def State.routeTo (s : State) (n : Nat) (epoch : Bool) (dst : Nat) : Option Nat :=
  let i := b2n epoch * 192 + niStop dst
  if s.flag (pgNi n) F.NI_ROUTE_VALID i then
    let r := s.get (pgNi n) F.NI_ROUTE_ROUTE i
    some (r - bitsOf r 38 1 * 2 ^ 38 + niPort dst * 2 ^ 38)
  else none

/-- The flit of a request (R465, R481). -/
def State.reqFlit (s : State) (n : Nat) (q : Req) (dst tag route piste : Nat) (shared : Bool) : Flit :=
  { op := q.op
    cls := q.cls
    src := Fin.ofNat 194 n
    dst := Fin.ofNat 194 dst
    tag := tag
    epoch := (s.ni n).epoch
    piste := piste
    key := q.key
    spec := q.spec
    poison := q.poison
    status := .ok
    noalloc := q.noalloc
    pin := q.pin
    addr := q.pa
    be := q.be
    tkt := false
    grant := shared
    cal := bitOf (s.get (pgNi n) F.NI_SEALED_MASK 0) piste
    dlvc := false
    route := route
    hop := 0
    payload := q.data }

/-- A mesh event of an NI: at a tile or an agent stop, in that stop's PMU (R615, R616). The Patrol's NI has none. -/
def State.niEvent (s : State) (n code piste : Nat) : State := if n < 192 then s.meshEvent n code piste 1 else s

/-- The piste a request is checked under and carries (R535): a tile's own requests have its NI's. -/
def State.reqPiste (s : State) (n : Nat) (q : Req) : Nat :=
  match q.org with
  | .fill _ | .load _ _ | .store _ | .wcBuf _ | .atom _ | .adUpdate _ | .maint _ | .range _ | .victim _ | .xinv _ | .fetchNc _
  | .prefLlc _ => s.tilePiste n
  | _ => q.piste

/-- A shared ticket goes back to its target (R477). -/
def State.tktRet (s : State) (n : Nat) (tgt : NiId) (cls : Nat) : State :=
  let q := { Req.plain 0x33 1 0 .memWb with be := cls }
  match s.routeTo n (s.ni n).epoch tgt.val with
  | some r => s.niOffer n { s.reqFlit n q tgt.val 0 r 0 false with cal := false }
  | none => s

/-- Reclaim a transaction: sent once more on the new route, or ended by the NI (R490, R585, R599). -/
def State.reclaim (s : State) (n : Nat) (o : Outst) (lost : Bool) : State :=
  let cur := (s.ni n).epoch
  let q := o.req
  let same (x : Outst) : Bool := x.tag = o.tag && x.epoch = o.epoch
  let again : Bool := o.epoch ≠ cur && (q.op = 1 || q.op = 2 || q.op = 8) && !o.retried
  match (if again then s.routeTo n cur o.tgt.val else none) with
  | some route =>
    let s := (s.inc (pgNi n) F.NI_RETRY_COUNT).niEvent n 0x112 (s.reqPiste n q)
    let s := s.modNi n fun x => { x with outst := x.outst.map fun y => if same y then { y with epoch := cur, retried := true } else y }
    s.niOffer n (s.reqFlit n q o.tgt.val o.tag route (s.reqPiste n q) o.shared)
  | none =>
    let s := s.modNi n fun x => { x with outst := x.outst.filter fun y => !same y }
    let s := if o.back then s else if o.shared then s.tktRet n o.tgt q.cls else s.modNi n fun x => x.ticketBack o.tgt.val q.cls false o.tgt
    s.niComplete n q lost

/-- NI_TRANSACTION_TIMEOUT: a transaction without its response by RAS_TMO.NI (R490, R585, R589). -/
def State.niTimeout (s : State) (n tag : Nat) : State :=
  if s.frozen then s
  else match (s.ni n).outst.find? fun o => o.tag = tag && !o.onLink with
    | none => s
    | some o => ((s.rasRecord (pgNi n) 2 5 0 0 false).niEvent n 0x111 (s.reqPiste n o.req)).reclaim n o false

/-- A route from a stop crosses a link, named by its stop and output, in either direction (R468, R599). -/
def routeCrosses (start route stop port : Nat) : Bool :=
  let rec go (r : Nat) (k : Nat) : Nat → Bool
    | 0 => false
    | m + 1 =>
      let o := routeHead route k
      (r = stop && o = port) || (nbr r o = stop && (o + 2) % 4 = port) || go (nbr r o) (k + 1) m
  go start 0 (routeHops route)

/-- Every old-epoch transaction of an NI whose route crosses a lost link is reclaimed (R599). -/
def State.reclaimLost (s : State) (n stop port : Nat) : State :=
  let cur := (s.ni n).epoch
  ((s.ni n).outst.filter fun o => o.epoch ≠ cur &&
    routeCrosses (niStop n) (s.get (pgNi n) F.NI_ROUTE_ROUTE (b2n o.epoch * 192 + niStop o.tgt.val)) stop port).foldl
      (fun (s : State) o => s.reclaim n o true) s

/-- TBL: an NI takes the next copy update (R357, R536, R599). It acknowledges an emptied map cache only when no request that a check
of map state admitted before the emptying is without its response. -/
def State.tblTake (s : State) (n : Nat) : State :=
  match s.tblLog.find? fun m => m.waiting.contains n with
  | none => s
  | some m =>
    match m.act with
    | .pmapInv =>
      let s := if (s.ni n).emptied then s
        else s.modNi n fun x => { x with pmapCached := [], emptied := true, outst := x.outst.map fun o => { o with old := o.mapped } }
      if (s.ni n).outst.any (fun o => o.old) then s else (s.modNi n fun x => { x with emptied := false }).tblApply n
    | .lost stop port => (s.reclaimLost n stop port).tblApply n
    | _ => s.tblApply n

/-- EPOCH_DRAIN_REPORT: an NI reports that nothing of the epoch it left is outstanding (R487). -/
def State.drainReport (s : State) (n : Nat) : State :=
  let x := s.ni n
  if x.drainDue ∧ x.outst.all (fun o => o.epoch = x.epoch) then
    (s.modNi n fun y => { y with drainDue := false }).dec pgMesh F.MESH_EPOCH_STAT_DRAIN_PEND
  else s

/-- SHARED_TICKET_RELEASE: a shared ticket that stayed unused goes back (R477). -/
def State.ticketRelease (s : State) (n : Nat) (tgt : NiId) (cls : Nat) : State :=
  match takeFirst (fun e : NiId × Nat => e.1 = tgt && e.2 = cls) (s.ni n).shared with
  | some (_, rest) => (s.modNi n fun x => { x with shared := rest }).tktRet n tgt cls
  | none => s

/-- A response in an NI: its tickets, and the transaction it answers, if that is still outstanding (R477, R486). -/
def State.response (s : State) (n : Nat) (f : Flit) : State :=
  if ¬ (s.ni n).rsp.contains f then s
  else
    let s := (s.modNi n fun x => { x with rsp := dropFlit f x.rsp }).takeTicket n f
    match takeFirst (fun o : Outst => o.tag = f.tag && o.epoch = f.epoch) (s.ni n).outst with
    | none => s
    | some (o, rest) => (s.modNi n fun x => { x with outst := rest }).deliver n o.req f.op f.status f.payload f.poison f.pin f.noalloc f.key

/-- A ticket flit in an NI (R477): a returned ticket, or a shared one released to its target. -/
def State.ticketFlit (s : State) (n : Nat) (f : Flit) : State :=
  if ¬ (s.ni n).rsp.contains f then s
  else
    let s := s.modNi n fun x => { x with rsp := dropFlit f x.rsp }
    if f.op = 0x33 then s.modNi n fun x => { x with poolOut := match takeFirst (fun e : NiId × Nat => e.1 = f.src && e.2 = f.be % 4) x.poolOut with
      | some (_, r) => r
      | none => x.poolOut }
    else s.takeTicket n f

end Sys2Proof.Machine
end

