-- ==== Sys2Proof/Machine/Ni.lean ====
section
/-! DEFINITION. Network interfaces: decoding and checking a request, sending it, and taking one into service at its target (R24,
R35, R195, R201, R352, R354, R396-R399, R475-R477, R491, R492, R532-R538). -/

namespace Sys2Proof.Machine

/-! ### Decoding and checking -/

/-- What an NI makes of a request: it goes to an NI, it is refused here, or it waits. -/
inductive NiDec where
  /-- `mapped`: a check of map state admitted it (R536). -/
  | go (tgt : Nat) (mapped : Bool)
  | refuse (r : Resp)
  | wait
deriving DecidableEq, Repr

/-- Where an address leads before any check: an NI, or memory whose home the leaf entry names (R24, R30-R35). -/
inductive Place where
  | at_ (ni : Nat)
  | memory
  | bad (r : Resp)
deriving DecidableEq, Repr

/-- The place of an address (R24-R35). -/
def State.place (s : State) (n : Nat) (patrol : Bool) (pa : Nat) : Place :=
  if inPadWin pa then
    match s.niLtStop n ((pa - 0x4000000000) / 2 ^ 18) with
    | some st => .at_ st
    | none => .bad .unmapped
  else if inCtlStop pa then
    let st := bitsOf pa 20 8
    let slot := bitsOf pa 12 8
    if 192 ≤ st then .bad .unmapped
    else if isTile st ∧ ¬ patrol then .bad .denied
    else if slot < 128 then .at_ st
    else if st = 32 then .at_ 192
    else if st = 48 then .at_ 193
    else .bad .pageError
  else if inCtlLt pa then
    match s.niLtStop n (bitsOf pa 20 8) with
    | some st => if 10 ≤ bitsOf pa 12 8 then .bad .pageError else .at_ st
    | none => .bad .unmapped
  else if inPatrolWin pa then
    let o := pa - 0xFFFFFF0000000
    if 0x1100000 ≤ o then .bad .unmapped
    else if ¬ patrol then .bad .denied
    else if o < 0x1000000 ∧ 0x40000 ≤ o then .bad .unmapped
    else .at_ 192
  else if inNear pa then (if (s.nearFlat (some n) pa).isSome then .memory else .bad .unmapped)
  else if inHdm pa then (if (s.hdmDecode (some n) pa).isSome then .memory else .bad .unmapped)
  else if inMmio pa then
    match s.mmioClaim (some n) pa with
    | some (h, _, _) => .at_ (hubStop h)
    | none => .bad .unmapped
  else .bad .unmapped

/-- The request is not checked (R535): the Patrol's and the Lift's, write-backs, snoops and responses, and what a slice, an NMC or a
hub sends for a request already admitted. -/
def Req.exempt (q : Req) (n : Nat) : Bool :=
  q.patrol || 192 ≤ n || q.op = 5 || q.cls = 1 || q.cls = 2 || q.dst.isSome

/-- A leaf entry lets a piste do what an operation needs (R535). -/
def State.leafAdmits (s : State) (n e op piste : Nat) : Bool :=
  let ok := if bitOf e 57 then bitOf (s.niGet n pgPmap F.PMAP_GROUP_MASK (bitsOf e 50 6)) piste else bitsOf e 50 6 = piste
  bitOf e 63 && ok && bitOf e 58 && (op = 1 || op = 3 || op = 8 || bitOf e 59)

/-- A denied request: reported unless it is speculative (R168, R538). -/
def State.deny (s : State) (n : Nat) (q : Req) (report : Bool) : State × NiDec :=
  (if report ∧ ¬ q.spec then s.violation (s.reqPiste n q) (niStop n) q.op q.pa else s, .refuse .denied)

/-- A core's access that bypasses the home slice: single, write-combined and uncacheable fetch accesses. -/
def straight (q : Req) : Bool :=
  (q.op = 3 || q.op = 4) && match q.org with
    | .load _ _ | .store _ | .wcBuf _ | .fetchNc _ => true
    | _ => false

/-- Where an admitted request to memory goes: its target at once, or the home slice its leaf entry names (R352, R354, R356, R357). -/
def State.memDest (s : State) (n : Nat) (q : Req) (e : Nat) : NiDec :=
  let line := q.pa / 64
  if straight q then (match s.memTarget (some n) q.pa with | some t => .go t true | none => .refuse .unmapped)
  else
    let b := if bitOf e 63 then bucketLane e line else bucketLane 0 line
    let (st, hold) := s.laneOf n b.1 b.2
    match (if bitOf e 63 then none else s.homeHolder line) with
    | some h => .go h (!q.exempt n)
    | none => if hold then .wait else .go st (!q.exempt n)

/-- Decode and check a request (R24, R35, R535). -/
def State.niCheck (s : State) (n : Nat) (q : Req) : State × NiDec :=
  match q.dst, q.org with
  | some d, _ => (s, .go d.val false)
  | none, .event _ => (s, match s.niLtStop n q.pa with | some st => .go st false | none => .refuse .unmapped)
  | none, .mem _ | none, .memWb | none, .snoop _ _ | none, .nearFill _ _ | none, .nearPass _ _ | none, .nearWb _ _ => (s, .refuse .unmapped)
  | none, _ =>
    match s.place n (q.patrol || 192 ≤ n) q.pa with
    | .bad r => (s, .refuse r)
    | .at_ t =>
      if q.exempt n then (s, .go t false)
      else if s.get pgPmap F.PMAP_CTL_EN 0 = 0 then s.deny n q false
      else if inCtl q.pa ∨ inPatrolWin q.pa then (s, .go t false)
      else if inPadWin q.pa then
        let lt := (q.pa - 0x4000000000) / 2 ^ 18
        if s.niGet n pgPmap F.PMAP_TILE_PISTE lt = s.reqPiste n q then (s, .go t true) else s.deny n q true
      else
        match s.niLeaf n q.pa with
        | (s, .inl e) => if s.leafAdmits n e q.op (s.reqPiste n q) then (s, .go t true) else s.deny n q true
        | (s, .inr a) => ((s.set pgPmap F.PMAP_STAT_UCR 0 1).classErr pgPmap 2 a).deny n q false
    | .memory =>
      if q.exempt n then
        (s, s.memDest n q (match s.leafMem q.pa with | .inl e => e | .inr _ => 0))
      else if s.get pgPmap F.PMAP_CTL_EN 0 = 0 then s.deny n q false
      else
        match s.niLeaf n q.pa with
        | (s, .inl e) => if s.leafAdmits n e q.op (s.reqPiste n q) then (s, s.memDest n q e) else s.deny n q true
        | (s, .inr a) => ((s.set pgPmap F.PMAP_STAT_UCR 0 1).classErr pgPmap 2 a).deny n q false

/-! ### Sending -/

/-- The request is a vector access of the NI's core. -/
def State.vecReq (s : State) (n : Nat) (q : Req) : Bool :=
  match q.org with
  | .load id _ => (s.core n).lq.any fun e => e.id = id && e.vector
  | .store id => (s.core n).sq.any fun e => e.id = id && e.vector
  | _ => false

/-- A single access to control space travels as a register-page operation (R466); a write-combined burst and a vector access keep
their own (R39). (DEDUCED, assumption 53) -/
def State.asPage (s : State) (n : Nat) (q : Req) : Req :=
  match q.org with
  | .wcBuf _ => q
  | _ => if s.vecReq n q then q
    else if inCtl q.pa ∧ q.cls = 0 ∧ q.op = 3 then { q with op := 0x20, cls := 3 }
    else if inCtl q.pa ∧ q.cls = 0 ∧ q.op = 4 then { q with op := 0x21, cls := 3 }
    else q

/-- A ticket for a target and class: the standing one first, a shared one where the class may use it (R476, R477, R481). -/
def State.ticketFor (s : State) (n : Nat) (q : Req) (t : Nat) : Option Bool :=
  let x := s.ni n
  if !x.spent.any (fun e => e.1.val = t && e.2 = q.cls) then some false
  else if !bitOf (s.get (pgNi n) F.NI_SEALED_MASK 0) (s.reqPiste n q) && x.shared.any (fun e => e.1.val = t && e.2 = q.cls) then some true
  else none

/-- The other half of a split access that waits in the same NI (R201). -/
def State.mateOf (s : State) (n : Nat) (q : Req) : Option Req :=
  if q.pair.isNone then none else (s.ni n).reqs.find? fun r => r.pair = q.pair && r ≠ q

/-- The oldest waiting request that can go or be refused now: requests to one target in one class keep their order (R476). -/
def State.niPick (s : State) (n : Nat) (blocked : List (Nat × Nat)) : List Req → Option Req
  | [] => none
  | q :: rest =>
    match (s.niCheck n q).2 with
    | .refuse _ => some q
    | .wait => State.niPick s n blocked rest
    | .go t _ =>
      let key := (t, (s.asPage n q).cls)
      if blocked.contains key ∨ (s.ticketFor n (s.asPage n q) t).isNone ∨ 512 ≤ (s.ni n).outst.length then State.niPick s n (key :: blocked) rest
      else some q

/-- A waiting request leaves the list. -/
def State.unreq (s : State) (n : Nat) (q : Req) : State :=
  s.modNi n fun x => { x with reqs := match takeFirst (fun r => r = q) x.reqs with | some (_, l) => l | none => x.reqs }

/-- A transaction tag that no outstanding transaction has. -/
def Ni.freeTag (x : Ni) : Nat :=
  ((List.range 512).find? fun i => !x.outst.any fun o => o.tag = (x.nextTag + i) % 512).map (fun i => (x.nextTag + i) % 512) |>.getD 0

/-- Send a request that has been checked; with no valid route it is UNMAPPED (R470, R475, R476). -/
def State.niGo (s : State) (n : Nat) (q0 : Req) (t : Nat) (mapped : Bool) : State :=
  let q := s.asPage n q0
  match s.routeTo n (s.ni n).epoch t with
  | none => (s.unreq n q0).deliver n q0 0x31 .unmapped 0 0 false false 0
  | some route =>
    match s.ticketFor n q t with
    | none => s
    | some shared =>
      let s := s.unreq n q0
      let x := s.ni n
      let tag := x.freeTag
      let tgt : NiId := Fin.ofNat 194 t
      let f := s.reqFlit n q t tag route (s.reqPiste n q) shared
      let s := s.modNi n fun x => { x with
        outst := x.outst ++ [⟨tag, q, tgt, x.epoch, false, shared, mapped, false, false, false⟩]
        nextTag := (tag + 1) % 512
        spent := if shared then x.spent else x.spent ++ [(tgt, q.cls)]
        shared := if shared then (match takeFirst (fun e : NiId × Nat => e.1 = tgt && e.2 = q.cls) x.shared with
          | some (_, l) => l
          | none => x.shared) else x.shared }
      (s.niEvent n 0x110 (s.reqPiste n q)).niOffer n f

/-- One request that its NI has picked: checked, with its other half where it has one, and sent or refused (R24, R201, R535). -/
def State.niSendOne (s : State) (n : Nat) (q : Req) : State :=
  match s.mateOf n q with
  | none =>
    match s.niCheck n q with
    | (s, .go t m) => s.niGo n q t m
    | (s, .refuse r) => (s.unreq n q).deliver n q 0x31 r 0 0 false false 0
    | (s, .wait) => s
  | some p =>
    let (s1, a) := s.niCheck n q
    match a, s1.niCheck n p with
    | .go t m, (s, .go _ _) => { s with }.niGo n { q with } t m
    | .refuse r, (s, .refuse r') => (((s.unreq n q).unreq n p).deliver n q 0x31 r 0 0 false false 0).deliver n p 0x31 r' 0 0 false false 0
    | .refuse r, (s, _) => (((s.unreq n q).unreq n p).deliver n q 0x31 r 0 0 false false 0).deliverUnsent n p
    | _, (s, .refuse r) => (((s.unreq n q).unreq n p).deliver n p 0x31 r 0 0 false false 0).deliverUnsent n q
    | _, _ => s

/-- NI_REQUEST_SEND: the oldest request that can go (R476). -/
def State.niSend (s : State) (n : Nat) : State :=
  match s.niPick n [] (s.ni n).reqs with
  | none => s
  | some q => s.niSendOne n q

/-! ### Targets -/

/-- An access to a pad through its window (R275, R396, R397, R399, R404). (DEDUCED, assumption 18) -/
def State.padReq (s : State) (st : Nat) (f : Flit) : State :=
  let off := f.addr / 64 * 64 % 2 ^ 18
  let (cnt, first) := beSpan f.be
  let o := off + first
  let wr : Bool := f.op = 4 || f.op = 7
  let okSize : Bool := [1, 2, 4, 8, 16, 32, 64].contains cnt && f.be = beMask first cnt
  let guarded : Bool := s.padInboundDenied st (f.src.val = 192) f.piste o cnt wr
  let no (s : State) : State := (s.served st f).replyAck st f .denied
  if ¬ (f.op = 3 ∨ f.op = 4 ∨ f.op = 7) ∨ ¬ okSize ∨ guarded then no s
  else
    let s := (s.padGrant st o cnt 2).served st f
    let line := bytesLine (s.padRd st off 64)
    let mask := (List.range 8).foldl (fun v w => v + b2n (s.padPoisoned st (off + 8 * w) 8) * 2 ^ w) 0
    if f.op = 3 then s.replyData st f line mask
    else if f.op = 4 then
      -- each 64-bit word has its own mark (R582)
      let s := (List.range 8).foldl (fun (s : State) w =>
        let a := if first < 8 * w then 8 * w else first
        let b := if first + cnt < 8 * w + 8 then first + cnt else 8 * w + 8
        if a < b then s.padWr st (off + a) (lineGet f.payload a (b - a)) (bitOf f.poison w) else s) s
      s.replyAck st f .ok
    else
      -- an atomic on a poisoned word writes nothing (R396)
      let bad := s.padPoisoned st o cnt
      let s := if bad then s else s.padWr st o (lineGet (farAtomic { f with addr := f.addr / 64 * 64 + first } line) first cnt)
      s.replyData st f line (if bad then 255 else 0)

/-- An access to the Patrol windows: the mask ROM, and the tuck store (R35, R550, R607). (DEDUCED, assumption 87) -/
def State.patrolWin (s : State) (f : Flit) : State :=
  let o := f.addr / 64 * 64 - 0xFFFFFF0000000
  let rom : Bool := o < 0x1000000
  let t := o - 0x1000000
  let line := bytesLine ((List.range 64).map fun i => if rom then BitVec.ofNat 8 (Config.romByte (o + i)) else Mem.rd s.tuck (t + i))
  let put (s : State) (d : Line) : State := if rom then s else { s with tuck := Mem.wrs s.tuck t (lineBytes d) }
  let s := s.served 192 f
  if f.op ≤ 3 then s.replyData 192 f line 0
  else if f.op = 7 then (put s (farAtomic f line)).replyData 192 f line 0
  else if f.op = 4 ∨ f.op = 6 then (put s (lineMerge line f.payload f.be)).replyAck 192 f .ok
  else s.replyAck 192 f .ok

/-- An earlier access of the same requester to this pad is still in service (R395). -/
def State.padEarlier (s : State) (n : Nat) (f : Flit) : Bool :=
  ((s.ni n).serv.takeWhile fun g => g ≠ f).any fun g => inPadWin g.addr && g.cls = 0 && g.src = f.src

/-- A request in service at its target is performed there; accesses of one requester to a pad in the order they came (R395). -/
def State.perform (s : State) (n : Nat) (f : Flit) : State :=
  if isTile n then
    (if inPadWin f.addr then (if s.padServing n && !s.padEarlier n f then s.padReq n f else s) else s.homeReq n f)
  else if n = 192 then s.patrolWin f
  else if (nmcAt n).isSome then s.nearReq n f
  else match hubAt n with
    | some h => if inMmio f.addr then s.hubMmio h f else s.hubMem h f
    | none => (s.served n f).replyAck n f .unmapped

/-- The operation of a command on a request in service: nothing where no such request is in service. -/
def State.inService (s : State) (n : Nat) (f : Flit) (op : Nat) (g : State → State) : State :=
  if f.op = op ∧ (s.ni n).serv.contains f then g s else s

/-- A snoop at a tile or a hub (R351, R352, R441). -/
def State.snoopAt (s : State) (n : Nat) (f : Flit) : State :=
  match hubAt n with
  | some h => s.hubSnoop h f
  | none => if ¬ isTile n then (s.served n f).replyAck n f .ok
    else if ¬ s.l2On n then s
    -- data that the home slice has granted come first (R350, R367)
    else if (s.cache n).fills.any fun x => x.line = f.addr / 64 && x.granted then s
    else if f.op = 0x10 then s.snpInv n f else s.snpSh n f

/-- An invalidation at a tile; any other agent has nothing to invalidate (R341). -/
def State.xinvAt (s : State) (n : Nat) (f : Flit) : State := if isTile n then s.xinvRecv n f else (s.served n f).replyAck n f .ok

/-- An event at an NI: acknowledged, and at a tile its source becomes pending (R293). -/
def State.evtAt (s : State) (n : Nat) (f : Flit) : State :=
  ((s.evtArrive n f.be).served n f).replyAck n f .ok

/-! ### Into service -/

/-- The target can serve a request now; one it cannot stays in its entry (R476). -/
def State.canTake (s : State) (n : Nat) (f : Flit) : Bool :=
  if f.op = 0x10 ∨ f.op = 0x11 then !isTile n || s.l2On n
  else if f.cls = 3 ∨ inCtl f.addr then true
  else if isTile n then
    (if inPadWin f.addr then s.padServing n
     else s.sliceOn n && !(s.slice n).txs.any (fun t => t.line = f.addr / 64) && !(s.ni n).serv.any fun g => g.addr / 64 = f.addr / 64 && (g.cls = 0 || g.op = 0x12))
  else match hubAt n with
    | some h => !s.flag (pgHub h) F.PAGE_STAT_ENABLED || (s.hubTakes h f && (s.hub h).m2s.length < 1024 && (s.hub h).outs.length < 2560)
    | none => true

/-- What the gate of a request lets it do: pass, wait in its entry, or be answered CLOSED (R492). A tile in T2 or T3 still takes
invalidations (R341, R343). -/
def State.gatePass (s : State) (n : Nat) (f : Flit) : Gate :=
  if ¬ isTile n then .open_
  else match gateOf f with
    | none => .open_
    | some g =>
      match s.gate n g with
      | .open_ => .open_
      | .closing => if patrolPage f then .open_ else .closing
      | .closed => if patrolPage f ∨ (f.op = 0x23 ∧ 2 ≤ s.get (pgTlift n) F.TLIFT_TSTAT_STATE 0) then .open_ else .closed

/-- A register-page access of a flit (R38-R44, R466). -/
def State.pageFlit (s : State) (n : Nat) (f : Flit) : State :=
  let (cnt, first) := beSpan f.be
  let wr : Bool := f.op = 0x21
  let k : PgKind :=
    if f.op = 0x20 ∨ f.op = 0x21 then .single wr cnt
    else if f.op = 7 then .atomic
    else if f.op = 3 then .vector
    else if f.op = 4 then .burst
    else .line
  let slot := bitsOf f.addr 12 8
  -- the level of an access of the tile's own core is that of the carve which issued it (R297, R298)
  let lvl := if f.src.val = n then (((s.ni n).outst.find? fun o => o.tag = f.tag).elim 0 fun o => o.req.lvl) else 0
  let w : Who := ⟨f.src.val = 192, f.piste, f.src, lvl⟩
  let (s, r, v) := s.pageAccess w (niStop n) slot (f.addr / 64 * 64 % 4096 + first) k (leNat (lineGet f.payload first 8))
  s.replyTkt n f (if wr ∨ r ≠ .ok then 0x31 else 0x30) r (linePut 0 first (leBytes v 8))

/-- A stalled XINV at a tile in T1: the tile runs again to take it (R343, R562). -/
def State.xinvWake (s : State) (n : Nat) (f : Flit) : State :=
  if f.op = 0x23 ∧ isTile n ∧ s.get (pgTlift n) F.TLIFT_TSTAT_STATE 0 = 1 then
    (s.set (pgTlift n) F.TLIFT_TSTAT_STATE 0 0).modCore n fun c => { c with running := s.coreOn n }
  else s

/-- REQUEST_INTO_SERVICE: the oldest waiting request its gate and its target let through (R476, R477, R492). -/
def State.intoService (s : State) (n : Nat) : State :=
  match takeFirst (fun f : Flit => match s.gatePass n f with | .closing => false | .closed => true | .open_ => s.canTake n f) (s.ni n).inq with
  | none => s
  | some (f, rest) =>
    let pass := s.gatePass n f
    let s := s.modNi n fun x => { x with inq := rest }
    if pass = .closed then s.replyTkt n f 0x31 .closed 0
    else if f.op = 0x20 ∨ f.op = 0x21 ∨ (f.cls = 0 ∧ inCtl f.addr) then s.pageFlit n f
    else
      let s := ((s.modNi n fun x => { x with serv := x.serv ++ [f] }).xinvWake n f).sendTkt n f
      if f.op = 0x12 then s.perform n f else s

end Sys2Proof.Machine
end

