-- ==== Sys2Proof/Machine/MeshRows.lean ====
section
/-! DEFINITION. Meanings of the commands of the mesh: operations of flits at their targets, tickets, routers, gates and copy updates (R351-R357, R459-R492, R536). -/

namespace Sys2Proof.Machine

/-- RD_S (R352): A shared read is served by the home slice from the LLC, an owner or memory. -/
def execRdS (ni : NiId) (f : Flit) (s : State) : Out := act s fun s => s.inService ni f 1 fun s => s.perform ni f

/-- RD_O (R352): A read for ownership invalidates other copies and moves the line to the requester. -/
def execRdO (ni : NiId) (f : Flit) (s : State) : Out := act s fun s => s.inService ni f 2 fun s => s.perform ni f

/-- RD_NC (R466): A non-cacheable read of the named bytes at its target. -/
def execRdNc (ni : NiId) (f : Flit) (s : State) : Out := act s fun s => s.inService ni f 3 fun s => s.perform ni f

/-- WR_NC (R466): A non-cacheable write of the named bytes at its target. -/
def execWrNc (ni : NiId) (f : Flit) (s : State) : Out := act s fun s => s.inService ni f 4 fun s => s.perform ni f

/-- WB (R352): A victim write-back is allocated in the LLC or written to memory. -/
def execWb (ni : NiId) (f : Flit) (s : State) : Out := act s fun s => s.inService ni f 5 fun s => s.perform ni f

/-- WR_LINE (R466): A full-line write at its target. -/
def execWrLine (ni : NiId) (f : Flit) (s : State) : Out := act s fun s => s.inService ni f 6 fun s => s.perform ni f

/-- ATOM (R352): A far atomic invalidates L2 copies and operates at the home slice or target pad. -/
def execAtom (ni : NiId) (f : Flit) (s : State) : Out := act s fun s => s.inService ni f 7 fun s => s.perform ni f

/-- MAINT (R367): A maintenance request acts on the line at each cache it names in arrival order. -/
def execMaint (ni : NiId) (f : Flit) (s : State) : Out := act s fun s => s.inService ni f 8 fun s => s.perform ni f

/-- SNP_INV (R351): A snoop from a home slice invalidates the line in an L2. -/
def execSnpInv (ni : NiId) (f : Flit) (s : State) : Out := act s fun s => s.inService ni f 0x10 fun s => s.snoopAt ni f

/-- SNP_SH (R352): A snoop from a home slice drops the owner's line to S with write-back. -/
def execSnpSh (ni : NiId) (f : Flit) (s : State) : Out := act s fun s => s.inService ni f 0x11 fun s => s.snoopAt ni f

/-- EVT (R293): An arriving event sets the pending bit of its source, or is discarded with BADEVT. -/
def execEvt (ni : NiId) (f : Flit) (s : State) : Out := act s fun s => s.inService ni f 0x22 fun s => s.evtAt ni f

/-- XINV (R341): A received broadcast invalidation removes entries, squashes and refetches uncommitted carves. -/
def execXinv (ni : NiId) (f : Flit) (s : State) : Out := act s fun s => s.inService ni f 0x23 fun s => s.xinvAt ni f

/-- DATA (R466): A response with data arrives for an outstanding transaction. -/
def execData (ni : NiId) (f : Flit) (s : State) : Out := act s fun s => if f.op = 0x30 then s.response ni f else s

/-- ACK (R466): A response without data arrives for an outstanding transaction. -/
def execAck (ni : NiId) (f : Flit) (s : State) : Out := act s fun s => if f.op = 0x31 then s.response ni f else s

/-- TKT (R477): A ticket return restores a requester's standing ticket. -/
def execTkt (ni : NiId) (f : Flit) (s : State) : Out := act s fun s => if f.op = 0x32 then s.ticketFlit ni f else s

/-- TKT_RET (R477): A shared ticket released by a requester returns to the target's pool. -/
def execTktRet (ni : NiId) (f : Flit) (s : State) : Out := act s fun s => if f.op = 0x33 then s.ticketFlit ni f else s

/-- TBL (R357): An NI updates its copy of a remap, map, decoder, epoch or mask table and acknowledges. -/
def execTbl (ni : NiId) (s : State) : Out := act s fun s => s.tblTake ni

/-- NI_REQUEST_SEND (R476): An NI decodes and piste-checks a request and sends it once it holds a ticket. -/
def execNiRequestSend (ni : NiId) (s : State) : Out := act s fun s => s.niSend ni

/-- REQUEST_INTO_SERVICE (R476): A target moves a waiting request from its entry into service and returns the ticket. -/
def execRequestIntoService (ni : NiId) (s : State) : Out := act s fun s => s.intoService ni

/-- SHARED_TICKET_RELEASE (R477): A shared ticket unused for 1,024 mesh cycles is released with TKT_RET. -/
def execSharedTicketRelease (ni : NiId) (tgt : NiId) (cls : Fin 4) (s : State) : Out :=
  act s fun s => s.ticketRelease ni tgt cls

/-- EPOCH_DRAIN_REPORT (R487): An NI whose old-epoch count reaches zero reports, lowering DRAIN_PEND. -/
def execEpochDrainReport (ni : NiId) (s : State) : Out := act s fun s => s.drainReport ni

/-- ROUTER_FORWARD (R463): A router output sends one flit per mesh cycle, calendar flits first in owned slots. -/
def execRouterForward (r : Stop) (o : Fin 6) (s : State) : Out := act s fun s => s.routerForward r o

/-- CREDIT_RETURN (R462): A freed VC entry returns its credit to the upstream sender. -/
def execCreditReturn (r : Stop) (o : Fin 6) (vc : Fin 12) (s : State) : Out := act s fun s => s.creditReturn r o vc

/-- ROUTER_QUIET (R488): A DRAINING router with empty input VCs for 64 cycles becomes QUIET. -/
def execRouterQuiet (r : Stop) (s : State) : Out :=
  act s fun s => if s.routerState r = 1 ∧ (s.router r).empty? then s.set (pgRouter r) F.ROUTER_STAT_STATE 0 2 else s

/-- GATE_CLOSED (R492): A closing gate closes once its block is idle, answering waiting requests CLOSED. -/
def execGateClosed (ni : NiId) (g : Fin 4) (s : State) : Out := act s fun s => s.gateClosed ni g

/-- NI_TRANSACTION_TIMEOUT (R585): An NI transaction without response by RAS_TMO.NI is retried or completed by the NI. -/
def execNiTransactionTimeout (ni : NiId) (tag : Nat) (s : State) : Out := act s fun s => s.niTimeout ni tag

/-- VIOLATION_REPORT (R538): A non-speculative denial is reported to the Patrol, recorded and counted in VIOLS. -/
def execViolationReport (v : Viol) (s : State) : Out := act s fun s => s.violation v.piste v.stop v.op v.pa

end Sys2Proof.Machine
end

