-- ==== Sys2Proof/Machine/Services.lean ====
section
/-! DEFINITION. The services of the Patrol: authority, arguments, actions and answers of its calls, and the debug port (R542, R543,
R545, R549-R552). -/

namespace Sys2Proof.Machine

/-! ### Calls and answers -/

/-- An argument word of a call: word 0 holds the function code, the arguments follow in words 1-15 (R551). -/
def callW (c : Call) (i : Nat) : Nat := (lget c.args i 0).toNat

/-- Completion codes (R551). -/
def svcOk : Nat := 0
def svcDenied : Nat := 2
def svcBadArg : Nat := 3
def svcNoResource : Nat := 4
def svcAccepted : Nat := 5

def svcUnknown : Nat := 1

/-- The function codes of R552. -/
def svcCodes : List Nat :=
  [0x0001, 0x0002, 0x0010, 0x0011, 0x0012, 0x0013, 0x0014, 0x0015, 0x0100, 0x0101, 0x0102, 0x0103, 0x0104, 0x0105, 0x0106, 0x0107, 0x0108,
    0x0109]

/-- A pair of the Patrol is left to serve calls (R550). (DEDUCED, assumption 63) -/
def State.patrolUp (s : State) : Bool := s.flag pgSec F.SEC_STAT_PAIR0_OK || s.flag pgSec F.SEC_STAT_PAIR1_OK

/-- Some hub has an endpoint port (R552). -/
def State.anyEp (s : State) : Bool := (s.epPort 0).isSome || (s.epPort 1).isSome

/-- The caller has composer authority: PF0, or, where no hub has an endpoint port, piste 0 at H (R552). (DEDUCED, assumption 64) -/
def State.composer (s : State) (c : Call) : Bool := c.lt.isNone || (!s.anyEp && c.piste.val = 0 && c.lvl = 2)

/-- The caller is a tile at S or H (R552). (DEDUCED, assumption 64) -/
def callSH (c : Call) : Bool := c.lt.isSome && 1 ≤ c.lvl
/-- The caller is a tile at H (R552). (DEDUCED, assumption 64) -/
def callH (c : Call) : Bool := c.lt.isSome && c.lvl = 2

/-- The call ends: the response block and RESULT at the caller's mailbox, which drops an answer to a call it no longer waits for
(R290, R519, R551). -/
def State.svcEnd (s : State) (c : Call) (result : Nat) (rsp : List Nat := []) : State :=
  match c.lt with
  | some lt => match s.ltStop lt with
    | some st => s.pmbComplete st c.seq result (rsp.map wd)
    | none => s
  | none =>
    let e := (s.hub c.hub.val).ep
    if e.busy ∧ e.seq = c.seq then
      let pg := pgEp c.hub.val
      let s := (rsp.mapIdx fun i v => (i, v)).foldl (fun (s : State) v => s.set pg F.EP_MBX_RSP_WORD v.1 v.2) s
      s.epResult c.hub.val (s.get pg F.EP_MBX_STAT_RESULT 0) result
    else s

/-- A request word in a caller's mailbox: at 0x3800 of a tile's pad, or in EP_MBX_REQ of PF0 (R287, R519, R551). -/
def State.reqWord (s : State) (c : Call) (i : Nat) : Nat :=
  match c.lt with
  | some lt => match s.ltStop lt with
    | some st => s.padWord st (0x3800 + 8 * i)
    | none => 0
  | none => s.get (pgEp c.hub.val) F.EP_MBX_REQ_WORD i

/-- The Patrol takes this call next: it is the ring that came first, and its words are those in the caller's mailbox (R287, R288,
R551). (DEDUCED, assumption 63) -/
def State.heard (s : State) (c : Call) : Bool :=
  s.sys.calls.head? = some { c with args := [] } && (List.range 16).all fun i => callW c i = s.reqWord c i

/-- Pair 1 is at a call that has no answer yet (R551). -/
def State.svcBusy (s : State) : Bool := s.sys.svcs.any fun r => r.stage ≠ .tileOff && r.stage ≠ .tileMoved

/-- The caller's pad cannot take a response now (R402). -/
def State.mailWaits (s : State) (c : Call) : Bool :=
  match c.lt with
  | some lt => match s.ltStop lt with
    | some st => s.padBusy st
    | none => false
  | none => false

/-- The call is no longer waiting to be taken: its words have been read. -/
def State.callTaken (s : State) (c : Call) : State :=
  let x := s.sys
  let s := { s with sys := { x with calls := x.calls.drop 1 } }
  match c.lt with
  | some lt => match s.ltStop lt with
    | some st => s.padGrant st 0x3800 128 2
    | none => s
  | none => s

/-- A call is served where a pair of the Patrol runs, one at a time and in order of arrival; a function code that is none is told
UNKNOWN, a caller without the authority DENIED. A call of another function is not this service's (R550, R551, R552).
(DEDUCED, assumption 63) -/
def State.svc (s : State) (c : Call) (code : Nat) (auth : Bool) (f : State → State) : State :=
  if ¬ s.patrolUp ∨ ¬ s.heard c ∨ s.svcBusy ∨ s.mailWaits c then s
  else if ¬ svcCodes.contains (callW c 0) then (s.callTaken c).svcEnd c svcUnknown
  else if callW c 0 ≠ code then s
  else if auth then f (s.callTaken c) else (s.callTaken c).svcEnd c svcDenied

/-- A register written by the Patrol firmware. -/
def State.fw (s : State) (pg off v : Nat) : State := s.pageWrite Who.isPatrol pg off v

/-- The tiles of a piste, by logical number (R530). -/
def State.pisteTiles (s : State) (p : Nat) : List Nat :=
  (List.range 160).filter fun lt => (s.ltStop lt).isSome && s.get pgPmap F.PMAP_TILE_PISTE lt = p

/-- A piste exists (R555). -/
def State.pisteIs (s : State) (p : Nat) : Bool := p < 64 && s.flag pgPmap F.PMAP_PISTE_VALID p

/-! ### Runs -/

/-- Begin a run. -/
def State.svcRun (s : State) (c : Call) (stage : SvcStage) (todo : List Req) (inv : Bool) (line lines : Nat) : State :=
  let x := s.sys
  let reqs := todo.map fun q => { q with org := .svc x.svcNext }
  { s with sys := { x with
    svcs := x.svcs ++ [⟨x.svcNext, c, stage, reqs, false, false, inv, line, lines, []⟩]
    svcNext := x.svcNext + 1 } }

/-- Set a run, or end it. -/
def State.svcSet (s : State) (r : SvcRun) (keep : Bool) : State :=
  let x := s.sys
  { s with sys := { x with svcs := x.svcs.filterMap fun v => if v.id = r.id then (if keep then some r else none) else some v } }

/-- The run ends with its answer. -/
def State.svcDone (s : State) (r : SvcRun) : State := (s.svcSet r false).svcEnd r.call (if r.bad then svcBadArg else svcOk)

/-- NI_GATE_TILES of every tile of a piste: the tiles of that piste (R498). -/
def State.gateTiles (s : State) (p : Nat) : State :=
  let who := s.pisteTiles p
  who.foldl (fun (s : State) lt =>
    match s.ltStop lt with
    | none => s
    | some st => (List.range 3).foldl (fun (s : State) k =>
        s.set (pgNi st) F.NI_GATE_TILES_TILES k (who.foldl (fun v t => if t / 64 = k then v + 2 ^ (t % 64) else v) 0)) s) s

/-- PLOCK and PISTE of a tile's pages: a PMU or SPOT page is released only under its right (R531, R543). -/
def State.tileOwner (s : State) (st p : Nat) : State :=
  (List.range 10).foldl (fun (s : State) slot =>
    let pg := pageNo st slot
    let free := if slot = 7 then s.flag pgPmap F.PMAP_PISTE_PMU p else if slot = 9 then s.flag pgPmap F.PMAP_PISTE_SPOT p else true
    (s.set pg F.PAGE_OWNER_PISTE 0 p).set pg F.PAGE_OWNER_PLOCK 0 (b2n (!free))) s

/-- Steps 2-5 of R542 for a tile in T3. (DEDUCED, assumption 69) -/
def State.tileMove (s : State) (lt st p : Nat) : State :=
  let old := s.get pgPmap F.PMAP_TILE_PISTE lt
  let s0 := s
  let s := State.tblCopy s0 (s.set pgPmap F.PMAP_TILE_PISTE lt p) pgPmap (0x800 + 8 * (lt / 8)) (some (pgPmap, F.PMAP_STAT_PENDING))
  let s := s.fw (pgNi st) 0x120 p
  let s := (s.gateTiles old).gateTiles p
  let s := (List.range 3).foldl (fun (s : State) k => if (s.pisteTiles p).contains lt then s else s.set (pgNi st) F.NI_GATE_TILES_TILES k 0) s
  let s := (List.range 4).foldl (fun (s : State) k => (s.fw (pgLec st) (0x140 + 8 * k) 0).fw (pgLec st) (0x160 + 8 * k) (2 ^ 64 - 1)) s
  let s := (s.fw (pgLec st) 0x1A0 0).fw (pgLec st) 0x1A8 0
  let s := (List.range 40).foldl (fun (s : State) k => (List.range 128).foldl (fun (s : State) n =>
    let pg := pgPort (k / 5) (k % 5)
    if s.flag pg F.PORT_IRT_VALID n ∧ s.get pg F.PORT_IRT_TILE n = lt then s.set pg F.PORT_IRT_VALID n 0 else s) s) s
  (s.tileOwner st p).fw pgPmap 0x100 (2 + s.get pgPmap F.PMAP_CTL_EN 0)

/-! ### Firmware images -/

/-- The 48 bytes of a digest over words. (DESIGN CHOICE, assumption 74) -/
def digest (kind : Nat) (ws : List Nat) : List Byte := leBytes (Config.sign kind ws) 48

/-- SHA-384 of a run of bytes. (DESIGN CHOICE, assumption 74) -/
def sha384 (bs : List Byte) : Nat := leNat (digest 4 (bs.map fun x => x.toNat))

/-- A field of an image's header (R553). -/
def imgNum (img : List Byte) (off n : Nat) : Nat := leNat ((img.drop off).take n)

/-- The body that an image's header announces (R553). -/
def imgBody (img : List Byte) : List Byte := (img.drop 512).take (imgNum img 0xC 4)

/-- The header of an image is as R553 lays it out: MAGIC, a key index of 0-3, a body within its bound that is there whole and fits the
Patrol's SRAM, a point in the form 0x04, X, Y, and zeros where they stand. (DESIGN CHOICE, assumption 71) -/
def imgForm (img : List Byte) : Bool :=
  512 ≤ img.length && imgNum img 0 4 = 0x4B5A4D31 && imgNum img 8 4 ≤ 3 && imgNum img 0xC 4 ≤ 1572864 && 512 + imgNum img 0xC 4 ≤ img.length
    && imgNum img 0x10 8 + imgNum img 0xC 4 ≤ 2 ^ 21 && imgNum img 0x50 1 = 4 && imgNum img 0xB1 15 = 0 && imgNum img 0x120 224 = 0

/-- The ROM accepts an image: its key is a fused one that is not revoked, its signature verifies, its version reaches the floor, and its
body has the digest the header gives (R553, R554). -/
def State.imgOk (s : State) (img : List Byte) : Bool :=
  imgForm img && sha384 ((img.drop 0x50).take 97) = lget s.sys.keyHash (imgNum img 8 4) 0 && !s.sys.keyRevoked.contains (imgNum img 8 4)
    && Config.ecdsaOk (imgNum img 0x50 97) (sha384 (img.take 0xC0)) (imgNum img 0xC0 96)
    && s.sys.svnFloor ≤ imgNum img 4 4 && leNat (digest 4 ((imgBody img).map fun x => x.toNat)) = imgNum img 0x20 48

/-- An accepted image is in force: its body at LOAD in the Patrol's SRAM, to run from ENTRY (R553, R557). -/
def State.imgTake (s : State) (source : Nat) (img : List Byte) : State :=
  let s := ((s.set pgSec F.SEC_BOOT_SVN 0 (imgNum img 4 4)).set pgSec F.SEC_BOOT_KEYIDX 0 (imgNum img 8 4)).set pgSec F.SEC_BOOT_SOURCE 0 source
  { s with
    sram := Mem.wrs s.sram (imgNum img 0x10 8) (imgBody img)
    sys := { s.sys with fwEntry := imgNum img 0x18 8 } }

/-- One source of an image: taken where the ROM accepts it, else counted (R554). -/
def State.bootSource (s : State) (n : Nat) (img : List Byte) : State × Bool :=
  if s.imgOk img then (s.imgTake n img, true) else (s.satInc pgSec F.SEC_BOOT_FAILS, false)

/-- A step of the boot is complete (R634, R643). -/
def State.bootDone (s : State) (n : Nat) : State := { s with sys := { s.sys with bootStep := n } }.ibi

/-- An error code of the boot, which may halt it (R634, R643). -/
def State.bootFail (s : State) (code : Nat) (halt : Bool) : State :=
  { s with sys := { s.sys with bootErr := code, bootHalted := halt } }.ibi

/-- The image of a BOOT_IMAGE call: once every read has been answered, the ROM accepts or rejects it. One accepted is in force where the
boot waits for an image, and the boot goes on with it (R552, R554, R645). (DESIGN CHOICE, assumption 71) -/
def State.imageGo (s : State) (r : SvcRun) : State :=
  if r.bad then ((s.svcSet r false).satInc pgSec F.SEC_BOOT_FAILS).svcEnd r.call svcBadArg
  else if r.dma.any fun e => e.2.isNone then s
  else
    let s := s.svcSet r false
    let img := (r.dma.flatMap fun e => e.2.getD []).take (callW r.call 2)
    if s.sys.bootStep = 1 ∧ ¬ s.sys.bootHalted then
      match s.bootSource 2 img with
      | (s, true) => ((s.bootFail 0 false).bootDone 3).svcEnd r.call svcOk
      | (s, false) => s.svcEnd r.call svcBadArg
    else if s.imgOk img then s.svcEnd r.call svcOk
    else (s.satInc pgSec F.SEC_BOOT_FAILS).svcEnd r.call svcBadArg

/-- Notice reason: a service that was answered ACCEPTED has ended. (DESIGN CHOICE, assumption 62) -/
def noticeMoved : Nat := 9

/-- One run goes on where it can (R537, R542). (DESIGN CHOICE, assumption 67) -/
def State.svcGo (s : State) (r : SvcRun) : State :=
  if r.out ∨ s.mailWaits r.call then s
  else match r.stage with
  | .image => s.imageGo r
  | .accesses =>
    match (if r.bad then [] else r.todo) with
    | q :: rest => (s.send 192 q).svcSet { r with todo := rest, out := true } true
    | [] =>
      if ¬ r.inv ∨ r.bad then s.svcDone r
      else (s.fw pgPmap 0x100 (2 + s.get pgPmap F.PMAP_CTL_EN 0)).svcSet { r with stage := .revoke } true
  | .revoke => if s.get pgPmap F.PMAP_STAT_PENDING 0 ≠ 0 then s else if r.lines = 0 then s.svcDone r else s.svcSet { r with stage := .clean } true
  | .clean =>
    if r.lines = 0 then s.svcDone r
    else (s.send 192 { Req.plain 8 0 (r.line * 64) (.svc r.id) with be := 2, patrol := true }).svcSet
      { r with line := r.line + 1, lines := r.lines - 1, out := true } true
  | .tileOff =>
    let lt := callW r.call 1
    match s.ltStop lt with
    | none => s.svcSet r false
    | some st =>
      if s.get (pgTlift st) F.TLIFT_TSTAT_STATE 0 ≠ 3 then s
      else (s.tileMove lt st (callW r.call 2)).svcSet { r with stage := .tileMoved } true
  | .tileMoved =>
    if s.get pgPmap F.PMAP_STAT_PENDING 0 ≠ 0 then s
    else
      let s := s.svcSet r false
      if r.call.lt.isSome then s.notice r.call.piste.val noticeMoved else s.notice 0 noticeMoved

/-- Every run goes on where it can, oldest first. (DESIGN CHOICE, assumption 67) -/
def State.svcAdvance (s : State) : State := s.sys.svcs.foldl (fun (s : State) r => s.svcGo r) s

/-! ### Services for any caller -/

/-- VERSION (R552). -/
def State.svcVersion (s : State) (c : Call) : State :=
  s.svc c 0x0001 true fun s => s.svcEnd c svcOk [Config.romVersion % 2 ^ 16 + s.get pgSec F.SEC_BOOT_SVN 0 % 2 ^ 32 * 2 ^ 16]

/-- NOTICE_READ: the pending reasons, which are cleared (R552). -/
def State.svcNotice (s : State) (c : Call) : State :=
  s.svc c 0x0002 (callSH c) fun s =>
    let v := Config.noticeWord (tget s.sys.notices c.piste.val [])
    { s with sys := { s.sys with notices := tset s.sys.notices c.piste.val [] [] } }.svcEnd c svcOk [v]

/-- IRT_SET: an entry of a port of the caller's piste (R306, R552). -/
def State.svcIrt (s : State) (c : Call) : State :=
  s.svc c 0x0010 (callH c) fun s =>
    let h := bitsOf (callW c 1) 4 3
    let p := bitsOf (callW c 1) 0 3
    let n := bitsOf (callW c 1) 16 7
    let e := callW c 2
    let tile := bitsOf e 16 8
    if 5 ≤ p ∨ s.get (pgPort h p) F.PORT_CTL_PISTE 0 ≠ c.piste.val ∨ 160 ≤ tile ∨ s.get pgPmap F.PMAP_TILE_PISTE tile ≠ c.piste.val
        ∨ bitsOf e 8 8 < 32 then s.svcEnd c svcBadArg
    else (s.fw (pgPort h p) (0x800 + 8 * n) (e - bitsOf e 24 6 * 2 ^ 24 + c.piste.val * 2 ^ 24)).svcEnd c svcOk

/-- The hand-off block at pad offset 0x3900 (R647). (DESIGN CHOICE, assumption 81) -/
def State.handOff (s : State) (st : Nat) (started : Bool) : State :=
  let boot := s.get pgSec F.SEC_BOOT_SOURCE 0 + 4 * b2n s.sys.restored + 8 * b2n started
  let ports := (List.range 40).foldl (fun v k => v + b2n (s.linkUp (k / 5) (k % 5)) * 2 ^ k) 0
  let words := [0x4B5A4846, 1, boot, s.get pgSec F.SEC_BOOT_SVN 0, s.flatLen, Config.handOff 0, Config.handOff 1, ports, s.chrono,
    Config.handOff 2, Config.handOff 3, s.get pgRas F.RAS_REC_STAT_HEAD 0]
  (words.mapIdx fun i v => (i, v)).foldl (fun (s : State) e => s.padWrWord st (0x3900 + 8 * e.1) e.2) s

/-- A tile leaves T3 for the Patrol, without a token: its pad zeroed, its hand-off block written, its core at `pa` (R564, R573,
R646). (DEDUCED, assumption 66) -/
def State.patrolStart (s : State) (st pa : Nat) (started : Bool) : State :=
  let s := (s.set (pgTlift st) F.TLIFT_TCTL_FORCE_T3 0 0).set (pgTlift st) F.TLIFT_RESTART_ADDR 0 (pa / 64)
  ((s.powerUp st).padZeroed st).handOff st started

/-- TILE_START: a tile of the caller in T3 runs from the address given (R552, R565). (DEDUCED, assumption 66) -/
def State.svcTileStart (s : State) (c : Call) : State :=
  s.svc c 0x0011 (callH c) fun s =>
    match (if callW c 1 < 160 ∧ s.get pgPmap F.PMAP_TILE_PISTE (callW c 1) = c.piste.val then s.ltStop (callW c 1) else none) with
    | none => s.svcEnd c svcBadArg
    | some st =>
      if s.get (pgTlift st) F.TLIFT_TSTAT_STATE 0 ≠ 3 ∨ callW c 2 % 64 ≠ 0 ∨ 2 ^ 52 ≤ callW c 2 then s.svcEnd c svcBadArg
      else (s.patrolStart st (callW c 2) true).svcEnd c svcOk

/-- The lowest empty slot of the key store that may be filled; slot 1 is the cache key's (R539, R556). (DESIGN CHOICE, assumption 48) -/
def State.freeSlot (s : State) : Option Nat :=
  (List.range 256).find? fun n => n ≠ 1 && s.get pgKeys F.KS_SLOT_KIND n = 0 && !s.flag pgKeys F.KS_SLOT_LOCK n

/-- KEY_GEN: a fresh key for a key select of the caller (R541, R552). -/
def State.svcKeyGen (s : State) (c : Call) : State :=
  s.svc c 0x0012 (callH c) fun s =>
    match s.freeSlot with
    | none => s.svcEnd c svcNoResource
    | some n =>
      let s := s.ksGenerate n 1
      let t := s.set pgKeys F.KS_PKEY_SLOT (c.piste.val * 4 + callW c 1 % 4) n
      (State.tblCopy s t pgKeys (0x900 + 8 * c.piste.val) (some (pgPmap, F.PMAP_STAT_PENDING))).svcEnd c svcOk

/-- A buffer lies in memory its caller may write (R535, R551). -/
def State.bufOk (s : State) (p pa len : Nat) : Bool :=
  (tlpPieces pa len).all fun e =>
    if inPadWin e.1 then s.get pgPmap F.PMAP_TILE_PISTE ((e.1 - 0x4000000000) / 2 ^ 18) = p
    else (inNear e.1 || inHdm e.1) && (match s.leafMem e.1 with | .inl l => s.leafAdmits 192 l 4 p | .inr _ => false)

/-- The Patrol's writes of a run of bytes, line by line. -/
def patrolWrites (pa : Nat) (bs : List Byte) (piste : Nat) : List Req :=
  (tlpPieces pa bs.length).map fun e =>
    { Req.plain 4 0 (e.1 / 64 * 64) .patrol with
      be := beMask (e.1 % 64) e.2.1
      data := linePut 0 (e.1 % 64) ((bs.drop e.2.2).take e.2.1)
      patrol := true
      noalloc := true
      piste := piste }

/-- ATTEST: what it attests, signed with the SIGN slot, goes to the caller's buffer (R552). -/
def State.svcAttest (s : State) (c : Call) : State :=
  s.svc c 0x0013 (callSH c) fun s =>
    if ¬ s.bufOk c.piste.val (callW c 1) 512 then s.svcEnd c svcBadArg
    else match (List.range 256).find? fun n => s.get pgKeys F.KS_SLOT_KIND n = 5 with
      | none => s.svcEnd c svcNoResource
      | some k =>
        let own := s.mapLeaves.filter fun e => !bitOf e 57 && bitsOf e 50 6 = c.piste.val
        let what := s.keyOf k :: s.get pgSec F.SEC_BOOT_SVN 0 :: ((List.range 6).map fun i => callW c (2 + i)) ++ own ++ s.pisteTiles c.piste.val
        let bs := (List.range 512).map fun i => BitVec.ofNat 8 (Config.attestByte i what)
        (s.svcRun c .accesses (patrolWrites (callW c 1) bs c.piste.val) false 0 0).svcAdvance

/-- EXTENT_DONE: the caller has finished its part of the release of an extent of its own (R448, R552). -/
def State.svcExtent (s : State) (c : Call) : State :=
  s.svc c 0x0014 (callH c) fun s =>
    let base := callW c 1
    let known := (List.range 8).any fun h => (List.range (s.get (pgHdm h) F.HDM_EXT_STAT_COUNT 0)).any fun i =>
      match s.extEntry h i with | some (v, _, b, _) => v && b * 2 ^ 21 = base | none => false
    let mine : Bool := match s.leafMem base with | .inl l => s.leafAdmits 192 l 1 c.piste.val | .inr _ => false
    s.svcEnd c (if known ∧ mine then svcOk else svcBadArg)

/-- The unread records of the log that carry a piste, oldest first (R580, R581). -/
def State.rasMine (s : State) (p : Nat) : List (List Byte) :=
  let head := s.get pgRas F.RAS_REC_STAT_HEAD 0
  let tail := s.get pgRas F.RAS_REC_STAT_TAIL 0
  let recs := ((List.range 512).filter fun i => i < (head + 512 - tail) % 512).map fun i => Mem.rds s.sram (rasBase + (tail + i) % 512 * 64) 64
  recs.filter fun r => bitsOf (leNat (r.drop 8)) 48 6 = p

/-- RAS_READ: the unread records of the caller's piste go to its buffer, as many whole ones as fit (R552, R580, R581). -/
def State.svcRas (s : State) (c : Call) : State :=
  s.svc c 0x0015 (callSH c) fun s =>
    if ¬ s.bufOk c.piste.val (callW c 1) (callW c 2) then s.svcEnd c svcBadArg
    else
      let bs := ((s.rasMine c.piste.val).take (callW c 2 / 64)).flatten
      (s.svcRun c .accesses (patrolWrites (callW c 1) bs c.piste.val) false 0 0).svcAdvance

/-! ### Services for the composer -/

/-- PISTE_TILE: a tile moves to another piste, which goes on after the answer ACCEPTED (R542, R551, R552). (DEDUCED, assumption 69) -/
def State.svcTile (s : State) (c : Call) : State :=
  s.svc c 0x0100 (s.composer c) fun s =>
    match (if callW c 1 < 160 ∧ s.pisteIs (callW c 2) then s.ltStop (callW c 1) else none) with
    | none => s.svcEnd c svcBadArg
    | some st => (((s.fw (pgTlift st) 0x118 (256 + s.get (pgTlift st) F.TLIFT_TCTL_TARGET 0 % 4)).svcRun c .tileOff [] false 0 0).svcEnd c svcAccepted).svcAdvance

/-- A leaf entry as PISTE_MAP may give it: a leaf in every reserved bit, with a bucket range that exists (R533). -/
def leafArg (e : Nat) : Bool :=
  !bitOf e 62 && bitsOf e 60 2 = 0 && bitsOf e 56 1 = 0 && bitsOf e 0 38 = 0 && bitsOf e 46 4 ≤ 8 && bitsOf e 38 8 % 2 ^ bitsOf e 46 4 = 0

/-- Access that an old leaf entry gives and a new one does not, or gives through another home. -/
def leafShrinks (old new : Nat) : Bool :=
  bitOf old 63 && !(bitOf new 63 && bitsOf new 50 8 = bitsOf old 50 8 && bitsOf new 38 12 = bitsOf old 38 12
    && (!bitOf old 58 || bitOf new 58) && (!bitOf old 59 || bitOf new 59))

/-- The entries that PISTE_MAP has to write for one run of 2 MiB granules: addresses of entries. None where a level-2 table would be
needed that is not there. (DESIGN CHOICE, assumption 68) -/
def State.mapSlots (s : State) (pa n : Nat) : Nat → Option (List Nat)
  | 0 => if n = 0 then some [] else none
  | fuel + 1 =>
    if n = 0 then some []
    else
      let a1 := s.get pgPmap F.PMAP_ROOT_PA 0 * 2 ^ 19 + bitsOf pa 36 16 * 8
      match s.peekWord a1 with
      | none => none
      | some e =>
        if bitOf e 63 ∧ bitOf e 62 then
          (State.mapSlots s (pa + 2 ^ 21) (n - 1) fuel).map fun l => (bitsOf e 0 34 * 2 ^ 18 + bitsOf pa 21 15 * 8) :: l
        else if pa % 2 ^ 36 = 0 ∧ 32768 ≤ n then (State.mapSlots s (pa + 2 ^ 36) (n - 32768) fuel).map fun l => a1 :: l
        else none

/-- PISTE_MAP: the leaves of a range are written, the map caches emptied, and the lines cleaned where access shrinks (R537, R552).
(DESIGN CHOICE, assumption 68) -/
def State.svcMap (s : State) (c : Call) : State :=
  s.svc c 0x0101 (s.composer c) fun s =>
    let pa := callW c 1
    let len := callW c 2
    let e := callW c 3
    let n := len / 2 ^ 21
    if pa % 2 ^ 21 ≠ 0 ∨ len % 2 ^ 21 ≠ 0 ∨ len = 0 ∨ 0xF000000000000 < pa + len ∨ ¬ leafArg e then s.svcEnd c svcBadArg
    else match s.mapSlots pa n n with
      | none => s.svcEnd c svcNoResource
      | some slots =>
        let shrink := (List.range n).any fun i => match s.leafMem (pa + i * 2 ^ 21) with | .inl o => leafShrinks o e | .inr _ => false
        let todo := slots.flatMap fun a => patrolWrites a (leBytes e 8) 0
        (s.svcRun c .accesses todo true (pa / 64) (if shrink then len / 64 else 0)).svcAdvance

/-- PISTE_PORT: a port goes to a piste and a key select (R528, R530, R531, R552). (DEDUCED, assumption 65) -/
def State.svcPort (s : State) (c : Call) : State :=
  s.svc c 0x0102 (s.composer c) fun s =>
    let h := bitsOf (callW c 1) 4 3
    let p := bitsOf (callW c 1) 0 3
    let piste := bitsOf (callW c 2) 0 6
    if 5 ≤ p ∨ ¬ s.pisteIs piste then s.svcEnd c svcBadArg
    else
      let pg := pgPort h p
      let v := s.rmw pg 0x100 [(F.PORT_CTL_PISTE, 0, piste), (F.PORT_CTL_KEY, 0, bitsOf (callW c 2) 8 2)]
      (((s.fw pg 0x100 v).set pg F.PAGE_OWNER_PISTE 0 piste).set pg F.PAGE_OWNER_PLOCK 0 0).svcEnd c svcOk

/-- PMU and SPOT pages of agent stops that a piste holds through AGENT (R543). -/
def State.agentOwner (s : State) (p : Nat) : State :=
  agentStops.foldl (fun (s : State) st => [pgPmu st, pgSpot st].foldl (fun (s : State) pg =>
    if s.flag pgPmap F.PMAP_PISTE_AGENT p then (s.set pg F.PAGE_OWNER_PISTE 0 p).set pg F.PAGE_OWNER_PLOCK 0 0
    else if s.get pg F.PAGE_OWNER_PISTE 0 = p then s.set pg F.PAGE_OWNER_PLOCK 0 1
    else s) s) s

/-- The pages a piste holds follow its rights (R531, R543). -/
def State.rightsApply (s : State) (p : Nat) : State :=
  let s := (s.pisteTiles p).foldl (fun (s : State) lt => match s.ltStop lt with | some st => s.tileOwner st p | none => s) s
  s.agentOwner p

/-- PISTE_FLAGS (R543, R552). -/
def State.svcFlags (s : State) (c : Call) : State :=
  s.svc c 0x0103 (s.composer c) fun s =>
    if 64 ≤ callW c 1 then s.svcEnd c svcBadArg else ((s.fw pgPmap (0x200 + 8 * callW c 1) (callW c 2)).rightsApply (callW c 1)).svcEnd c svcOk

/-- GROUP_SET: mask and key of a share group; slot 0xFF asks for a fresh one (R534, R540, R552). -/
def State.svcGroup (s : State) (c : Call) : State :=
  s.svc c 0x0104 (s.composer c) fun s =>
    let g := callW c 1
    if 64 ≤ g then s.svcEnd c svcBadArg
    else
      let put (s : State) (key : Nat) : State := ((s.fw pgPmap (0x400 + 8 * g) (callW c 2)).fw pgPmap (0x600 + 8 * g) key).svcEnd c svcOk
      if bitsOf (callW c 3) 0 8 ≠ 0xFF then put s (callW c 3 % 512)
      else match s.freeSlot with
        | none => s.svcEnd c svcNoResource
        | some n => put (s.ksGenerate n 1) (bitsOf (callW c 3) 8 1 * 256 + n)

/-- Leaf entries with the address and size they cover (R532, R533). -/
def State.leavesAt (s : State) : List (Nat × Nat × Nat) :=
  let root := s.get pgPmap F.PMAP_ROOT_PA 0 * 2 ^ 19
  (List.range 65536).flatMap fun i =>
    match s.peekWord (root + 8 * i) with
    | none => []
    | some e =>
      if ¬ bitOf e 63 then []
      else if ¬ bitOf e 62 then [(i * 2 ^ 36, 2 ^ 36, leafClean e)]
      else (List.range 32768).filterMap fun j =>
        match s.peekWord (bitsOf e 0 34 * 2 ^ 18 + 8 * j) with
        | some w => if bitOf w 63 ∧ ¬ bitOf w 62 then some (i * 2 ^ 36 + j * 2 ^ 21, 2 ^ 21, leafClean w) else none
        | none => none

/-- A leaf gives a piste access (R533, R534). -/
def State.leafOf (s : State) (p : Nat) (e : Nat) : Bool :=
  bitOf e 63 && (if bitOf e 57 then bitOf (s.get pgPmap F.PMAP_GROUP_MASK (bitsOf e 50 6)) p else bitsOf e 50 6 = p)

/-- Near-tier channels that hold lines of a leaf's range. -/
def State.leafChans (s : State) (pa size : Nat) : List Nat :=
  if inNear pa then ((List.range (size / 64)).filterMap fun i => (s.nearFlat none (pa + 64 * i)).map fun x => x.1).eraseDups else []

/-- Hubs that carry a leaf's range. -/
def State.leafHubs (s : State) (pa size : Nat) : List Nat :=
  if inHdm pa then ((List.range (size / 64)).filterMap fun i => (s.hdmDecode none (pa + 64 * i)).map fun x => x.hub).eraseDups
  else if inMmio pa then ((List.range (size / 4096)).filterMap fun i => (s.mmioClaim none (pa + 4096 * i)).map fun x => x.1).eraseDups
  else []

/-- Slices that the lanes of a leaf's bucket range name, and those that any other lane names (R355). -/
def State.leafExclusive (s : State) (e : Nat) : Bool :=
  let lo := bitsOf e 38 8
  let hi := lo + 2 ^ bitsOf e 46 4
  let of (b : Nat) : List Nat := (List.range 4).map fun l => s.get pgBremap (laneFld l) b
  let mine := ((List.range 256).filter fun b => lo ≤ b && b < hi).flatMap of
  let rest := ((List.range 256).filter fun b => !(lo ≤ b && b < hi)).flatMap of
  mine.all fun x => !rest.contains x

/-- The hubs that carry traffic of a piste: its ports, windows and ranges (R545). -/
def State.pisteHubs (s : State) (ls : List (Nat × Nat × Nat)) : List Nat := (ls.flatMap fun l => s.leafHubs l.1 l.2.1).eraseDups

/-- The conditions of R545 that the Patrol can see: exclusive buckets, no sharing, channels and hubs of its own, P-states held, no
debugging. (DEDUCED, assumption 72) -/
def State.sealOk (s : State) (p : Nat) : Bool :=
  let ls := s.leavesAt
  let mine := ls.filter fun l => s.leafOf p l.2.2
  let rest := ls.filter fun l => (List.range 64).any fun q => q ≠ p && s.leafOf q l.2.2
  let chans := (mine.flatMap fun l => s.leafChans l.1 l.2.1).eraseDups
  let others := (rest.flatMap fun l => s.leafChans l.1 l.2.1).eraseDups
  let ports (f : Nat → Bool) : List Nat := ((List.range 40).filter fun k => s.portMode (k / 5) (k % 5) ≠ 0 && f (s.get (pgPort (k / 5) (k % 5)) F.PORT_CTL_PISTE 0)).map fun k => k / 5
  let hubs := s.pisteHubs mine ++ ports (· = p)
  let hubsOther := s.pisteHubs rest ++ ports (· ≠ p)
  mine.all (fun l => !bitOf l.2.2 57 && s.leafExclusive l.2.2)
    && chans.all (fun c => !others.contains c || (s.flag (pgCh c) F.NMC_CAL_STAT_ACTIVE && s.calOwns c p))
    && mine.all (fun l => match s.hdmDecode none l.1 with | some d => !(inHdm l.1 && d.near) | none => true)
    && hubs.all (fun h => !hubsOther.contains h)
    && (s.pisteTiles p).all (fun lt => match s.ltStop lt with | some st => s.flag (pgTlift st) F.TLIFT_PFIX_FIX | none => true)
    && !s.flag pgPmap F.PMAP_PISTE_DBG p && !s.sys.dbgOpen

/-- PISTE_SEAL: MESH_SEALED and SEALED set together, or cleared (R545, R552). -/
def State.svcSeal (s : State) (c : Call) : State :=
  s.svc c 0x0105 (s.composer c) fun s =>
    let p := callW c 1
    let on := bitOf (callW c 2) 0
    if ¬ s.pisteIs p ∨ (on ∧ ¬ s.sealOk p) then s.svcEnd c svcBadArg
    else
      let m := s.get pgMesh F.MESH_SEALED_MASK 0
      let m := if on then m ||| 2 ^ p else if bitOf m p then m - 2 ^ p else m
      let s := s.fw pgMesh 0x110 m
      (s.fw pgPmap (0x200 + 8 * p) (s.rmw pgPmap (0x200 + 8 * p) [(F.PMAP_PISTE_SEALED, 0, b2n on)])).rightsApply p |>.svcEnd c svcOk

/-- A stopped piste runs again: ports whose BME the stop cleared, and nothing has written since, have it back (R549). -/
def State.thawPiste (s : State) (p : Nat) : State :=
  let s := (s.sys.bmeCleared.filter fun e => e.2 = p).foldl (fun (s : State) e => s.set (pgPort (e.1 / 5) (e.1 % 5)) F.PORT_CTL_BME 0 1) s
  let x := s.sys
  let s := { s with sys := { x with
    pstopped := x.pstopped.filter (· ≠ p)
    bmeCleared := x.bmeCleared.filter fun e => e.2 ≠ p } }
  s.set pgSec F.SEC_STAT_PSTOPPED 0 (b2n (!s.sys.pstopped.isEmpty))

/-- THAW: of a piste, or of the device unless its keys are erased (R549, R552). (DEDUCED, assumption 70) -/
def State.svcThaw (s : State) (c : Call) : State :=
  s.svc c 0x0106 (s.composer c) fun s =>
    if callW c 1 = 0xFF then
      (if s.flag pgSec F.SEC_STAT_ERASED then s.svcEnd c svcBadArg else (s.set pgSec F.SEC_STAT_FROZEN 0 0).svcEnd c svcOk)
    else if ¬ s.pisteIs (callW c 1) then s.svcEnd c svcBadArg
    else (s.thawPiste (callW c 1)).svcEnd c svcOk

/-- POLICY: a sensor's level, not below its floor (R548, R552). -/
def State.svcPolicy (s : State) (c : Call) : State :=
  s.svc c 0x0107 (s.composer c) fun s =>
    if 6 ≤ callW c 1 ∨ 4 ≤ callW c 2 then s.svcEnd c svcBadArg else (s.fw pgSec (0x100 + 8 * callW c 1) (callW c 2)).svcEnd c svcOk

/-- Reads of host memory go out through a port, each with its identifier and no data yet (R525, R554). -/
def State.dmaAsk (s : State) (h p pa len : Nat) : List (Nat × Option (List Byte)) × State :=
  (tlpPieces pa len).foldl (fun (r : List (Nat × Option (List Byte)) × State) e =>
    let (id, s) := r.2.hubId h
    (r.1 ++ [(id, none)], s.tx h p (.memRd id e.1 (beMask (e.1 % 64) e.2.1)))) ([], s)

/-- BOOT_IMAGE: PF0 reads the image from the host by DMA; what comes is authenticated (R552, R554, R645). (DESIGN CHOICE,
assumption 71) -/
def State.svcImage (s : State) (c : Call) : State :=
  s.svc c 0x0108 (s.composer c) fun s =>
    let h := c.hub.val
    match s.epPort h with
    | none => s.svcEnd c svcBadArg
    | some p =>
      if callW c 2 < 512 ∨ 1573376 < callW c 2 ∨ ¬ (s.hub h).ep.bme0 then s.svcEnd c svcBadArg
      else
        let r := s.dmaAsk h p (callW c 1) (callW c 2)
        let s := r.2
        let x := s.sys
        { s with sys := { x with
          svcs := x.svcs ++ [⟨x.svcNext, c, .image, [], false, false, false, 0, 0, r.1⟩]
          svcNext := x.svcNext + 1 } }

/-- SVN_COMMIT: the fused floor rises to the running image's version (R552, R554). -/
def State.svcSvn (s : State) (c : Call) : State :=
  s.svc c 0x0109 (s.composer c) fun s =>
    let v := s.get pgSec F.SEC_BOOT_SVN 0
    { s with sys := { s.sys with svnFloor := if s.sys.svnFloor < v then v else s.sys.svnFloor } }.svcEnd c svcOk

/-! ### Lockstep and debugging -/

/-- LOCKSTEP_MISMATCH: the pair halts, and with both gone FREEZE applies (R550). -/
def State.lockstep (s : State) (pair : Nat) : State :=
  let s := if pair = 0 then s.set pgSec F.SEC_STAT_PAIR0_OK 0 0 else s.set pgSec F.SEC_STAT_PAIR1_OK 0 0
  if s.patrolUp then s else s.freeze

/-- DEBUG_CHALLENGE: the port opens once the fused debug key has verified its answer (R543). (DEDUCED, assumption 73) -/
def State.dbgChallenge (s : State) (ok : Bool) : State := if ok ∧ s.patrolUp then { s with sys := { s.sys with dbgOpen := true } } else s

/-- The track a single stride is issued on: the oldest carve's, where it is on one. (DEDUCED, assumption 73) -/
def Core.dbgTrack (c : Core) : Nat := if c.t0.isSome ∧ (c.t1.isNone ∨ c.t0 = c.order.head?) then 0 else 1

/-- DEBUG_PORT_ACCESS: on tiles of a piste that holds DBG, through an open port; registers are those the halted core has committed
(R543). (DEDUCED, assumption 73) -/
def State.dbgAccess (s : State) (st : Nat) (d : DbgOp) : State :=
  let x := s.sys
  let held := x.halted.contains st
  if ¬ x.dbgOpen ∨ ¬ s.flag pgPmap F.PMAP_PISTE_DBG (s.tilePiste st) then s.answer .denied
  else match d with
  | .halt => { s with sys := { x with halted := if held then x.halted else x.halted ++ [st] } }.answer .ok
  | .resume => { s with sys := { x with halted := x.halted.filter (· ≠ st) } }.answer .ok
  | .singleStride =>
    if ¬ held then s.answer .denied
    else
      let s := { s with sys := { x with halted := x.halted.filter (· ≠ st) } }.strideIssue st (s.core st).dbgTrack
      { s with sys := { s.sys with halted := x.halted } }.answer .ok
  | .readG n => if ¬ held then s.answer .denied else s.answer .ok (if n.val = 0 then 0 else (tget (s.core st).arch.g n.val ⟨0, none⟩).v)
  | .writeG n v =>
    if ¬ held then s.answer .denied
    else if n.val = 0 then s.answer .ok
    else (s.modCore st fun c => { c with arch := { c.arch with g := tset c.arch.g n.val ⟨v, none⟩ ⟨0, none⟩ } }).answer .ok

end Sys2Proof.Machine
end

