-- ==== Sys2Proof/Machine/Package.lean ====
section
/-! DEFINITION. The package: the tuck and its store, cold reset, boot, THERMTRIP, and the I3C and test ports (R601-R608, R632-R647). -/

namespace Sys2Proof.Machine

/-! ### The tuck -/

/-- The piste-map digest's input: PMAP_ROOT, the tables in force, PMAP_PISTE, PMAP_GROUP and PMAP_TILE (R607). -/
def State.mapWords (s : State) : List Nat :=
  s.get pgPmap F.PMAP_ROOT_PA 0 :: (s.leavesAt.flatMap fun l => [l.1, l.2.2])
    ++ ((List.range 64).map fun p => s.rawReg pgPmap (0x200 + 8 * p)) ++ ((List.range 64).map fun g => s.rawReg pgPmap (0x400 + 8 * g))
    ++ ((List.range 20).map fun k => s.rawReg pgPmap (0x800 + 8 * k))

/-- KIND, LOCK and generation of every slot of the key store. -/
def State.keyList (s : State) : List (Nat × Nat × Nat) :=
  (List.range 256).map fun n => (s.get pgKeys F.KS_SLOT_KIND n, s.get pgKeys F.KS_SLOT_LOCK n, tget s.sys.keyGen n 0)

/-- The slot that holds the WRAP key (R539). -/
def State.wrapSlot (s : State) : Nat := ((List.range 256).find? fun n => s.get pgKeys F.KS_SLOT_KIND n = 4).getD 0

/-- Offsets 0x1000-0xEFFF of an image slot: the tile map as its page holds it, the piste-map digest, the wrapped key store and the
record ring (R607). How a wrapped key looks is not given. (DESIGN CHOICE, assumption 74) -/
def State.imageBody (s : State) : List Byte :=
  let map := (List.range 512).flatMap fun i =>
    if i < 160 then leBytes (s.regView pgTmap (0x100 + 8 * i)) 8 else if i < 176 then leBytes (s.regView pgTmap (0x600 + 8 * (i - 160))) 8
    else leBytes 0 8
  let dig := digest 1 s.mapWords ++ List.replicate (4096 - 48) 0
  let w := s.wrapSlot
  let keys := (s.keyList.mapIdx fun n k => leBytes (Config.sign 2 [n, k.1, k.2.1, k.2.2, w, tget s.sys.keyGen w 0]) 64).flatten
  map ++ dig ++ keys ++ Mem.rds s.sram rasBase 0x8000

/-- The image slot a save writes: the one that does not hold the newest image (R602). (DEDUCED, assumption 75) -/
def State.tuckSlot (s : State) : Nat := if s.tuckSeq s.tuckNewest = 0 then 0 else 1 - s.tuckNewest

/-- Steps 1 and 2 of the tuck: everything stops, and an image is written, its STATE word last (R602, R607). (DEDUCED, assumption 75) -/
def State.tuckSave (s : State) : State :=
  let slot := s.tuckSlot
  let b := slot * 0x20000
  let seq := s.tuckSeq s.tuckNewest + 1
  let s := s.satInc pgRas F.TUCK_STAT_TUCKS
  let body := s.imageBody
  let head := leBytes 0x5455434B 4 ++ leBytes 0 4 ++ leBytes 0 4 ++ leBytes 0 4 ++ leBytes seq 8 ++ leBytes s.chrono 8
    ++ digest 3 (body.map fun x => x.toNat) ++ List.replicate 48 0
  let x := s.sys
  let w := s.wrapSlot
  let s := { s with
    tuck := Mem.wrs (Mem.wrs s.tuck b head) (b + 0x1000) body
    sys := { x with
      tuckFrozen := true
      wrapped := tput x.wrapped slot ⟨w, tget x.keyGen w 0, s.keyList⟩ } }
  -- the image of a device whose keys are erased stays invalid (R547)
  let s := s.tuckState slot (if s.flag pgSec F.SEC_STAT_ERASED then 3 else 1)
  (s.set pgRas F.TUCK_STAT_SLOT 0 slot).set pgRas F.TUCK_STAT_PHASE 0 3

/-- TUCK: VIN_SENSE below WARN (R601, R602). -/
def State.tuckRun (s : State) (mv : Nat) : State :=
  if s.flag pgRas F.TUCK_CTL_EN ∧ mv < s.get pgRas F.TUCK_CTL_WARN 0 ∧ ¬ s.sys.tuckFrozen then s.tuckSave else s

/-- Notice reason: a tuck followed by a rise. (DESIGN CHOICE, assumption 62) -/
def noticeRise : Nat := 10

/-- RISE: VIN_SENSE above WARN + HYST after a tuck (R603). -/
def State.rise (s : State) (mv : Nat) : State :=
  if s.sys.tuckFrozen ∧ s.get pgRas F.TUCK_CTL_WARN 0 + s.get pgRas F.TUCK_CTL_HYST 0 < mv then
    let slot := s.get pgRas F.TUCK_STAT_SLOT 0
    let s := if s.tuckNum (slot * 0x20000 + 4) 4 = 1 then s.tuckState slot 2 else s
    let s := { s with sys := { s.sys with tuckFrozen := false } }
    let s := (s.set pgRas F.TUCK_STAT_PHASE 0 0).satInc pgRas F.TUCK_STAT_RISES
    (s.rasRecord pgRas 0 11 0 0 false).notice 0 noticeRise
  else s

/-- PK2_ENTRY: VIN_SENSE below RESET; a save completes first (R569, R604). -/
def State.pk2Entry (s : State) (mv : Nat) : State :=
  if mv < s.get pgRas F.TUCK_CTL_RESET 0 then
    let s := s.tuckRun mv
    if s.sys.tuckFrozen then
      let slot := s.get pgRas F.TUCK_STAT_SLOT 0
      { s with
        tuck := Mem.wrs s.tuck (slot * 0x20000 + 8) (leBytes 1 4)
        sys := { s.sys with phase := .pk2, perst := [] } }
    else s
  else s

/-! ### Cold reset -/

/-- What cold reset leaves: every block at its reset values; the fuses, the tuck store with its repair log, and stored near-tier data
stay, those under a lost key unreadable (R641). Keys derived from fused secrets come back (R539, R608).
(DEDUCED, assumption 49) (DESIGN CHOICE, assumption 79) -/
def State.coldReset (s : State) : State :=
  let x := s.sys
  let kept (n : Nat) : Bool := let k := s.get pgKeys F.KS_SLOT_KIND n; k = 4 || k = 5
  let gens := (List.range 256).foldl (fun t n => if kept n then t else tset t n (tget t n 0 + 1) 0) x.keyGen
  { State.reset with
    pending := s.pending
    fresh := s.fresh
    respStatus := s.respStatus
    respValue := s.respValue
    near := s.near
    nearMeta := s.nearMeta
    tuck := s.tuck
    sys := { Sys.reset with
      phase := .coldReset
      spareFuse := x.spareFuse
      svnFloor := x.svnFloor
      bootEp := x.bootEp
      keyHash := x.keyHash
      keyRevoked := x.keyRevoked
      keyGen := gens
      wrapped := x.wrapped
      repairs := x.repairs } }

/-- COLD_RESET_ENTRY: out of THERMTRIP only a falling PWR_OK leads (R632, R637, R640). (DEDUCED, assumption 78) -/
def State.coldEntry (s : State) (why : ResetCause) : State := if s.sys.phase = .thermTrip ∧ why ≠ .pwrOkLow then s else s.coldReset

/-- COLD_RESET_EXIT (R640). -/
def State.coldExit (s : State) : State := if s.sys.phase = .coldReset then { s with sys := { s.sys with phase := .running } } else s

/-! ### Boot -/

/-- Step 1: self-tests, and the boot endpoint is raised (R643, R644). -/
def State.boot1 (s : State) (b : BootIn) : State :=
  let s := match bootPort s.sys.bootEp with
    | some (h, p) => s.set (pgHub h) F.HUB_CTL_EP 0 (if p = 0 then 1 else 2)
    | none => s
  if b.selfTest then s.bootDone 1 else s.bootFail 1 true

/-- Steps 2 and 3: the flash port leaves reset in 1S-1S-1S and takes the mode SFDP offers; the ROM takes the first acceptable image of
flash copy 1 and copy 2. With none the boot waits for BOOT_IMAGE calls or the next pass, and code 2 shows (R554, R633, R643, R645). -/
def State.boot23 (s : State) (b : BootIn) : State :=
  let s := { s with sys := { s.sys with flashOn := true, flash8d := b.sfdp8d } }
  match s.bootSource 0 b.imageA with
  | (s, true) => (s.bootFail 0 false).bootDone 3
  | (s, false) =>
    match s.bootSource 1 b.imageB with
    | (s, true) => (s.bootFail 0 false).bootDone 3
    | (s, false) => s.bootFail 2 false

/-- The locations of one type in the repair log, oldest first (R600). -/
def State.repairLog (s : State) (type : Nat) : List Nat :=
  (List.range s.sys.repairs).filterMap fun i =>
    let w := s.tuckNum (0x40000 + 16 * i) 8
    if w % 16 = type then some (w / 256) else none

/-- The pad column a repair-log entry's location names: stop, bank, sub-array and column numbered together (R412, R600). -/
def padSite (loc : Nat) : Option Nat := go (192 * 8 * 4 * 144)
where
  /-- The search among the columns numbered below a bound. -/
  go : Nat → Option Nat
    | 0 => none
    | n + 1 => if Config.repairLoc 1 n % 2 ^ 56 = loc then some n else go n

/-- Logged pad columns go into free spares of their sub-arrays (R406, R412, R600). -/
def State.padRepairs (s : State) : State :=
  (s.repairLog 1).foldl (fun (s : State) loc =>
    match padSite loc with
    | none => s
    | some key =>
      let pg := pgPad (key / 4608)
      let n := 2 * (key / 144 % 32)
      match [n, n + 1].find? fun i => !s.flag pg F.PAD_REPAIR_VALID i with
      | some i => (s.set pg F.PAD_REPAIR_COL i (key % 144)).set pg F.PAD_REPAIR_VALID i 1
      | none => s) s

/-- The records of an image's ring (R607). -/
def State.imageRing (s : State) (slot : Nat) : List Byte := Mem.rds s.tuck (slot * 0x20000 + 0x7000) 0x8000
/-- A word of a record in a ring (R580). -/
def ringWord (ring : List Byte) (i o : Nat) : Nat := leNat ((ring.drop (64 * i + o)).take 8)
/-- A record stands in a place of a ring. -/
def ringLive (ring : List Byte) (i : Nat) : Bool := ringWord ring i 8 ≠ 0 || ringWord ring i 0x28 ≠ 0
/-- The place of the record with the highest number. (DEDUCED, assumption 76) -/
def ringLast (ring : List Byte) : Option Nat :=
  (List.range 512).foldl (fun (m : Option Nat) i =>
    if ringLive ring i then (match m with
      | some j => if ringWord ring j 0x30 ≤ ringWord ring i 0x30 then some i else m
      | none => some i) else m) none

/-- The records of an image back in the ring: the newest by its number is the last one written (R581, R608). (DEDUCED, assumption 76) -/
def State.ringBack (s : State) (slot : Nat) : State :=
  let ring := s.imageRing slot
  let s := { s with sram := Mem.wrs s.sram rasBase ring }
  match ringLast ring with
  | none => s
  | some j =>
    let head := (j + 1) % 512
    (s.set pgRas F.RAS_REC_STAT_HEAD 0 head).set pgRas F.RAS_REC_STAT_TAIL 0 (if ringLive ring head then (head + 1) % 512 else 0)

/-- Step 4: soft repair, the cache key and the keys derived from fuses, and the records of the newest tuck image (R539, R600, R608).
The slots of the WRAP and SIGN keys are the model's choice. (DESIGN CHOICE, assumption 48) (DESIGN CHOICE, assumption 80) -/
def State.boot4 (s : State) (b : BootIn) : State :=
  if b.fusesFail then s.bootFail 3 true
  else
    let s := ((s.padRepairs.ksGenerate 1 1).set pgKeys F.KS_SLOT_KIND 2 4).set pgKeys F.KS_SLOT_KIND 3 5
    let slot := s.tuckNewest
    let s := if s.tuckSeq slot ≠ 0 ∧ s.tuckNum (slot * 0x20000 + 4) 4 % 4 ≠ 3 then
        { (s.ringBack slot).rasRecord pgRas 0 12 0 0 false with sys := { s.sys with restored := true } }
      else s
    s.bootDone 4

/-- A logged near-tier row the device can no longer repair is reported to the owning piste; which rows those are is open (R600).
(DESIGN CHOICE, assumption 61) -/
def State.rowRepairs (s : State) : State :=
  (s.repairLog 4).foldl (fun (s : State) loc =>
    let (r, s) := s.free
    if r % 2 = 1 then s.rasRecord (pgCh (Config.repairChan loc % 48)) 0 6 0 0 false else s) s

/-- Enable a page whose block starts with it. -/
def State.pageOn (s : State) (pg : Nat) : State := (s.set pg F.PAGE_CTL_ENABLE 0 1).blockStart pg

/-- Step 5: the NMCs are enabled and trained, and logged rows get post-package repair (R37, R427, R600). (DESIGN CHOICE, assumption 80) -/
def State.boot5 (s : State) (b : BootIn) : State :=
  let s := (List.range 8).foldl (fun (s : State) k =>
    let s := ((s.pageOn (pgNmc k)).trainGo k).trainDone k (if b.trainFail.contains k then 63 else 0)
    (List.range 6).foldl (fun (s : State) c => s.pageOn (pgCh (6 * k + c))) s) s
  if (List.range 8).all fun k => b.trainFail.contains k then s.bootFail 4 true else s.rowRepairs.bootDone 5

/-- Set an entry of the tile map, in its page and in both copies (R18-R20). -/
def State.mapSet (s : State) (lt stop : Nat) (v : Bool) : State :=
  let s := (s.set pgTmap F.TMAP_ENT_STOP lt stop).set pgTmap F.TMAP_ENT_VALID lt (b2n v)
  { s with tmaps := tset (tset s.tmaps (tmapKey 0 lt) (stop, v) (0, false)) (tmapKey 1 lt) (stop, v) (0, false) }

/-- Set a spare slot, likewise. -/
def State.spareSet (s : State) (k stop : Nat) (avail retired : Bool) : State :=
  let s := ((s.set pgTmap F.TMAP_SPARE_STOP k stop).set pgTmap F.TMAP_SPARE_AVAIL k (b2n avail)).set pgTmap F.TMAP_SPARE_RETIRED k (b2n retired)
  let e := (stop + 256 * b2n retired, avail)
  { s with tmaps := tset (tset s.tmaps (tmapKey 0 (160 + k)) e (0, false)) (tmapKey 1 (160 + k)) e (0, false) }

/-- The tile stops of a die that the fuses give to spares, or the others, in ascending order (R13, R15). -/
def State.dieStops (s : State) (d : Nat) (spare : Bool) : List Nat :=
  (List.range 192).filter fun st => isTile st && dieOf st = d && s.sys.spareFuse.contains st == spare

/-- The initial tile map (R15, R20). -/
def State.mapInit (s : State) : State :=
  (List.range 4).foldl (fun (s : State) d =>
    let tiles := s.dieStops d false
    let spares := s.dieStops d true
    let s := (tiles.mapIdx fun j st => (j, st)).foldl (fun (s : State) e => if e.1 < 40 then s.mapSet (40 * d + e.1) e.2 true else s) s
    (spares.mapIdx fun j st => (j, st)).foldl (fun (s : State) e => if e.1 < 4 then s.spareSet (4 * d + e.1) e.2 true false else s) s) s

/-- The tile map of a tuck image (R607, R608). -/
def State.mapBack (s : State) (slot : Nat) : State :=
  let w (i : Nat) : Nat := s.tuckNum (slot * 0x20000 + 0x1000 + 8 * i) 8
  let s := (List.range 160).foldl (fun (s : State) i => s.mapSet i (w i % 256) (bitOf (w i) 16)) s
  (List.range 16).foldl (fun (s : State) k => s.spareSet k (w (160 + k) % 256) (bitOf (w (160 + k)) 8) (bitOf (w (160 + k)) 9)) s

/-- Retired stops of the repair log: no spare slot offers one, and a tile that the map puts on one goes to a spare without state (R591,
R600). -/
def State.retireStops (s : State) : State :=
  let gone := s.repairLog 5
  let s := (List.range 16).foldl (fun (s : State) k =>
    let st := s.get pgTmap F.TMAP_SPARE_STOP k
    if s.flag pgTmap F.TMAP_SPARE_AVAIL k ∧ gone.contains st then s.spareSet k st false true else s) s
  gone.foldl (fun (s : State) st =>
    match s.stopLt st, s.chooseSpare st with
    | some lt, some (k, b) => ((s.mapSet lt b true).spareSet k st false true).satInc pgTmap F.TMAP_ENT_SWAPS lt
    | _, _ => s) s

/-- The remap table over the stops that carry tiles (R359). -/
def State.remapInit (s : State) : State :=
  let stops := (List.range 192).filter fun st => (s.stopLt st).isSome
  (List.range 1024).foldl (fun (s : State) i => s.set pgBremap (laneFld (i % 4)) (i / 4) (lget stops (i % stops.length) 0)) s

/-- Step 6: the tile map, from a VALID tuck image or from the fuses, retired stops and slices, the remap table, enables and owners of
pages, keys of an image whose map digest matches, and every tile in T3 (R15, R17, R20, R359, R491, R531, R597, R600, R608).
(DEDUCED, assumption 17) (DESIGN CHOICE, assumption 80) -/
def State.boot6 (s : State) (b : BootIn) : State :=
  if b.tilesFail then s.bootFail 5 true
  else
    let slot := s.tuckNewest
    let s := if s.tuckSeq slot ≠ 0 ∧ s.tuckNum (slot * 0x20000 + 4) 4 % 4 = 1 then s.mapBack slot else s.mapInit
    let s := s.retireStops.remapInit
    let tiles := s.tileStops
    let s := tiles.foldl (fun (s : State) t =>
      let s := (List.range 3).foldl (fun (s : State) g => s.setGate t.2 g .closed) (s.set (pgTlift t.2) F.TLIFT_TSTAT_STATE 0 3)
      [pgCore t.2, pgL2 t.2, pgPad t.2, pgSlice t.2, pgPmu t.2, pgSpot t.2].foldl (fun (s : State) pg => s.pageOn pg) s) s
    let s := agentStops.foldl (fun (s : State) st => (s.pageOn (pgPmu st)).pageOn (pgSpot st)) s
    let s := (s.repairLog 6).foldl (fun (s : State) st =>
      if (s.lanesOf st).isEmpty then s
      else ((s.lanesMove st (s.lanesOf st)).set (pgSlice st) F.PAGE_CTL_ENABLE 0 0).set (pgSlice st) F.PAGE_STAT_ENABLED 0 0) s
    let s := s.gateTiles 0
    let s := tiles.foldl (fun (s : State) t => s.tileOwner t.2 (s.get pgPmap F.PMAP_TILE_PISTE t.1)) s
    let s := (List.range 40).foldl (fun (s : State) k =>
      let pg := pgPort (k / 5) (k % 5)
      (s.set pg F.PAGE_OWNER_PISTE 0 (s.get pg F.PORT_CTL_PISTE 0)).set pg F.PAGE_OWNER_PLOCK 0 0) s
    let s := (s.set pgPmap F.PMAP_CTL_EN 0 1).set pgTmap F.PAGE_OWNER_PLOCK 0 0
    let same : Bool := s.tuckSeq slot ≠ 0 && Mem.rds s.tuck (slot * 0x20000 + 0x2000) 48 = digest 1 s.mapWords
    (if same then s.ksUnwrap s.wrapSlot else s).bootDone 6

/-- Step 7: the hubs; one that fails its test stays off, and code 6 shows (R643). (DESIGN CHOICE, assumption 80) -/
def State.boot7 (s : State) (b : BootIn) : State :=
  let s := (List.range 8).foldl (fun (s : State) h => if b.hubsFail.contains h then s else s.pageOn (pgHub h)) s
  let s := if (List.range 8).any fun h => b.hubsFail.contains h then s.bootFail 6 false else s
  s.bootDone 7

/-- Step 8: LT0 is released with the boot loader in its pad (R646, R647). -/
def State.boot8 (s : State) (b : BootIn) : State :=
  match s.ltStop 0 with
  | none => s
  | some st =>
    let s := s.patrolStart st 0x4000004000 false
    (s.padWr st 0x4000 (b.loader.take 0x3C000)).bootDone 8

/-- The boot goes on as far as it can, through the steps not yet done (R643). (DESIGN CHOICE, assumption 80) -/
def State.bootGo (s : State) (b : BootIn) : State :=
  let at_ (s : State) (n : Nat) (f : State → State) : State := if s.sys.bootStep = n ∧ ¬ s.sys.bootHalted then f s else s
  let s := at_ s 0 fun s => s.boot1 b
  let s := at_ s 1 fun s => s.boot23 b
  let s := at_ s 3 fun s => s.boot4 b
  let s := at_ s 4 fun s => s.boot5 b
  let s := at_ s 5 fun s => s.boot6 b
  let s := at_ s 6 fun s => s.boot7 b
  at_ s 7 fun s => s.boot8 b

/-- BOOT: from cold reset, or from where a BOOT_IMAGE call let it go on (R643, R645). -/
def State.boot (s : State) (b : BootIn) : State := if s.sys.bootStep = 1 then s else s.bootGo b

/-- IMAGE_RETRY: without a boot endpoint the ROM reads both flash copies again (R645). -/
def State.imageRetry (s : State) (b : BootIn) : State := if s.sys.bootStep = 1 ∧ s.sys.bootEp = 0 then s.bootGo b else s

/-! ### Pins and ports of the package -/

/-- HOT_ALERT_N is low: while the device runs and a die is at or above HOT or in an emergency (R632, R638). -/
def State.hotAlert (s : State) : Bool :=
  s.sys.phase = .running &&
    (s.flag pgLift F.LIFT_PWR_STAT_THERM_EMERG || s.sys.temps.any fun t => (s.get pgLift F.LIFT_THERM_HOT 0 : Int) ≤ t)

/-- PERST_N of a lane group is driven high; every other group's is low, or high-impedance under the board's pull-down (R631, R638). -/
def State.perstHigh (s : State) (m : Nat) : Bool := s.sys.phase = .running && s.sys.perst.contains m

/-- THERMTRIP: the clocks stop and THERMTRIP_N stays low until PWR_OK falls (R632). -/
def State.thermtrip (s : State) (die : Nat) : State :=
  let x := s.sys
  { s with sys := { x with
    phase := .thermTrip
    thermTrip := true
    perst := []
    temps := lset x.temps die (max 130 (lget x.temps die 0)) } }.ibi

/-- The 8 bytes an index of the I3C port names (R634). -/
def State.i3cValue (s : State) (i : Nat) : Nat :=
  let x := s.sys
  match i with
  | 0 => x.bootStep + 16 * x.bootErr + 256 * b2n x.bootHalted
  | 1 => (List.range 4).foldl (fun v d => v + (lget x.temps d 0 % 256).toNat * 256 ^ d) 0
  | 2 => s.rawReg pgLift 0x190
  | 3 => s.rawReg pgSec 0x130
  | 4 => s.rawReg pgRas 0x148
  | 5 => s.chrono
  | _ => 0

/-- I3C_INDEX_WRITE: the value a private read returns (R634). -/
def State.i3cIndex (s : State) (i : Nat) : State :=
  { s with sys := { s.sys with i3cOut := s.i3cValue i } }.answer .ok (wd (s.i3cValue i))

/-- IDCODE (R635). -/
def jtagId : Nat := 0x19160 * 2 ^ 12 + Config.makerCode % 2 ^ 11 * 2 + 1

/-- JTAG_INSTRUCTION: EXTEST is refused, as the fuses of shipped parts permit no test mode (R635). -/
def State.jtagLoad (s : State) (j : JtagOp) : State :=
  let x := s.sys
  if j = JtagOp.extest then { s with sys := { x with jtagRefused := true } }.answer .denied
  else { s with sys := { x with jtag := j, jtagRefused := false } }.answer .ok (if j = JtagOp.idcode then wd jtagId else 0)

end Sys2Proof.Machine
end

