-- ==== Sys2Proof/Machine/PackageRows.lean ====
section
/-! DEFINITION. Meanings of the commands of the package: the tuck, cold reset, boot, THERMTRIP, I3C and test ports (R601-R608, R632-R647). -/

namespace Sys2Proof.Machine

/-- TUCK (R602): VIN_SENSE below WARN stops the device and saves an image into the tuck store. -/
def execTuck (mv : Nat) (s : State) : Out := act s fun s => s.tuckRun mv

/-- RISE (R603): VIN_SENSE back above WARN + HYST resumes the device and supersedes the image. -/
def execRise (mv : Nat) (s : State) : Out := act s fun s => s.rise mv

/-- PK2_ENTRY (R604): VIN_SENSE below RESET enters PK2 after the save completes. -/
def execPk2Entry (mv : Nat) (s : State) : Out := act s fun s => s.pk2Entry mv

/-- COLD_RESET_ENTRY (R640): PWR_OK low, a long SYS_RESET_N pulse or a rail monitor enters cold reset. -/
def execColdResetEntry (why : ResetCause) (s : State) : Out := .next (s.coldEntry why)

/-- COLD_RESET_EXIT (R640): The later of PWR_OK and SYS_RESET_N high leaves cold reset. -/
def execColdResetExit (s : State) : Out := .next s.coldExit

/-- BOOT (R643): The Patrol ROM runs the boot steps from self-test to the release of LT0. -/
def execBoot (b : BootIn) (s : State) : Out := act s fun s => s.boot b

/-- IMAGE_RETRY (R645): Without a boot endpoint, the ROM rereads both flash copies every second. -/
def execImageRetry (b : BootIn) (s : State) : Out := act s fun s => s.imageRetry b

/-- THERMTRIP (R632): A die at 130 °C asserts THERMTRIP_N and stops every clock. -/
def execThermtrip (die : Fin 4) (s : State) : Out := act s fun s => s.thermtrip die

/-- I3C_INDEX_WRITE (R634): The BMC writes an index and a private read returns the 8-byte value it names. -/
def execI3cIndexWrite (i : Byte) (s : State) : Out := act s fun s => s.i3cIndex i.toNat

/-- I3C_DYNAMIC_ADDRESS_ASSIGNMENT (R634): The BMC assigns the I3C target a dynamic address in place of the static address 0x3A. -/
def execI3cDynamicAddressAssignment (a : Nat) (s : State) : Out :=
  act s fun s => { s with sys := { s.sys with i3cAddr := a % 128 } }

/-- JTAG_INSTRUCTION (R635): An IEEE 1149.1 instruction (BYPASS, IDCODE, SAMPLE/PRELOAD, EXTEST) is loaded through the TAP, and EXTEST is refused unless fuses permit test mode. -/
def execJtagInstruction (j : JtagOp) (s : State) : Out := act s fun s => s.jtagLoad j

end Sys2Proof.Machine
end

