-- ==== Sys2Proof/Machine/PageRows.lean ====
section
/-! DEFINITION. Meanings of the commands that act through register pages (R36-R44, R109, R173, R293-R310, R344): a field command reads its register, changes the named field and writes it back under the rules of any page write. -/

namespace Sys2Proof.Machine

/-- REGISTER_WRITE (R6): A write to a register page field with no row of its own applies each field's access rule, discarding and recording forbidden changes. -/
def execRegisterWrite (w : Who) (pa : Nat) (k : PgKind) (v : Word) (s : State) : Out :=
  act s fun s =>
    let (s, r, x) := s.ctlAccess w pa k v.toNat
    s.answer r (wd x)

/-- PAGE_ERR_INJ (R36): Writing 1 to a PAGE_ERR_INJ bit sets the matching PAGE_ERR bit through the real error path, with its event and machine-check record. -/
def execPageErrInj (w : Who) (pg : PageRef) (v : Word) (s : State) : Out :=
  act s fun s => s.regWrite w (pageNo pg.stop pg.slot) 0x038 v.toNat

/-- PAGE_ENABLE_SET (R37): Setting PAGE_CTL.ENABLE starts the block as its page type defines. -/
def execPageEnableSet (w : Who) (pg : PageRef) (s : State) : Out :=
  act s fun s => s.regMod w (pageNo pg.stop pg.slot) 0x018 [(F.PAGE_CTL_ENABLE, 0, 1)]

/-- PAGE_ENABLE_CLEAR (R37): Clearing PAGE_CTL.ENABLE on a running block asks it to stop at the point its type defines, or is discarded where forbidden. -/
def execPageEnableClear (w : Who) (pg : PageRef) (s : State) : Out :=
  act s fun s => s.regMod w (pageNo pg.stop pg.slot) 0x018 [(F.PAGE_CTL_ENABLE, 0, 0)]

/-- BLOCK_STOPPED (R37): A block whose ENABLE was cleared reaches its stop point and PAGE_STAT.BUSY clears. -/
def execBlockStopped (pg : PageRef) (s : State) : Out :=
  act s fun s =>
    let p := pageNo pg.stop pg.slot
    if s.flag p F.PAGE_STAT_BUSY then s.blockStop p else s

/-- GROOM_EN (R109): A write of CORE_TIME_CTL.GROOM_EN requests entry to or exit from groomed mode at the next commit. -/
def execGroomEn (w : Who) (st : Stop) (v : Bool) (s : State) : Out :=
  onTile st s fun s => s.regMod w (pgCore st) 0x118 [(F.CORE_TIME_CTL_GROOM_EN, 0, b2n v)]

/-- CHECK_EN (R109): A write of CORE_TIME_CTL.CHECK_EN requests entry to or exit from contract-check mode at the next commit. -/
def execCheckEn (w : Who) (st : Stop) (v : Bool) (s : State) : Out :=
  onTile st s fun s => s.regMod w (pgCore st) 0x118 [(F.CORE_TIME_CTL_CHECK_EN, 0, b2n v)]

/-- RINK_FLUSH (R173): Writing CORE_FLOW_CTL.RINK_FLUSH discards the rink capture and ends streaming. -/
def execRinkFlush (w : Who) (st : Stop) (s : State) : Out :=
  onTile st s fun s => s.regMod w (pgCore st) 0x130 [(F.CORE_FLOW_CTL_RINK_FLUSH, 0, 1)]

/-- PRED_FLUSH (R173): Writing CORE_FLOW_CTL.PRED_FLUSH clears the direction tables, target buffer and return stack. -/
def execPredFlush (w : Who) (st : Stop) (s : State) : Out :=
  onTile st s fun s => s.regMod w (pgCore st) 0x130 [(F.CORE_FLOW_CTL_PRED_FLUSH, 0, 1)]

/-- TLB_FLUSH (R344): Writing CORE_MMU_CTL.TLB_FLUSH removes every TLB and walker-cache entry at the next commit. -/
def execTlbFlush (w : Who) (st : Stop) (s : State) : Out :=
  onTile st s fun s => s.regMod w (pgCore st) 0x160 [(F.CORE_MMU_CTL_TLB_FLUSH, 0, 1)]

/-- LEC_CLAIM (R297): A read of LEC_CLAIM pushes the presented source on the active stack and returns it. -/
def execLecClaim (w : Who) (st : Stop) (s : State) : Out :=
  onTile st s fun s =>
    let (s, r, x) := s.pageAccess w st 6 0x110 (.single false 8) 0
    s.answer r (wd x)

/-- LEC_COMPLETE (R298): A write of LEC_COMPLETE pops or removes the named source, or is refused or counted as stray. -/
def execLecComplete (w : Who) (st : Stop) (src : Nat) (s : State) : Out :=
  onTile st s fun s => s.regWrite w (pgLec st) 0x118 (src % 256)

/-- LEC_DOORBELL (R305): A write of LEC_DOORBELL sets the pending bit of the named source. -/
def execLecDoorbell (w : Who) (st : Stop) (src : Nat) (s : State) : Out :=
  onTile st s fun s => s.regWrite w (pgLec st) 0x120 (src % 256)

/-- LEC_PEND_WRITE (R302): A write of LEC_PEND sets or clears edge pending bits, setting acting as an event. -/
def execLecPendWrite (w : Who) (st : Stop) (k : Fin 4) (v : Word) (s : State) : Out :=
  onTile st s fun s => s.regWrite w (pgLec st) (0x140 + 8 * k) v.toNat

/-- LEC_WDOG_KICK (R310): A write of LEC_WDOG_KICK sets the watchdog count to zero. -/
def execLecWdogKick (w : Who) (st : Stop) (s : State) : Out := onTile st s fun s => s.regWrite w (pgLec st) 0x1B0 0

/-- IRT_UNMASK (R307): Clearing MASKED with PBIT set delivers one held MSI under the entry as it now stands. -/
def execIrtUnmask (w : Who) (h : Fin 8) (p : Fin 5) (n : Fin 128) (s : State) : Out :=
  act s fun s => s.regMod w (pgPort h p) (0x800 + 8 * n) [(F.PORT_IRT_MASKED, 0, 0)]

/-- L2_RANGE_GO (R369): Writing GO while idle starts the range engine over the programmed range. -/
def execL2RangeGo (w : Who) (st : Stop) (s : State) : Out :=
  onTile st s fun s => s.regMod w (pgL2 st) 0x128 [(F.L2_RANGE_CTL_GO, 0, 1)]

/-- L2_RANGE_ABORT (R369): Writing ABORT stops the range engine after the line in hand. -/
def execL2RangeAbort (w : Who) (st : Stop) (s : State) : Out :=
  onTile st s fun s => s.regMod w (pgL2 st) 0x128 [(F.L2_RANGE_CTL_ABORT, 0, 1)]

/-- L2_LOCK (R371): A write of L2_LOCK.WAYMASK locks ways, emptying new ones, or is rejected. -/
def execL2Lock (w : Who) (st : Stop) (mask : BitVec 16) (s : State) : Out :=
  onTile st s fun s => s.regWrite w (pgL2 st) 0x100 mask.toNat

/-- SLICE_DRAIN (R358): A Patrol GO of SLICE_DRAIN starts draining the named lanes or the whole slice. -/
def execSliceDrain (w : Who) (st : Stop) (v : Word) (s : State) : Out :=
  onTile st s fun s => s.regWrite w (pgSlice st) 0x100 (v.toNat ||| 0x10000)

/-- BREMAP_ENT_WRITE (R357): A write of a remap entry is sent to every NI, PENDING counting acknowledgements. -/
def execBremapEntWrite (w : Who) (b : Fin 256) (v : Word) (s : State) : Out :=
  act s fun s => s.regWrite w pgBremap (0x100 + 8 * b) v.toNat

/-- PAD_COPY_GO (R411): A Patrol GO of PAD_COPY_CTL starts the copy engine for ZERO or COPY. -/
def execPadCopyGo (w : Who) (st : Stop) (v : Word) (s : State) : Out :=
  onTile st s fun s => s.regWrite w (pgPad st) 0x120 (v.toNat ||| 0x10000)

/-- TRAIN_GO (R427): A Patrol write of TRAIN_GO trains every channel at 9,600 MT/s. -/
def execTrainGo (w : Who) (n : Fin 8) (s : State) : Out :=
  act s fun s => s.regMod w (pgNmc n) 0x100 [(F.NMC_CTL_TRAIN_GO, 0, 1)]

/-- NMC_CALENDAR_EN (R431): A write of NMC_CAL_CTL.EN requests the calendar, or is rejected when REF_OK = 0. -/
def execNmcCalendarEn (w : Who) (c : Fin 48) (v : Bool) (s : State) : Out :=
  act s fun s => s.regMod w (pgCh c) 0x130 [(F.NMC_CAL_CTL_EN, 0, b2n v)]

/-- NTMAP_WRITE (R432): A write to the NTMAP page is sent to every NI, PENDING counting acknowledgements. -/
def execNtmapWrite (w : Who) (off : Nat) (v : Word) (s : State) : Out := act s fun s => s.regWrite w pgNtmap off v.toNat

/-- HDM_DEC_CTL_WRITE (R444): A decoder write is checked, applied or rejected, and sent to every NI. -/
def execHdmDecCtlWrite (w : Who) (h : Fin 8) (j : Fin 8) (v : Word) (s : State) : Out :=
  act s fun s => s.regWrite w (pgHdm h) (0x110 + 0x40 * j) v.toNat

/-- HDM_EXT_NEXT_COMMIT (R448): COMMIT switches the hub to a new extent table, emptying its extent cache. -/
def execHdmExtNextCommit (w : Who) (h : Fin 8) (v : Word) (s : State) : Out :=
  act s fun s => s.regWrite w (pgHdm h) 0x308 (v.toNat ||| 2 ^ 63)

/-- NI_ROUTE_WRITE (R470): A route entry write is checked and written, or written invalid with BADROUTE. -/
def execNiRouteWrite (w : Who) (ni : NiId) (e : Fin 2) (n : Stop) (v : Word) (s : State) : Out :=
  act s fun s => s.regWrite w (pgNi ni) (0x400 + 8 * (192 * e + n)) v.toNat

/-- MESH_EPOCH_SWITCH (R487): Writing MESH_EPOCH.SWITCH makes every NI invert its epoch and acknowledge. -/
def execMeshEpochSwitch (w : Who) (s : State) : Out :=
  act s fun s => s.regMod w pgMesh 0x100 [(F.MESH_EPOCH_SWITCH, 0, 1)]

/-- ROUTER_DRAIN (R488): Setting or clearing ROUTER_CTL.DRAIN moves the router between LIVE and DRAINING. -/
def execRouterDrain (w : Who) (r : Stop) (v : Bool) (s : State) : Out :=
  act s fun s => s.regMod w (pgRouter r) 0x100 [(F.ROUTER_CTL_DRAIN, 0, b2n v)]

/-- ROUTER_CAL_EN (R480): A write of ROUTER_CAL_CTL.EN takes effect at the next slot 0, or is rejected. -/
def execRouterCalEn (w : Who) (r : Stop) (v : Bool) (s : State) : Out :=
  act s fun s => s.regMod w (pgRouter r) 0x118 [(F.ROUTER_CAL_CTL_EN, 0, b2n v)]

/-- NI_CLOSE (R492): A write of NI_CLOSE starts closing or withdraws the close of the named gates. -/
def execNiClose (w : Who) (ni : NiId) (v : BitVec 4) (s : State) : Out :=
  act s fun s => s.regWrite w (pgNi ni) 0x100 v.toNat

/-- MESH_SEALED_WRITE (R500): A write of MESH_SEALED is sent to NI_SEALED of every NI. -/
def execMeshSealedWrite (w : Who) (v : Word) (s : State) : Out := act s fun s => s.regWrite w pgMesh 0x110 v.toNat

/-- MESH_LOST (R599): GO of MESH_LOST makes every NI reclaim old-epoch transactions crossing the lost link. -/
def execMeshLost (w : Who) (s : State) : Out := act s fun s => s.regMod w pgMesh 0x120 [(F.MESH_LOST_GO, 0, 1)]

/-- MMIO_WINDOW_WRITE (R506): A write to a port window register is sent to every NI, PENDING counting acknowledgements. -/
def execMmioWindowWrite (w : Who) (h : Fin 8) (p : Fin 5) (off : Nat) (v : Word) (s : State) : Out :=
  act s fun s => s.regWrite w (pgPort h p) off v.toNat

/-- BME_CLEAR (R512): Clearing PORT_CTL.BME refuses later inbound requests, MSIs included. -/
def execBmeClear (w : Who) (h : Fin 8) (p : Fin 5) (s : State) : Out :=
  act s fun s => s.regMod w (pgPort h p) 0x100 [(F.PORT_CTL_BME, 0, 0)]

/-- EP_MBX_RESULT (R529): A Patrol write of EP_MBX_STAT.RESULT completes a PF0 call and sends MSI-X vector 0. -/
def execEpMbxResult (w : Who) (h : Fin 8) (result : Nat) (s : State) : Out :=
  act s fun s => s.regWrite w (pgEp h) 0x900 (result % 2 ^ 32 * 2 ^ 32)

/-- EP_CON_IN_READ (R529): A Patrol read of EP_CON consumes the console byte from the composer. -/
def execEpConInRead (w : Who) (h : Fin 8) (s : State) : Out :=
  act s fun s =>
    let (s, r, x) := s.pageAccess w (hubStop h) 6 0x908 (.single false 8) 0
    s.answer r (wd x)

/-- EP_CON_OUT_WRITE (R529): A Patrol write of EP_CON.OUT sends a console byte to the composer. -/
def execEpConOutWrite (w : Who) (h : Fin 8) (b : Byte) (s : State) : Out :=
  act s fun s => s.regWrite w (pgEp h) 0x908 b.toNat

/-- WIN_COMMIT (R522): A Patrol write of WIN_COMMIT makes the shadow window bank active at a TLP boundary. -/
def execWinCommit (w : Who) (h : Fin 8) (s : State) : Out :=
  act s fun s => s.regMod w (pgEp h) 0x108 [(F.EP_CTL_WIN_COMMIT, 0, 1)]

/-- PMAP_INV (R536): Writing PMAP_CTL.INV makes every NI empty its map cache and acknowledge. -/
def execPmapInv (w : Who) (s : State) : Out := act s fun s => s.regMod w pgPmap 0x100 [(F.PMAP_CTL_INV, 0, 1)]

/-- PMAP_COPY_WRITE (R536): A write of PMAP_TILE, PMAP_GROUP, PMAP_GKEY or KS_PKEY is sent to every NI. -/
def execPmapCopyWrite (w : Who) (off : Nat) (v : Word) (s : State) : Out :=
  act s fun s => s.regWrite w (if 0x900 ≤ off then pgKeys else pgPmap) off v.toNat

/-- KS_GENERATE (R556): KS_CMD 1 generates an XTS key from the TRNG into the target slot. -/
def execKsGenerate (w : Who) (slot kind : Nat) (s : State) : Out :=
  act s fun s => s.regWrite w pgKeys 0xB00 (slot % 256 + kind % 16 * 2 ^ 8 + 2 ^ 12 + 2 ^ 16)

/-- KS_CLEAR (R556): KS_CMD 2 clears the target slot unless locked. -/
def execKsClear (w : Who) (slot : Nat) (s : State) : Out :=
  act s fun s => s.regMod w pgKeys 0xB00 [(F.KS_CMD_SLOT, 0, slot), (F.KS_CMD_CMD, 0, 2), (F.KS_CMD_GO, 0, 1)]

/-- KS_UNWRAP (R556): KS_CMD 3 unwraps the tuck image key store with the WRAP slot. -/
def execKsUnwrap (w : Who) (slot : Nat) (s : State) : Out :=
  act s fun s => s.regMod w pgKeys 0xB00 [(F.KS_CMD_SLOT, 0, slot), (F.KS_CMD_CMD, 0, 3), (F.KS_CMD_GO, 0, 1)]

/-- TLIFT_PREQ_WRITE (R559): A P-state request is turned into a granted state by the grant steps. -/
def execTliftPreqWrite (w : Who) (st : Stop) (v : Word) (s : State) : Out :=
  onTile st s fun s => s.regWrite w (pgTlift st) 0x100 v.toNat

/-- FORCE_T3 (R565): A Patrol write of FORCE_T3 takes the tile to T3 without waiting for WFI. -/
def execForceT3 (w : Who) (st : Stop) (v : Word) (s : State) : Out :=
  onTile st s fun s => s.regWrite w (pgTlift st) 0x118 v.toNat

/-- LIFT_PSTATE_WRITE (R558): A P-state table write is checked and applied or rejected. -/
def execLiftPstateWrite (w : Who) (n : Fin 16) (v : Word) (s : State) : Out :=
  act s fun s => s.regWrite w pgLift (0x100 + 8 * n) v.toNat

/-- LIFT_CHRONO_WRITE (R575): A Patrol write of LIFT_CHRONO steps every chrono copy forward, or is rejected. -/
def execLiftChronoWrite (w : Who) (v : Word) (s : State) : Out := act s fun s => s.regWrite w pgLift 0x1E0 v.toNat

/-- SWAP (R593): RAS_OP SWAP moves a logical tile with its state to a spare stop. -/
def execSwap (w : Who) (tile stop : Nat) (s : State) : Out :=
  act s fun s => (s.regWrite w pgRas 0x128 (stop % 256 + tile % 256 * 2 ^ 8 + 2 ^ 63)).rasAdvance

/-- SWAP_COLD (R594): RAS_OP SWAP_COLD brings a failed tile up on a spare without state. -/
def execSwapCold (w : Who) (tile stop : Nat) (s : State) : Out :=
  act s fun s => (s.regWrite w pgRas 0x128 (stop % 256 + tile % 256 * 2 ^ 8 + 2 ^ 60 + 2 ^ 63)).rasAdvance

/-- RETIRE_SLICE (R597): RAS_OP RETIRE_SLICE drains a slice and moves its lanes to other slices. -/
def execRetireSlice (w : Who) (stop : Nat) (s : State) : Out :=
  act s fun s => (s.regMod w pgRas 0x128 [(F.RAS_OP_STOP, 0, stop), (F.RAS_OP_OP, 0, 2), (F.RAS_OP_GO, 0, 1)]).rasAdvance

/-- TD_CLR (R618): Writing PMU_CTL.TD_CLR zeroes the top-down counters and sets FIX[3] to the pending slots. -/
def execTdClr (w : Who) (p : Nat) (s : State) : Out :=
  act s fun s => s.regMod w (pgPmu p) 0x100 [(F.PMU_CTL_TD_CLR, 0, 1)]

end Sys2Proof.Machine
end

