-- ==== Sys2Proof/Machine/ServiceRows.lean ====
section
/-! DEFINITION. Meanings of the Patrol's services and of the debug port (R542-R554). -/

namespace Sys2Proof.Machine

/-- VERSION (R552): Returns the ROM version and image SVN. -/
def execVersion (c : Call) (s : State) : Out := act s fun s => s.svcVersion c

/-- NOTICE_READ (R552): Returns and clears the piste's pending notice reasons. -/
def execNoticeRead (c : Call) (s : State) : Out := act s fun s => s.svcNotice c

/-- IRT_SET (R552): Writes a PORT_IRT entry for the caller's piste. -/
def execIrtSet (c : Call) (s : State) : Out := act s fun s => s.svcIrt c

/-- TILE_START (R552): Clears FORCE_T3, writes TLIFT_RESTART and wakes a T3 tile of the caller. -/
def execTileStart (c : Call) (s : State) : Out := act s fun s => s.svcTileStart c

/-- KEY_GEN (R552): Installs a fresh XTS slot for a key select of the caller. -/
def execKeyGen (c : Call) (s : State) : Out := act s fun s => s.svcKeyGen c

/-- ATTEST (R552): Writes a signed attestation of image and piste state to the caller's buffer. -/
def execAttest (c : Call) (s : State) : Out := act s fun s => s.svcAttest c

/-- EXTENT_DONE (R552): Reports that the piste has finished step 1 of an extent release. -/
def execExtentDone (c : Call) (s : State) : Out := act s fun s => s.svcExtent c

/-- RAS_READ (R552): Copies the piste's machine-check records to the caller's buffer. -/
def execRasRead (c : Call) (s : State) : Out := act s fun s => s.svcRas c

/-- PISTE_TILE (R552): Moves a tile to another piste under R542 and returns ACCEPTED. -/
def execPisteTile (c : Call) (s : State) : Out := act s fun s => s.svcTile c

/-- PISTE_MAP (R552): Writes piste-map leaves over a range and revokes or grants access. -/
def execPisteMap (c : Call) (s : State) : Out := act s fun s => s.svcMap c

/-- PISTE_PORT (R552): Assigns a hub port to a piste and key select. -/
def execPistePort (c : Call) (s : State) : Out := act s fun s => s.svcPort c

/-- PISTE_FLAGS (R552): Writes a piste's PMAP_PISTE value. -/
def execPisteFlags (c : Call) (s : State) : Out := act s fun s => s.svcFlags c

/-- GROUP_SET (R552): Sets a share group's mask and key. -/
def execGroupSet (c : Call) (s : State) : Out := act s fun s => s.svcGroup c

/-- PISTE_SEAL (R552): Seals or unseals a piste after checking the conditions of R545. -/
def execPisteSeal (c : Call) (s : State) : Out := act s fun s => s.svcSeal c

/-- THAW (R549): Resumes a stopped piste or a frozen device. -/
def execThaw (c : Call) (s : State) : Out := act s fun s => s.svcThaw c

/-- POLICY (R552): Sets a sensor's level, not below its floor. -/
def execPolicy (c : Call) (s : State) : Out := act s fun s => s.svcPolicy c

/-- BOOT_IMAGE (R552): PF0 reads a firmware image by DMA for authentication. -/
def execBootImage (c : Call) (s : State) : Out := act s fun s => s.svcImage c

/-- SVN_COMMIT (R552): Raises the fused SVN floor to the running image's SVN. -/
def execSvnCommit (c : Call) (s : State) : Out := act s fun s => s.svcSvn c

/-- LOCKSTEP_MISMATCH (R550): A Patrol pair mismatch halts that pair, the other takes both duties, or both failed freezes the device. -/
def execLockstepMismatch (pair : Fin 2) (s : State) : Out := act s fun s => s.lockstep pair

/-- DEBUG_CHALLENGE (R543): The debug port opens only after a valid signed answer to a Patrol challenge. -/
def execDebugChallenge (_piste : Fin 64) (ok : Bool) (s : State) : Out := act s fun s => s.dbgChallenge ok

/-- DEBUG_PORT_ACCESS (R543): An opened debug port performs halt, single-stride or register access on tiles of a piste holding DBG. -/
def execDebugPortAccess (st : Stop) (d : DbgOp) (s : State) : Out := onTile st s fun s => s.dbgAccess st d

end Sys2Proof.Machine
end

