-- ==== Sys2Proof/Machine/SystemRows.lean ====
section
/-! DEFINITION. Meanings of the vector-configuration, status-register, system and counter operations of slot B (R133-R147, R229, R230): each issues the next stride of the carve on a track
with that operation in it. -/

namespace Sys2Proof.Machine

/-- SETVL (R229): Sets VTYPE from F and VL to min(A, VLMAX), writing the new VL to D. -/
def execSetvl (st : Stop) (trk : Fin 2) (sl : Fin 4) (o : Op) (s : State) : Out :=
  onTile st s fun s => s.issueRow st trk sl 0x2C o.f.toNat o

/-- VCFGR (R230): Reads VCFG into an integer register. -/
def execVcfgr (st : Stop) (trk : Fin 2) (sl : Fin 4) (o : Op) (s : State) : Out :=
  onTile st s fun s => s.issueRow st trk sl 0x2D 0 o

/-- VCFGW (R230): Writes VCFG from A, clamping GCODE and VL. -/
def execVcfgw (st : Stop) (trk : Fin 2) (sl : Fin 4) (o : Op) (s : State) : Out :=
  onTile st s fun s => s.issueRow st trk sl 0x2D 1 o

/-- FSTATR (R245): Reads the committed FSTAT from the oldest carve. -/
def execFstatr (st : Stop) (trk : Fin 2) (sl : Fin 4) (o : Op) (s : State) : Out :=
  onTile st s fun s => s.issueRow st trk sl 0x2D 2 o

/-- FSTATW (R245): At commit sets FSTAT to A ORed with the carve's flags, then squashes and refetches. -/
def execFstatw (st : Stop) (trk : Fin 2) (sl : Fin 4) (o : Op) (s : State) : Out :=
  onTile st s fun s => s.issueRow st trk sl 0x2D 3 o

/-- SRR (R137): Reads the named status register as it stands at issue. -/
def execSrr (st : Stop) (trk : Fin 2) (sl : Fin 4) (o : Op) (s : State) : Out :=
  onTile st s fun s => s.issueRow st trk sl 0x30 o.f.toNat o

/-- SRW (R137): Writes A to the named status register at commit. -/
def execSrw (st : Stop) (trk : Fin 2) (sl : Fin 4) (o : Op) (s : State) : Out :=
  onTile st s fun s => s.issueRow st trk sl 0x31 o.f.toNat o

/-- SRSET (R137): ORs A into the named status register at commit and returns its value at issue. -/
def execSrset (st : Stop) (trk : Fin 2) (sl : Fin 4) (o : Op) (s : State) : Out :=
  onTile st s fun s => s.issueRow st trk sl 0x32 o.f.toNat o

/-- SRCLR (R137): Clears the bits of A in the named status register at commit and returns its value at issue. -/
def execSrclr (st : Stop) (trk : Fin 2) (sl : Fin 4) (o : Op) (s : State) : Out :=
  onTile st s fun s => s.issueRow st trk sl 0x33 o.f.toNat o

/-- FENCE (R211): At commit orders the earlier accesses its variant names before later ones, squashing and holding younger carves. -/
def execFence (st : Stop) (trk : Fin 2) (sl : Fin 4) (o : Op) (s : State) : Out :=
  onTile st s fun s => s.issueRow st trk sl 0x34 o.f.toNat o

/-- SYNC_C (R84): At commit invalidates the carve cache, discards the rink capture, squashes younger carves and refetches. -/
def execSyncC (st : Stop) (trk : Fin 2) (sl : Fin 4) (o : Op) (s : State) : Out :=
  onTile st s fun s => s.issueRow st trk sl 0x35 o.f.toNat o

/-- SCALL (R141): At commit enters the S-level call handler with the successor as return point. -/
def execScall (st : Stop) (trk : Fin 2) (sl : Fin 4) (o : Op) (s : State) : Out :=
  onTile st s fun s => s.issueRow st trk sl 0x36 0 o

/-- HCALL (R141): At commit enters the H-level call handler with the successor as return point. -/
def execHcall (st : Stop) (trk : Fin 2) (sl : Fin 4) (o : Op) (s : State) : Out :=
  onTile st s fun s => s.issueRow st trk sl 0x36 1 o

/-- BRK (R142): Raises a breakpoint fault when it runs. -/
def execBrk (st : Stop) (trk : Fin 2) (sl : Fin 4) (o : Op) (s : State) : Out :=
  onTile st s fun s => s.issueRow st trk sl 0x36 2 o

/-- UDF (R142): Raises an illegal operation fault when it runs. -/
def execUdf (st : Stop) (trk : Fin 2) (sl : Fin 4) (o : Op) (s : State) : Out :=
  onTile st s fun s => s.issueRow st trk sl 0x36 3 o

/-- SRET (R285): At commit at S returns from the top frame, or chains to a pending source. -/
def execSret (st : Stop) (trk : Fin 2) (sl : Fin 4) (o : Op) (s : State) : Out :=
  onTile st s fun s => s.issueRow st trk sl 0x37 0 o

/-- HRET (R285): At commit at H returns from the top frame, or chains to a pending source. -/
def execHret (st : Stop) (trk : Fin 2) (sl : Fin 4) (o : Op) (s : State) : Out :=
  onTile st s fun s => s.issueRow st trk sl 0x37 1 o

/-- WFI (R143): Holds its stride until the LEC has a presentable source, then completes. -/
def execWfi (st : Stop) (trk : Fin 2) (sl : Fin 4) (o : Op) (s : State) : Out :=
  onTile st s fun s => s.issueRow st trk sl 0x38 o.f.toNat o

/-- RDCNT (R144): Returns the named counter as held at issue, subject to counter rights. -/
def execRdcnt (st : Stop) (trk : Fin 2) (sl : Fin 4) (o : Op) (s : State) : Out :=
  onTile st s fun s => s.issueRow st trk sl 0x39 o.f.toNat o

/-- RDCHRONO (R145): Returns the local chrono count, interlocked with count 8. -/
def execRdchrono (st : Stop) (trk : Fin 2) (sl : Fin 4) (o : Op) (s : State) : Out :=
  onTile st s fun s => s.issueRow st trk sl 0x3A o.f.toNat o

end Sys2Proof.Machine
end

