-- ==== Sys2Proof/Machine/VectorRows.lean ====
section
/-! DEFINITION. Meanings of the scalar FP, vector and vector memory operations (R223-R260): each issues the next stride of the carve on a track
with that operation in it. -/

namespace Sys2Proof.Machine

/-- VLD (R255): Unit-stride vector load. -/
def execVld (st : Stop) (trk : Fin 2) (sl : Fin 4) (o : Op) (s : State) : Out :=
  onTile st s fun s => s.issueRow st trk sl 0x5D o.f.toNat o

/-- VST (R255): Unit-stride vector store. -/
def execVst (st : Stop) (trk : Fin 2) (sl : Fin 4) (o : Op) (s : State) : Out :=
  onTile st s fun s => s.issueRow st trk sl 0x5E o.f.toNat o

/-- VLDS (R255): Strided vector load. -/
def execVlds (st : Stop) (trk : Fin 2) (sl : Fin 4) (o : Op) (s : State) : Out :=
  onTile st s fun s => s.issueRow st trk sl 0x5F 0 o

/-- VSTS (R255): Strided vector store. -/
def execVsts (st : Stop) (trk : Fin 2) (sl : Fin 4) (o : Op) (s : State) : Out :=
  onTile st s fun s => s.issueRow st trk sl 0x5F 1 o

/-- VGATHER (R255): Indexed vector load. -/
def execVgather (st : Stop) (trk : Fin 2) (sl : Fin 4) (o : Op) (s : State) : Out :=
  onTile st s fun s => s.issueRow st trk sl 0x5F 2 o

/-- VSCATTER (R255): Indexed vector store. -/
def execVscatter (st : Stop) (trk : Fin 2) (sl : Fin 4) (o : Op) (s : State) : Out :=
  onTile st s fun s => s.issueRow st trk sl 0x5F 3 o

/-- SCALAR_FP64 (R246): Opcode 0x60 performs the FP64 scalar operation F selects. -/
def execScalarFp64 (st : Stop) (trk : Fin 2) (sl : Fin 4) (o : Op) (s : State) : Out :=
  onTile st s fun s => s.issueRow st trk sl 0x60 o.f.toNat o

/-- SCALAR_FP32 (R246): Opcode 0x61 performs the FP32 scalar operation F selects. -/
def execScalarFp32 (st : Stop) (trk : Fin 2) (sl : Fin 4) (o : Op) (s : State) : Out :=
  onTile st s fun s => s.issueRow st trk sl 0x61 o.f.toNat o

/-- SCALAR_FP16 (R246): Opcode 0x62 performs the FP16 scalar operation F selects. -/
def execScalarFp16 (st : Stop) (trk : Fin 2) (sl : Fin 4) (o : Op) (s : State) : Out :=
  onTile st s fun s => s.issueRow st trk sl 0x62 o.f.toNat o

/-- SCALAR_BF16 (R246): Opcode 0x63 performs the BF16 scalar operation F selects. -/
def execScalarBf16 (st : Stop) (trk : Fin 2) (sl : Fin 4) (o : Op) (s : State) : Out :=
  onTile st s fun s => s.issueRow st trk sl 0x63 o.f.toNat o

/-- FMA (R247): Fused multiply-add family on fD, fA and fB in the format F selects. -/
def execFma (st : Stop) (trk : Fin 2) (sl : Fin 4) (o : Op) (s : State) : Out :=
  onTile st s fun s => s.issueRow st trk sl 0x64 o.f.toNat o

/-- FCMP (R248): Writes 1 to integer D when the FP comparison holds. -/
def execFcmp (st : Stop) (trk : Fin 2) (sl : Fin 4) (o : Op) (s : State) : Out :=
  onTile st s fun s => s.issueRow st trk sl 0x65 o.f.toNat o

/-- FCVT_FF (R248): Converts between FP formats. -/
def execFcvtFf (st : Stop) (trk : Fin 2) (sl : Fin 4) (o : Op) (s : State) : Out :=
  onTile st s fun s => s.issueRow st trk sl 0x66 o.f.toNat o

/-- FCVT_FI (R248): Converts an integer to FP, rounded in RMODE. -/
def execFcvtFi (st : Stop) (trk : Fin 2) (sl : Fin 4) (o : Op) (s : State) : Out :=
  onTile st s fun s => s.issueRow st trk sl 0x67 o.f.toNat o

/-- FCVT_IF (R242): Converts FP to integer, rounding toward zero and saturating. -/
def execFcvtIf (st : Stop) (trk : Fin 2) (sl : Fin 4) (o : Op) (s : State) : Out :=
  onTile st s fun s => s.issueRow st trk sl 0x68 o.f.toNat o

/-- FBITS (R248): Moves raw bits between an FP and an integer register. -/
def execFbits (st : Stop) (trk : Fin 2) (sl : Fin 4) (o : Op) (s : State) : Out :=
  onTile st s fun s => s.issueRow st trk sl 0x69 o.f.toNat o

/-- VINT_VV (R250): Element-wise vector integer operation on two groups. -/
def execVintVv (st : Stop) (trk : Fin 2) (sl : Fin 4) (o : Op) (s : State) : Out :=
  onTile st s fun s => s.issueRow st trk sl 0x6A o.f.toNat o

/-- VINT_VX (R250): Element-wise vector integer operation with a scalar integer. -/
def execVintVx (st : Stop) (trk : Fin 2) (sl : Fin 4) (o : Op) (s : State) : Out :=
  onTile st s fun s => s.issueRow st trk sl 0x6B o.f.toNat o

/-- VMAC (R250): Vector integer multiply-accumulate into D. -/
def execVmac (st : Stop) (trk : Fin 2) (sl : Fin 4) (o : Op) (s : State) : Out :=
  onTile st s fun s => s.issueRow st trk sl 0x6C o.f.toNat o

/-- VFP_VV (R251): Element-wise vector FP operation on two groups. -/
def execVfpVv (st : Stop) (trk : Fin 2) (sl : Fin 4) (o : Op) (s : State) : Out :=
  onTile st s fun s => s.issueRow st trk sl 0x6D o.f.toNat o

/-- VFP_VF (R251): Element-wise vector FP operation with scalar fB. -/
def execVfpVf (st : Stop) (trk : Fin 2) (sl : Fin 4) (o : Op) (s : State) : Out :=
  onTile st s fun s => s.issueRow st trk sl 0x6E o.f.toNat o

/-- VFMA (R251): Element-wise vector fused multiply-add. -/
def execVfma (st : Stop) (trk : Fin 2) (sl : Fin 4) (o : Op) (s : State) : Out :=
  onTile st s fun s => s.issueRow st trk sl 0x6F o.f.toNat o

/-- VFDS (R251): Vector FP divide or square root, interlocked. -/
def execVfds (st : Stop) (trk : Fin 2) (sl : Fin 4) (o : Op) (s : State) : Out :=
  onTile st s fun s => s.issueRow st trk sl 0x70 o.f.toNat o

/-- VFCVT (R251): Same-width vector conversion of each element. -/
def execVfcvt (st : Stop) (trk : Fin 2) (sl : Fin 4) (o : Op) (s : State) : Out :=
  onTile st s fun s => s.issueRow st trk sl 0x71 o.f.toNat o

/-- VFCMP (R251): Element-wise vector FP compare writing all-ones masks. -/
def execVfcmp (st : Stop) (trk : Fin 2) (sl : Fin 4) (o : Op) (s : State) : Out :=
  onTile st s fun s => s.issueRow st trk sl 0x72 o.f.toNat o

/-- VPERM (R252): Vector permute, duplicate or element extraction F selects. -/
def execVperm (st : Stop) (trk : Fin 2) (sl : Fin 4) (o : Op) (s : State) : Out :=
  onTile st s fun s => s.issueRow st trk sl 0x73 o.f.toNat o

/-- VRED (R253): Vector integer reduction in the fixed tree order. -/
def execVred (st : Stop) (trk : Fin 2) (sl : Fin 4) (o : Op) (s : State) : Out :=
  onTile st s fun s => s.issueRow st trk sl 0x74 o.f.toNat o

/-- VFRED (R253): Vector FP reduction, tree-ordered or ordered sum. -/
def execVfred (st : Stop) (trk : Fin 2) (sl : Fin 4) (o : Op) (s : State) : Out :=
  onTile st s fun s => s.issueRow st trk sl 0x75 o.f.toNat o

end Sys2Proof.Machine
end

