-- ==== Sys2Proof/Machine/Dispatch.lean ====
section
/-! DEFINITION. The dispatcher: one arm for each command. -/

namespace Sys2Proof.Machine

/-- What a command does to everything but the queue. -/
def exec (i : Instr) (s : State) : Host.Outcome State Fault Refusal :=
  match i with
  | .registerWrite w pa k v => Sys2Proof.Machine.execRegisterWrite w pa k v s
  | .pageErrInj w pg v => Sys2Proof.Machine.execPageErrInj w pg v s
  | .pageEnableSet w pg => Sys2Proof.Machine.execPageEnableSet w pg s
  | .pageEnableClear w pg => Sys2Proof.Machine.execPageEnableClear w pg s
  | .blockStopped pg => Sys2Proof.Machine.execBlockStopped pg s
  | .carveFetch st => Sys2Proof.Machine.execCarveFetch st s
  | .rename st => Sys2Proof.Machine.execRename st s
  | .dispatch st => Sys2Proof.Machine.execDispatch st s
  | .strideIssue st trk => Sys2Proof.Machine.execStrideIssue st trk s
  | .lodge st trk => Sys2Proof.Machine.execLodge st trk s
  | .resultLand st stn tag => Sys2Proof.Machine.execResultLand st stn tag s
  | .carveCommit st => Sys2Proof.Machine.execCarveCommit st s
  | .oldestQueueSquash st => Sys2Proof.Machine.execOldestQueueSquash st s
  | .faultRaise st => Sys2Proof.Machine.execFaultRaise st s
  | .groomEn w st v => Sys2Proof.Machine.execGroomEn w st v s
  | .checkEn w st v => Sys2Proof.Machine.execCheckEn w st v s
  | .speculativeReissue st lq => Sys2Proof.Machine.execSpeculativeReissue st lq s
  | .rinkFlush w st => Sys2Proof.Machine.execRinkFlush w st s
  | .predFlush w st => Sys2Proof.Machine.execPredFlush w st s
  | .alu st trk sl o => Sys2Proof.Machine.execAlu st trk sl o s
  | .shift st trk sl o => Sys2Proof.Machine.execShift st trk sl o s
  | .mul st trk sl o => Sys2Proof.Machine.execMul st trk sl o s
  | .div st trk sl o => Sys2Proof.Machine.execDiv st trk sl o s
  | .addi st trk sl o => Sys2Proof.Machine.execAddi st trk sl o s
  | .andi st trk sl o => Sys2Proof.Machine.execAndi st trk sl o s
  | .ori st trk sl o => Sys2Proof.Machine.execOri st trk sl o s
  | .xori st trk sl o => Sys2Proof.Machine.execXori st trk sl o s
  | .slli st trk sl o => Sys2Proof.Machine.execSlli st trk sl o s
  | .srli st trk sl o => Sys2Proof.Machine.execSrli st trk sl o s
  | .srai st trk sl o => Sys2Proof.Machine.execSrai st trk sl o s
  | .rori st trk sl o => Sys2Proof.Machine.execRori st trk sl o s
  | .cmp st trk sl o => Sys2Proof.Machine.execCmp st trk sl o s
  | .cmpeqi st trk sl o => Sys2Proof.Machine.execCmpeqi st trk sl o s
  | .cmpnei st trk sl o => Sys2Proof.Machine.execCmpnei st trk sl o s
  | .cmplti st trk sl o => Sys2Proof.Machine.execCmplti st trk sl o s
  | .cmpgei st trk sl o => Sys2Proof.Machine.execCmpgei st trk sl o s
  | .cmpltui st trk sl o => Sys2Proof.Machine.execCmpltui st trk sl o s
  | .cmpgeui st trk sl o => Sys2Proof.Machine.execCmpgeui st trk sl o s
  | .plog st trk sl o => Sys2Proof.Machine.execPlog st trk sl o s
  | .li st trk sl o => Sys2Proof.Machine.execLi st trk sl o s
  | .lih st trk sl o => Sys2Proof.Machine.execLih st trk sl o s
  | .cadr st trk sl o => Sys2Proof.Machine.execCadr st trk sl o s
  | .imx st trk sl o => Sys2Proof.Machine.execImx st trk sl o s
  | .setvl st trk sl o => Sys2Proof.Machine.execSetvl st trk sl o s
  | .vcfgr st trk sl o => Sys2Proof.Machine.execVcfgr st trk sl o s
  | .vcfgw st trk sl o => Sys2Proof.Machine.execVcfgw st trk sl o s
  | .fstatr st trk sl o => Sys2Proof.Machine.execFstatr st trk sl o s
  | .fstatw st trk sl o => Sys2Proof.Machine.execFstatw st trk sl o s
  | .srr st trk sl o => Sys2Proof.Machine.execSrr st trk sl o s
  | .srw st trk sl o => Sys2Proof.Machine.execSrw st trk sl o s
  | .srset st trk sl o => Sys2Proof.Machine.execSrset st trk sl o s
  | .srclr st trk sl o => Sys2Proof.Machine.execSrclr st trk sl o s
  | .fence st trk sl o => Sys2Proof.Machine.execFence st trk sl o s
  | .syncC st trk sl o => Sys2Proof.Machine.execSyncC st trk sl o s
  | .scall st trk sl o => Sys2Proof.Machine.execScall st trk sl o s
  | .hcall st trk sl o => Sys2Proof.Machine.execHcall st trk sl o s
  | .brk st trk sl o => Sys2Proof.Machine.execBrk st trk sl o s
  | .udf st trk sl o => Sys2Proof.Machine.execUdf st trk sl o s
  | .sret st trk sl o => Sys2Proof.Machine.execSret st trk sl o s
  | .hret st trk sl o => Sys2Proof.Machine.execHret st trk sl o s
  | .wfi st trk sl o => Sys2Proof.Machine.execWfi st trk sl o s
  | .rdcnt st trk sl o => Sys2Proof.Machine.execRdcnt st trk sl o s
  | .rdchrono st trk sl o => Sys2Proof.Machine.execRdchrono st trk sl o s
  | .exitR st trk sl o => Sys2Proof.Machine.execExitR st trk sl o s
  | .callR st trk sl o => Sys2Proof.Machine.execCallR st trk sl o s
  | .exitX st trk sl o => Sys2Proof.Machine.execExitX st trk sl o s
  | .callX st trk sl o => Sys2Proof.Machine.execCallX st trk sl o s
  | .ret st trk sl o => Sys2Proof.Machine.execRet st trk sl o s
  | .ldB st trk sl o => Sys2Proof.Machine.execLdB st trk sl o s
  | .ldBu st trk sl o => Sys2Proof.Machine.execLdBu st trk sl o s
  | .ldH st trk sl o => Sys2Proof.Machine.execLdH st trk sl o s
  | .ldHu st trk sl o => Sys2Proof.Machine.execLdHu st trk sl o s
  | .ldW st trk sl o => Sys2Proof.Machine.execLdW st trk sl o s
  | .ldWu st trk sl o => Sys2Proof.Machine.execLdWu st trk sl o s
  | .ldD st trk sl o => Sys2Proof.Machine.execLdD st trk sl o s
  | .ldfD st trk sl o => Sys2Proof.Machine.execLdfD st trk sl o s
  | .ldfW st trk sl o => Sys2Proof.Machine.execLdfW st trk sl o s
  | .ldfH st trk sl o => Sys2Proof.Machine.execLdfH st trk sl o s
  | .stB st trk sl o => Sys2Proof.Machine.execStB st trk sl o s
  | .stH st trk sl o => Sys2Proof.Machine.execStH st trk sl o s
  | .stW st trk sl o => Sys2Proof.Machine.execStW st trk sl o s
  | .stD st trk sl o => Sys2Proof.Machine.execStD st trk sl o s
  | .stfD st trk sl o => Sys2Proof.Machine.execStfD st trk sl o s
  | .stfW st trk sl o => Sys2Proof.Machine.execStfW st trk sl o s
  | .stfH st trk sl o => Sys2Proof.Machine.execStfH st trk sl o s
  | .ldx st trk sl o => Sys2Proof.Machine.execLdx st trk sl o s
  | .stx st trk sl o => Sys2Proof.Machine.execStx st trk sl o s
  | .ldAcq st trk sl o => Sys2Proof.Machine.execLdAcq st trk sl o s
  | .stRel st trk sl o => Sys2Proof.Machine.execStRel st trk sl o s
  | .amo st trk sl o => Sys2Proof.Machine.execAmo st trk sl o s
  | .amoW st trk sl o => Sys2Proof.Machine.execAmoW st trk sl o s
  | .amoAr st trk sl o => Sys2Proof.Machine.execAmoAr st trk sl o s
  | .amoWAr st trk sl o => Sys2Proof.Machine.execAmoWAr st trk sl o s
  | .cas st trk sl o => Sys2Proof.Machine.execCas st trk sl o s
  | .atomicPerform st lq => Sys2Proof.Machine.execAtomicPerform st lq s
  | .pref st trk sl o => Sys2Proof.Machine.execPref st trk sl o s
  | .clean st trk sl o => Sys2Proof.Machine.execClean st trk sl o s
  | .inval st trk sl o => Sys2Proof.Machine.execInval st trk sl o s
  | .clinv st trk sl o => Sys2Proof.Machine.execClinv st trk sl o s
  | .lockfill st trk sl o => Sys2Proof.Machine.execLockfill st trk sl o s
  | .xinvAd st trk sl o => Sys2Proof.Machine.execXinvAd st trk sl o s
  | .xinvTag st trk sl o => Sys2Proof.Machine.execXinvTag st trk sl o s
  | .xinvAll st trk sl o => Sys2Proof.Machine.execXinvAll st trk sl o s
  | .xwait st trk sl o => Sys2Proof.Machine.execXwait st trk sl o s
  | .pisteInvalidationSend st => Sys2Proof.Machine.execPisteInvalidationSend st s
  | .vld st trk sl o => Sys2Proof.Machine.execVld st trk sl o s
  | .vst st trk sl o => Sys2Proof.Machine.execVst st trk sl o s
  | .vlds st trk sl o => Sys2Proof.Machine.execVlds st trk sl o s
  | .vsts st trk sl o => Sys2Proof.Machine.execVsts st trk sl o s
  | .vgather st trk sl o => Sys2Proof.Machine.execVgather st trk sl o s
  | .vscatter st trk sl o => Sys2Proof.Machine.execVscatter st trk sl o s
  | .scalarFp64 st trk sl o => Sys2Proof.Machine.execScalarFp64 st trk sl o s
  | .scalarFp32 st trk sl o => Sys2Proof.Machine.execScalarFp32 st trk sl o s
  | .scalarFp16 st trk sl o => Sys2Proof.Machine.execScalarFp16 st trk sl o s
  | .scalarBf16 st trk sl o => Sys2Proof.Machine.execScalarBf16 st trk sl o s
  | .fma st trk sl o => Sys2Proof.Machine.execFma st trk sl o s
  | .fcmp st trk sl o => Sys2Proof.Machine.execFcmp st trk sl o s
  | .fcvtFf st trk sl o => Sys2Proof.Machine.execFcvtFf st trk sl o s
  | .fcvtFi st trk sl o => Sys2Proof.Machine.execFcvtFi st trk sl o s
  | .fcvtIf st trk sl o => Sys2Proof.Machine.execFcvtIf st trk sl o s
  | .fbits st trk sl o => Sys2Proof.Machine.execFbits st trk sl o s
  | .vintVv st trk sl o => Sys2Proof.Machine.execVintVv st trk sl o s
  | .vintVx st trk sl o => Sys2Proof.Machine.execVintVx st trk sl o s
  | .vmac st trk sl o => Sys2Proof.Machine.execVmac st trk sl o s
  | .vfpVv st trk sl o => Sys2Proof.Machine.execVfpVv st trk sl o s
  | .vfpVf st trk sl o => Sys2Proof.Machine.execVfpVf st trk sl o s
  | .vfma st trk sl o => Sys2Proof.Machine.execVfma st trk sl o s
  | .vfds st trk sl o => Sys2Proof.Machine.execVfds st trk sl o s
  | .vfcvt st trk sl o => Sys2Proof.Machine.execVfcvt st trk sl o s
  | .vfcmp st trk sl o => Sys2Proof.Machine.execVfcmp st trk sl o s
  | .vperm st trk sl o => Sys2Proof.Machine.execVperm st trk sl o s
  | .vred st trk sl o => Sys2Proof.Machine.execVred st trk sl o s
  | .vfred st trk sl o => Sys2Proof.Machine.execVfred st trk sl o s
  | .storeDrain st sq => Sys2Proof.Machine.execStoreDrain st sq s
  | .wcBufferTimeout st line => Sys2Proof.Machine.execWcBufferTimeout st line s
  | .devSAcknowledge st sq => Sys2Proof.Machine.execDevSAcknowledge st sq s
  | .storeRefusal st sq r => Sys2Proof.Machine.execStoreRefusal st sq r s
  | .interruptAccept st => Sys2Proof.Machine.execInterruptAccept st s
  | .pmbRing st => Sys2Proof.Machine.execPmbRing st s
  | .pmbCompletion st seq result rsp => Sys2Proof.Machine.execPmbCompletion st seq result rsp s
  | .pmbTimeout st => Sys2Proof.Machine.execPmbTimeout st s
  | .evt ni f => Sys2Proof.Machine.execEvt ni f s
  | .lecClaim w st => Sys2Proof.Machine.execLecClaim w st s
  | .lecComplete w st src => Sys2Proof.Machine.execLecComplete w st src s
  | .lecDoorbell w st src => Sys2Proof.Machine.execLecDoorbell w st src s
  | .lecPendWrite w st k v => Sys2Proof.Machine.execLecPendWrite w st k v s
  | .msi h p pa data rid => Sys2Proof.Machine.execMsi h p pa data rid s
  | .msiRetry h p n => Sys2Proof.Machine.execMsiRetry h p n s
  | .irtUnmask w h p n => Sys2Proof.Machine.execIrtUnmask w h p n s
  | .lecTimer st n => Sys2Proof.Machine.execLecTimer st n s
  | .watchdogFirstStage st => Sys2Proof.Machine.execWatchdogFirstStage st s
  | .watchdogExpiry st => Sys2Proof.Machine.execWatchdogExpiry st s
  | .lecWdogKick w st => Sys2Proof.Machine.execLecWdogKick w st s
  | .pageWalk st k => Sys2Proof.Machine.execPageWalk st k s
  | .adUpdate st k => Sys2Proof.Machine.execAdUpdate st k s
  | .xinv ni f => Sys2Proof.Machine.execXinv ni f s
  | .invalidationAck st => Sys2Proof.Machine.execInvalidationAck st s
  | .tlbFlush w st => Sys2Proof.Machine.execTlbFlush w st s
  | .rdS ni f => Sys2Proof.Machine.execRdS ni f s
  | .rdO ni f => Sys2Proof.Machine.execRdO ni f s
  | .rdNc ni f => Sys2Proof.Machine.execRdNc ni f s
  | .wrNc ni f => Sys2Proof.Machine.execWrNc ni f s
  | .wb ni f => Sys2Proof.Machine.execWb ni f s
  | .wrLine ni f => Sys2Proof.Machine.execWrLine ni f s
  | .atom ni f => Sys2Proof.Machine.execAtom ni f s
  | .maint ni f => Sys2Proof.Machine.execMaint ni f s
  | .snpInv ni f => Sys2Proof.Machine.execSnpInv ni f s
  | .snpSh ni f => Sys2Proof.Machine.execSnpSh ni f s
  | .data ni f => Sys2Proof.Machine.execData ni f s
  | .ack ni f => Sys2Proof.Machine.execAck ni f s
  | .tkt ni f => Sys2Proof.Machine.execTkt ni f s
  | .tktRet ni f => Sys2Proof.Machine.execTktRet ni f s
  | .tbl ni => Sys2Proof.Machine.execTbl ni s
  | .l2RangeGo w st => Sys2Proof.Machine.execL2RangeGo w st s
  | .l2RangeAbort w st => Sys2Proof.Machine.execL2RangeAbort w st s
  | .rangeEngineDone st => Sys2Proof.Machine.execRangeEngineDone st s
  | .l2Lock w st mask => Sys2Proof.Machine.execL2Lock w st mask s
  | .lockEmptyingDone st => Sys2Proof.Machine.execLockEmptyingDone st s
  | .cacheSweepRead st slice set way e => Sys2Proof.Machine.execCacheSweepRead st slice set way e s
  | .sliceDrain w st v => Sys2Proof.Machine.execSliceDrain w st v s
  | .sliceDrainDone st => Sys2Proof.Machine.execSliceDrainDone st s
  | .bremapEntWrite w b v => Sys2Proof.Machine.execBremapEntWrite w b v s
  | .padZeroingDone st => Sys2Proof.Machine.execPadZeroingDone st s
  | .padCopyGo w st v => Sys2Proof.Machine.execPadCopyGo w st v s
  | .padCopyDone st => Sys2Proof.Machine.execPadCopyDone st s
  | .padSweepRead st e => Sys2Proof.Machine.execPadSweepRead st e s
  | .nmcRequestIssue c => Sys2Proof.Machine.execNmcRequestIssue c s
  | .fallbackScheduling c => Sys2Proof.Machine.execFallbackScheduling c s
  | .pageIdlePrecharge c bank => Sys2Proof.Machine.execPageIdlePrecharge c bank s
  | .perBankRefresh c bank => Sys2Proof.Machine.execPerBankRefresh c bank s
  | .allBankRefresh c => Sys2Proof.Machine.execAllBankRefresh c s
  | .rfm c bank => Sys2Proof.Machine.execRfm c bank s
  | .deviceRfmDemand c bank => Sys2Proof.Machine.execDeviceRfmDemand c bank s
  | .trainGo w n => Sys2Proof.Machine.execTrainGo w n s
  | .trainingDone n fail => Sys2Proof.Machine.execTrainingDone n fail s
  | .dqsOscillator c => Sys2Proof.Machine.execDqsOscillator c s
  | .nmcSweepRead c e => Sys2Proof.Machine.execNmcSweepRead c e s
  | .nearCacheFill c line data poison => Sys2Proof.Machine.execNearCacheFill c line data poison s
  | .segmentZeroingDone c => Sys2Proof.Machine.execSegmentZeroingDone c s
  | .nmcCalendarEn w c v => Sys2Proof.Machine.execNmcCalendarEn w c v s
  | .calendarActivate c => Sys2Proof.Machine.execCalendarActivate c s
  | .nmcCalSlot c => Sys2Proof.Machine.execNmcCalSlot c s
  | .ntmapWrite w off v => Sys2Proof.Machine.execNtmapWrite w off v s
  | .bisnp h p line kind => Sys2Proof.Machine.execBisnp h p line kind s
  | .d2hRequest h p q => Sys2Proof.Machine.execD2hRequest h p q s
  | .h2dSnoopTimeout h id => Sys2Proof.Machine.execH2dSnoopTimeout h id s
  | .hdmDecCtlWrite w h j v => Sys2Proof.Machine.execHdmDecCtlWrite w h j v s
  | .hdmExtNextCommit w h v => Sys2Proof.Machine.execHdmExtNextCommit w h v s
  | .extentSwitched h => Sys2Proof.Machine.execExtentSwitched h s
  | .cxlLinkDown h p viral => Sys2Proof.Machine.execCxlLinkDown h p viral s
  | .s2mResponse h id r => Sys2Proof.Machine.execS2mResponse h id r s
  | .cxlMemTimeout h id => Sys2Proof.Machine.execCxlMemTimeout h id s
  | .cachememIdeFail h p => Sys2Proof.Machine.execCachememIdeFail h p s
  | .routerForward r o => Sys2Proof.Machine.execRouterForward r o s
  | .creditReturn r o vc => Sys2Proof.Machine.execCreditReturn r o vc s
  | .niRequestSend ni => Sys2Proof.Machine.execNiRequestSend ni s
  | .requestIntoService ni => Sys2Proof.Machine.execRequestIntoService ni s
  | .sharedTicketRelease ni tgt cls => Sys2Proof.Machine.execSharedTicketRelease ni tgt cls s
  | .niRouteWrite w ni e n v => Sys2Proof.Machine.execNiRouteWrite w ni e n v s
  | .meshEpochSwitch w => Sys2Proof.Machine.execMeshEpochSwitch w s
  | .epochDrainReport ni => Sys2Proof.Machine.execEpochDrainReport ni s
  | .routerDrain w r v => Sys2Proof.Machine.execRouterDrain w r v s
  | .routerQuiet r => Sys2Proof.Machine.execRouterQuiet r s
  | .routerCalEn w r v => Sys2Proof.Machine.execRouterCalEn w r v s
  | .niClose w ni v => Sys2Proof.Machine.execNiClose w ni v s
  | .gateClosed ni g => Sys2Proof.Machine.execGateClosed ni g s
  | .meshSealedWrite w v => Sys2Proof.Machine.execMeshSealedWrite w v s
  | .meshLost w => Sys2Proof.Machine.execMeshLost w s
  | .inboundRequest h p t => Sys2Proof.Machine.execInboundRequest h p t s
  | .pf1Request h t => Sys2Proof.Machine.execPf1Request h t s
  | .tlpCompletion h p id c => Sys2Proof.Machine.execTlpCompletion h p id c s
  | .completionTimeout h p id => Sys2Proof.Machine.execCompletionTimeout h p id s
  | .mmioWindowWrite w h p off v => Sys2Proof.Machine.execMmioWindowWrite w h p off v s
  | .bmeClear w h p => Sys2Proof.Machine.execBmeClear w h p s
  | .sscFrame h ins => Sys2Proof.Machine.execSscFrame h ins s
  | .slotControlWrite w h p v => Sys2Proof.Machine.execSlotControlWrite w h p v s
  | .pgoodTimeout h p => Sys2Proof.Machine.execPgoodTimeout h p s
  | .slotPerstRelease h p => Sys2Proof.Machine.execSlotPerstRelease h p s
  | .slotPowerOff h p => Sys2Proof.Machine.execSlotPowerOff h p s
  | .linkDown h p => Sys2Proof.Machine.execLinkDown h p s
  | .linkIdeFail h p => Sys2Proof.Machine.execLinkIdeFail h p s
  | .perstNRelease g => Sys2Proof.Machine.execPerstNRelease g s
  | .epMailboxRing h seq words => Sys2Proof.Machine.execEpMailboxRing h seq words s
  | .epMbxResult w h result => Sys2Proof.Machine.execEpMbxResult w h result s
  | .consoleInWrite h b => Sys2Proof.Machine.execConsoleInWrite h b s
  | .consoleOutRead h => Sys2Proof.Machine.execConsoleOutRead h s
  | .epConInRead w h => Sys2Proof.Machine.execEpConInRead w h s
  | .epConOutWrite w h b => Sys2Proof.Machine.execEpConOutWrite w h b s
  | .pf0BmeClear h pf v => Sys2Proof.Machine.execPf0BmeClear h pf v s
  | .winCommit w h => Sys2Proof.Machine.execWinCommit w h s
  | .windowCopyDone h => Sys2Proof.Machine.execWindowCopyDone h s
  | .pf1EvtRead h => Sys2Proof.Machine.execPf1EvtRead h s
  | .flr h pf => Sys2Proof.Machine.execFlr h pf s
  | .flrDone h pf => Sys2Proof.Machine.execFlrDone h pf s
  | .pmapInv w => Sys2Proof.Machine.execPmapInv w s
  | .pmapCopyWrite w off v => Sys2Proof.Machine.execPmapCopyWrite w off v s
  | .violationReport v => Sys2Proof.Machine.execViolationReport v s
  | .sensorFire sn src => Sys2Proof.Machine.execSensorFire sn src s
  | .lockstepMismatch pair => Sys2Proof.Machine.execLockstepMismatch pair s
  | .debugChallenge piste ok => Sys2Proof.Machine.execDebugChallenge piste ok s
  | .ksGenerate w slot kind => Sys2Proof.Machine.execKsGenerate w slot kind s
  | .ksClear w slot => Sys2Proof.Machine.execKsClear w slot s
  | .ksUnwrap w slot => Sys2Proof.Machine.execKsUnwrap w slot s
  | .version c => Sys2Proof.Machine.execVersion c s
  | .noticeRead c => Sys2Proof.Machine.execNoticeRead c s
  | .irtSet c => Sys2Proof.Machine.execIrtSet c s
  | .tileStart c => Sys2Proof.Machine.execTileStart c s
  | .keyGen c => Sys2Proof.Machine.execKeyGen c s
  | .attest c => Sys2Proof.Machine.execAttest c s
  | .extentDone c => Sys2Proof.Machine.execExtentDone c s
  | .rasRead c => Sys2Proof.Machine.execRasRead c s
  | .pisteTile c => Sys2Proof.Machine.execPisteTile c s
  | .pisteMap c => Sys2Proof.Machine.execPisteMap c s
  | .pistePort c => Sys2Proof.Machine.execPistePort c s
  | .pisteFlags c => Sys2Proof.Machine.execPisteFlags c s
  | .groupSet c => Sys2Proof.Machine.execGroupSet c s
  | .pisteSeal c => Sys2Proof.Machine.execPisteSeal c s
  | .thaw c => Sys2Proof.Machine.execThaw c s
  | .policy c => Sys2Proof.Machine.execPolicy c s
  | .bootImage c => Sys2Proof.Machine.execBootImage c s
  | .svnCommit c => Sys2Proof.Machine.execSvnCommit c s
  | .tliftPreqWrite w st v => Sys2Proof.Machine.execTliftPreqWrite w st v s
  | .pstateMove st => Sys2Proof.Machine.execPstateMove st s
  | .liftPstateWrite w n v => Sys2Proof.Machine.execLiftPstateWrite w n v s
  | .powerEstimate watts temps => Sys2Proof.Machine.execPowerEstimate watts temps s
  | .tileStateEntry st => Sys2Proof.Machine.execTileStateEntry st s
  | .tileWake st => Sys2Proof.Machine.execTileWake st s
  | .forceT3 w st v => Sys2Proof.Machine.execForceT3 w st v s
  | .wakeEvent e => Sys2Proof.Machine.execWakeEvent e s
  | .wakeTokenGrant => Sys2Proof.Machine.execWakeTokenGrant s
  | .wakeTokenReturn => Sys2Proof.Machine.execWakeTokenReturn s
  | .pk1Entry refuse => Sys2Proof.Machine.execPk1Entry refuse s
  | .pk1Exit => Sys2Proof.Machine.execPk1Exit s
  | .liftHandshakeTimeout r => Sys2Proof.Machine.execLiftHandshakeTimeout r s
  | .liftChronoWrite w v => Sys2Proof.Machine.execLiftChronoWrite w v s
  | .liftWakeTmr => Sys2Proof.Machine.execLiftWakeTmr s
  | .rasReport r => Sys2Proof.Machine.execRasReport r s
  | .agingMonitorRead margins => Sys2Proof.Machine.execAgingMonitorRead margins s
  | .stuckStrideTimeout st trk => Sys2Proof.Machine.execStuckStrideTimeout st trk s
  | .niTransactionTimeout ni tag => Sys2Proof.Machine.execNiTransactionTimeout ni tag s
  | .claimWatchdog st act => Sys2Proof.Machine.execClaimWatchdog st act s
  | .patrolWatchdog pair => Sys2Proof.Machine.execPatrolWatchdog pair s
  | .swap w tile stop => Sys2Proof.Machine.execSwap w tile stop s
  | .swapCold w tile stop => Sys2Proof.Machine.execSwapCold w tile stop s
  | .retireSlice w stop => Sys2Proof.Machine.execRetireSlice w stop s
  | .wireSpare st dir => Sys2Proof.Machine.execWireSpare st dir s
  | .linkLoss st dir => Sys2Proof.Machine.execLinkLoss st dir s
  | .laneSpare h p width => Sys2Proof.Machine.execLaneSpare h p width s
  | .tuck mv => Sys2Proof.Machine.execTuck mv s
  | .rise mv => Sys2Proof.Machine.execRise mv s
  | .pk2Entry mv => Sys2Proof.Machine.execPk2Entry mv s
  | .splitLatch p => Sys2Proof.Machine.execSplitLatch p s
  | .tdClr w p => Sys2Proof.Machine.execTdClr w p s
  | .coldResetEntry why => Sys2Proof.Machine.execColdResetEntry why s
  | .coldResetExit => Sys2Proof.Machine.execColdResetExit s
  | .boot b => Sys2Proof.Machine.execBoot b s
  | .imageRetry b => Sys2Proof.Machine.execImageRetry b s
  | .thermtrip die => Sys2Proof.Machine.execThermtrip die s
  | .i3cIndexWrite idx => Sys2Proof.Machine.execI3cIndexWrite idx s
  | .linkUp h p gen width flit => Sys2Proof.Machine.execLinkUp h p gen width flit s
  | .biconflictack h id => Sys2Proof.Machine.execBiconflictack h id s
  | .h2dSnoopResponse h id r => Sys2Proof.Machine.execH2dSnoopResponse h id r s
  | .i3cDynamicAddressAssignment a => Sys2Proof.Machine.execI3cDynamicAddressAssignment a s
  | .jtagInstruction j => Sys2Proof.Machine.execJtagInstruction j s
  | .debugPortAccess st d => Sys2Proof.Machine.execDebugPortAccess st d s

end Sys2Proof.Machine
end

