-- ==== Sys2Proof/Machine/Tick.lean ====
section
/-! DEFINITION. What one chrono count of elapsed time does when no command waits (R310, R555, R575, R596, R611-R617). -/

namespace Sys2Proof.Machine

/-! ### Cycle counters -/

/-- Cycles of a clock of `num`/`den` per chrono count that end within the count `t`. -/
def cyclesIn (t num den : Nat) : Nat := (t + 1) * num / den - t * num / den

/-- Mesh cycles in a count: 2.0 GHz, and 250 MHz in PK1 (R569). -/
def State.meshCyclesIn (s : State) (t : Nat) : Nat :=
  if s.get pgLift F.LIFT_PK_STAT_STATE 0 = 0 then 2 else cyclesIn t 1 4
/-- NMC cycles in a count: 1.2 GHz (R435), none in the self-refresh of PK1 (R569). -/
def State.nmcCyclesIn (s : State) (t : Nat) : Nat :=
  if s.get pgLift F.LIFT_PK_STAT_STATE 0 = 0 then cyclesIn t 6 5 else 0
/-- Core cycles in a count: at the frequency of the tile's P-state in T0, none in any other tile state (R555, R562, R611). -/
def State.coreCyclesIn (s : State) (st t : Nat) : Nat :=
  if s.get (pgTlift st) F.TLIFT_TSTAT_STATE 0 = 0 then
    cyclesIn t (s.get pgLift F.LIFT_PSTATE_FREQ (s.get (pgTlift st) F.TLIFT_PSTAT_CUR 0)) 40
  else 0

/-- Router input VC entries in use that a stop's counters see (R615, R616). -/
def State.vcEntries (s : State) (st : Nat) : Nat :=
  let own (f : Flit) : Bool := !isTile st || s.get (pgPmu st) F.PAGE_OWNER_PLOCK 0 ≠ 0 || f.piste = s.get (pgPmu st) F.PAGE_OWNER_PISTE 0
  (s.router st).inp.foldl (fun n e => n + (e.2.filter own).length) 0

/-- Valid directory entries that a tile's counters see: of an owned page those of a line some tile of its piste holds (R615, R616).
(DESIGN CHOICE, assumption 13) -/
def State.dirSeen (s : State) (st : Nat) : Nat :=
  let pg := pgPmu st
  ((s.slice st).dir.filter fun d => s.get pg F.PAGE_OWNER_PLOCK 0 ≠ 0 ||
    (s.dirTargets d.2).any fun t => s.tilePiste t = s.get pg F.PAGE_OWNER_PISTE 0).length

/-- An occupancy of a stop's page in each of `n` cycles (R614). -/
def State.pageOcc (s : State) (st code k n : Nat) : State := s.pmuEventPg (pgPmu st) code 3 k n

/-- A tile's counters over one chrono count in which nothing issues (R611, R616, R617). -/
def State.tileCycles (s : State) (t mesh st : Nat) : State :=
  let s := (s.idleCycles st (s.coreCyclesIn st t)).unlodge st
  if s.flag (pgPmu st) F.PAGE_STAT_ENABLED then
    (s.pageOcc st 0x103 (s.dirSeen st) mesh).pageOcc st 0x120 (s.vcEntries st) mesh
  else s

/-- An agent's counters over one chrono count: FIX[0] counts its own clock (R613, R616). -/
def State.agentCycles (s : State) (t mesh st : Nat) : State :=
  match nmcAt st with
  | some k =>
    let n := s.nmcCyclesIn t
    let s := s.pmuFix st 0 n
    if s.flag (pgPmu st) F.PAGE_STAT_ENABLED then
      let cs := (List.range 6).map fun j => 6 * k + j
      let rd := cs.foldl (fun m c => m + ((s.chan c).queue.filter fun q => !q.write).length) 0
      let fb := (cs.filter fun c => s.flag (pgCh c) F.NMC_CH_STAT_FALLBACK).length
      ((s.pageOcc st 0x200 rd n).pageOcc st 0x207 fb n).pageOcc st 0x120 (s.vcEntries st) mesh
    else s
  | none => match hubAt st with
    | some h =>
      let s := s.pmuFix st 0 mesh
      if s.flag (pgPmu st) F.PAGE_STAT_ENABLED then
        (s.pageOcc st 0x301 (s.hub h).m2s.length mesh).pageOcc st 0x120 (s.vcEntries st) mesh
      else s
    | none => s

/-- The counters of every stop over one chrono count. (DEDUCED, assumption 12) -/
def State.countCycles (s : State) : State :=
  let t := s.chrono
  let mesh := s.meshCyclesIn t
  (List.range 192).foldl (fun (s : State) st => if isTile st then s.tileCycles t mesh st else s.agentCycles t mesh st) s

/-- One chrono count elapses: the cycle counters, the chrono, the watchdogs and the mailboxes of the endpoints advance, and the Patrol's repair operations and services
go on where what they wait for has come. Nothing does without clocks (R569, R632, R640), and a mailbox call has a timeout that a freeze
pauses (R589). (DESIGN CHOICE, assumption 2) -/
def State.tick (s : State) : State :=
  if ¬ s.live then s
  else
    let s := s.countCycles.inc pgLift F.LIFT_CHRONO_COUNT
    let s := (List.range 192).foldl (fun (s : State) st => s.wdogTick st) s
    let s := if s.frozen then s else (s.epMbxTick 0).epMbxTick 1
    s.rasAdvance.svcAdvance

end Sys2Proof.Machine
end

