-- ==== Sys2Proof/Machine/Step.lean ====
section
/-! DEFINITION. One step of the block: the command at the front of the queue, or one count of elapsed time. -/

namespace Sys2Proof.Machine

/-- One step: the front command runs on the state with the queue's rest; with no command waiting, one chrono count elapses.
(DESIGN CHOICE, assumption 2) -/
def step (s : State) : Host.Outcome State Fault Refusal :=
  match s.pending with
  | [] => .next s.tick
  | c :: rest => exec c { s with pending := rest }

/-- The state with the command a word spells put at the front of its queue; unchanged where the word spells none.
(DESIGN CHOICE, assumption 82) (DESIGN CHOICE, assumption 83) -/
def State.withFetchWord (s : State) (nbits w : Nat) : State :=
  match decodeTableWord nbits w with
  | some c => { s with pending := c :: s.pending }
  | none => s

end Sys2Proof.Machine
end

