-- ==== Sys2Proof/WellFormed.lean ====
section
/-! DEFINITION. Which commands are well formed: the ones that name units, operations, offsets and counts the device has. -/

namespace Sys2Proof

/-- The tile stop a command on a tile unit names. (DEDUCED, assumption 5) -/
def Instr.tileStop : Instr → Option Stop
  | .carveFetch st => some st
  | .rename st => some st
  | .dispatch st => some st
  | .strideIssue st _ => some st
  | .lodge st _ => some st
  | .resultLand st _ _ => some st
  | .carveCommit st => some st
  | .oldestQueueSquash st => some st
  | .faultRaise st => some st
  | .groomEn _ st _ => some st
  | .checkEn _ st _ => some st
  | .speculativeReissue st _ => some st
  | .rinkFlush _ st => some st
  | .predFlush _ st => some st
  | .alu st _ _ _ => some st
  | .shift st _ _ _ => some st
  | .mul st _ _ _ => some st
  | .div st _ _ _ => some st
  | .addi st _ _ _ => some st
  | .andi st _ _ _ => some st
  | .ori st _ _ _ => some st
  | .xori st _ _ _ => some st
  | .slli st _ _ _ => some st
  | .srli st _ _ _ => some st
  | .srai st _ _ _ => some st
  | .rori st _ _ _ => some st
  | .cmp st _ _ _ => some st
  | .cmpeqi st _ _ _ => some st
  | .cmpnei st _ _ _ => some st
  | .cmplti st _ _ _ => some st
  | .cmpgei st _ _ _ => some st
  | .cmpltui st _ _ _ => some st
  | .cmpgeui st _ _ _ => some st
  | .plog st _ _ _ => some st
  | .li st _ _ _ => some st
  | .lih st _ _ _ => some st
  | .cadr st _ _ _ => some st
  | .imx st _ _ _ => some st
  | .setvl st _ _ _ => some st
  | .vcfgr st _ _ _ => some st
  | .vcfgw st _ _ _ => some st
  | .fstatr st _ _ _ => some st
  | .fstatw st _ _ _ => some st
  | .srr st _ _ _ => some st
  | .srw st _ _ _ => some st
  | .srset st _ _ _ => some st
  | .srclr st _ _ _ => some st
  | .fence st _ _ _ => some st
  | .syncC st _ _ _ => some st
  | .scall st _ _ _ => some st
  | .hcall st _ _ _ => some st
  | .brk st _ _ _ => some st
  | .udf st _ _ _ => some st
  | .sret st _ _ _ => some st
  | .hret st _ _ _ => some st
  | .wfi st _ _ _ => some st
  | .rdcnt st _ _ _ => some st
  | .rdchrono st _ _ _ => some st
  | .exitR st _ _ _ => some st
  | .callR st _ _ _ => some st
  | .exitX st _ _ _ => some st
  | .callX st _ _ _ => some st
  | .ret st _ _ _ => some st
  | .ldB st _ _ _ => some st
  | .ldBu st _ _ _ => some st
  | .ldH st _ _ _ => some st
  | .ldHu st _ _ _ => some st
  | .ldW st _ _ _ => some st
  | .ldWu st _ _ _ => some st
  | .ldD st _ _ _ => some st
  | .ldfD st _ _ _ => some st
  | .ldfW st _ _ _ => some st
  | .ldfH st _ _ _ => some st
  | .stB st _ _ _ => some st
  | .stH st _ _ _ => some st
  | .stW st _ _ _ => some st
  | .stD st _ _ _ => some st
  | .stfD st _ _ _ => some st
  | .stfW st _ _ _ => some st
  | .stfH st _ _ _ => some st
  | .ldx st _ _ _ => some st
  | .stx st _ _ _ => some st
  | .ldAcq st _ _ _ => some st
  | .stRel st _ _ _ => some st
  | .amo st _ _ _ => some st
  | .amoW st _ _ _ => some st
  | .amoAr st _ _ _ => some st
  | .amoWAr st _ _ _ => some st
  | .cas st _ _ _ => some st
  | .atomicPerform st _ => some st
  | .pref st _ _ _ => some st
  | .clean st _ _ _ => some st
  | .inval st _ _ _ => some st
  | .clinv st _ _ _ => some st
  | .lockfill st _ _ _ => some st
  | .xinvAd st _ _ _ => some st
  | .xinvTag st _ _ _ => some st
  | .xinvAll st _ _ _ => some st
  | .xwait st _ _ _ => some st
  | .pisteInvalidationSend st => some st
  | .vld st _ _ _ => some st
  | .vst st _ _ _ => some st
  | .vlds st _ _ _ => some st
  | .vsts st _ _ _ => some st
  | .vgather st _ _ _ => some st
  | .vscatter st _ _ _ => some st
  | .scalarFp64 st _ _ _ => some st
  | .scalarFp32 st _ _ _ => some st
  | .scalarFp16 st _ _ _ => some st
  | .scalarBf16 st _ _ _ => some st
  | .fma st _ _ _ => some st
  | .fcmp st _ _ _ => some st
  | .fcvtFf st _ _ _ => some st
  | .fcvtFi st _ _ _ => some st
  | .fcvtIf st _ _ _ => some st
  | .fbits st _ _ _ => some st
  | .vintVv st _ _ _ => some st
  | .vintVx st _ _ _ => some st
  | .vmac st _ _ _ => some st
  | .vfpVv st _ _ _ => some st
  | .vfpVf st _ _ _ => some st
  | .vfma st _ _ _ => some st
  | .vfds st _ _ _ => some st
  | .vfcvt st _ _ _ => some st
  | .vfcmp st _ _ _ => some st
  | .vperm st _ _ _ => some st
  | .vred st _ _ _ => some st
  | .vfred st _ _ _ => some st
  | .storeDrain st _ => some st
  | .wcBufferTimeout st _ => some st
  | .devSAcknowledge st _ => some st
  | .storeRefusal st _ _ => some st
  | .interruptAccept st => some st
  | .pmbRing st => some st
  | .pmbCompletion st _ _ _ => some st
  | .pmbTimeout st => some st
  | .lecClaim _ st => some st
  | .lecComplete _ st _ => some st
  | .lecDoorbell _ st _ => some st
  | .lecPendWrite _ st _ _ => some st
  | .lecTimer st _ => some st
  | .watchdogFirstStage st => some st
  | .watchdogExpiry st => some st
  | .lecWdogKick _ st => some st
  | .pageWalk st _ => some st
  | .adUpdate st _ => some st
  | .invalidationAck st => some st
  | .tlbFlush _ st => some st
  | .l2RangeGo _ st => some st
  | .l2RangeAbort _ st => some st
  | .rangeEngineDone st => some st
  | .l2Lock _ st _ => some st
  | .lockEmptyingDone st => some st
  | .cacheSweepRead st _ _ _ _ => some st
  | .sliceDrain _ st _ => some st
  | .sliceDrainDone st => some st
  | .padZeroingDone st => some st
  | .padCopyGo _ st _ => some st
  | .padCopyDone st => some st
  | .padSweepRead st _ => some st
  | .tliftPreqWrite _ st _ => some st
  | .pstateMove st => some st
  | .tileStateEntry st => some st
  | .tileWake st => some st
  | .forceT3 _ st _ => some st
  | .stuckStrideTimeout st _ => some st
  | .claimWatchdog st _ => some st
  | .debugPortAccess st _ => some st
  | _ => none

/-- The operation code a flit command's flit must carry, with the flit (R466). -/
def Instr.flitOp : Instr → Option (Nat × Flit)
  | .rdS _ f => some (1, f)
  | .rdO _ f => some (2, f)
  | .rdNc _ f => some (3, f)
  | .wrNc _ f => some (4, f)
  | .wb _ f => some (5, f)
  | .wrLine _ f => some (6, f)
  | .atom _ f => some (7, f)
  | .maint _ f => some (8, f)
  | .snpInv _ f => some (16, f)
  | .snpSh _ f => some (17, f)
  | .evt _ f => some (34, f)
  | .xinv _ f => some (35, f)
  | .data _ f => some (48, f)
  | .ack _ f => some (49, f)
  | .tkt _ f => some (50, f)
  | .tktRet _ f => some (51, f)
  | _ => none

/-- A flit's fields are in range (R465). -/
def flitWf (f : Flit) : Bool :=
  decide (f.cls < 4) && decide (f.tag < 512) && decide (f.piste < 64) && decide (f.key < 4) && decide (f.addr < 2 ^ 52)
    && decide (f.be < 2 ^ 64) && decide (f.route < 2 ^ 40) && decide (f.poison < 256)

/-- The offset and requester of a command that writes a register by its offset, with the range its registers take. -/
def Instr.offset : Instr → Option (Nat × Nat × Nat)
  | .ntmapWrite _ off _ => some (off, 0x100, 0x1B0)
  | .mmioWindowWrite _ _ _ off _ => some (off, 0x118, 0x130)
  | .pmapCopyWrite _ off _ => some (off, 0x400, 0xB00)
  | _ => none

/-- The call of a service command. -/
def Instr.call : Instr → Option Call
  | .version c => some c
  | .noticeRead c => some c
  | .irtSet c => some c
  | .tileStart c => some c
  | .keyGen c => some c
  | .attest c => some c
  | .extentDone c => some c
  | .rasRead c => some c
  | .pisteTile c => some c
  | .pisteMap c => some c
  | .pistePort c => some c
  | .pisteFlags c => some c
  | .groupSet c => some c
  | .pisteSeal c => some c
  | .thaw c => some c
  | .policy c => some c
  | .bootImage c => some c
  | .svnCommit c => some c
  | _ => none

/-- Numbers of stops, lane groups, rates and widths that a command gives as naturals. -/
def Instr.number : Instr → Bool
  | .tdClr _ p | .splitLatch p => decide (p < 192)
  | .perstNRelease g => decide (g < 16)
  | .laneSpare _ _ w => [1, 2, 4, 8, 16].contains w
  | .linkUp _ _ g w _ => decide (1 ≤ g ∧ g ≤ 6) && [1, 2, 4, 8, 16].contains w
  | .ksGenerate _ n _ | .ksClear _ n | .ksUnwrap _ n => decide (n < 256)
  | .lecComplete _ _ n | .lecDoorbell _ _ n => decide (n < 256)
  | _ => true

/-- A command on a tile unit names a tile stop (R11, R12). -/
def Instr.wfTile (i : Instr) : Bool := match i.tileStop with | some st => Machine.isTile st.val | none => true

/-- A flit command's flit is in range and carries the command's operation (R465, R466). -/
def Instr.wfFlit (i : Instr) : Bool := match i.flitOp with | some (op, f) => decide (f.op = op) && flitWf f | none => true

/-- A register offset is aligned and in the range of the command's registers (R39). -/
def Instr.wfOffset (i : Instr) : Bool :=
  match i.offset with | some (o, lo, hi) => o % 8 = 0 && decide (lo ≤ o) && decide (o < hi) | none => true

/-- A call has at most sixteen words (R551). -/
def Instr.wfCall (i : Instr) : Bool := match i.call with | some c => decide (c.args.length ≤ 16) && decide (c.seq < 2 ^ 16) | none => true

/-- The command is well formed. -/
def Instr.wf (i : Instr) : Bool := i.wfTile && i.wfFlit && i.wfOffset && i.wfCall && i.number

end Sys2Proof
end

