-- ==== Sys2Proof/Safety.lean ====
section
/-! DEFINITION. What counts as a sound state and a safe step, in the terms the statements use. -/

namespace Sys2Proof.Machine

/-- Every byte memory of the device is in its canonical form: addresses rising, no byte listed that reads as an unlisted one. -/
def State.memOk (s : State) : Prop := Mem.wf s.pads = true ∧ Mem.wf s.sram = true ∧ Mem.wf s.near = true ∧ Mem.wf s.tuck = true

/-- What every command keeps: the byte memories canonical wherever `m` asks for it, and the queue `q` as it stands. -/
def State.keeps (m : Prop) (q : List Instr) (s : State) : Prop := (m → s.memOk) ∧ s.pending = q

/-- The next state of an outcome, where it has one, is one that keeps. -/
def outKeeps (m : Prop) (q : List Instr) : Host.Outcome State Fault Refusal → Prop
  | .next t => t.keeps m q
  | .fault _ => True
  | .refused _ => True

/-- A command completes: it answers a next state. -/
def completes (i : Instr) (s : State) : Prop := ∃ t, exec i s = .next t

/-- A step is safe: it answers a next state. -/
def safeStep (s : State) : Prop := ∃ t, step s = .next t

/-! ### Issuing one operation -/

/-- The fields of a row's operation as a stride decodes them. -/
def rowX (opcode f : Nat) (o : Op) : OpW := ⟨o.p.toNat, opcode, o.d.toNat, o.a.toNat, o.b.toNat, f⟩

/-- A row's operation in its slot, with the payload of the IMX before it. -/
def rowOp (sl opcode f : Nat) (o : Op) : SlotOp :=
  ⟨sl, (rowX opcode f o).toWord, rowX opcode f o, if sl = 0 then none else o.imx.map BitVec.toNat⟩

/-- The operations of the stride a row issues: its own, with its IMX in the slot before it. -/
def rowOps (sl opcode f : Nat) (o : Op) : List SlotOp := pairOps none (rowWords sl opcode f o)

/-- The state in which the results due at the stride's pointer have landed (R65). -/
def State.landed (s : State) (st k : Nat) : State := s.modCore st fun c => c.modSta k fun x => x.release x.ptr

/-- The carve in station `k` holds the track, and its stride issues operations: it is no suppressed delay stride (R64, R156). -/
def State.atStride (s : State) (st trk k : Nat) : Prop :=
  s.live = true ∧ s.canIssue st trk = some k ∧
  ¬ (((s.core st).sta k).annul = true ∧ ((s.core st).sta k).hdr.exitpos < ((s.core st).sta k).ptr)

/-- The carve in station `k` holds the track, its stride issues operations, and a stride of the operations `ops` meets no interlock, no
wait for the oldest carve and no fault (R64, R77, R134, R156). -/
def State.clearOps (s : State) (st trk k : Nat) (ops : List SlotOp) : Prop :=
  s.live = true ∧ s.canIssue st trk = some k ∧
  ¬ (((s.core st).sta k).annul = true ∧ ((s.core st).sta k).hdr.exitpos < ((s.core st).sta k).ptr) ∧
  ((s.landed st k).core st).interlocked k ops = none ∧
  (needsOldest ops = true → ((s.landed st k).core st).isOldest k = true) ∧
  (s.landed st k).firstFault st k ops ops = none

/-- As `clearOps`, for the stride that a row describes. -/
def State.clearAt (s : State) (st trk sl opcode f : Nat) (o : Op) (k : Nat) : Prop := s.clearOps st trk k (rowOps sl opcode f o)

/-- A stride that issues: its queue entries are counted, the value a RDCHRONO of it reads is kept, its cycle and slots are charged, and a
serializing operation is an untimed event of a groomed core (R71, R106, R145, R617). -/
def State.stridePre (s : State) (st k : Nat) (ops : List SlotOp) : State :=
  let s1 := s.landed st k
  let s2 := if ops.any (fun o => !isImx o.word && isSerial o.x.o o.x.f) then s1.untimed st else s1
  let n := (s1.core st).countEntries k ops
  let rdc := ops.any fun o => !isImx o.word && o.x.o = 0x3A && (s1.core st).ranOp k o
  (s2.modCore st fun c => c.modSta k fun x =>
    { x with lq := x.lq + n.1, sq := x.sq + n.2, chronos := if rdc then x.chronos ++ [s2.chrono] else x.chronos }).chargeStride
      st k ops.length false

/-- The stride issues, leaves `acts` for its carve's commit, binds the carve or not, and the pointer moves on (R64). -/
def State.withActs (s : State) (st k : Nat) (ops : List SlotOp) (acts : List CAct) (bound : Bool) : State :=
  ((s.stridePre st k ops).modCore st fun c => c.modSta k fun x =>
    { x with acts := x.acts ++ acts, bound := x.bound || bound }).advance st k

/-- The stride issues with one result pending: its destinations `dsts`, its values `res`, its latency, whether it is ready, whether
its guard was true, and the flags it raises; it leaves `acts` for the commit, and the pointer moves on (R64, R65, R90, R93). -/
def State.withResult (s : State) (st k sl : Nat) (ops : List SlotOp) (acts : List CAct) (on : Bool) (lat : Option Nat) (ready : Bool)
    (dsts : List Dest) (res : List Res) (flags : Nat) : State :=
  (((s.stridePre st k ops).modCore st fun c => c.modSta k fun x =>
    { x with acts := x.acts ++ acts, bound := x.bound || false }).modCore st fun c => c.modSta k fun x =>
      x.addPend ⟨x.nextTag, res, x.ptr, sl, lat, on, ready, flags, dsts⟩).advance st k

/-- As `clearAt`, for a row that accesses memory: where its guard is true the access has room, order, a translation and permission for
every part, which `ps` lists with their physical addresses; where it is false it has room and order, and no parts (R64, R93, R201). -/
def State.memClear (s : State) (st trk sl opcode f : Nat) (o : Op) (k : Nat) (ps : List XPart) : Prop :=
  s.clearAt st trk sl opcode f o k ∧
  (((s.landed st k).core st).rdP k o.p.toNat = true → (s.landed st k).memStep st k (rowOp sl opcode f o)
      (((s.landed st k).core st).operands k (rowX opcode f o)) = .go ps) ∧
  (((s.landed st k).core st).rdP k o.p.toNat = false → ps = [] ∧ (s.landed st k).memGate st k (rowOp sl opcode f o)
      (((s.landed st k).core st).operands k (rowX opcode f o)) = none)

/-- The core as a stride of station `k` reads it: results due at its pointer have landed. -/
def State.opCore (s : State) (st k : Nat) : Core := (s.landed st k).core st

/-- The value an integer specifier of the stride reads. -/
def State.opI (s : State) (st k x : Nat) : Word := ((s.opCore st k).rdI k x).v

/-- The guard of a row's operation as its stride reads it. -/
def State.opOn (s : State) (st k : Nat) (o : Op) : Bool := (s.opCore st k).rdP k o.p.toNat

/-- The immediate of a row's operation, extended by the IMX its stride carries (R118, R119). -/
def rowImm (sl : Nat) (o : Op) : Word :=
  let imm10 := o.b.toNat * 16 + o.f.toNat
  match (if sl = 0 then none else o.imx) with
  | some X => BitVec.ofInt 64 (sext (X.toNat * 1024 + imm10) 36)
  | none => BitVec.ofInt 64 (sext imm10 10)

/-- A row's stride issues with one fixed-latency 64-bit result for integer specifier D. -/
def State.intIssued (s : State) (st k sl opcode : Nat) (o : Op) (lat : Nat) (v : Word) : State :=
  s.withResult st k sl (rowOps sl opcode o.f.toNat o) [] (s.opOn st k o) (some lat) false [iDest o.d.toNat] [resI o.d.toNat v] 0

/-- A row's stride issues with one predicate result of latency 1. -/
def State.predIssued (s : State) (st k sl opcode : Nat) (o : Op) (v : Bool) : State :=
  s.withResult st k sl (rowOps sl opcode o.f.toNat o) [] (s.opOn st k o) (some 1) false [.p o.d.toNat] [resP o.d.toNat v] 0

/-- The operands of a row's operation as its stride reads them. -/
def State.opArgs (s : State) (st k opcode f : Nat) (o : Op) : Ops := (s.opCore st k).operands k (rowX opcode f o)

/-- The VCFG a stride of station `k` sees (R231). -/
def State.opCfg (s : State) (st k : Nat) : Vcfg := (s.opCore st k).rdCfg k

/-- A row's stride issues with one scalar FP result of format `t` for register D: its value boxed, and its flags. -/
def State.fpIssued (s : State) (st k sl opcode : Nat) (o : Op) (lat : Option Nat) (t : Nat) (v : Nat × Nat) : State :=
  s.withResult st k sl (rowOps sl opcode o.f.toNat o) [] (s.opOn st k o) lat lat.isNone [.v o.d.toNat] [resF o.d.toNat (box t v.1)] v.2

/-- A row's stride issues with a result for each register of the vector group at D. -/
def State.groupIssued (s : State) (st k sl opcode : Nat) (o : Op) (lat : Option Nat) (res : List Res) (fl : Nat) : State :=
  s.withResult st k sl (rowOps sl opcode o.f.toNat o) [] (s.opOn st k o) lat lat.isNone
    ((List.range (s.opCfg st k).g).map fun j => Dest.v (o.d.toNat + j)) res fl

/-- The results of a vector operation: none where VL is 0; else every register of the group at D, whose elements below VL are `el i`
and whose other elements are zero (R232). -/
def groupHolds (c : Vcfg) (d : Nat) (res : List Res) (el : Nat → Nat) : Prop :=
  if c.vl = 0 then res = []
  else ∃ grp : List VWord, grp.length = c.g ∧ res = (List.range c.g).map (fun r => Res.mk' (.v (d + r)) (lget grp r 0)) ∧
    ∀ i < c.g * (256 / c.sew), elemAt grp c.sew i = if i < c.vl then el i % 2 ^ c.sew else 0

/-- The parts of an access find their translations in the first level where they use any, and the core is not groomed, so that nothing is
refilled or counted untimed when it issues (R106, R334). -/
def State.plainParts (s : State) (st : Nat) (ps : List XPart) : Prop :=
  (s.core st).groomed = false ∧ ∀ p ∈ ps, (s.core st).tlbUp false p.part.va = none

/-! ### Register pages -/

/-- The device has clocks, the page is there and answers, and it admits the requester's write (R38, R44, R492). -/
def State.pageOpen (s : State) (w : Who) (pg : Nat) : Prop :=
  s.live = true ∧ (pageTypeNo pg).isSome = true ∧ s.pageClosed w pg = false ∧ s.pageAdmits w pg true = true

/-- The state after an admitted write of `v` to a register, with the response OK. -/
def State.wrote (s : State) (w : Who) (pg off v : Nat) : State := (s.pageWrite w pg off v).answer .ok 0

/-- The state after an admitted write that changes some fields of a register, every other as it stands. -/
def State.wroteMod (s : State) (w : Who) (pg off : Nat) (fs : List (Fld × Nat × Nat)) : State := s.wrote w pg off (s.rmw pg off fs)

/-! ### Committed stores -/

/-- Entry `e` is committed, the oldest committed one that has not left the queue, not sent, and no write-combining buffer waits: nothing
that R71, R196, R208 and R210 order before it is left. -/
def State.drains (s : State) (st id : Nat) (e : Sq) : Prop :=
  s.live = true ∧ isTile st = true ∧
  ((s.core st).sq.find? fun x => x.id = id && x.stn.isNone && !x.sent) = some e ∧
  (((s.core st).sq.takeWhile fun x => x.id ≠ id).filter fun x => x.stn.isNone) = [] ∧ (s.core st).wc = []

/-- The request joined the end of the list that waits in an NI. -/
def State.asked (s t : State) (n : Nat) (r : Req) : Prop := (t.ni n).reqs = (s.ni n).reqs ++ [r]

/-- The flit joined the end of what an NI offers its router. -/
def State.offered (s t : State) (n : Nat) (f : Flit) : Prop := (t.ni n).outq = (s.ni n).outq ++ [f]

/-! ### The mesh -/

/-- A request in service at its home slice, which takes it up: no transaction for the line, no earlier request for it, and a requester
that is not the slice's own tile (R352). -/
def State.homeTakes (s : State) (n : NiId) (f : Flit) : Prop :=
  s.live = true ∧ isTile n = true ∧ f ∈ (s.ni n).serv ∧ inPadWin f.addr = false ∧ s.sliceOn n = true ∧ f.src ≠ n ∧
  (∀ t ∈ (s.slice n).txs, t.line ≠ f.addr / 64 ∧ t.victim ≠ some (f.addr / 64)) ∧
  (((s.ni n).serv.takeWhile fun g => g ≠ f).any fun g => g.addr / 64 = f.addr / 64 && (g.cls = 0 || g.op = 0x12) && g.src ≠ f.src) = false

/-- As `homeTakes`, for a line that the directory does not list and has room for: the request is served at once (R351, R352). -/
def State.homeServes (s : State) (n : NiId) (f : Flit) : Prop :=
  s.homeTakes n f ∧ tfind (s.slice n).dir (f.addr / 64) = none ∧ s.dirVictim n (f.addr / 64) = some (s, none)

/-! ### Links -/

/-- The packet joined the end of a port's transmit order. -/
def State.txed (s t : State) (h p : Nat) (m : LinkMsg) : Prop := tget (t.hub h).tx p [] = tget (s.hub h).tx p [] ++ [m]

/-! ### Calls -/

/-- A call of a function waits at its mailbox with its words, it is the first ring of those not yet taken, and a pair of the Patrol is free to
serve it (R287, R288, R519, R550, R551). -/
def State.callOpen (s : State) (c : Call) (code : Nat) : Prop :=
  s.live = true ∧ s.patrolUp = true ∧ s.svcBusy = false ∧ s.heard c = true ∧ callW c 0 = code ∧ s.mailWaits c = false ∧
  match c.lt with
  | some lt => ∃ st, s.ltStop lt = some st ∧ (s.core st).sr.pmbBusy = true ∧ (s.core st).sr.pmbSeq = c.seq
  | none => (s.hub c.hub.val).ep.busy = true ∧ (s.hub c.hub.val).ep.seq = c.seq

/-- As `callOpen`, for a call of the tile at stop `st`. -/
def State.calls (s : State) (c : Call) (code st : Nat) : Prop :=
  s.callOpen c code ∧ ∃ lt, c.lt = some lt ∧ s.ltStop lt = some st

/-- The state of the Patrol and the package once the first call has been taken (R551). -/
def State.sysTaken (s : State) : Sys := { s.sys with calls := s.sys.calls.drop 1 }

/-- The tile's call has ended with a result (R288, R551). -/
def State.told (s : State) (st result : Nat) : Prop :=
  (s.core st).sr.pmbBusy = false ∧ (s.core st).sr.pmbDone = true ∧ (s.core st).sr.pmbResult = result

/-- The call has ended with a result at its mailbox, of a tile or of PF0 (R288, R519, R551). -/
def State.answered (s : State) (c : Call) (result : Nat) : Prop :=
  match c.lt with
  | some lt => ∃ st, s.ltStop lt = some st ∧ s.told st result
  | none => (s.hub c.hub.val).ep.busy = false ∧ (s.hub c.hub.val).ep.done = true ∧ s.get (pgEp c.hub.val) F.EP_MBX_STAT_RESULT 0 = result

end Sys2Proof.Machine
end

