-- ==== Sys2Proof/Certificates/Slice0/Obligations.lean ====
section
/-! DEFINITION. The statements about the device, for the provers: what commands do, by the rules of the specification. -/

open Sys2Proof Sys2Proof.Machine

/-- A step of the queue: the front command runs on the state with the queue's rest. -/
def Obligations.StepRunsFront : Prop :=
  ∀ (c : Instr) (rest : List Instr) (s : State), s.pending = c :: rest → step s = exec c { s with pending := rest }

/-- Every step, a command's or an idle one, keeps each byte memory of the device in its canonical form: pads, Patrol SRAM, near tier, tuck
store. -/
def Obligations.EveryStepKeepsMemory : Prop := ∀ s t : State, s.memOk → step s = .next t → t.memOk

/-- Commands leave the queue in the order they came, one with each step, and nothing else changes it. The model's own choice (assumption
2): with an empty queue one count of the chrono elapses: the chrono counts to 2^64, on a device with clocks, and nothing happens on
one without. -/
def Obligations.QueueOrderAndIdleStep : Prop :=
  ((∀ (c : Instr) (s t : State), exec c s = .next t → t.pending = s.pending) ∧
    (∀ s t : State, step s = .next t → t.pending = s.pending.tail)) ∧
  (∀ s : State, s.pending = [] → (s.live = false → step s = .next s) ∧
      (s.live = true → s.sys.rasRun = none → s.sys.rasWait = [] → s.sys.svcs = [] → ∃ t, step s = .next t ∧ t.pending = [] ∧
        t.chrono = (s.chrono + 1) % 2 ^ 64 ∧ t.pads = s.pads ∧ ∀ st, (t.core st).arch = (s.core st).arch))

/-- R11 and R12: no command faults, and one is refused only where it names a unit of a tile at an agent's stop, which has none; every
other answers a next state. On a device without clocks no command but the entry to and the exit from cold reset changes anything. -/
def Obligations.EveryCommandAnswers : Prop :=
  ∀ (c : Instr) (s : State),
    ((∀ st, c.tileStop = some st → isTile st = true) → ∃ t, exec c s = .next t) ∧
    (∀ st, c.tileStop = some st → isTile st = false → exec c s = .refused .noSuchUnit) ∧
    (s.live = false → (∀ why, c ≠ .coldResetEntry why) → c ≠ .coldResetExit → ∀ t, exec c s = .next t → t = s)

/-- What reset leaves (R37, R226, R261, R265, R539, R555, R556, R575, R641): no command waits and memory is canonical; every core at level
H with no source enabled, vector registers, VCFG and FSTAT zero; pages owned by the Patrol and blocks off but those that are fixed on;
slot 0 of the key store PLAIN and the others empty; piste 0 alone exists; the chrono zero. -/
def Obligations.ResetLeaves : Prop :=
  let s := State.reset
  s.pending = [] ∧ s.memOk ∧ s.chrono = 0 ∧ s.live = true ∧
  (∀ st n, (s.core st).sr.lvl = 2 ∧ (s.core st).sr.ie = false ∧ (s.core st).sr.fie = false ∧ (s.core st).sr.ureach = false ∧
    (tget (s.core st).arch.v n VRg.zero).v = 0 ∧ (s.core st).arch.cfg = ⟨0, 0, 0⟩ ∧ (s.core st).arch.fstat = 0) ∧
  (∀ pg, (pageTypeNo pg).isSome = true → s.get pg F.PAGE_OWNER_PLOCK 0 = 1 ∧ s.get pg F.PAGE_OWNER_PISTE 0 = 0 ∧ s.flag pg F.PAGE_OWNER_ALL_READ = (pg = pgTmap : Bool) ∧
    s.flag pg F.PAGE_EVT_VALID = false) ∧
  (∀ st, isTile st = true → s.flag (pgCore st) F.PAGE_CTL_ENABLE = false ∧ s.flag (pgL2 st) F.PAGE_CTL_ENABLE = false ∧
    s.flag (pgPad st) F.PAGE_CTL_ENABLE = false ∧ s.flag (pgSlice st) F.PAGE_CTL_ENABLE = false ∧ s.flag (pgNi st) F.PAGE_CTL_ENABLE = true ∧
    s.flag (pgLec st) F.PAGE_CTL_ENABLE = true ∧ s.flag (pgTlift st) F.PAGE_CTL_ENABLE = true) ∧
  (∀ n < 256, s.get pgKeys F.KS_SLOT_KIND n = if n = 0 then 2 else 0) ∧
  (∀ p < 64, s.flag pgPmap F.PMAP_PISTE_VALID p = (p = 0 : Bool))

/-- R124: what opcode 0x00 computes for each F, wrapping modulo 2^64, with latency 1, under its guard. -/
def Obligations.AluResult : Prop :=
  ∀ (st : Stop) (trk : Fin 2) (sl : Fin 4) (o : Op) (s : State) (k : Nat), isTile st = true →
    s.clearAt st trk sl 0x00 o.f.toNat o k →
    let a := s.opI st k o.a.toNat
    let b := s.opI st k o.b.toNat
    ∃ v : Word, exec (.alu st trk sl o) s = .next (s.intIssued st k sl 0x00 o 1 v) ∧
      (o.f = 0 → v = a + b) ∧ (o.f = 1 → v = a - b) ∧ (o.f = 2 → v = a &&& b) ∧ (o.f = 3 → v = a ||| b) ∧
      (o.f = 4 → v = a ^^^ b) ∧ (o.f = 5 → v = a &&& ~~~b) ∧ (o.f = 6 → v = a ||| ~~~b) ∧ (o.f = 7 → v = ~~~(a ^^^ b)) ∧
      (o.f = 8 → v.toInt = min a.toInt b.toInt) ∧ (o.f = 9 → v.toInt = max a.toInt b.toInt) ∧
      (o.f = 10 → v.toNat = min a.toNat b.toNat) ∧ (o.f = 11 → v.toNat = max a.toNat b.toNat) ∧
      (o.f = 12 → v = (a.setWidth 32 + b.setWidth 32).signExtend 64) ∧
      (o.f = 13 → v = (a.setWidth 32 - b.setWidth 32).signExtend 64) ∧ o.f.toNat < 14

/-- R125: what opcode 0x01 computes for each F: shifts by B[5:0], W forms by B[4:0] on A[31:0], counts and extensions. -/
def Obligations.ShiftResult : Prop :=
  ∀ (st : Stop) (trk : Fin 2) (sl : Fin 4) (o : Op) (s : State) (k : Nat), isTile st = true →
    s.clearAt st trk sl 0x01 o.f.toNat o k →
    let a := s.opI st k o.a.toNat
    let b := s.opI st k o.b.toNat
    let n := b.toNat % 64
    let m := b.toNat % 32
    let w := a.setWidth 32
    ∃ v : Word, exec (.shift st trk sl o) s = .next (s.intIssued st k sl 0x01 o 1 v) ∧
      (o.f = 0 → v = a <<< n) ∧ (o.f = 1 → v = a >>> n) ∧ (o.f = 2 → v = a.sshiftRight n) ∧
      (o.f = 3 → v = a <<< n ||| a >>> (64 - n)) ∧ (o.f = 4 → v = a >>> n ||| a <<< (64 - n)) ∧
      (o.f = 5 → v = (w <<< m).signExtend 64) ∧ (o.f = 6 → v = (w >>> m).signExtend 64) ∧
      (o.f = 7 → v = (w.sshiftRight m).signExtend 64) ∧
      (o.f = 8 → v.toNat ≤ 64 ∧ a.toNat < 2 ^ (64 - v.toNat) ∧ (v.toNat < 64 → 2 ^ (63 - v.toNat) ≤ a.toNat)) ∧
      (o.f = 9 → v.toNat ≤ 64 ∧ a.toNat % 2 ^ v.toNat = 0 ∧ (v.toNat < 64 → a.getLsbD v.toNat = true)) ∧
      (o.f = 10 → v.toNat = ((List.range 64).filter fun i => a.getLsbD i).length) ∧
      (o.f = 11 → ∀ i < 8, v.extractLsb' (8 * i) 8 = a.extractLsb' (8 * (7 - i)) 8) ∧
      (o.f = 12 → v = (a.setWidth 8).signExtend 64) ∧ (o.f = 13 → v = (a.setWidth 16).signExtend 64) ∧
      (o.f = 14 → v = w.signExtend 64) ∧ (o.f = 15 → v = w.setWidth 64)

/-- R127 and R128: the products with latency 3, and the quotients and remainders, interlocked, with the results for a zero divisor and for
the most negative number divided by −1. -/
def Obligations.MulDivResult : Prop :=
  ∀ (st : Stop) (trk : Fin 2) (sl : Fin 4) (o : Op) (s : State) (k : Nat), isTile st = true →
    let a := s.opI st k o.a.toNat
    let b := s.opI st k o.b.toNat
    let p := a.setWidth 32
    let q := b.setWidth 32
    (s.clearAt st trk sl 0x02 o.f.toNat o k →
      ∃ v : Word, exec (.mul st trk sl o) s = .next (s.intIssued st k sl 0x02 o 3 v) ∧
        (o.f = 0 → v = a * b) ∧
        (o.f = 1 → v = (a.signExtend 128 * b.signExtend 128).extractLsb' 64 64) ∧
        (o.f = 2 → v = (a.setWidth 128 * b.setWidth 128).extractLsb' 64 64) ∧
        (o.f = 3 → v = (a.signExtend 128 * b.setWidth 128).extractLsb' 64 64) ∧
        (o.f = 4 → v = (p * q).signExtend 64) ∧ o.f.toNat < 5) ∧
    (s.clearAt st trk sl 0x03 o.f.toNat o k →
      ∃ v : Word, exec (.div st trk sl o) s = .next (s.withResult st k sl (rowOps sl 0x03 o.f.toNat o) [] (s.opOn st k o) none true
          [iDest o.d.toNat] [resI o.d.toNat v] 0) ∧
        (o.f = 0 → if b = 0 then v = BitVec.allOnes 64 else if a = BitVec.intMin 64 ∧ b = BitVec.allOnes 64 then v = a
          else v.toInt = a.toInt.tdiv b.toInt) ∧
        (o.f = 1 → if b = 0 then v = BitVec.allOnes 64 else v.toNat = a.toNat / b.toNat) ∧
        (o.f = 2 → if b = 0 then v = a else v.toInt = a.toInt.tmod b.toInt) ∧
        (o.f = 3 → if b = 0 then v = a else v.toNat = a.toNat % b.toNat) ∧
        (o.f = 4 → if q = 0 then v = BitVec.allOnes 64 else if p = BitVec.intMin 32 ∧ q = BitVec.allOnes 32 then v = p.signExtend 64
          else v.toInt = p.toInt.tdiv q.toInt) ∧
        (o.f = 5 → if q = 0 then v = BitVec.allOnes 64 else v = (BitVec.ofNat 32 (p.toNat / q.toNat)).signExtend 64) ∧
        (o.f = 6 → if q = 0 then v = p.signExtend 64 else v.toInt = p.toInt.tmod q.toInt) ∧
        (o.f = 7 → if q = 0 then v = p.signExtend 64 else v = (BitVec.ofNat 32 (p.toNat % q.toNat)).signExtend 64) ∧ o.f.toNat < 8)

/-- R126 and R132: the immediate forms and the constants, with the 10-bit or 36-bit immediate, latency 1. R129, R130 and R131: the
compares, the immediate compares and the predicate operations. -/
def Obligations.ImmediateAndCompareResult : Prop :=
  (∀ (st : Stop) (trk : Fin 2) (sl : Fin 4) (o : Op) (s : State) (k : Nat), isTile st = true →
      let a := s.opI st k o.a.toNat
      let imm := rowImm sl o
      let n := (o.b.toNat * 16 + o.f.toNat) % 64
      (s.clearAt st trk sl 0x08 o.f.toNat o k → exec (.addi st trk sl o) s = .next (s.intIssued st k sl 0x08 o 1 (a + imm))) ∧
      (s.clearAt st trk sl 0x09 o.f.toNat o k → exec (.andi st trk sl o) s = .next (s.intIssued st k sl 0x09 o 1 (a &&& imm))) ∧
      (s.clearAt st trk sl 0x0A o.f.toNat o k → exec (.ori st trk sl o) s = .next (s.intIssued st k sl 0x0A o 1 (a ||| imm))) ∧
      (s.clearAt st trk sl 0x0B o.f.toNat o k → exec (.xori st trk sl o) s = .next (s.intIssued st k sl 0x0B o 1 (a ^^^ imm))) ∧
      (s.clearAt st trk sl 0x0C o.f.toNat o k → exec (.slli st trk sl o) s = .next (s.intIssued st k sl 0x0C o 1 (a <<< n))) ∧
      (s.clearAt st trk sl 0x0D o.f.toNat o k → exec (.srli st trk sl o) s = .next (s.intIssued st k sl 0x0D o 1 (a >>> n))) ∧
      (s.clearAt st trk sl 0x0E o.f.toNat o k → exec (.srai st trk sl o) s = .next (s.intIssued st k sl 0x0E o 1 (a.sshiftRight n))) ∧
      (s.clearAt st trk sl 0x0F o.f.toNat o k →
        exec (.rori st trk sl o) s = .next (s.intIssued st k sl 0x0F o 1 (a >>> n ||| a <<< (64 - n)))) ∧
      (s.clearAt st trk sl 0x28 o.f.toNat o k → exec (.li st trk sl o) s = .next (s.intIssued st k sl 0x28 o 1 imm)) ∧
      (s.clearAt st trk sl 0x29 o.f.toNat o k →
        exec (.lih st trk sl o) s = .next (s.intIssued st k sl 0x29 o 1 ((a &&& 0xFFFFFFFFF#64) ||| (imm.setWidth 28).setWidth 64 <<< 36))) ∧
      (s.clearAt st trk sl 0x2A o.f.toNat o k →
        exec (.cadr st trk sl o) s = .next (s.intIssued st k sl 0x2A o 1 (wd ((s.opCore st k).sta k).addr + imm)))) ∧
  (∀ (st : Stop) (trk : Fin 2) (sl : Fin 4) (o : Op) (s : State) (k : Nat), isTile st = true →
      let a := s.opI st k o.a.toNat
      let b := s.opI st k o.b.toNat
      let imm := rowImm sl o
      let pa := (s.opCore st k).rdP k (o.a.toNat % 8)
      let pb := (s.opCore st k).rdP k (o.b.toNat % 8)
      (s.clearAt st trk sl 0x20 o.f.toNat o k → ∃ v : Bool, exec (.cmp st trk sl o) s = .next (s.predIssued st k sl 0x20 o v) ∧
        (o.f = 0 → (v = true ↔ a = b)) ∧ (o.f = 1 → (v = true ↔ a ≠ b)) ∧ (o.f = 2 → (v = true ↔ a.toInt < b.toInt)) ∧
        (o.f = 3 → (v = true ↔ b.toInt ≤ a.toInt)) ∧ (o.f = 4 → (v = true ↔ a.toNat < b.toNat)) ∧
        (o.f = 5 → (v = true ↔ b.toNat ≤ a.toNat)) ∧ (o.f = 6 → (v = true ↔ a &&& b ≠ 0)) ∧ (o.f = 7 → (v = true ↔ a &&& b = 0)) ∧
        o.f.toNat < 8) ∧
      (s.clearAt st trk sl 0x21 o.f.toNat o k → exec (.cmpeqi st trk sl o) s = .next (s.predIssued st k sl 0x21 o (decide (a = imm)))) ∧
      (s.clearAt st trk sl 0x22 o.f.toNat o k → exec (.cmpnei st trk sl o) s = .next (s.predIssued st k sl 0x22 o (decide (a ≠ imm)))) ∧
      (s.clearAt st trk sl 0x23 o.f.toNat o k →
        exec (.cmplti st trk sl o) s = .next (s.predIssued st k sl 0x23 o (decide (a.toInt < imm.toInt)))) ∧
      (s.clearAt st trk sl 0x24 o.f.toNat o k →
        exec (.cmpgei st trk sl o) s = .next (s.predIssued st k sl 0x24 o (decide (imm.toInt ≤ a.toInt)))) ∧
      (s.clearAt st trk sl 0x25 o.f.toNat o k →
        exec (.cmpltui st trk sl o) s = .next (s.predIssued st k sl 0x25 o (decide (a.toNat < imm.toNat)))) ∧
      (s.clearAt st trk sl 0x26 o.f.toNat o k →
        exec (.cmpgeui st trk sl o) s = .next (s.predIssued st k sl 0x26 o (decide (imm.toNat ≤ a.toNat)))) ∧
      (s.clearAt st trk sl 0x27 o.f.toNat o k →
        (o.f = 7 → exec (.plog st trk sl o) s = .next (s.intIssued st k sl 0x27 o 1 (if pa then 1 else 0))) ∧
        (o.f ≠ 7 → ∃ v : Bool, exec (.plog st trk sl o) s = .next (s.predIssued st k sl 0x27 o v) ∧
          (o.f = 0 → v = (pa && pb)) ∧ (o.f = 1 → v = (pa || pb)) ∧ (o.f = 2 → v = (pa ^^ pb)) ∧ (o.f = 3 → v = (pa && !pb)) ∧
          (o.f = 4 → v = (pa || !pb)) ∧ (o.f = 5 → v = !pa) ∧ (o.f = 6 → v = pa) ∧ (o.f = 8 → (v = true ↔ a ≠ 0)) ∧ o.f.toNat < 9)))

/-- R246 and R225: the scalar FP operations of each format under the rounding mode of FSTAT, boxed. R247, R248, R241 and R242: fused
multiply-add, the FP compares, the conversions and the bit moves. -/
def Obligations.ScalarFpResults : Prop :=
  (∀ (st : Stop) (trk : Fin 2) (sl : Fin 4) (o : Op) (s : State) (k : Nat), isTile st = true →
      ∀ r ∈ [(Instr.scalarFp64 st trk sl o, 0), (Instr.scalarFp32 st trk sl o, 1), (Instr.scalarFp16 st trk sl o, 2), (Instr.scalarBf16 st trk sl o, 3)],
      s.clearAt st trk sl (0x60 + r.2) o.f.toNat o k →
      let t := r.2
      let args := s.opArgs st k (0x60 + t) o.f.toNat o
      let a := unbox t args.fa
      let b := unbox t args.fb
      (o.f.toNat < 8 → ∃ v : Nat × Nat, exec r.1 s = .next (s.fpIssued st k sl (0x60 + t) o (some (if t < 2 then 4 else 3)) t v) ∧
        (o.f = 0 → v = addV t args.rm (fpDec t a) (fpDec t b)) ∧ (o.f = 1 → v = addV t args.rm (fpDec t a) (negV (fpDec t b))) ∧
        (o.f = 2 → v = mulV t args.rm (fpDec t a) (fpDec t b)) ∧ (o.f = 3 → v = minMax t false a b) ∧ (o.f = 4 → v = minMax t true a b) ∧
        (5 ≤ o.f.toNat → v.2 = 0 ∧ v.1 % 2 ^ (fpW t - 1) = a % 2 ^ (fpW t - 1)) ∧
        (o.f = 5 → fpSign t v.1 = fpSign t b) ∧ (o.f = 6 → fpSign t v.1 = !fpSign t b) ∧
        (o.f = 7 → fpSign t v.1 = (fpSign t a ^^ fpSign t b))) ∧
      (o.f = 8 → exec r.1 s = .next (s.fpIssued st k sl (0x60 + t) o none t (divV t args.rm (fpDec t a) (fpDec t b)))) ∧
      (o.f = 9 → exec r.1 s = .next (s.fpIssued st k sl (0x60 + t) o none t (sqrtV t args.rm (fpDec t a)))) ∧
      (o.f = 10 → exec r.1 s = .next (s.fpIssued st k sl (0x60 + t) o (some 3) t (rndV t args.rm a))) ∧
      (o.f = 11 → exec r.1 s = .next (s.intIssued st k sl (0x60 + t) o 3 (wd (kindV t a)))) ∧
      o.f.toNat < 12) ∧
  (∀ (st : Stop) (trk : Fin 2) (sl : Fin 4) (o : Op) (s : State) (k : Nat), isTile st = true →
      let hi := o.f.toNat / 4
      let lo := o.f.toNat % 4
      let args (opcode : Nat) := s.opArgs st k opcode o.f.toNat o
      let rm := (args 0x64).rm
      let fa := (args 0x64).fa
      (s.clearAt st trk sl 0x64 o.f.toNat o k → exec (.fma st trk sl o) s =
        .next (s.fpIssued st k sl 0x64 o (some (if hi < 2 then 4 else 3)) hi
          (fmaV hi rm (if lo < 2 then fpDec hi (unbox hi fa) else negV (fpDec hi (unbox hi fa))) (fpDec hi (unbox hi (args 0x64).fb))
            (if lo % 2 = 0 then fpDec hi (unbox hi (args 0x64).fd) else negV (fpDec hi (unbox hi (args 0x64).fd)))))) ∧
      (s.clearAt st trk sl 0x65 o.f.toNat o k →
        let x := fpDec hi (unbox hi fa)
        let y := fpDec hi (unbox hi (args 0x64).fb)
        let un := isNaN x || isNaN y
        ∃ (v : Bool) (fl : Nat), exec (.fcmp st trk sl o) s =
          .next (s.withResult st k sl (rowOps sl 0x65 o.f.toNat o) [] (s.opOn st k o) (some (if hi < 2 then 4 else 3)) false
            [iDest o.d.toNat] [resI o.d.toNat (if v then 1 else 0)] fl) ∧
          (lo = 0 → v = (!un && cmpV x y == .eq)) ∧ (lo = 1 → v = (!un && cmpV x y == .lt)) ∧ (lo = 2 → v = (!un && cmpV x y != .gt)) ∧
          (lo = 3 → v = un) ∧ (lo = 1 ∨ lo = 2 → fl = if un then fINV else 0) ∧
          (lo = 0 ∨ lo = 3 → fl = if isSNaN x || isSNaN y then fINV else 0)) ∧
      (s.clearAt st trk sl 0x66 o.f.toNat o k → hi ≠ lo ∧ exec (.fcvtFf st trk sl o) s =
        .next (s.fpIssued st k sl 0x66 o (some 3) hi (fpCvt rm lo hi (unbox lo fa)))) ∧
      (s.clearAt st trk sl 0x67 o.f.toNat o k → exec (.fcvtFi st trk sl o) s =
        .next (s.fpIssued st k sl 0x67 o (some 3) hi (fpOfInt hi rm
          (match lo with
            | 0 => (s.opI st k o.a.toNat).setWidth 32 |>.toInt
            | 1 => ((s.opI st k o.a.toNat).setWidth 32).toNat
            | 2 => (s.opI st k o.a.toNat).toInt
            | _ => (s.opI st k o.a.toNat).toNat)))) ∧
      (s.clearAt st trk sl 0x68 o.f.toNat o k → ∃ (v : Int) (fl : Nat), exec (.fcvtIf st trk sl o) s =
        .next (s.withResult st k sl (rowOps sl 0x68 o.f.toNat o) [] (s.opOn st k o) (some 3) false
          [iDest o.d.toNat] [resI o.d.toNat (BitVec.ofInt 64 v)] fl) ∧
        (v, fl) = fpToInt lo (if hi < 2 then 32 else 64) (hi % 2 = 0) (unbox lo fa) ∧
        (hi = 0 → -2 ^ 31 ≤ v ∧ v < 2 ^ 31) ∧ (hi = 1 → 0 ≤ v ∧ v < 2 ^ 32) ∧ (hi = 2 → -2 ^ 63 ≤ v ∧ v < 2 ^ 63) ∧ (hi = 3 → 0 ≤ v ∧ v < 2 ^ 64)) ∧
      (s.clearAt st trk sl 0x69 o.f.toNat o k →
        (o.f = 0 → exec (.fbits st trk sl o) s = .next (s.intIssued st k sl 0x69 o 3 (wd fa))) ∧
        (o.f = 1 → exec (.fbits st trk sl o) s = .next (s.withResult st k sl (rowOps sl 0x69 1 o) [] (s.opOn st k o) (some 3) false
          [.v o.d.toNat] [resF o.d.toNat (s.opI st k o.a.toNat).toNat] 0)) ∧ o.f.toNat < 2))

/-- R249, R250 and R232: the vector integer operations element by element, with latency 3 + 2G, and multiply-accumulate. -/
def Obligations.VectorIntResult : Prop :=
  ∀ (st : Stop) (trk : Fin 2) (sl : Fin 4) (o : Op) (s : State) (k : Nat), isTile st = true →
    let c := s.opCfg st k
    let w := c.sew
    let args := s.opArgs st k 0x6A o.f.toNat o
    let sc : Nat → Nat := fun _ => args.b.toNat % 2 ^ w
    (∀ r ∈ [(Instr.vintVv st trk sl o, 0x6A, args.vb), (Instr.vintVx st trk sl o, 0x6B, sc)],
      s.clearAt st trk sl r.2.1 o.f.toNat o k → ∃ (res : List Res) (el : Nat → Nat),
        exec r.1 s = .next (s.groupIssued st k sl r.2.1 o (some (3 + 2 * c.g)) res 0) ∧ groupHolds c o.d.toNat res el ∧
        ∀ i, let x := args.va i; let y := r.2.2 i; let n := y % w
          (o.f = 0 → el i = (x + y) % 2 ^ w) ∧ (o.f = 1 → el i = (x + 2 ^ w - y % 2 ^ w) % 2 ^ w) ∧ (o.f = 2 → el i = x &&& y) ∧
          (o.f = 3 → el i = x ||| y) ∧ (o.f = 4 → el i = x ^^^ y) ∧ (o.f = 5 → sext (el i) w = min (sext x w) (sext y w)) ∧
          (o.f = 6 → sext (el i) w = max (sext x w) (sext y w)) ∧ (o.f = 7 → el i = min x y) ∧ (o.f = 8 → el i = max x y) ∧
          (o.f = 9 → el i = x * 2 ^ n % 2 ^ w) ∧ (o.f = 10 → el i = x / 2 ^ n) ∧
          (o.f = 11 → el i = toBits (sext x w / (2 ^ n : Nat)) w) ∧ (o.f = 12 → el i = x * y % 2 ^ w) ∧
          (o.f = 13 → el i = toBits (sext x w * sext y w / (2 ^ w : Nat)) w) ∧ (o.f = 14 → el i = x * y / 2 ^ w) ∧
          (o.f = 15 → r.2.1 = 0x6A ∧ el i = (args.vd i &&& x) ||| ((2 ^ w - 1 - args.vd i) &&& y))) ∧
    (s.clearAt st trk sl 0x6C o.f.toNat o k → ∃ res : List Res,
      exec (.vmac st trk sl o) s = .next (s.groupIssued st k sl 0x6C o (some (3 + 2 * c.g)) res 0) ∧
      groupHolds c o.d.toNat res fun i => args.vd i + args.va i * (if o.f = 1 then sc i else args.vb i))

/-- R251, R252 and R244: the vector FP operations and compares apply the scalar operation of the format that SEW and F[3] name to each
element, and raise the flags of every processed element; the permutes move elements. -/
def Obligations.VectorFpResult : Prop :=
  ∀ (st : Stop) (trk : Fin 2) (sl : Fin 4) (o : Op) (s : State) (k t : Nat), isTile st = true →
    let c := s.opCfg st k
    let args := s.opArgs st k 0x6D o.f.toNat o
    let fb : Nat → Nat := fun _ => unbox t args.fb
    vfpFmt c o.f.toNat = some t →
    ∀ r ∈ [(Instr.vfpVv st trk sl o, 0x6D, args.vb), (Instr.vfpVf st trk sl o, 0x6E, fb),
        (Instr.vfma st trk sl o, 0x6F, if bitOf o.f.toNat 2 then fb else args.vb),
        (Instr.vfds st trk sl o, 0x70, if o.f.toNat % 8 = 1 then fb else args.vb), (Instr.vfcvt st trk sl o, 0x71, args.vb),
        (Instr.vfcmp st trk sl o, 0x72, if bitOf o.f.toNat 2 then fb else args.vb)],
      s.clearAt st trk sl r.2.1 o.f.toNat o k → ∃ (res : List Res) (el : Nat → Nat × Nat),
        exec r.1 s = .next (s.groupIssued st k sl r.2.1 o (if r.2.1 = 0x70 then none else some (3 + 2 * c.g)) res
          ((List.range c.vl).foldl (fun acc i => acc ||| (el i).2) 0)) ∧
        groupHolds c o.d.toNat res (fun i => (el i).1) ∧
        ∀ i, let x := args.va i; let y := r.2.2 i
          (r.2.1 = 0x6D ∨ r.2.1 = 0x6E → el i = fpBin t args.rm (o.f.toNat % 8) x y) ∧
          (r.2.1 = 0x6F → el i = fpFma t args.rm o.f.toNat x y (args.vd i)) ∧
          (r.2.1 = 0x70 → el i = if o.f.toNat % 8 = 2 then sqrtV t args.rm (fpDec t x) else divV t args.rm (fpDec t x) (fpDec t y)) ∧
          (r.2.1 = 0x71 → el i = vcvtEl o.f.toNat t args.rm x) ∧
          (r.2.1 = 0x72 → el i = (if (fpCmp t o.f.toNat x y).1 then 2 ^ c.sew - 1 else 0, (fpCmp t o.f.toNat x y).2))

/-- R252, R253 and R254: the permutes with latency 4 + 2G, VGET, and the reductions into element 0 of a register of zeros. -/
def Obligations.PermuteReduceResult : Prop :=
  ∀ (st : Stop) (trk : Fin 2) (sl : Fin 4) (o : Op) (s : State) (k : Nat), isTile st = true →
    let c := s.opCfg st k
    let args := s.opArgs st k 0x73 o.f.toNat o
    let vl := c.vl
    let n := args.b.toNat
    let at' (X : Nat → Nat) (j : Nat) : Nat := if j < vl then X j else 0
    let cat (j : Nat) : Nat := if j < vl then args.va j else if j < 2 * vl then args.vb (j - vl) else 0
    (s.clearAt st trk sl 0x73 o.f.toNat o k →
      (o.f = 10 → exec (.vperm st trk sl o) s =
        .next (s.intIssued st k sl 0x73 o (4 + 2 * c.g) (wd (if vl = 0 then 0 else args.va (n % vl))))) ∧
      (o.f ≠ 10 → ∃ (res : List Res) (el : Nat → Nat),
        exec (.vperm st trk sl o) s = .next (s.groupIssued st k sl 0x73 o (some (4 + 2 * c.g)) res 0) ∧ groupHolds c o.d.toNat res el ∧
        ∀ i < vl, (o.f = 0 → el i = if n ≤ i then args.va (i - n) else 0) ∧ (o.f = 1 → el i = at' args.va (i + n)) ∧
          (o.f = 2 → el i = at' args.va (args.vb i)) ∧
          (o.f = 3 → el i = if i % 2 = 0 then at' args.va (i / 2) else at' args.vb (i / 2)) ∧
          (o.f = 4 → el i = if i % 2 = 0 then at' args.va (vl / 2 + i / 2) else at' args.vb (vl / 2 + i / 2)) ∧
          (o.f = 5 → el i = cat (2 * i)) ∧ (o.f = 6 → el i = cat (2 * i + 1)) ∧ (o.f = 7 → el i = args.va (vl - 1 - i)) ∧
          (o.f = 8 → el i = n % 2 ^ c.sew) ∧ (o.f = 9 ∧ c.scode = 3 → el i = unbox 0 args.fb) ∧
          (o.f = 9 ∧ c.scode = 2 → el i = unbox 1 args.fb)) ∧ o.f.toNat < 11) ∧
    (s.clearAt st trk sl 0x74 o.f.toNat o k → exec (.vred st trk sl o) s =
      .next (s.withResult st k sl (rowOps sl 0x74 o.f.toNat o) [] (s.opOn st k o) none true [.v o.d.toNat]
        [Res.mk' (.v o.d.toNat) (BitVec.ofNat 256 ((reduceTree (vredOp o.f.toNat c.sew) c args.va (args.vb 0)).1 % 2 ^ c.sew))]
        (reduceTree (vredOp o.f.toNat c.sew) c args.va (args.vb 0)).2)) ∧
    (∀ t, vfpFmt c o.f.toNat = some t → s.clearAt st trk sl 0x75 o.f.toNat o k →
      ∃ v : Nat × Nat, exec (.vfred st trk sl o) s =
        .next (s.withResult st k sl (rowOps sl 0x75 o.f.toNat o) [] (s.opOn st k o) none true [.v o.d.toNat]
          [Res.mk' (.v o.d.toNat) (BitVec.ofNat 256 (v.1 % 2 ^ c.sew))] v.2) ∧
        (o.f.toNat % 4 = 0 → v = reduceTree (fpBin t args.rm 0) c args.va (args.vb 0)) ∧
        (o.f.toNat % 4 = 1 → v = reduceOrd t args.rm c args.va (args.vb 0)) ∧
        (o.f.toNat % 4 = 2 → v = reduceTree (fpBin t args.rm 3) c args.va (args.vb 0)) ∧
        (o.f.toNat % 4 = 3 → v = reduceTree (fpBin t args.rm 4) c args.va (args.vb 0)))

/-- R137, R144, R145, R229, R230 and R245: the results of SETVL, VCFGR, VCFGW, FSTATR, SRR, SRSET, SRCLR, RDCNT and RDCHRONO, and what
SRSET and SRCLR leave for the commit. -/
def Obligations.SystemResult : Prop :=
  ∀ (st : Stop) (trk : Fin 2) (sl : Fin 4) (o : Op) (s : State) (k : Nat), isTile st = true →
    let a := s.opI st k o.a.toNat
    let f := o.f.toNat
    let n := o.b.toNat * 16 + f
    let c := s.opCfg st k
    let on := s.opOn st k o
    let issued (opcode f : Nat) (acts : List CAct) (lat : Option Nat) (dsts : List Dest) (res : List Res) : State :=
      s.withResult st k sl (rowOps sl opcode f o) acts on lat lat.isNone dsts res 0
    let d := iDest o.d.toNat
    let vl := min a.toNat (2 ^ (f / 4) * 256 / (8 * 2 ^ (f % 4)))
    let g := if bitsOf a.toNat 10 2 = 3 then 0 else bitsOf a.toNat 10 2
    let sc := bitsOf a.toNat 8 2
    (s.clearAt st trk sl 0x2C f o k → f < 12 ∧ exec (.setvl st trk sl o) s =
      .next (issued 0x2C f [] (some 1) [d, .vcfg] [resI o.d.toNat (wd vl), resCfg ⟨vl, f % 4, f / 4⟩])) ∧
    (s.clearAt st trk sl 0x2D 0 o k → exec (.vcfgr st trk sl o) s =
      .next (issued 0x2D 0 [] (some 2) [d] [resI o.d.toNat (wd (c.vl + c.scode * 256 + c.gcode * 1024))])) ∧
    (s.clearAt st trk sl 0x2D 1 o k → exec (.vcfgw st trk sl o) s =
      .next (issued 0x2D 1 [] (some 1) [.vcfg] [resCfg ⟨min (a.toNat % 256) (2 ^ g * 256 / (8 * 2 ^ sc)), sc, g⟩])) ∧
    (s.clearAt st trk sl 0x2D 2 o k → exec (.fstatr st trk sl o) s =
      .next (issued 0x2D 2 [] (some 2) [d] [resI o.d.toNat (wd (s.core st).arch.fstat)])) ∧
    (s.clearAt st trk sl 0x30 f o k → exec (.srr st trk sl o) s =
      .next (issued 0x30 f [] (some 2) [d] [resI o.d.toNat (s.srRead st n)])) ∧
    (s.clearAt st trk sl 0x32 f o k → exec (.srset st trk sl o) s =
      .next (issued 0x32 f (if on then [.sr 1 n a] else []) (some 2) [d] [resI o.d.toNat (s.srRead st n)])) ∧
    (s.clearAt st trk sl 0x33 f o k → exec (.srclr st trk sl o) s =
      .next (issued 0x33 f (if on then [.sr 2 n a] else []) (some 2) [d] [resI o.d.toNat (s.srRead st n)])) ∧
    (s.clearAt st trk sl 0x39 f o k → ∃ v : Word, exec (.rdcnt st trk sl o) s = .next (issued 0x39 f [] (some 2) [d] [resI o.d.toNat v]) ∧
      (n < 4 → v = wd ((s.stridePre st k (rowOps sl 0x39 f o)).get (pgPmu st) F.PMU_FIX_COUNT n)) ∧
      (4 ≤ n → v = wd ((s.stridePre st k (rowOps sl 0x39 f o)).get (pgPmu st) F.PMU_CNT_COUNT (n - 8)))) ∧
    (s.clearAt st trk sl 0x3A f o k → exec (.rdchrono st trk sl o) s =
      .next (issued 0x3A f [] none [d] [resI o.d.toNat (wd s.chrono)]))

/-- R79, R84, R134, R137, R141, R211, R245 and R340: the operations that take effect at their carve's commit issue, when nothing holds
their stride, with no result, and leave that effect for the commit where their guard is true. R119 and R120: an IMX gives the
operation in the next present slot of its stride a 36-bit immediate; where nothing follows it, it is an illegal operation of reason 7. -/
def Obligations.CommitEffectsAndImx : Prop :=
  (∀ (st : Stop) (trk : Fin 2) (sl : Fin 4) (o : Op) (s : State) (k : Nat), isTile st = true →
      let a := s.opI st k o.a.toNat
      let b := s.opI st k o.b.toNat
      let f := o.f.toNat
      let x := f / 4 * 4
      let sr := (s.core st).sr
      let tag := if sr.lvl = 2 then b.toNat % 2 ^ 29 else b.toNat % 2 ^ 16 + bitsOf sr.hGxlat.toNat 44 12 * 2 ^ 16
      let xinv (kind : Nat) : CAct := .xinv kind (bitOf x 2) a.toNat (tag + if bitOf x 3 then 2 ^ 29 else 0)
      ∀ r ∈ [(Instr.srw st trk sl o, 0x31, f, CAct.sr 0 (o.b.toNat * 16 + f) a), (.fstatw st trk sl o, 0x2D, 3, .fstatw a),
          (.fence st trk sl o, 0x34, f, .fence f), (.syncC st trk sl o, 0x35, f, .syncC), (.scall st trk sl o, 0x36, 0, .scall),
          (.hcall st trk sl o, 0x36, 1, .hcall), (.sret st trk sl o, 0x37, 0, .sret), (.hret st trk sl o, 0x37, 1, .hret),
          (.xinvAd st trk sl o, 0x5C, x, xinv 0), (.xinvTag st trk sl o, 0x5C, x + 1, xinv 1), (.xinvAll st trk sl o, 0x5C, x + 2, xinv 2)],
        s.clearAt st trk sl r.2.1 r.2.2.1 o k →
        (s.opOn st k o = true → exec r.1 s = .next (s.withActs st k (rowOps sl r.2.1 r.2.2.1 o) [r.2.2.2] false)) ∧
        (s.opOn st k o = false → exec r.1 s = .next
          (if r.2.1 = 0x5C then (s.stridePre st k (rowOps sl r.2.1 r.2.2.1 o)).advance st k
            else s.withActs st k (rowOps sl r.2.1 r.2.2.1 o) [] false))) ∧
  (∀ (st : Stop) (trk : Fin 2) (sl : Fin 4) (o : Op) (s : State) (k : Nat) (X : BitVec 26), isTile st = true → o.imx = some X →
      let x := (s.core st).sta k
      let rest := (x.strideWords x.ptr).filter fun e => sl.val < e.1
      let imx : Nat × Nat := (sl.val, imxWord X.toNat)
      (∀ (j w : Nat) (tail : List (Nat × Nat)), rest = (j, w) :: tail →
        let q := OpW.ofWord w
        let ops := pairOps none (imx :: rest)
        isImx w = false →
        ops[1]? = some ⟨j, w, q, some X.toNat⟩ ∧
        (tail = [] → q.o = 0x08 → w < 2 ^ 32 → s.clearOps st trk k ops → exec (.imx st trk sl o) s =
          .next (s.withResult st k j ops [] ((s.opCore st k).rdP k q.p) (some 1) false [iDest q.d]
            [resI q.d (((s.opCore st k).rdI k q.a).v + BitVec.ofInt 64 (sext (X.toNat * 1024 + q.b * 16 + q.f) 36))] 0))) ∧
      (rest = [] → sl.val < 2 → s.atStride st trk k → exec (.imx st trk sl o) s =
        .next ((s.landed st k).strideFault st k ⟨1, false, sl.val, ((s.opCore st k).sta k).ptr, 0, illInfo 0 7 (imxWord X.toNat), 0⟩)))

/-- R142, R143 and R342: WFI completes once its event controller presents a source and is held until then; XWAIT completes once every
broadcast is acknowledged and every earlier store performed; BRK and UDF fault where their guard is true and do nothing where it is
false. R135, R146 and R147: an access to an assigned status register above the core's level, by an operation that runs, faults the
stride with cause 2, reason 0x10 and the register's number. -/
def Obligations.WaitsTrapsAndPrivilege : Prop :=
  (∀ (st : Stop) (trk : Fin 2) (sl : Fin 4) (o : Op) (s : State) (k : Nat), isTile st = true →
      let on := s.opOn st k o
      let c := s.opCore st k
      let x := o.f.toNat / 4 * 4 + 3
      (s.clearAt st trk sl 0x38 o.f.toNat o k →
        ((on = true ∧ (s.lecPresent st).isSome = true) ∨ on = false →
          exec (.wfi st trk sl o) s = .next (s.withActs st k (rowOps sl 0x38 o.f.toNat o) [] on)) ∧
        (on = true ∧ s.lecPresent st = none → exec (.wfi st trk sl o) s = .next ((s.landed st k).modCore st fun c =>
          c.modSta k fun x => { x with st := .stalled, ilock := false, stall := if x.st = .stalled then x.stall else 0, wfiHeld := true }))) ∧
      (s.clearAt st trk sl 0x5C x o k →
        (on = true → c.xinvOut = [] → c.sq.all (fun e => e.stn.isSome) = true → c.wc = [] → c.wcOut = [] →
          exec (.xwait st trk sl o) s = .next (s.withActs st k (rowOps sl 0x5C x o) [] false)) ∧
        (on = false → exec (.xwait st trk sl o) s = .next ((s.stridePre st k (rowOps sl 0x5C x o)).advance st k)) ∧
        (on = true ∧ ¬ (c.xinvOut = [] ∧ c.sq.all (fun e => e.stn.isSome) = true ∧ c.wc = [] ∧ c.wcOut = []) →
          exec (.xwait st trk sl o) s = .next ((s.landed st k).strideHold st k false))) ∧
      (∀ r ∈ [(Instr.brk st trk sl o, 2, 5, 0), (.udf st trk sl o, 3, 1, illInfo 0 0x0D (rowX 0x36 3 o).toWord)],
        (s.clearAt st trk sl 0x36 r.2.1 o k → on = false ∧ exec r.1 s = .next (s.withActs st k (rowOps sl 0x36 r.2.1 o) [] false)) ∧
        (s.atStride st trk k → c.interlocked k (rowOps sl 0x36 r.2.1 o) = none → on = true → sl = 1 → o.imx = none →
          o.d = 0 → o.a = 0 → o.b = 0 → c.checking = false → (c.sta k).lq ≤ 256 → (c.sta k).sq ≤ 192 →
          exec r.1 s = .next ((s.landed st k).strideFault st k ⟨r.2.2.1, false, 1, (c.sta k).ptr, 0, r.2.2.2, 0⟩)))) ∧
  (∀ (st : Stop) (trk : Fin 2) (o : Op) (s : State) (k : Nat), isTile st = true →
      let c := s.opCore st k
      let n := o.b.toNat * 16 + o.f.toNat
      ∀ r ∈ [(Instr.srr st trk 1 o, 0x30), (.srw st trk 1 o, 0x31), (.srset st trk 1 o, 0x32), (.srclr st trk 1 o, 0x33)],
        s.atStride st trk k → c.interlocked k (rowOps 1 r.2 o.f.toNat o) = none → (r.2 ≠ 0x30 → c.isOldest k = true) →
        s.opOn st k o = true → o.imx = none → (r.2 = 0x30 → o.a = 0) → (r.2 = 0x31 → o.d = 0) →
        (n ∈ [0x000, 0x001, 0x100, 0x101, 0x102, 0x103, 0x104, 0x108, 0x110, 0x200, 0x201, 0x202, 0x208, 0x209, 0x210]) →
        (r.2 ≠ 0x30 → n ∉ [0x000, 0x102, 0x104]) → c.sr.lvl < n / 256 →
        exec r.1 s = .next ((s.landed st k).strideFault st k
          ⟨2, false, 1, (c.sta k).ptr, 0, illInfo n 0x10 (rowX r.2 o.f.toNat o).toWord, 0⟩))

/-- R148, R149, R152, R153 and R155: at stride EXITPOS of a carve whose exit is pending, a relative exit resolves to the carve address
plus 64 times OFS and a register exit to A with bits [5:0] zero, taken where its guard is true; a call writes the fall-through address
to g1 with latency 1. R152, R156, R157, R161 and R165: when an exit resolves the carve's successor is the target or the fall-through
address; a right prediction leaves every other station as it is; a wrong one squashes every younger carve, ends the rink's streaming
and sends fetch to the successor. -/
def Obligations.ExitsIssueAndResolve : Prop :=
  (∀ (st : Stop) (trk : Fin 2) (sl : Fin 4) (o : Op) (s : State) (k : Nat), isTile st = true →
      let x := (s.core st).sta k
      x.ptr = x.hdr.exitpos → x.exit = .pending →
      let rel := ({ o with imx := none } : Op)
      let reg := ({ o with d := o.d &&& 32#6, b := 0, imx := none } : Op)
      let ofs : Int := sext (o.d.toNat % 32 * 65536 + o.a.toNat * 1024 + o.b.toNat * 16 + o.f.toNat) 21
      let an := bitOf o.d.toNat 5
      ∀ r ∈ [(Instr.exitR st trk sl o, 0x3C, o.f.toNat, rel, false), (.callR st trk sl o, 0x3D, o.f.toNat, rel, true),
          (.exitX st trk sl o, 0x3E, 0, reg, false), (.callX st trk sl o, 0x3E, 1, reg, true), (.ret st trk sl o, 0x3E, 2, reg, false)],
        s.clearAt st trk 0 r.2.1 r.2.2.1 r.2.2.2.1 k →
        let ops := rowOps 0 r.2.1 r.2.2.1 r.2.2.2.1
        let on := s.opOn st k o
        let tgt := if r.2.1 = 0x3E then (s.opI st k o.a.toNat).toNat / 64 * 64 else toBits ((x.addr : Int) + ofs * 64) 64
        let u := s.stridePre st k ops
        let linked := if r.2.2.2.2 then
            u.modCore st fun c => c.modSta k fun y =>
              y.addPend ⟨y.nextTag, [Res.mk' (.g 1) (BitVec.ofNat 256 ((x.addr + x.size) % 2 ^ 64))], y.ptr, 0, some 1, on, false, 0, [.g 1]⟩
          else u
        exec r.1 s = .next ((linked.resolveExit st k on tgt an (decide (r.2.1 = 0x3E)) true).advance st k)) ∧
  (∀ (s : State) (st k tgt : Nat) (taken an reg : Bool),
      let c := s.core st
      let x := c.sta k
      let succ := if taken then tgt else (x.addr + x.size) % 2 ^ 64
      let t := (s.resolveExit st k taken tgt an reg true).core st
      (c.youngerThan k).contains k = false →
      (t.sta k).exit = (if taken then .taken else .fell) ∧ (t.sta k).exitTgt = tgt ∧ (t.sta k).annul = (an && !taken) ∧
      (t.sta k).addr = x.addr ∧ (t.sta k).pend = x.pend ∧
      (x.predNext = some succ → (∀ j, j ≠ k → t.sta j = c.sta j) ∧ t.order = c.order ∧ t.fetch = c.fetch) ∧
      (∀ p, x.predNext = some p → p ≠ succ → t.fetch.pc = some succ ∧ t.rink.streaming = false ∧
        t.order = c.order.filter (fun j => !(c.youngerThan k).contains j)) ∧
      t.arch = c.arch ∧ t.sr = c.sr)

/-- R64, R71, R93, R178-R188, R255: a load or an atomic whose guard is true and whose parts `ps` have passed translation, order and room
takes its load-queue entry and its interlocked result, and its stride moves on; predicated off it keeps its timing class with a result
that writes nothing (R93), and with no part it only moves on. R71, R73, R179-R182, R255, R362-R366: a store, a maintenance operation
or a prefetch whose guard is true and whose parts `ps` have passed takes its entries or asks for its line, and its stride moves on;
predicated off or with no part, it only moves on. -/
def Obligations.LoadsAndStoresIssue : Prop :=
  (∀ (st : Stop) (trk : Fin 2) (sl : Fin 4) (o : Op) (s : State) (k : Nat) (ps : List XPart), isTile st = true →
      let f := o.f.toNat
      let n := o.d.toNat
      let c := s.opCfg st k
      let grp := (List.range c.g).map fun j => Dest.v (n + j)
      ∀ r ∈ [(Instr.ldB st trk sl o, 0x40, f, [iDest n]), (.ldBu st trk sl o, 0x41, f, [iDest n]), (.ldH st trk sl o, 0x42, f, [iDest n]),
          (.ldHu st trk sl o, 0x43, f, [iDest n]), (.ldW st trk sl o, 0x44, f, [iDest n]), (.ldWu st trk sl o, 0x45, f, [iDest n]),
          (.ldD st trk sl o, 0x46, f, [iDest n]), (.ldfD st trk sl o, 0x47, f, [.v n]), (.ldfW st trk sl o, 0x48, f, [.v n]),
          (.ldfH st trk sl o, 0x49, f, [.v n]), (.ldx st trk sl o, 0x51, f, [if f < 8 then iDest n else .v n]),
          (.ldAcq st trk sl o, 0x53, f, [iDest n]), (.amo st trk sl o, 0x55, f, [iDest n]), (.amoW st trk sl o, 0x56, f, [iDest n]),
          (.amoAr st trk sl o, 0x57, f, [iDest n]), (.amoWAr st trk sl o, 0x58, f, [iDest n]),
          (.cas st trk sl o, 0x59, f, if bitOf f 0 then [iDest n, iDest (n + 1)] else [iDest n]),
          (.vld st trk sl o, 0x5D, f, grp), (.vlds st trk sl o, 0x5F, 0, grp), (.vgather st trk sl o, 0x5F, 2, grp)],
        s.memClear st trk sl r.2.1 r.2.2.1 o k ps →
        let op := rowOp sl r.2.1 r.2.2.1 o
        let u := s.stridePre st k (rowOps sl r.2.1 r.2.2.1 o)
        (s.opOn st k o = true → exec r.1 s = .next
          ((if ps = [] then u else u.doLoad st k op (s.opArgs st k r.2.1 r.2.2.1 o) ps r.2.2.2 c false).advance st k)) ∧
        (s.opOn st k o = false → exec r.1 s = .next ((u.modCore st fun c => c.modSta k fun x =>
          x.addPend ⟨x.nextTag, [], x.ptr, 2, none, false, true, 0, r.2.2.2⟩).advance st k))) ∧
  (∀ (st : Stop) (trk : Fin 2) (sl : Fin 4) (o : Op) (s : State) (k : Nat) (ps : List XPart), isTile st = true →
      let f := o.f.toNat
      let y := f / 4 * 4
      let on := s.opOn st k o
      let u (opcode f : Nat) : State := s.stridePre st k (rowOps sl opcode f o)
      (∀ r ∈ [(Instr.stB st trk sl o, 0x4A, f), (.stH st trk sl o, 0x4B, f), (.stW st trk sl o, 0x4C, f), (.stD st trk sl o, 0x4D, f),
          (.stfD st trk sl o, 0x4E, f), (.stfW st trk sl o, 0x4F, f), (.stfH st trk sl o, 0x50, f), (.stx st trk sl o, 0x52, f),
          (.stRel st trk sl o, 0x54, f), (.vst st trk sl o, 0x5E, f), (.vsts st trk sl o, 0x5F, 1), (.vscatter st trk sl o, 0x5F, 3)],
        s.memClear st trk sl r.2.1 r.2.2 o k ps → exec r.1 s = .next
          ((if on then (u r.2.1 r.2.2).doStore st k (rowOp sl r.2.1 r.2.2 o) (s.opArgs st k r.2.1 r.2.2 o) ps else u r.2.1 r.2.2).advance st k)) ∧
      (∀ r ∈ [(Instr.clean st trk sl o, y), (.inval st trk sl o, y + 1), (.clinv st trk sl o, y + 2), (.lockfill st trk sl o, y + 3)],
        s.memClear st trk sl 0x5B r.2 o k ps → exec r.1 s = .next
          ((if on then (u 0x5B r.2).doMaint st k (rowOp sl 0x5B r.2 o) (s.opArgs st k 0x5B r.2 o) ps.head? else u 0x5B r.2).advance st k)) ∧
      (s.memClear st trk sl 0x5A f o k ps → exec (.pref st trk sl o) s = .next
        ((match on, ps with
          | true, p :: _ => (u 0x5A f).doPref st k (rowOp sl 0x5A f o) p
          | _, _ => u 0x5A f).advance st k)))

/-- R71, R185, R186 and R188: an atomic that issues waits in one load-queue entry with its physical pieces, its acquire and release marks
and the stride's pointer, beside one pending interlocked result for its destinations, and changes nothing else of the machine where
its parts need no TLB refill and count as no untimed event. R71, R179-R181, R197: a scalar store inside one line takes one store-queue
entry that names the physical address, the access's type and the low bytes of its data register, and, where no younger load has read
those bytes and its translation needs no TLB refill and counts as no untimed event, changes nothing else of the machine. -/
def Obligations.QueueEntries : Prop :=
  (∀ (s : State) (st k : Nat) (op : SlotOp) (args : Ops) (ps : List XPart) (dsts : List Dest) (cfg : Vcfg) (p : XPart),
      let c := s.core st
      let x := c.sta k
      isAtomOp op.x.o = true → ps.head? = some p →
      let t := s.doLoad st k op args ps dsts cfg false
      let c' := t.core st
      ∃ e : Lq, c'.lq = c.lq ++ [e] ∧ c'.nextId = c.nextId + 1 ∧ e.id = c.nextId ∧ e.stn = k ∧ e.stride = x.ptr ∧ e.tag = x.nextTag ∧
        e.pieces = ps.map (fun q => ⟨q.pa, q.part.va, q.part.off, q.part.len⟩) ∧ e.st = .atomicWait ∧ e.atype = p.ty ∧ e.va = p.part.va ∧
        e.acquire = (op.x.o == 0x57 || op.x.o == 0x58 || (op.x.o == 0x59 && bitOf op.x.f 1)) ∧
        e.release = (op.x.o == 0x57 || op.x.o == 0x58 || (op.x.o == 0x59 && bitOf op.x.f 2)) ∧
        (c'.sta k).pend = x.pend ++ [⟨x.nextTag, [], x.ptr, 2, none, true, false, 0, dsts⟩] ∧ (c'.sta k).nextTag = x.nextTag + 1 ∧
        (∀ j, j ≠ k → c'.sta j = c.sta j) ∧ c'.sq = c.sq ∧ c'.arch = c.arch ∧ c'.sr = c.sr ∧
        (s.plainParts st ps → t = s.setCore st c')) ∧
  (∀ (s : State) (st k : Nat) (op : SlotOp) (args : Ops) (p : XPart),
      let c := s.core st
      let x := c.sta k
      let kd := kindOf op.x.o op.x.f
      isStoreOp op.x.o op.x.f = true → isVmemOp op.x.o = false → kd ∈ [0, 2, 4, 6, 8, 9, 10] → p.part.off = 0 → p.part.len = kindBytes kd →
      (∀ e : Sq, e.pa = p.pa → e.data.length = p.part.len → c.depViolation k [e] = none) → s.plainParts st [p] →
      let v := if 8 ≤ kd then args.fd else (c.rdI k op.x.d).v.toNat
      let t := s.doStore st k op args [p]
      ∃ e : Sq, (t.core st).sq = c.sq ++ [e] ∧ e.id = c.nextId ∧ e.stn = some k ∧ e.lvl = c.sr.lvl ∧ e.pa = p.pa ∧ e.atype = p.ty ∧ e.kind = .store ∧
        e.key = p.key ∧ leNat e.data = v % 2 ^ (8 * kindBytes kd) ∧ e.data.length = kindBytes kd ∧ e.sent = false ∧
        e.release = (op.x.o == 0x54) ∧ ((t.core st).sta k).hasDevS = (x.hasDevS || p.ty == 3) ∧
        (∀ j, j ≠ k → (t.core st).sta j = c.sta j) ∧ (t.core st).lq = c.lq ∧ t = s.setCore st (t.core st))

/-- R180, R181, R90: when the bytes of a scalar load inside one line arrive, its pending result gets them extended as the kind says:
bytes, halves and words sign-extended in kinds 0, 2 and 4 and zero-extended in 1, 3 and 5, and an FP value boxed. R168, R185, R186,
R188 and R189: an atomic of the oldest carve on its own pad, with no older store in its way, reads the old bytes and writes the new
value of its function there, and no other byte of any pad; a CAS writes only on equality. A load refused while speculative is asked
for again once its carve is the oldest. -/
def Obligations.LoadsAndAtomicsPerform : Prop :=
  (∀ (c : Core) (id : Nat) (e : Lq) (p : Piece) (bs : List Byte),
      c.lq.find? (fun e => e.id = id) = some e → e.pieces = [p] → p.off = 0 → e.got = [] → e.bad = [] → e.vector = false →
      e.st ≠ .done → e.st ≠ .refused → isLoadOp e.op e.f = true → e.op < 0x5D → e.size = kindBytes (kindOf e.op e.f) → bs.length = e.size →
      c.ownStores e = [] → e.d < 64 → ((c.sta e.stn).pend.filter fun q => q.tag = e.tag).length = 1 →
      let raw := leNat bs
      let kd := kindOf e.op e.f
      let t := c.lqGive id 0 bs none
      ∃ v : VWord, (∀ q ∈ (t.sta e.stn).pend, q.tag = e.tag → q.ready = true ∧
          q.res = [⟨if 8 ≤ kd then .v e.d else iDest e.d, v, none, none, none, none⟩]) ∧
        (kd = 0 → v = ((BitVec.ofNat 8 raw).signExtend 64).setWidth 256) ∧ (kd = 1 → v = BitVec.ofNat 256 (raw % 2 ^ 8)) ∧
        (kd = 2 → v = ((BitVec.ofNat 16 raw).signExtend 64).setWidth 256) ∧ (kd = 3 → v = BitVec.ofNat 256 (raw % 2 ^ 16)) ∧
        (kd = 4 → v = ((BitVec.ofNat 32 raw).signExtend 64).setWidth 256) ∧ (kd = 5 → v = BitVec.ofNat 256 (raw % 2 ^ 32)) ∧
        (kd = 6 ∨ kd = 8 → v = BitVec.ofNat 256 raw) ∧
        (kd = 9 → v = BitVec.ofNat 256 ((2 ^ 32 - 1) * 2 ^ 32 + raw)) ∧ (kd = 10 → v = BitVec.ofNat 256 ((2 ^ 48 - 1) * 2 ^ 16 + raw)) ∧
        (∀ j, j ≠ e.stn → t.sta j = c.sta j) ∧ t.sq = c.sq ∧ t.arch = c.arch) ∧
  (∀ (st : Stop) (id : Nat) (s : State) (e : Lq) (p : Piece), isTile st = true → s.live = true →
      let c := s.core st
      let off := p.pa % 2 ^ 18
      let w := 8 * p.len
      (c.lq.find? (fun e => e.id = id && e.st = .atomicWait) = some e → e.pieces = [p] → e.atype = 5 → c.isOldest e.stn = true →
        c.sq.any (fun q => q.stn.isNone) = false → c.wc = [] → c.wcOut = [] → s.padServing st = true →
        c.lq.all (fun q => q.stn ≠ e.stn || e.stride ≤ q.stride || q.st = .done) = true → s.padPoisoned st off p.len = false →
        (p.len = 4 ∨ p.len = 8) → p.len = atomBytes e.op e.f → off + p.len ≤ 2 ^ 18 → e.op < 0x5A → 0x55 ≤ e.op →
        let old := leNat (s.padRd st off p.len)
        let b := e.src % 2 ^ w
        ∃ (t : State) (new : Nat), exec (.atomicPerform st id) s = .next t ∧ leNat (t.padRd st off p.len) = new ∧
          (e.op = 0x59 → new = if old = e.cmp % 2 ^ w then b else old) ∧
          (e.op ≠ 0x59 → (e.f = 0 → new = b) ∧ (e.f = 1 → new = (old + b) % 2 ^ w) ∧ (e.f = 2 → new = old &&& b) ∧ (e.f = 3 → new = old ||| b) ∧
            (e.f = 4 → new = old ^^^ b) ∧ (e.f = 5 → sext new w = min (sext old w) (sext b w)) ∧
            (e.f = 6 → sext new w = max (sext old w) (sext b w)) ∧ (e.f = 7 → new = min old b) ∧ (e.f = 8 → new = max old b)) ∧
          ((t.core st).sta e.stn).bound = true ∧
          ∀ a, ¬ (padKey st off ≤ a ∧ a < padKey st off + p.len) → Mem.rd t.pads a = Mem.rd s.pads a) ∧
      (c.lq.find? (fun e => e.id = id && e.st = .refused) = some e → c.isOldest e.stn = true →
        ∃ (l : List Lq) (t : State), exec (.speculativeReissue st id) s = .next t ∧
          l = modFirst (fun e => e.id = id) (fun e => { e with st := .waiting, spec := false, got := [], bad := [] }) c.lq ∧
          t = e.pieces.foldl (fun s p => s.loadPiece st id p e.atype e.key false (if 1 < e.pieces.length ∧ ¬ e.vector then some id else none)
            (c.sta e.stn).addr e.stride) (s.modCore st fun c => { c with lq := l })))

/-- R65, R90 and R100: landing at stride `n` puts exactly the fixed-latency results due by `n` into the carve's registers, in their order,
those of a false guard left out; an interlocked result and one not yet due stay pending. R56, R59, R70 and R101: committing a carve
writes every declared global it wrote, leaves every other as it was, and never writes g0; the flags it raised join FSTAT. -/
def Obligations.RegistersAreWritten : Prop :=
  (∀ (x : Stn) (n : Nat),
      let due (p : Pend) : Bool := match p.lat with | some l => decide (p.stride + l ≤ n) | none => false
      (x.release n).pend = x.pend.filter (fun p => !due p) ∧
      (x.release n).ptr = x.ptr ∧ (x.release n).addr = x.addr ∧ (x.release n).acts = x.acts ∧
      (∀ (p : Pend) (d : Nat) (v : VWord) (m : Option Mark), x.pend = [p] → due p = true → p.res = [⟨.g d, v, m, none, none, none⟩] →
        (x.release n).gw = if p.on = true ∧ d ≠ 0 then tput x.gw d ⟨v.setWidth 64, m⟩ else x.gw) ∧
      (x.pend.all (fun p => due p → !p.on) = true → (x.release n).gw = x.gw ∧ (x.release n).vw = x.vw ∧ (x.release n).edges = x.edges ∧
        (x.release n).preds = x.preds ∧ (x.release n).flags = x.flags)) ∧
  (∀ (a : Arch) (x : Stn) (n : Nat), (x.gw.map Prod.fst).Nodup → (x.vw.map Prod.fst).Nodup →
      let b := a.commit x
      (∀ r, n ≠ 0 → bitOf x.hdr.iwr n = true → tfind x.gw n = some r → tget b.g n Rg.zero = r) ∧
      (n = 0 ∨ bitOf x.hdr.iwr n = false ∨ tfind x.gw n = none → tget b.g n Rg.zero = tget a.g n Rg.zero) ∧
      (∀ r, bitOf x.hdr.vwr n = true → tfind x.vw n = some r → tget b.v n VRg.zero = r) ∧
      (bitOf x.hdr.vwr n = false ∨ tfind x.vw n = none → tget b.v n VRg.zero = tget a.v n VRg.zero) ∧
      b.cfg = x.cfgw.getD a.cfg)

/-- R64, R69 and R107: past a stride that is not the last the pointer moves by one and the carve issues on; past the last one the carve
leaves its track and drains, closes when nothing is left to land and its exit has resolved, and no fixed-latency result stays pending.
R64, R90, R93 and R156: STRIDE_ISSUE issues every operation the carve's own stride holds and moves on, and a suppressed delay stride
issues nothing; an interlocked result that is known lands in its station alone. R66, R72 and R86: a carve that an interlock has
stalled for longer than LODGE_THRESH, of which 0 to 3 act as 4, leaves its track while another is ready to use it, where lodging is
enabled and the core is not groomed, and is LODGED two core cycles later; the oldest carve's want of queue entries that younger carves
hold squashes everything younger. -/
def Obligations.StrideFlow : Prop :=
  (∀ (s : State) (st k : Nat),
      let c := s.core st
      let x := c.sta k
      let t := s.advance st k
      let y := (t.core st).sta k
      (x.ptr < x.hdr.nstr → y = { x with ptr := x.ptr + 1, st := .issuing, ilock := false, vstart := 0, wfiHeld := false, stall := 0 } ∧
        (∀ j, j ≠ k → (t.core st).sta j = c.sta j) ∧ t = s.setCore st (t.core st)) ∧
      (x.hdr.nstr ≤ x.ptr → x.exit ≠ .pending → x.flt = none → y.ptr = x.ptr + 1 ∧ y.pend = x.pend.filter (fun p => p.lat.isNone) ∧
        y.st = (if x.pend.all (fun p => p.lat.isSome) = true then .closed else .draining) ∧
        (t.core st).t0 ≠ some k ∧ (t.core st).t1 ≠ some k ∧ t = s.setCore st (t.core st))) ∧
  (∀ (st : Stop) (trk : Fin 2) (stn : Fin 16) (tag : Nat) (s : State) (k : Nat), isTile st = true →
      let x := (s.core st).sta k
      let ops := pairOps none (x.strideWords x.ptr)
      (x.exit = .pending → s.clearOps st trk k ops →
        ops.any (fun o => !isImx o.word && ((0x40 ≤ o.x.o && o.x.o ≤ 0x5F) || o.x.o == 0x38)) = false →
        exec (.strideIssue st trk) s =
          .next ((ops.foldl (fun u o => u.issueOp st k ((s.landed st k).core st) [] false o) (s.stridePre st k ops)).advance st k)) ∧
      (s.live = true → s.canIssue st trk = some k → x.annul = true → x.hdr.exitpos < x.ptr →
        exec (.strideIssue st trk) s = .next (((s.landed st k).chargeStride st k 0 true).advance st k)) ∧
      (s.live = true → ∀ (p : Pend) (d : Nat) (v : VWord) (rest : List Pend), ((s.core st).sta stn).pend = p :: rest →
        p.tag = tag → p.lat = none → p.ready = true → p.on = true → p.res = [⟨.g d, v, none, none, none, none⟩] → d ≠ 0 →
        ((s.core st).sta stn).st = .issuing → (s.core st).running = true →
        ∃ t, exec (.resultLand st stn tag) s = .next t ∧ ((t.core st).sta stn).pend = rest ∧
          ((t.core st).sta stn).gw = tput ((s.core st).sta stn).gw d ⟨v.setWidth 64, none⟩ ∧ (t.core st).arch = (s.core st).arch ∧
          t = s.setCore st (t.core st))) ∧
  (∀ (st : Stop) (trk : Fin 2) (s : State) (k : Nat), isTile st = true → s.live = true →
      let c := s.core st
      let x := c.sta k
      let ops := pairOps none (x.strideWords x.ptr)
      (c.onTrack trk = some k → x.st = .stalled → x.ilock = true → c.groomed = false → c.running = true →
        max 4 (s.get (pgCore st) F.CORE_CARVE_CTL_LODGE_THRESH 0) < x.stall →
        s.flag (pgCore st) F.CORE_CARVE_CTL_LODGE_EN = true →
        c.order.any (fun j => j ≠ k && ((c.sta j).st = .ready || (c.sta j).st = .resumable)) = true →
        ∃ t, exec (.lodge st trk) s = .next t ∧ (t.core st).t0 ≠ some k ∧ (t.core st).t1 ≠ some k ∧ (t.core st).order = c.order ∧
          ((t.core st).sta k).st = .lodging ∧ (∀ n, 2 ≤ n → (((t.core st).sta k).age n).st = .lodged) ∧ ((t.core st).sta k).ptr = x.ptr ∧
          ((t.core st).sta k).pend = x.pend ∧ ((t.core st).sta k).edges = x.edges ∧ ((t.core st).sta k).preds = x.preds) ∧
      (∀ o : SlotOp, c.order.head? = some k → x.st = .stalled → c.interlocked k ops = none →
        ops.find? (fun o => !isImx o.word && ((0x40 ≤ o.x.o && o.x.o ≤ 0x5B) || isVmemOp o.x.o)) = some o →
        (let n := memEntries o (c.operands k o.x) x.vstart
         (0 < n.1 ∧ c.lqRoom k n.1 = false ∧ c.lq.any (fun e => e.stn ≠ k) = true) ∨
         (0 < n.2 ∧ c.sqRoom k n.2 = false ∧ c.sq.any (fun e => e.stn.isSome && e.stn ≠ some k) = true)) →
        (c.youngerThan k).contains k = false →
        ∃ t, exec (.oldestQueueSquash st) s = .next t ∧ (t.core st).order = c.order.filter (fun j => !(c.youngerThan k).contains j) ∧
          (t.core st).lq = c.lq.filter (fun e => !(c.youngerThan k).contains e.stn) ∧ (t.core st).sta k = x ∧
          (t.core st).fetch.pc = ((c.youngerThan k).head?).map (fun j => (c.sta j).addr) ∧ (t.core st).arch = c.arch))

/-- R3, R70, R71, R74 and R179: issuing a stride changes no memory. Whatever becomes of the row (it issues, is held or faults), no byte of
a pad, of SRAM, of the near tier or of the tuck store changes, nor another tile's core, nor the committed registers, the status
registers and the committed stores of its own core; a row that is no memory operation leaves every cache and NI as it is too. -/
def Obligations.StrideFrame : Prop :=
  ∀ (st : Stop) (trk : Fin 2) (sl : Fin 4) (o : Op) (s t : State),
    let kept (t : State) : Prop := t.pads = s.pads ∧ t.padPoison = s.padPoison ∧ t.sram = s.sram ∧ t.near = s.near ∧
      t.nearMeta = s.nearMeta ∧ t.tuck = s.tuck ∧ t.slices = s.slices ∧ t.hubs = s.hubs ∧ t.chans = s.chans ∧ t.routers = s.routers ∧
      t.lecs = s.lecs ∧ t.sys = s.sys ∧ (∀ u, u ≠ st.val → t.core u = s.core u) ∧ (t.core st).arch = (s.core st).arch ∧
      (t.core st).sr = (s.core st).sr ∧
      (t.core st).sq.filter (fun e => e.stn.isNone) = (s.core st).sq.filter (fun e => e.stn.isNone)
    (∀ i ∈ [Instr.alu st trk sl o, .shift st trk sl o, .mul st trk sl o, .div st trk sl o, .addi st trk sl o, .andi st trk sl o,
        .ori st trk sl o, .xori st trk sl o, .slli st trk sl o, .srli st trk sl o, .srai st trk sl o, .rori st trk sl o,
        .cmp st trk sl o, .cmpeqi st trk sl o, .cmpnei st trk sl o, .cmplti st trk sl o, .cmpgei st trk sl o, .cmpltui st trk sl o,
        .cmpgeui st trk sl o, .plog st trk sl o, .li st trk sl o, .lih st trk sl o, .cadr st trk sl o, .setvl st trk sl o,
        .vcfgr st trk sl o, .vcfgw st trk sl o, .fstatr st trk sl o, .fstatw st trk sl o, .srr st trk sl o, .srw st trk sl o,
        .srset st trk sl o, .srclr st trk sl o, .fence st trk sl o, .syncC st trk sl o, .scall st trk sl o, .hcall st trk sl o,
        .brk st trk sl o, .udf st trk sl o, .sret st trk sl o, .hret st trk sl o, .wfi st trk sl o, .rdcnt st trk sl o,
        .rdchrono st trk sl o, .exitR st trk sl o, .callR st trk sl o, .exitX st trk sl o, .callX st trk sl o, .ret st trk sl o,
        .xinvAd st trk sl o, .xinvTag st trk sl o, .xinvAll st trk sl o, .xwait st trk sl o, .scalarFp64 st trk sl o,
        .scalarFp32 st trk sl o, .scalarFp16 st trk sl o, .scalarBf16 st trk sl o, .fma st trk sl o, .fcmp st trk sl o,
        .fcvtFf st trk sl o, .fcvtFi st trk sl o, .fcvtIf st trk sl o, .fbits st trk sl o, .vintVv st trk sl o, .vintVx st trk sl o,
        .vmac st trk sl o, .vfpVv st trk sl o, .vfpVf st trk sl o, .vfma st trk sl o, .vfds st trk sl o, .vfcvt st trk sl o,
        .vfcmp st trk sl o, .vperm st trk sl o, .vred st trk sl o, .vfred st trk sl o],
      exec i s = .next t → kept t ∧ t.caches = s.caches ∧ t.nis = s.nis) ∧
    (∀ i ∈ [Instr.imx st trk sl o, .ldB st trk sl o, .ldBu st trk sl o, .ldH st trk sl o, .ldHu st trk sl o, .ldW st trk sl o,
        .ldWu st trk sl o, .ldD st trk sl o, .ldfD st trk sl o, .ldfW st trk sl o, .ldfH st trk sl o, .stB st trk sl o, .stH st trk sl o,
        .stW st trk sl o, .stD st trk sl o, .stfD st trk sl o, .stfW st trk sl o, .stfH st trk sl o, .ldx st trk sl o, .stx st trk sl o,
        .ldAcq st trk sl o, .stRel st trk sl o, .amo st trk sl o, .amoW st trk sl o, .amoAr st trk sl o, .amoWAr st trk sl o,
        .cas st trk sl o, .pref st trk sl o, .clean st trk sl o, .inval st trk sl o, .clinv st trk sl o, .lockfill st trk sl o,
        .vld st trk sl o, .vst st trk sl o, .vlds st trk sl o, .vsts st trk sl o, .vgather st trk sl o, .vscatter st trk sl o,
        .strideIssue st trk],
      exec i s = .next t → kept t)

/-- R48, R49, R52, R53, R55 and R171: CARVE_FETCH answers a next state for every tile and state, and changes neither the carves in flight
nor committed registers nor any pad; fetch reads the carve at its address, parses its header and body and holds it for rename with the
fault of the first check that fails; while the rink streams it supplies the next carve of its cycle. R57, R58, R61, R63 and R104:
RENAME and DISPATCH answer a next state for every tile and state, and change no committed register and no pad; rename gives the
fetched carve the lowest free station, in order, and stalls without changing anything while registers or a station are wanting, or in
groomed mode another carve is in flight; dispatch gives track 0 the oldest carve that is READY or RESUMABLE and track 1 the next, none
in groomed mode. -/
def Obligations.CarveEnters : Prop :=
  (∀ (st : Stop) (s s1 s2 : State) (pc : Nat) (hb body : List Byte) (hl bl : List (Nat × Bool)), isTile st = true →
      let c := s.core st
      let h := parseHdr hb
      let v := leNat hb
      let ops := bodyOps body h.present
      (∃ t, exec (.carveFetch st) s = .next t ∧ (t.core st).order = c.order ∧ (t.core st).arch = c.arch ∧ (t.core st).sr = c.sr ∧
        t.pads = s.pads ∧ t.sram = s.sram) ∧
      (s.live = true → c.stopped = false → c.running = true → s.sys.pstopped.contains (s.tilePiste st) = false → c.fetch.buf = none → c.fetch.resume = none →
      c.fetch.pc = some pc →
      (c.rink.cap = [] → s.fetchLines st pc 1 = (s1, .ok hb hl) →
        h.fmt = v % 16 ∧ h.nstr = v / 2 ^ 4 % 32 ∧ h.exitpos = v / 2 ^ 9 % 32 ∧ h.delay = v / 2 ^ 14 % 8 ∧ h.ird = v / 2 ^ 64 % 2 ^ 32 ∧
        h.iwr = v / 2 ^ 96 % 2 ^ 32 ∧ h.pmap = v / 2 ^ 192 % 2 ^ 128 ∧
        (h.fmt ≠ 5 ∨ h.nstr < h.exitpos ∨ h.delay ≠ h.nstr - h.exitpos ∨ 4 < h.delay →
          ∃ t, exec (.carveFetch st) s = .next t ∧ (t.core st).fetch.buf = some (pc, h, [], 64, some ⟨3, true, 0, 0, 0, 0, 0⟩)) ∧
        (∀ cause info addr, h.bad = false → s1.fetchLines st ((pc + 64) % 2 ^ 64) ((h.bytes - 64) / 64) = (s2, .fault cause info addr body bl) →
          exitMisplaced h (bodyOps body (body.length / 4)) = false →
          ∃ t, exec (.carveFetch st) s = .next t ∧ (t.core st).fetch.buf = some (pc, h, [], h.bytes, some ⟨cause, true, 0, 0, addr, info, 0⟩)) ∧
        (h.bad = false → s1.fetchLines st ((pc + 64) % 2 ^ 64) ((h.bytes - 64) / 64) = (s2, .ok body bl) →
          ∃ t, exec (.carveFetch st) s = .next t ∧
            (t.core st).fetch.buf = some (pc, h, ops, h.bytes,
              if exitBad h ops = true then some ⟨3, true, 0, 0, 0, 0, 0⟩
              else if (h.chk = true ∧ crc16 body ≠ h.chkcode) ∨ (h.chk = false ∧ s2.flag (pgCore st) F.CORE_CARVE_CTL_CHK_REQ = true) then
                some ⟨4, true, 0, 0, 0, 0, 0⟩
              else if c.groomed = true ∧ s2.flag (pgCore st) F.CORE_TIME_CTL_GRM_REQ = true ∧ h.grm = false then
                some ⟨6, true, 0, 0, 0, 7, 0⟩
              else none) ∧
            (t.core st).order = (s2.core st).order ∧ (t.core st).arch = (s2.core st).arch)) ∧
      (∀ r, c.rink.cap[c.rink.pos]? = some r → r.addr = pc → s.flag (pgCore st) F.CORE_FLOW_CTL_RINK_EN = true → c.groomed = false →
        ∃ t, exec (.carveFetch st) s = .next t ∧ (t.core st).fetch.buf = some (pc, r.hdr, r.ops, r.size, none) ∧
          (t.core st).fetch.pc = some r.succ ∧ (t.core st).rink.streaming = true))) ∧
  (∀ (st : Stop) (s : State) (k addr size : Nat) (h : Hdr) (ops : List Nat), isTile st = true →
      let c := s.core st
      (∀ i ∈ [Instr.rename st, .dispatch st], ∃ t, exec i s = .next t ∧ (t.core st).arch = c.arch ∧ (t.core st).sr = c.sr ∧ t.pads = s.pads ∧
        t.regs = s.regs ∧ ∀ j, j ≠ st.val → t.core j = s.core j) ∧
      (s.live = true →
      let wr := ops.any fun w => !isImx w && writesCfg w
      let fits := c.iregUsed + h.gmask.length ≤ 289 ∧ c.vregUsed + h.vmask.length ≤ 128 ∧ c.cfgUsed + (if wr then 1 else 0) ≤ 7
      (c.fetch.buf = some (addr, h, ops, size, none) → c.fetch.resume = none → c.running = true → (c.groomed = true → c.order = []) →
        (List.range 16).find? (fun j => !c.order.contains j) = some k → fits → ∃ t, exec (.rename st) s = .next t ∧
          let x := (t.core st).sta k
          (t.core st).order = c.order ++ [k] ∧ (t.core st).fetch.buf = none ∧ x.addr = addr ∧ x.hdr = h ∧ x.ops = ops ∧ x.size = size ∧
          x.ptr = 0 ∧ x.pend = [] ∧ x.gw = [] ∧ x.exit = .pending ∧ x.predNext = c.fetch.predNext ∧ (x.st = .waiting ∨ x.st = .ready) ∧
          (x.st = .ready ↔ (t.core st).inputsReady k = true) ∧ (t.core st).arch = c.arch ∧ t.pads = s.pads) ∧
      (c.fetch.buf = some (addr, h, ops, size, none) → ¬ fits ∨ (c.groomed = true ∧ c.order ≠ []) → exec (.rename st) s = .next s) ∧
      (c.running = true → c.stopped = false → c.order.all (fun j => (c.sta j).st ≠ .lodged) = true → c.t0 = none →
        (∀ rest, c.order.filter (fun j => (c.sta j).st = .ready || (c.sta j).st = .resumable) = k :: rest → c.groomed = true ∨ c.t1.isSome = true →
          exec (.dispatch st) s = .next (s.setCore st { c.modSta k (fun x => { x with st := .issuing, stall := 0 }) with t0 := some k })) ∧
        (∀ j rest, c.order.filter (fun j => (c.sta j).st = .ready || (c.sta j).st = .resumable) = k :: j :: rest → j ≠ k → c.groomed = false →
          c.t1 = none → ∃ t, exec (.dispatch st) s = .next t ∧ (t.core st).t0 = some k ∧ (t.core st).t1 = some j ∧
            ((t.core st).sta k).st = .issuing ∧ ((t.core st).sta j).st = .issuing))))

/-- R70, R84, R137, R211 and R245: the oldest CLOSED carve commits: its registers become architectural, its stores are released, its
station is freed; a status-register write, FSTATW, FENCE or SYNC.C among its effects takes effect, squashes everything younger and
fetches again from its successor. R141, R281, R285 and R584: a call that commits enters the handler at offset 0x040 with its carve's
successor as return point; a return that commits with a frame that passes its checks and nothing to chain restores STATUS, g1-g7 and
the depth from the frame and goes on at RET_ADDR or resumes the record; a stuck stride of the oldest carve, on its track or waiting
off it, enters with cause 0x07. -/
def Obligations.CarvesCommit : Prop :=
  (∀ (st : Stop) (s : State) (k : Nat) (rest : List Nat), isTile st = true → s.live = true →
      let c := s.core st
      let x := c.sta k
      c.order = k :: rest → rest.contains k = false → x.st = .closed → c.stopped = false → x.hasDevS = false → c.pctl = PendCtl.none →
      s.returnBad st x = none → (x.trapActs = true → s.padBusy st = false) →
      x.acts.any (fun a => match a with | .xinv .. => true | _ => false) = false →
      ∃ t, exec (.carveCommit st) s = .next t ∧
        let c' := t.core st
        (x.acts.any (fun a => a = .sret || a = .hret) = false → c'.arch = c.arch.commit x) ∧ c'.sta k = Stn.empty ∧
        (∀ e ∈ c.sq, e.stn = some k → { e with stn := none } ∈ c'.sq) ∧ c'.lq.any (fun e => e.stn = k) = false ∧
        (x.acts = [] → c.loadPassed k = none → c.chronoPassed k = none → c'.order = rest ∧ c'.sr = c.sr ∧ c'.fetch = c.fetch ∧ t.pads = s.pads ∧ t.sram = s.sram) ∧
        (x.acts ≠ [] → c'.order = []) ∧
        (∀ (op n : Nat) (v : Word), x.acts = [.sr op n v] → n ≠ 0x103 →
          let new := if op = 0 then v else if op = 1 then s.srRead st n ||| v else s.srRead st n &&& ~~~v
          c'.fetch.pc = some x.successor ∧ t.pads = s.pads ∧
          (n = 0x001 → c'.sr = { c.sr with tp := new }) ∧
          (n = 0x100 → c'.sr = { c.sr with ie := bitOf new.toNat 2, fie := bitOf new.toNat 3, ureach := bitOf new.toNat 4 }) ∧
          (n = 0x101 → c'.sr = { c.sr with sVbase := new &&& ~~~0xFF#64 }) ∧ (n = 0x110 → c'.sr = { c.sr with sscratch := new }) ∧
          (n = 0x200 → c'.sr = { c.sr with hVbase := new &&& ~~~0xFF#64 }) ∧ (n = 0x201 → c'.sr = { c.sr with hEdeleg := new }) ∧
          (n = 0x202 → c'.sr = { c.sr with hIdeleg := new.toNat % 16 } ∧ t.get (pgLec st) F.LEC_DELEG_DELEG 0 = new.toNat % 16) ∧
          (n = 0x210 → c'.sr = { c.sr with hscratch := new })) ∧
        (x.acts = [.syncC] → c'.fetch.pc = some x.successor ∧ (t.cache st).cc = [] ∧ c'.rink.cap = [] ∧ c'.rink.streaming = false) ∧
        (∀ v, x.acts = [.fence v] → c'.fetch.pc = some x.successor ∧
          (v = 0 ∨ v = 2 ∨ v = 4 ∨ v = 5 → ∃ hd ∈ c'.holds, hd.loads = decide (v ≠ 2) ∧ hd.stores = decide (v ≠ 4) ∧
            ∀ e ∈ c'.sq, e.stn = none → e.id ∈ hd.sqs))) ∧
  (∀ (st : Stop) (trk : Fin 2) (s : State) (k : Nat), isTile st = true → s.live = true →
      let c := s.core st
      let x := c.sta k
      let u := (s.commitState st k x true).modCore st fun c => c.refresh
      let v := u.core st
      c.order.head? = some k → s.padBusy st = false →
      (x.st = .closed → c.stopped = false → c.xinvFull x = false →
        (∀ r ∈ [(CAct.scall, 0x20, 1), (CAct.hcall, 0x21, 2)], x.acts = [r.1] → v.sr.lvl < 2 → v.sr.depth < 8 →
          ∃ t, exec (.carveCommit st) s = .next t ∧
            (t.core st).sr = { v.sr with lvl := r.2.2, ie := false, ureach := false, depth := v.sr.depth + 1 } ∧
            (t.core st).fetch.pc = some (((if r.2.2 = 2 then v.sr.hVbase.toNat else v.sr.sVbase.toNat) + 0x040) % 2 ^ 64) ∧
            t.pads = (u.putFrame st v.sr.depth x.successor v.sr.status r.2.1 0 0 (decide (r.2.2 = 2))).pads ∧ (t.core st).arch = v.arch) ∧
        (x.acts = [.sret] ∨ x.acts = [.hret] → s.returnBad st x = none → u.lecPresent st = none →
          let b := (v.sr.depth - 1) * 0x400
          let status := u.padWord st (b + 8)
          let info := u.padWord st (b + 0x10)
          ∃ t, exec (.carveCommit st) s = .next t ∧
            (t.core st).sr = { v.sr with lvl := status % 4, ie := bitOf status 2, fie := bitOf status 3, ureach := bitOf status 4, depth := v.sr.depth - 1 } ∧
            (∀ n, 1 ≤ n → n ≤ 7 → (tget (t.core st).arch.g n Rg.zero).v = wd (u.padWord st (b + 0x20 + 8 * (n - 1)))) ∧
            (∀ n, 8 ≤ n → tget (t.core st).arch.g n Rg.zero = tget v.arch.g n Rg.zero) ∧ t.pads = u.pads ∧
            (bitsOf info 16 2 ≠ 1 → (t.core st).fetch.pc = some (u.padWord st b / 64 * 64)) ∧
            (bitsOf info 16 2 = 1 → (t.core st).fetch.resume = some (v.sr.depth - 1) ∧ (t.core st).fetch.pc = none))) ∧
      ((c.onTrack trk = some k ∧ x.st = .stalled) ∨ x.st = .lodged ∨ x.st = .resumable → x.wfiHeld = false → x.bound = false → c.sr.depth < 8 →
        let tgt := if c.sr.lvl = 2 then 2 else if bitOf c.sr.hEdeleg.toNat 7 = true then 1 else 2
        ∃ t, exec (.stuckStrideTimeout st trk) s = .next t ∧
          (t.core st).sr = { c.sr with lvl := tgt, ie := false, ureach := false, depth := c.sr.depth + 1 } ∧
          (t.core st).fetch.pc = some ((if tgt = 2 then c.sr.hVbase.toNat else c.sr.sVbase.toNat) % 2 ^ 64) ∧
          t.pads = (s.putFrame st c.sr.depth x.addr c.sr.status 0x07 0 0 (decide (tgt = 2))).pads ∧ (t.core st).arch = c.arch))

/-- R272 and R274: the frame of an entry in its slot of the core's own pad, word by word, and no other byte of any pad. R79, R271, R280
and R282: raising the oldest carve's held fault commits its partial state, writes record and frame into the slot TRAP_DEPTH, and
enters the handler at offset 0 of the target level's vector base with IE and UREACH clear and FIE as it was; with TRAP_DEPTH at 8 the
core stops, reports FATAL and writes no frame. R276, R277 and R279: a presented source that the STATUS accepts, with a free trap slot
and no bound carve, squashes everything uncommitted, writes out the WC buffers and enters its handler at offset 0x080, or 0x0C0 with
FIE clear for a source below 8; a source that is not acceptable, and none presented, change nothing. -/
def Obligations.TrapsAreTaken : Prop :=
  (∀ (s : State) (st : Stop) (slot ret status cause source kind : Nat) (hl : Bool), slot < 8 → ret < 2 ^ 64 → status < 2 ^ 64 →
      cause < 256 → source < 256 → kind < 4 → isTile st = true →
      let t := s.putFrame st slot ret status cause source kind hl
      let b := slot * 0x400
      t.padWord st b = ret ∧ t.padWord st (b + 8) = status ∧
      t.padWord st (b + 0x10) = cause + source * 2 ^ 8 + kind * 2 ^ 16 + (if hl then 2 ^ 18 else 0) ∧
      t.padWord st (b + 0x18) = s.chrono % 2 ^ 64 ∧
      (∀ n < 7, t.padWord st (b + 0x20 + 8 * n) = (tget (s.core st).arch.g (n + 1) Rg.zero).v.toNat) ∧
      (∀ n < 5, t.padWord st (b + 0x58 + 8 * n) = 0) ∧
      (∀ a, ¬ (padKey st b ≤ a ∧ a < padKey st b + 0x80) → Mem.rd t.pads a = Mem.rd s.pads a) ∧ t.core st = s.core st ∧ t.sram = s.sram) ∧
  (∀ (st : Stop) (s : State) (k : Nat) (f : Flt), isTile st = true → s.live = true →
      let c := s.core st
      let x := c.sta k
      c.order.head? = some k → x.flt = some f → x.st = .faulted → x.pend = [] → c.stopped = false → c.xinvFull x = false → s.padBusy st = false →
      let u := s.commitState st k x false
      let sr := (u.core st).sr
      let d := sr.depth
      let tgt := if sr.lvl = 2 then 2 else if f.cause = 0x20 then 1
        else if f.cause = 0x21 ∨ f.cause = 0x0A ∨ (0x18 ≤ f.cause ∧ f.cause ≤ 0x1A) then 2
        else if f.cause < 64 ∧ bitOf sr.hEdeleg.toNat f.cause = true then 1 else 2
      ∃ t, exec (.faultRaise st) s = .next t ∧
        (d < 8 → t.pads = ((u.putRecord st d x f).putFrame st d x.addr sr.status f.cause 0 1 (decide (tgt = 2))).pads ∧
          (t.core st).sr = { sr with lvl := tgt, ie := false, ureach := false, depth := d + 1 } ∧
          (t.core st).fetch.pc = some ((if tgt = 2 then sr.hVbase.toNat else sr.sVbase.toNat) % 2 ^ 64) ∧
          (t.core st).arch = (u.core st).arch) ∧
        (8 ≤ d → (t.core st).stopped = true ∧ (t.core st).fetch.pc = none ∧ t.pads = u.pads ∧ (t.core st).sr = sr ∧
          t.flag (pgCore st) F.PAGE_ERR_FATAL = true ∧ t.get (pgTlift st) F.TLIFT_TCTL_FORCE_T3 0 = 1)) ∧
  (∀ (st : Stop) (s : State) (src tgt : Nat), isTile st = true → s.live = true →
      let c := s.core st
      let ok := c.sr.lvl < tgt ∨ c.sr.lvl = tgt ∧ (if src < 8 then c.sr.fie else c.sr.ie) = true
      (s.lecPresent st = none → exec (.interruptAccept st) s = .next s) ∧
      (s.lecPresent st = some (src, tgt) →
        (¬ ok ∨ 8 ≤ c.sr.depth ∨ s.coreBound st = true ∨ c.stopped = true ∨ s.padBusy st = true → exec (.interruptAccept st) s = .next s) ∧
        (ok → c.sr.depth < 8 → s.coreBound st = false → c.stopped = false → c.running = true → s.padBusy st = false →
          ∃ t, exec (.interruptAccept st) s = .next t ∧
            (t.core st).sr = { c.sr with lvl := tgt, ie := false, ureach := false, fie := c.sr.fie && decide (8 ≤ src), depth := c.sr.depth + 1 } ∧
            (t.core st).fetch.pc = some (((if tgt = 2 then c.sr.hVbase.toNat else c.sr.sVbase.toNat) + (if src < 8 then 0x0C0 else 0x080)) % 2 ^ 64) ∧
            (t.core st).order = [] ∧ (t.core st).wc = [] ∧ (t.core st).arch = c.arch ∧
            t.pads = (s.putFrame st c.sr.depth (s.resumePoint st) c.sr.status 0x40 src 0 (decide (tgt = 2))).pads)))

/-- R4, R6 and R38-R40: a write row whose page answers and admits the requester writes the named register, every field by its own rule and
with what that write does, and answers OK; a row that names a field writes the register back with that field alone changed. -/
def Obligations.PageWriteRows : Prop :=
  ∀ (w : Who) (s : State) (st : Stop) (h : Fin 8) (p : Fin 5) (n : Nat) (v : Word) (b : Bool),
    let bit := if b then 1 else 0
    (isTile st = true → ∀ r ∈ [
        (Instr.lecComplete w st n, pgLec st, 0x118, n % 256), (.lecDoorbell w st n, pgLec st, 0x120, n % 256),
        (.lecWdogKick w st, pgLec st, 0x1B0, 0), (.l2Lock w st (v.setWidth 16), pgL2 st, 0x100, v.toNat % 65536),
        (.sliceDrain w st v, pgSlice st, 0x100, v.toNat ||| 0x10000), (.padCopyGo w st v, pgPad st, 0x120, v.toNat ||| 0x10000),
        (.tliftPreqWrite w st v, pgTlift st, 0x100, v.toNat), (.forceT3 w st v, pgTlift st, 0x118, v.toNat)],
      s.pageOpen w r.2.1 → exec r.1 s = .next (s.wrote w r.2.1 r.2.2.1 r.2.2.2)) ∧
    (isTile st = true → ∀ k : Fin 4, s.pageOpen w (pgLec st) →
      exec (.lecPendWrite w st k v) s = .next (s.wrote w (pgLec st) (0x140 + 8 * k) v.toNat)) ∧
    (isTile st = true → ∀ r ∈ [
        (Instr.groomEn w st b, pgCore st, 0x118, (F.CORE_TIME_CTL_GROOM_EN, bit)), (.checkEn w st b, pgCore st, 0x118, (F.CORE_TIME_CTL_CHECK_EN, bit)),
        (.rinkFlush w st, pgCore st, 0x130, (F.CORE_FLOW_CTL_RINK_FLUSH, 1)), (.predFlush w st, pgCore st, 0x130, (F.CORE_FLOW_CTL_PRED_FLUSH, 1)),
        (.tlbFlush w st, pgCore st, 0x160, (F.CORE_MMU_CTL_TLB_FLUSH, 1)), (.l2RangeGo w st, pgL2 st, 0x128, (F.L2_RANGE_CTL_GO, 1)),
        (.l2RangeAbort w st, pgL2 st, 0x128, (F.L2_RANGE_CTL_ABORT, 1))],
      s.pageOpen w r.2.1 → exec r.1 s = .next (s.wroteMod w r.2.1 r.2.2.1 [(r.2.2.2.1, 0, r.2.2.2.2)])) ∧
    (∀ r ∈ [(Instr.ntmapWrite w n v, pgNtmap, n, v.toNat), (.mmioWindowWrite w h p n v, pgPort h p, n, v.toNat),
        (.pmapCopyWrite w n v, if 0x900 ≤ n then pgKeys else pgPmap, n, v.toNat), (.meshSealedWrite w v, pgMesh, 0x110, v.toNat),
        (.liftChronoWrite w v, pgLift, 0x1E0, v.toNat), (.hdmExtNextCommit w h v, pgHdm h, 0x308, v.toNat ||| 2 ^ 63),
        (.epMbxResult w h n, pgEp h, 0x900, n % 2 ^ 32 * 2 ^ 32), (.epConOutWrite w h (v.setWidth 8), pgEp h, 0x908, v.toNat % 256),
        (.ksGenerate w n h, pgKeys, 0xB00, n % 256 + h.val * 2 ^ 8 + 2 ^ 12 + 2 ^ 16)],
      r.2.2.1 % 8 = 0 → s.pageOpen w r.2.1 → exec r.1 s = .next (s.wrote w r.2.1 r.2.2.1 r.2.2.2)) ∧
    (∀ (e : Fin 256) (ni : NiId) (c : Fin 16) (j : Fin 8) (y : Fin 2), ∀ r ∈ [
        (Instr.bremapEntWrite w e v, pgBremap, 0x100 + 8 * e.val, v.toNat), (.hdmDecCtlWrite w h j v, pgHdm h, 0x110 + 0x40 * j.val, v.toNat),
        (.niRouteWrite w ni y st v, pgNi ni, 0x400 + 8 * (192 * y.val + st.val), v.toNat), (.niClose w ni (v.setWidth 4), pgNi ni, 0x100, v.toNat % 16),
        (.liftPstateWrite w c v, pgLift, 0x100 + 8 * c.val, v.toNat)],
      s.pageOpen w r.2.1 → exec r.1 s = .next (s.wrote w r.2.1 r.2.2.1 r.2.2.2)) ∧
    (∀ (g : PageRef) (c : Fin 48) (e : Fin 128), ∀ r ∈ [
        (Instr.pageEnableSet w g, pageNo g.stop g.slot, 0x018, [(F.PAGE_CTL_ENABLE, 0, 1)]),
        (.pageEnableClear w g, pageNo g.stop g.slot, 0x018, [(F.PAGE_CTL_ENABLE, 0, 0)]),
        (.irtUnmask w h p e, pgPort h p, 0x800 + 8 * e.val, [(F.PORT_IRT_MASKED, 0, 0)]), (.trainGo w h, pgNmc h, 0x100, [(F.NMC_CTL_TRAIN_GO, 0, 1)]),
        (.nmcCalendarEn w c b, pgCh c, 0x130, [(F.NMC_CAL_CTL_EN, 0, bit)]), (.meshEpochSwitch w, pgMesh, 0x100, [(F.MESH_EPOCH_SWITCH, 0, 1)]),
        (.routerDrain w st b, pgRouter st, 0x100, [(F.ROUTER_CTL_DRAIN, 0, bit)]), (.routerCalEn w st b, pgRouter st, 0x118, [(F.ROUTER_CAL_CTL_EN, 0, bit)]),
        (.meshLost w, pgMesh, 0x120, [(F.MESH_LOST_GO, 0, 1)]), (.bmeClear w h p, pgPort h p, 0x100, [(F.PORT_CTL_BME, 0, 0)]),
        (.winCommit w h, pgEp h, 0x108, [(F.EP_CTL_WIN_COMMIT, 0, 1)]), (.pmapInv w, pgPmap, 0x100, [(F.PMAP_CTL_INV, 0, 1)]),
        (.ksClear w n, pgKeys, 0xB00, [(F.KS_CMD_SLOT, 0, n), (F.KS_CMD_CMD, 0, 2), (F.KS_CMD_GO, 0, 1)]),
        (.ksUnwrap w n, pgKeys, 0xB00, [(F.KS_CMD_SLOT, 0, n), (F.KS_CMD_CMD, 0, 3), (F.KS_CMD_GO, 0, 1)]),
        (.tdClr w n, pgPmu n, 0x100, [(F.PMU_CTL_TD_CLR, 0, 1)])],
      s.pageOpen w r.2.1 → exec r.1 s = .next (s.wroteMod w r.2.1 r.2.2.1 r.2.2.2)) ∧
    (∀ (m : Nat), s.pageOpen w pgRas →
      exec (.swap w n m) s = .next (s.wrote w pgRas 0x128 (m % 256 + n % 256 * 2 ^ 8 + 2 ^ 63)).rasAdvance ∧
      exec (.swapCold w n m) s = .next (s.wrote w pgRas 0x128 (m % 256 + n % 256 * 2 ^ 8 + 2 ^ 60 + 2 ^ 63)).rasAdvance ∧
      exec (.retireSlice w m) s =
        .next (s.wroteMod w pgRas 0x128 [(F.RAS_OP_STOP, 0, m), (F.RAS_OP_OP, 0, 2), (F.RAS_OP_GO, 0, 1)]).rasAdvance) ∧
    (∀ g : PageRef, s.pageOpen w (pageNo g.stop g.slot) → exec (.pageErrInj w g v) s = .next (s.wrote w (pageNo g.stop g.slot) 0x038 v.toNat))

/-- R4 and R6: what a register write leaves in each field of a block register, by the field's access: RO and WO fields keep their value;
an RW field takes the written bits; an RWL field does so unless the page is locked, and an RWP field only from the Patrol; a discarded
change sets LOCKED_WR or NOT_PATROL, and a write that changes nothing is no forbidden change. A code or bound that a register table
has written as another counts as that other. R17: no field of the tile map's page is written but by the Patrol. R32, R34, R38, R39,
R40 and R44: what an access to control space by physical stop comes to before it reaches a register: UNMAPPED at no stop, DENIED for a
tile page to anyone but the Patrol, PAGE_ERROR where there is no such page, CLOSED where the page does not answer, DENIED with its
error bit where the page does not admit the requester, and PAGE_ERROR with SIZE for a wrong size, place or kind. -/
def Obligations.PageAccessRules : Prop :=
  (∀ (s : State) (w : Who) (pg off v j : Nat) (f : Fld) (i : Nat), (f, i) ∈ fieldsAt pg off → j < f.rep →
      let n := i * f.rep + j
      let new := s.fldNorm pg f n (bitsOf v (f.lo + f.rs * j) f.w)
      let t := s.fldsWrite w pg off v
      (pg = pgTmap → w.patrol = false → f.ty = .rw ∨ f.ty = .rwl ∨ f.ty = .rwp → new ≠ s.fldView pg f n →
        t.get pg f n = s.get pg f n ∧ t.flag pg F.PAGE_ERR_NOT_PATROL = true) ∧
      (0x100 ≤ off →
      (f.ty = .rw ∨ f.ty = .rwl ∨ f.ty = .rwp → new = s.fldView pg f n → t.get pg f n = s.get pg f n) ∧
      (f.ty = .rw → new ≠ s.fldView pg f n → s.fldAct pg f n new v = .store → t.get pg f n = new) ∧
      (f.ty = .rwl → new ≠ s.fldView pg f n → s.fldAct pg f n new v = .store →
        (s.flag pg F.PAGE_CTL_LOCK = false → t.get pg f n = new) ∧
        (s.flag pg F.PAGE_CTL_LOCK = true → t.get pg f n = s.get pg f n ∧ t.flag pg F.PAGE_ERR_LOCKED_WR = true)) ∧
      (f.ty = .rwp → new ≠ s.fldView pg f n → s.fldAct pg f n new v = .store →
        (w.patrol = true → t.get pg f n = new) ∧
        (w.patrol = false → t.get pg f n = s.get pg f n ∧ t.flag pg F.PAGE_ERR_NOT_PATROL = true)))) ∧
  ((∀ (w : Who) (pa : Nat) (k : PgKind) (v : Word) (s : State), ∃ t, exec (.registerWrite w pa k v) s = .next t ∧
      (s.live = true → inCtlStop pa = false → inCtlLt pa = false → t = s.answer .unmapped 0) ∧
      (s.live = true → inCtlStop pa = false → inCtlLt pa = true → s.niLtStop w.ni.val (pa / 2 ^ 20 % 256) = none → t = s.answer .unmapped 0) ∧
      (∀ st, s.live = true → inCtlStop pa = false → inCtlLt pa = true → s.niLtStop w.ni.val (pa / 2 ^ 20 % 256) = some st → k = .single true 8 →
        pa % 8 = 0 → pa / 2 ^ 12 % 256 < 10 → s.pageOpen w (pageNo st (pa / 2 ^ 12 % 256)) →
        (pageType st (pa / 2 ^ 12 % 256)).isSome = true → t = s.wrote w (pageNo st (pa / 2 ^ 12 % 256)) (pa % 4096) v.toNat)) ∧
    (∀ (w : Who) (pa : Nat) (k : PgKind) (v : Word) (s : State), s.live = true → inCtlStop pa = true →
      let hi := pa / 2 ^ 20 % 256
      let slot := pa / 2 ^ 12 % 256
      let pg := pageNo hi slot
      let c := Instr.registerWrite w pa k v
      let wr := match k with | .single b _ => b | .line => false | .vector => false | _ => true
      (192 ≤ hi → exec c s = .next (s.answer .unmapped 0)) ∧
      (hi < 192 → isTile hi = true → w.patrol = false → exec c s = .next (s.answer .denied 0)) ∧
      (hi < 192 → (isTile hi = false ∨ w.patrol = true) →
        (pageType hi slot = none → exec c s = .next (s.answer .pageError 0)) ∧
        ((pageType hi slot).isSome = true → s.pageClosed w pg = true → exec c s = .next (s.answer .closed 0)) ∧
        ((pageType hi slot).isSome = true → s.pageClosed w pg = false →
          (s.pageAdmits w pg wr = false → exec c s = .next ((s.raiseErr pg 3).answer .denied 0) ∧
            (s.raiseErr pg 3).flag pg F.PAGE_ERR_DENIED = true) ∧
          (s.pageAdmits w pg wr = true →
            (match k with | .single _ 8 => pa % 8 ≠ 0 | _ => True) → exec c s = .next ((s.raiseErr pg 0).answer .pageError 0) ∧
              (s.raiseErr pg 0).flag pg F.PAGE_ERR_SIZE = true) ∧
          (s.pageAdmits w pg wr = true → k = .single true 8 → pa % 8 = 0 → exec c s = .next (s.wrote w pg (pa % 4096) v.toNat)))) ∧
      (s.pageAdmits w pg wr = true ↔ w.patrol = true ∨ s.get pg F.PAGE_OWNER_PLOCK 0 = 0 ∧
        (w.piste = s.get pg F.PAGE_OWNER_PISTE 0 ∨ s.get pg F.PAGE_OWNER_ALL_READ 0 = 1 ∧ wr = false))))

/-- R36 and R37: setting ENABLE of a stopped block makes it ENABLED; clearing it on a block of a type whose ENABLE is fixed is discarded
with LOCKED_WR; a busy block whose command comes at its type's stop point is no longer ENABLED or BUSY, and stays BUSY before that
point; an injected error bit sets its PAGE_ERR bit; none of this is for anyone but the Patrol on the tile map's page. -/
def Obligations.PageEnable : Prop :=
  ∀ (w : Who) (g : PageRef) (v : Word) (s : State),
    let pg := pageNo g.stop g.slot
    let st := pg / 256
    let stops : Bool := match pageTypeNo pg with
      | some .core => !s.coreBound st
      | some .l2 => (s.cachesOut st true).gateIdle st 1
      | some .slice => (s.slice st).txs.isEmpty
      | some .pmu => (tfind s.splits pg).isNone
      | some .nmc => (List.range 6).all fun c => (s.chan (6 * (nmcAt st).getD 0 + c)).queue.isEmpty && (s.chan (6 * (nmcAt st).getD 0 + c)).waiting.isEmpty
      | some .nmcCh => (s.chan ((nmcAt st).getD 0 * 6 + pg % 256 - 1)).queue.isEmpty && (s.chan ((nmcAt st).getD 0 * 6 + pg % 256 - 1)).waiting.isEmpty
      | _ => true
    (∃ t, exec (.blockStopped g) s = .next t ∧
      (s.live = true → s.flag pg F.PAGE_STAT_BUSY = false → t = s) ∧
      (s.live = true → s.flag pg F.PAGE_STAT_BUSY = true → (t.flag pg F.PAGE_STAT_BUSY = false ↔ stops = true) ∧
        (stops = true → t.flag pg F.PAGE_STAT_ENABLED = false) ∧
        (pageTypeNo pg = some .pad ∨ pageTypeNo pg = some .spot → t.pads = s.pads ∧ t.sram = s.sram))) ∧
    (s.pageOpen w pg → pg = pgTmap → w.patrol = false →
      (∃ t, exec (.pageErrInj w g v) s = .next t ∧ t = s.answer .ok 0) ∧
      (s.get pg F.PAGE_CTL_ENABLE 0 = 1 → ∃ t, exec (.pageEnableClear w g) s = .next t ∧
        t.get pg F.PAGE_CTL_ENABLE 0 = 1 ∧ t.flag pg F.PAGE_ERR_NOT_PATROL = true)) ∧
    (s.pageOpen w pg → (pg = pgTmap → w.patrol = true) →
    (s.flag pg F.PAGE_CTL_LOCK = false → s.get pg F.PAGE_CTL_ENABLE 0 = 0 → ∃ t, exec (.pageEnableSet w g) s = .next t ∧
      t.flag pg F.PAGE_CTL_ENABLE = true ∧ t.flag pg F.PAGE_STAT_ENABLED = true ∧ t.flag pg F.PAGE_STAT_BUSY = false ∧
      t.respStatus = .ok ∧ (pageTypeNo pg = some .pad → t.get pg F.PAD_STAT_ZEROING 0 = 1) ∧ t.pads = s.pads ∧ t.sram = s.sram) ∧
    (s.flag pg F.PAGE_CTL_LOCK = false → s.flag pg F.PAGE_CTL_ENABLE = true →
      ((pageTypeNo pg).map PageType.fixedEnable) = some true → ∃ t, exec (.pageEnableClear w g) s = .next t ∧
        t.flag pg F.PAGE_CTL_ENABLE = true ∧ t.flag pg F.PAGE_ERR_LOCKED_WR = true ∧ t.get pg F.PAGE_STAT_ENABLED 0 = s.get pg F.PAGE_STAT_ENABLED 0) ∧
    (v = 4#64 → ∃ t, exec (.pageErrInj w g v) s = .next t ∧ t.flag pg F.PAGE_ERR_NOT_PATROL = true ∧ t.respStatus = .ok))

/-- R109, R173 and R344: GROOM_EN, CHECK_EN, RINK_FLUSH, PRED_FLUSH and TLB_FLUSH of a running core wait for its next commit, which
applies them all and squashes everything younger. -/
def Obligations.CoreControlWrites : Prop :=
  ∀ (w : Who) (st : Stop) (v : Bool) (s : State), isTile st = true → s.pageOpen w (pgCore st) →
    let c := s.core st
    let pg := pgCore st
    (s.flag pg F.CORE_TIME_CTL_GROOM_EN = !v → ∃ t, exec (.groomEn w st v) s = .next t ∧ t.flag pg F.CORE_TIME_CTL_GROOM_EN = v ∧
      (t.core st).pctl.groom = some v ∧ (t.core st).groomed = c.groomed ∧ (t.core st).arch = c.arch) ∧
    (s.flag pg F.CORE_TIME_CTL_CHECK_EN = !v → ∃ t, exec (.checkEn w st v) s = .next t ∧ t.flag pg F.CORE_TIME_CTL_CHECK_EN = v ∧
      (t.core st).pctl.check = some v ∧ (t.core st).checking = c.checking ∧ (t.core st).arch = c.arch) ∧
    (∃ t, exec (.rinkFlush w st) s = .next t ∧ (t.core st).pctl.rinkFlush = true ∧ (t.core st).pctl.predFlush = c.pctl.predFlush ∧
      (t.core st).rink = c.rink) ∧
    (∃ t, exec (.predFlush w st) s = .next t ∧ (t.core st).pctl.predFlush = true ∧ (t.core st).pctl.rinkFlush = c.pctl.rinkFlush ∧
      (t.core st).pred = c.pred) ∧
    (c.running = true → ∃ t, exec (.tlbFlush w st) s = .next t ∧ (t.core st).pctl.tlbFlush = true ∧ (t.core st).dtlb = c.dtlb) ∧
    (∀ k rest, c.order = k :: rest → rest.contains k = false → (c.sta k).st = .closed → c.stopped = false → (c.sta k).acts = [] → (c.sta k).hasDevS = false →
      c.pctl ≠ PendCtl.none → ∃ t, exec (.carveCommit st) s = .next t ∧ (t.core st).pctl = PendCtl.none ∧ (t.core st).order = [] ∧
        (t.core st).groomed = c.pctl.groom.getD c.groomed ∧ (t.core st).checking = c.pctl.check.getD c.checking ∧
        (c.pctl.rinkFlush = true → (t.core st).rink.cap = [] ∧ (t.core st).rink.streaming = false) ∧
        (c.pctl.predFlush = true → (t.core st).pred = Pred.empty) ∧
        (c.pctl.tlbFlush = true → (t.core st).itlb = [] ∧ (t.core st).dtlb = [] ∧ (t.core st).l2tlb = [] ∧ (t.core st).wcache = []))

/-- R297, R298, R302, R305 and R310: a claim pushes the presented source whose target the reader reaches and returns it, and clears an
edge source; a completion pops the top of the active stack, and one of a source that is not active is counted; a doorbell sets its
pending bit or BADEVT; a kick zeroes the watchdog. -/
def Obligations.EventControllerPage : Prop :=
  ∀ (w : Who) (st : Stop) (s : State) (lvl n : Nat), isTile st = true → s.pageOpen w (pgLec st) →
    let l := s.lec st
    let pg := pgLec st
    (w.patrol = true ∧ lvl = 2 ∨ w.patrol = false ∧ w.ni.val = st.val ∧ lvl = w.lvl) →
    (∀ src tgt, s.lecPresent st = some (src, tgt) → tgt ≤ lvl → src < 256 → ∃ t, exec (.lecClaim w st) s = .next t ∧
      t.respStatus = .ok ∧ t.respValue = wd (256 + src) ∧ (t.lec st).act = l.act ++ [(src, tgt)] ∧
      (¬ (8 ≤ src ∧ src ≤ 12) → bitOf (t.get pg F.LEC_PEND_PEND (src / 64)) (src % 64) = false) ∧ t.core st = s.core st) ∧
    (s.lecPresent st = none ∨ (∃ src tgt, s.lecPresent st = some (src, tgt) ∧ lvl < tgt) → exec (.lecClaim w st) s = .next (s.answer .ok 0)) ∧
    (∀ rest src tgt, l.act = rest ++ [(src, tgt)] → rest.any (fun a => a.1 = src) = false → tgt ≤ lvl → src < 256 →
      ∃ t, exec (.lecComplete w st src) s = .next t ∧ (t.lec st).act = rest ∧ t.respStatus = .ok) ∧
    (l.act.any (fun a => a.1 = n % 256) = false → ∃ t, exec (.lecComplete w st n) s = .next t ∧ (t.lec st).act = l.act ∧
      t.get pg F.LEC_STRAY_COUNT 0 = min (s.get pg F.LEC_STRAY_COUNT 0 + 1) (2 ^ 32 - 1)) ∧
    (16 ≤ n % 256 → ∃ t, exec (.lecDoorbell w st n) s = .next t ∧ bitOf (t.get pg F.LEC_PEND_PEND (n % 256 / 64)) (n % 64) = true ∧
      t.respStatus = .ok) ∧
    (n % 256 < 16 → ∃ t, exec (.lecDoorbell w st n) s = .next t ∧ t.flag pg F.LEC_STAT_BADEVT = true) ∧
    (∀ (k : Fin 4) (v : Word), ∃ t, exec (.lecPendWrite w st k v) s = .next t ∧
      t.get pg F.LEC_PEND_PEND k = if k = 0 then v.toNat &&& (2 ^ 64 - 1 - 0xDF00) else v.toNat) ∧
    (∃ t, exec (.lecWdogKick w st) s = .next t ∧ (t.lec st).wcount = 0 ∧ (t.lec st).wfired = false ∧ (t.lec st).act = l.act)

/-- R358, R369, R371, R411 and R427: GO of an engine that is idle starts it with the programmed run, one of no line being over at once,
and a busy one rejects it; ABORT marks the run; a WAYMASK of at most 12 ways is taken, its new ways to be emptied, and one of more is
rejected; TRAIN_GO trains an enabled NMC. -/
def Obligations.EngineStarts : Prop :=
  ∀ (w : Who) (st : Stop) (v : Word) (s : State), isTile st = true →
    let pg := pgL2 st
    (s.pageOpen w pg →
      (s.flag pg F.L2_RANGE_STAT_BUSY = false → s.get pg F.L2_RANGE_LEN_LINES 0 = 0 → ∃ t, exec (.l2RangeGo w st) s = .next t ∧
        t.flag pg F.L2_RANGE_STAT_BUSY = false ∧ t.flag pg F.L2_RANGE_STAT_DONE = true ∧ (t.cache st).range = none) ∧
      (s.flag pg F.L2_RANGE_STAT_BUSY = false → s.get pg F.L2_RANGE_LEN_LINES 0 ≠ 0 → ∃ t, exec (.l2RangeGo w st) s = .next t ∧
        t.flag pg F.L2_RANGE_STAT_BUSY = true ∧ t.get pg F.L2_RANGE_STAT_DONE_LINES 0 = 0 ∧ ∃ r : RangeRun, (t.cache st).range = some r ∧
        r.base = s.get pg F.L2_RANGE_BASE_PA 0 ∧ r.len = s.get pg F.L2_RANGE_LEN_LINES 0 ∧ r.done = 0 ∧ r.abort = false ∧ r.sent ≤ 32) ∧
      (s.flag pg F.L2_RANGE_STAT_BUSY = true → ∃ t, exec (.l2RangeGo w st) s = .next t ∧ t.flag pg F.L2_RANGE_STAT_REJECT = true ∧
        (t.cache st).range = (s.cache st).range) ∧
      (∃ t, exec (.l2RangeAbort w st) s = .next t ∧ (t.cache st).range = (s.cache st).range.map fun r => { r with abort := true }) ∧
      (∀ mask : BitVec 16, mask.toNat ≠ s.get pg F.L2_LOCK_WAYMASK 0 →
        let wide := 12 < ((List.range 16).filter fun b => mask.getLsbD b).length
        (¬ wide → s.flag pg F.L2_LOCK_STAT_BUSY = false → ∃ t, exec (.l2Lock w st mask) s = .next t ∧ t.get pg F.L2_LOCK_WAYMASK 0 = mask.toNat ∧
          (∀ b < 16, mask.getLsbD b = true → bitOf (s.get pg F.L2_LOCK_WAYMASK 0) b = false →
            t.flag pg F.L2_LOCK_STAT_BUSY = true ∧ bitOf (t.cache st).emptying b = true)) ∧
        (wide ∨ s.flag pg F.L2_LOCK_STAT_BUSY = true → ∃ t, exec (.l2Lock w st mask) s = .next t ∧
          t.flag pg F.L2_LOCK_STAT_REJECT = true ∧ t.get pg F.L2_LOCK_WAYMASK 0 = s.get pg F.L2_LOCK_WAYMASK 0))) ∧
    (w.patrol = true → s.pageOpen w (pgSlice st) →
      (s.flag (pgSlice st) F.SLICE_DRAIN_STAT_BUSY = false → ∃ t, exec (.sliceDrain w st v) s = .next t ∧
        t.flag (pgSlice st) F.SLICE_DRAIN_STAT_BUSY = true ∧
        (t.slice st).drain = some (v.toNat % 256, v.toNat / 2 ^ 8 % 16, bitOf v.toNat 15) ∧ (t.slice st).llc = (s.slice st).llc) ∧
      (s.flag (pgSlice st) F.SLICE_DRAIN_STAT_BUSY = true → ∃ t, exec (.sliceDrain w st v) s = .next t ∧
        t.flag (pgSlice st) F.SLICE_DRAIN_STAT_REJECT = true ∧ (t.slice st).drain = (s.slice st).drain)) ∧
    (w.patrol = true → s.pageOpen w (pgPad st) →
      (s.flag (pgPad st) F.PAD_COPY_STAT_BUSY = false → ∃ t, exec (.padCopyGo w st v) s = .next t ∧
        t.flag (pgPad st) F.PAD_COPY_STAT_BUSY = true ∧ t.get (pgPad st) F.PAD_COPY_STAT_BLOCKS 0 = 0 ∧ t.pads = s.pads ∧
        (t.get (pgPad st) F.PAD_COPY_CTL_OP 0 = 0 → t.flag (pgPad st) F.PAD_STAT_ZEROING = true)) ∧
      (s.flag (pgPad st) F.PAD_COPY_STAT_BUSY = true → ∃ t, exec (.padCopyGo w st v) s = .next t ∧
        t.flag (pgPad st) F.PAD_COPY_STAT_REJECT = true)) ∧
    (∀ n : Fin 8, w.patrol = true → s.pageOpen w (pgNmc n) → s.flag (pgNmc n) F.PAGE_STAT_ENABLED = true →
      ∃ t, exec (.trainGo w n) s = .next t ∧ t.flag (pgNmc n) F.NMC_STAT_TRAINING = true)

/-- R357, R432, R487, R500, R506, R536 and R599: a Patrol write of a register that every NI copies joins the updates that all 194 NIs have
still to apply, and its PENDING count rises by 194; so does the command of an epoch switch, a piste-map invalidation, a sealed mask or
a lost link, an epoch switch being refused while the last one is pending. R470, R480, R488 and R492: a Patrol write of a route entry
that is VALID with a malformed route is written invalid with BADROUTE; DRAIN moves a router between LIVE and DRAINING; a calendar with
a slot valid in both classes is rejected; NI_CLOSE starts closing the open gates it names and opens the others. -/
def Obligations.CopiedAndMeshWrites : Prop :=
  (∀ (w : Who) (v : Word) (s : State), w.patrol = true →
      let sent (t : State) (act : TblAct) : Prop := ∃ m : TblMsg, t.tblLog = s.tblLog ++ [m] ∧ m.act = act ∧ m.waiting = List.range 194
      let more (t : State) (pg : Nat) (f : Fld) : Prop := t.get pg f 0 = (s.get pg f 0 + 194) % 2 ^ f.w
      (∀ b : Fin 256, s.pageOpen w pgBremap → ∃ t, exec (.bremapEntWrite w b v) s = .next t ∧ sent t .copy ∧ more t pgBremap F.BREMAP_STAT_PENDING) ∧
      (∀ off, off ∈ [0x100, 0x108, 0x110, 0x118, 0x120, 0x128, 0x130, 0x138, 0x140] → s.pageOpen w pgNtmap →
        ∃ t, exec (.ntmapWrite w off v) s = .next t ∧ sent t .copy ∧ more t pgNtmap F.NTMAP_STAT_PENDING) ∧
      (∀ (h : Fin 8) (p : Fin 5) (off : Nat), off ∈ [0x118, 0x120, 0x128] → s.pageOpen w (pgPort h p) →
        ∃ t, exec (.mmioWindowWrite w h p off v) s = .next t ∧ sent t .copy ∧ more t (pgHub h) F.HUB_STAT_PENDING) ∧
      (∀ n < 148, s.pageOpen w pgPmap → ∃ t, exec (.pmapCopyWrite w (0x400 + 8 * n) v) s = .next t ∧ sent t .copy ∧ more t pgPmap F.PMAP_STAT_PENDING) ∧
      (s.pageOpen w pgPmap → ∃ t, exec (.pmapInv w) s = .next t ∧ sent t .pmapInv ∧ more t pgPmap F.PMAP_STAT_PENDING) ∧
      (s.pageOpen w pgMesh →
        (∃ t, exec (.meshSealedWrite w v) s = .next t ∧ sent t (.sealed v.toNat)) ∧
        (∃ t, exec (.meshLost w) s = .next t ∧ sent t (.lost (s.get pgMesh F.MESH_LOST_STOP 0 % 2 ^ 8) (s.get pgMesh F.MESH_LOST_PORT 0 % 2 ^ 3))) ∧
        (s.get pgMesh F.MESH_EPOCH_STAT_SWITCH_PEND 0 = 0 → s.get pgMesh F.MESH_EPOCH_STAT_DRAIN_PEND 0 = 0 →
          ∃ t, exec (.meshEpochSwitch w) s = .next t ∧ sent t .switch ∧ t.get pgMesh F.MESH_EPOCH_STAT_SWITCH_PEND 0 = 194 ∧
            t.get pgMesh F.MESH_EPOCH_STAT_DRAIN_PEND 0 = 194) ∧
        (s.get pgMesh F.MESH_EPOCH_STAT_SWITCH_PEND 0 ≠ 0 → ∃ t, exec (.meshEpochSwitch w) s = .next t ∧ t.tblLog = s.tblLog ∧
          t.flag pgMesh F.MESH_EPOCH_STAT_REJECT = true))) ∧
  (∀ (w : Who) (r n : Stop) (ni : NiId) (e : Fin 2) (v : Word) (s : State), w.patrol = true →
      let i := 192 * e.val + n.val
      (s.pageOpen w (pgNi ni) →
        (v.getLsbD 63 = true → routeOk (v.toNat % 2 ^ 40) = false → ∃ t, exec (.niRouteWrite w ni e n v) s = .next t ∧
          t.flag (pgNi ni) F.NI_ROUTE_VALID i = false ∧ t.flag (pgNi ni) F.NI_STAT_BADROUTE = true) ∧
        (v.getLsbD 63 = true → routeOk (v.toNat % 2 ^ 40) = true → ∃ t, exec (.niRouteWrite w ni e n v) s = .next t ∧
          t.flag (pgNi ni) F.NI_ROUTE_VALID i = true ∧ t.get (pgNi ni) F.NI_ROUTE_ROUTE i = v.toNat % 2 ^ 40) ∧
        (∀ (c : BitVec 4) (g : Fin 4), (s.ni ni).gates.length = 4 → ∃ t, exec (.niClose w ni c) s = .next t ∧
          t.gate ni g = (if c.getLsbD g then (if s.gate ni g = .open_ then .closing else s.gate ni g) else .open_))) ∧
      (s.pageOpen w (pgRouter r) →
        (s.get (pgRouter r) F.ROUTER_CTL_DRAIN 0 = 0 → ∃ t, exec (.routerDrain w r true) s = .next t ∧
          t.flag (pgRouter r) F.ROUTER_CTL_DRAIN = true ∧ t.get (pgRouter r) F.ROUTER_STAT_STATE 0 = 1) ∧
        (∃ t, exec (.routerDrain w r false) s = .next t ∧ t.flag (pgRouter r) F.ROUTER_CTL_DRAIN = false ∧
          t.get (pgRouter r) F.ROUTER_STAT_STATE 0 = 0) ∧
        (s.get (pgRouter r) F.ROUTER_CAL_CTL_EN 0 = 0 →
          (s.calClash (pgRouter r) = true → ∃ t, exec (.routerCalEn w r true) s = .next t ∧
            t.flag (pgRouter r) F.ROUTER_CAL_CTL_REJECT = true ∧ t.get (pgRouter r) F.ROUTER_CAL_CTL_EN 0 = 0) ∧
          (s.calClash (pgRouter r) = false → ∃ t, exec (.routerCalEn w r true) s = .next t ∧ t.flag (pgRouter r) F.ROUTER_CAL_CTL_EN = true))))

/-- R506, R512, R522, R523, R529, R539, R549, R556, R558, R575 and R618: what the remaining Patrol writes of the key store, the Lift, the
endpoint face, the ports and the counters do. -/
def Obligations.PatrolPageWrites : Prop :=
  ∀ (w : Who) (s : State) (h : Fin 8) (p : Fin 5) (slot kind n : Nat) (v : Word), w.patrol = true →
    (s.pageOpen w pgKeys → slot < 256 →
      (s.flag pgKeys F.KS_SLOT_LOCK slot = false → 1 ≤ kind → kind ≤ 5 → ∃ t, exec (.ksGenerate w slot kind) s = .next t ∧
        t.get pgKeys F.KS_SLOT_KIND slot = kind ∧ t.get pgKeys F.KS_SLOT_ERASED slot = 0 ∧
        tget t.sys.keyGen slot 0 = tget s.sys.keyGen slot 0 + 1) ∧
      (s.flag pgKeys F.KS_SLOT_LOCK slot = false → ∃ t, exec (.ksClear w slot) s = .next t ∧ t.get pgKeys F.KS_SLOT_KIND slot = 0 ∧
        tget t.sys.keyGen slot 0 = tget s.sys.keyGen slot 0 + 1) ∧
      (s.flag pgKeys F.KS_SLOT_LOCK slot = true → ∃ t, exec (.ksClear w slot) s = .next t ∧ t.flag pgKeys F.KS_STAT_ERR = true ∧
        t.get pgKeys F.KS_SLOT_KIND slot = s.get pgKeys F.KS_SLOT_KIND slot ∧ t.sys.keyGen = s.sys.keyGen) ∧
      (tfind s.sys.wrapped s.tuckNewest = none → ∃ t, exec (.ksUnwrap w slot) s = .next t ∧ t.flag pgKeys F.KS_STAT_ERR = true)) ∧
    (s.pageOpen w pgLift →
      (s.chrono ≤ v.toNat → ∃ t, exec (.liftChronoWrite w v) s = .next t ∧ t.chrono = v.toNat) ∧
      (v.toNat < s.chrono → ∃ t, exec (.liftChronoWrite w v) s = .next t ∧ t.chrono = s.chrono ∧ t.flag pgLift F.LIFT_STAT_REJECT = true)) ∧
    (s.pageOpen w (pgEp h) →
      ((s.hub h).ep.busy = true → n < 2 ^ 32 → ∃ t, exec (.epMbxResult w h n) s = .next t ∧ t.get (pgEp h) F.EP_MBX_STAT_RESULT 0 = n ∧
        (t.hub h).ep.busy = false ∧ (t.hub h).ep.done = true) ∧
      ((s.hub h).ep.busy = false → ∃ t, exec (.epMbxResult w h n) s = .next t ∧
        t.get (pgEp h) F.EP_MBX_STAT_RESULT 0 = s.get (pgEp h) F.EP_MBX_STAT_RESULT 0 % 2 ^ 32 ∧ (t.hub h).ep.done = (s.hub h).ep.done) ∧
      (∀ b : Byte, ∃ t, exec (.epConOutWrite w h b) s = .next t ∧ (t.hub h).ep.conOut = some b) ∧
      (s.flag (pgEp h) F.EP_CON_IN_VALID = true → ∃ t, exec (.epConInRead w h) s = .next t ∧ t.flag (pgEp h) F.EP_CON_IN_VALID = false ∧
        t.respStatus = .ok ∧ t.respValue.toNat / 2 ^ 8 % 2 ^ 8 = s.get (pgEp h) F.EP_CON_IN 0 % 2 ^ 8 ∧ t.respValue.getLsbD 16 = true) ∧
      (s.flag (pgEp h) F.EP_STAT_COMMIT_BUSY = false → s.oldOut h = 0 → s.get (pgEp h) F.EP_STAT_ACTIVE 0 < 2 →
        ∃ t, exec (.winCommit w h) s = .next t ∧ t.flag (pgEp h) F.EP_STAT_COMMIT_BUSY = true ∧
          t.get (pgEp h) F.EP_STAT_ACTIVE 0 = 1 - s.get (pgEp h) F.EP_STAT_ACTIVE 0) ∧
      (s.flag (pgEp h) F.EP_STAT_COMMIT_BUSY = true → ∃ t, exec (.winCommit w h) s = .next t ∧ t.flag (pgEp h) F.EP_STAT_REJECT = true ∧
        t.get (pgEp h) F.EP_STAT_ACTIVE 0 = s.get (pgEp h) F.EP_STAT_ACTIVE 0)) ∧
    (s.pageOpen w (pgPort h p) → ∃ t, exec (.bmeClear w h p) s = .next t ∧ t.flag (pgPort h p) F.PORT_CTL_BME = false) ∧
    (s.pageOpen w (pgHdm h) → (s.hub h).switching = false → ∃ t, exec (.hdmExtNextCommit w h v) s = .next t ∧ (t.hub h).switching = true ∧
      (t.hub h).ext = [] ∧ t.get (pgHdm h) F.HDM_EXT_STAT_BASE 0 = v.toNat / 2 ^ 16 % 2 ^ 36 ∧ t.get (pgHdm h) F.HDM_EXT_STAT_COUNT 0 = v.toNat % 2 ^ 13) ∧
    (n < 192 → s.pageOpen w (pgPmu n) → ∃ t, exec (.tdClr w n) s = .next t ∧ (∀ c < 5, t.get (pgPmu n) F.PMU_TD_COUNT c = 0) ∧
      t.get (pgPmu n) F.PMU_FIX_COUNT 3 = s.get (pgPmu n) F.PMU_TD_PEND_SLOTS 0 % 2 ^ 48)

/-- R71, R196, R201, R346 and R352: STORE_DRAIN of a committed store that nothing older holds back: a pad store's bytes are in the pad; a
store to a line the tile owns is in the caches, modified, and both halves of a split one at once; lines the tile does not own are
asked for with ownership and the store stays; a write-combined store is in its buffer; any other goes to its target as a write of its
bytes; maintenance to memory goes to the home. R196, R199, R218 and R221: a WC buffer that timed out is written out with its bytes; an
acknowledged DEV-S store leaves its queue; a refused entry leaves it too, and with an NI's refusal the other half of a split store
that has not gone, the first refusal with its kind and address in CORE_MEMERR and source 2 pending, a later one as OVF only. -/
def Obligations.CommittedStores : Prop :=
  (∀ (st : Stop) (id : Nat) (e : Sq) (s : State), s.drains st id e →
      let line := e.pa / 64
      let c := s.core st
      let es := if e.split then c.sq.filter fun x => x.stn.isNone && !x.sent && (x.id = id || (x.split && x.id = e.mate && x.mate = id)) else [e]
      let cached (x : Sq) : Bool := (x.atype = 0 || x.atype = 1) && !inPadWin x.pa
      let ready : Prop := ∀ x ∈ es, cached x = true → s.l2On st = true ∧ (s.cache st).owns (x.pa / 64) = true
      (e.release = true ∨ e.atype = 3 → c.wcOut = []) →
      (e.kind = .store → e.atype = 5 → ready → s.padServing st = true → s.get (pgTlift st) F.TLIFT_TSTAT_STATE 0 = 0 →
        ∃ t, exec (.storeDrain st id) s = .next t ∧
          t.pads = Mem.wrs s.pads (padKey st (e.pa % 2 ^ 18)) e.data ∧ ∀ x ∈ (t.core st).sq, x.id ≠ id) ∧
      (e.kind = .store → cached e = true → ready → (∀ x ∈ es, cached x = true) →
        c.sq.any (fun x => e.split && x.split && x.id = e.mate && x.mate = id && x.sent) = false → ∃ t, exec (.storeDrain st id) s = .next t ∧
        (∀ x ∈ es, ∀ y ∈ (t.core st).sq, y.id ≠ x.id) ∧ t.pads = s.pads ∧
        (e.split = false → ∃ d p q p', (s.cache st).look line = some (d, p, q) ∧
          (t.cache st).look line = some (linePut d (e.pa % 64) e.data, p', .m))) ∧
      (e.kind = .store → s.l2On st = true → (∃ x ∈ es, cached x = true ∧ (s.cache st).owns (x.pa / 64) = false) →
        ∃ t, exec (.storeDrain st id) s = .next t ∧ (t.core st).sq = c.sq ∧ (t.cache st).l1 = (s.cache st).l1 ∧
          (∀ x ∈ es, cached x = true → (s.cache st).owns (x.pa / 64) = false → ((t.cache st).fills.any fun f => f.line = x.pa / 64) = true) ∧
          (e.split = false → ((s.cache st).fills.any fun f => f.line = line) = false →
            ∃ r, s.asked t st r ∧ r.op = 0x02 ∧ r.pa = line * 64 ∧ r.org = .fill line)) ∧
      (e.kind = .store → e.atype = 2 → e.data.length < 64 → ready → c.holds.any (fun h => h.stores && h.wc && h.sqs.contains id) = false →
        ∃ t b, exec (.storeDrain st id) s = .next t ∧ (t.core st).wc = [b] ∧
        b.line = line ∧ (∀ i < e.data.length, tfind b.bytes (e.pa % 64 + i) = e.data[i]?) ∧ ∀ x ∈ (t.core st).sq, x.id ≠ id) ∧
      (e.kind = .store → e.split = false → e.atype = 3 ∨ e.atype = 4 ∨ ((e.atype = 0 ∨ e.atype = 1) ∧ inPadWin e.pa = true) →
        ∃ t r, exec (.storeDrain st id) s = .next t ∧ s.asked t st r ∧ r.op = 0x04 ∧ r.pa = line * 64 ∧ r.be = beMask (e.pa % 64) e.data.length ∧
          r.data = linePut 0 (e.pa % 64) e.data ∧ r.org = .store id ∧ ∃ x ∈ (t.core st).sq, x.id = id ∧ x.sent = true) ∧
      (∀ act : Nat, e.kind = .maint act 1 → act < 3 → ((s.cache st).fills.any fun f => f.line = line) = false →
        ∃ t r, exec (.storeDrain st id) s = .next t ∧ s.asked t st r ∧ r.op = 0x08 ∧ r.pa = line * 64 ∧ r.be = act ∧ r.org = .maint id ∧
          ∃ x ∈ (t.core st).sq, x.id = id ∧ x.sent = true)) ∧
  (∀ (st : Stop) (id line : Nat) (b : WcBuf) (e : Sq) (r : Resp) (s : State), s.live = true → isTile st = true →
      ((s.core st).wc.find? (fun x => x.line = line) = some b → ∃ t q, exec (.wcBufferTimeout st line) s = .next t ∧
        (∀ x ∈ (t.core st).wc, x.line ≠ line) ∧ s.asked t st q ∧ q.op = 0x04 ∧ q.pa = line * 64 ∧ q.org = .wcBuf line ∧
        (t.core st).sq = (s.core st).sq) ∧
      ((s.core st).sq.find? (fun x => x.id = id && x.stn.isNone && x.sent && x.atype = 3) = some e → e.rsp = some 0 →
        ∃ t, exec (.devSAcknowledge st id) s = .next t ∧ (t.core st).sq = (s.core st).sq.filter fun x => x.id ≠ id) ∧
      (let kind := e.rsp.getD r.kind
       (s.core st).sq.find? (fun x => x.id = id && x.stn.isNone && x.sent) = some e → kind ≠ 0 →
        ∃ t, exec (.storeRefusal st id r) s = .next t ∧
          (t.core st).sq = ((s.core st).sq.filter fun x => x.id ≠ id).filter (fun x => !(e.split && kind ≤ 2) ||
            !(x.split && x.id = e.mate && x.mate = e.id && x.stn.isNone && !x.sent)) ∧
          (s.flag (pgCore st) F.CORE_MEMERR_VALID = false → t.flag (pgCore st) F.CORE_MEMERR_VALID = true ∧
            t.get (pgCore st) F.CORE_MEMERR_KIND 0 = kind % 2 ^ F.CORE_MEMERR_KIND.w ∧ t.srcPending st 2 = true ∧
            (e.kind = .store → t.get (pgCore st) F.CORE_MEMERR_ADDR_PA 0 = e.pa % 2 ^ F.CORE_MEMERR_ADDR_PA.w)) ∧
          (s.flag (pgCore st) F.CORE_MEMERR_VALID = true → t.flag (pgCore st) F.CORE_MEMERR_OVF = true ∧
            t.get (pgCore st) F.CORE_MEMERR_KIND 0 = s.get (pgCore st) F.CORE_MEMERR_KIND 0)))

/-- R288-R290: the oldest committed ring, once the stores before it have drained, makes the mailbox busy with its sequence number and is
sent to the Patrol with the tile, piste and level, or is lost where it is busy; a completion with that number writes the response
words to the pad, the result, DONE and source 13; a call not completed ends with TIMEOUT. R303, R309, R310 and R586: a timer whose
comparator the chrono has reached, and the first watchdog stage, ask the Lift to wake a sleeping tile that would present something;
the second stage is reported once for each kick; an entry of the active stack that was not completed in time is removed and reported.
The numbers 3 and 4 of the notices are the model's (assumption 62). -/
def Obligations.MailboxAndTimers : Prop :=
  (∀ (st : Stop) (seq x result : Nat) (after : List Nat) (rest : List (Nat × Nat × List Nat)) (rsp : List Word) (s : State),
      s.live = true → isTile st = true →
      ((s.core st).rings = (seq, x, after) :: rest → (after.any fun i => (s.core st).sq.any fun e => e.id = i) = false →
        ∃ t, exec (.pmbRing st) s = .next t ∧ (t.core st).rings = rest ∧ (t.core st).sr.pmbBusy = true ∧
          ((s.core st).sr.pmbBusy = true → (t.core st).sr.pmbLost = true ∧ (t.core st).sr.pmbSeq = (s.core st).sr.pmbSeq) ∧
          ((s.core st).sr.pmbBusy = false → (t.core st).sr.pmbSeq = seq ∧ (t.core st).sr.pmbDone = false ∧
            (t.core st).sr.pmbTimeout = false ∧ (t.core st).sr.pmbLost = false ∧
            ∀ lt, s.stopLt st = some lt → t.sys.calls = s.sys.calls ++ [⟨some lt, 0, Fin.ofNat 64 (s.tilePiste st), x, seq, []⟩])) ∧
      ((s.core st).sr.pmbBusy = true → (s.core st).sr.pmbSeq = seq → s.padBusy st = false → ∃ t, exec (.pmbCompletion st seq result rsp) s = .next t ∧
        (t.core st).sr.pmbBusy = false ∧ (t.core st).sr.pmbDone = true ∧ (t.core st).sr.pmbResult = result % 2 ^ 32 ∧ t.srcPending st 13 = true ∧
        ∀ i < 16, ∀ w, rsp[i]? = some w → t.padWord st (0x3880 + 8 * i) = w.toNat) ∧
      ((s.core st).sr.pmbBusy = true → (s.core st).sr.pmbSeq ≠ seq ∨ s.padBusy st = true → exec (.pmbCompletion st seq result rsp) s = .next s) ∧
      ((s.core st).sr.pmbBusy = true → s.frozen = false → ∃ t, exec (.pmbTimeout st) s = .next t ∧ (t.core st).sr.pmbBusy = false ∧
        (t.core st).sr.pmbDone = true ∧ (t.core st).sr.pmbTimeout = true ∧ t.srcPending st 13 = true ∧ t.pads = s.pads)) ∧
  (∀ (st : Stop) (n : Fin 4) (a : Fin 2) (s : State), s.live = true → isTile st = true →
      let asleep := s.get (pgTlift st) F.TLIFT_TSTAT_STATE 0 ≠ 0 ∧ (s.lecPresent st).isSome = true
      let enabled := s.get (pgLec st) F.LEC_TMR_CTL_EN 0 / 2 ^ n.val % 2 = 1 ∧ s.get (pgLec st) F.LEC_TMR_CMP_CMP n ≤ s.chrono
      (∃ t, exec (.lecTimer st n) s = .next t ∧ t.regs = s.regs ∧ (enabled → asleep → st.val ∈ t.wakeQ) ∧ (¬ enabled → t = s)) ∧
      (∃ t, exec (.watchdogFirstStage st) s = .next t ∧ t.regs = s.regs ∧
        (s.flag (pgLec st) F.LEC_WDOG_CTL_EN = true → s.wdogPeriod st ≤ (s.lec st).wcount → asleep → st.val ∈ t.wakeQ) ∧
        (s.flag (pgLec st) F.LEC_WDOG_CTL_EN = false → t = s)) ∧
      (∃ t, exec (.watchdogExpiry st) s = .next t ∧
        (s.flag (pgLec st) F.LEC_WDOG_CTL_EN = true → 2 * s.wdogPeriod st ≤ (s.lec st).wcount → (s.lec st).wfired = false →
          (t.lec st).wfired = true ∧ t.rasSeq = s.rasSeq + 1 ∧
          tget t.sys.notices (s.tilePiste st) [] = tget s.sys.notices (s.tilePiste st) [] ++ [3] ∧
          (s.flag pgRas F.RAS_CTL_WDOG_STOP = true → t.flag (pgTlift st) F.TLIFT_TCTL_FORCE_T3 = true)) ∧
        ((s.lec st).wfired = true → t = s)) ∧
      (s.frozen = false → a.val < (s.lec st).act.length → ∃ t, exec (.claimWatchdog st a) s = .next t ∧
        (t.lec st).act = (s.lec st).act.eraseIdx a ∧ t.rasSeq = s.rasSeq + 1 ∧
        tget t.sys.notices (s.tilePiste st) [] = tget s.sys.notices (s.tilePiste st) [] ++ [4]))

/-- R323, R325, R327, R330 and R333: a walk that has its table lines ends with its entry in the TLB and its pointers in the walker caches,
asks for the line it lacks, ends with its fault, or takes note of the A or D bits to set, which AD_UPDATE sends as one
compare-and-swap under the key of the entry's leaf; a walk of a PREF that meets either is dropped. -/
def Obligations.WalkResult : Prop :=
  ∀ (st : Stop) (k : Nat) (w : Walk) (s : State), s.live = true → isTile st = true → (s.core st).walks[k]? = some w →
    let on := s.flag (pgCore st) F.CORE_MMU_CTL_WCACHE_EN
    let r := walkAll s st (s.core st) on (s.tableRd st w) w.va w.acc w.lvl
    (w.res = .running → w.ad = none → w.wait = none → s.l2On st = true → w.spec = false →
      (∀ e ws, r = .ent e ws → ∃ t, exec (.pageWalk st k) s = .next t ∧ t.regs = s.regs ∧
        t.core st = { ((s.core st).tlbFill (w.acc = 0) e).wcFill on ws with walks := (s.core st).walks.eraseIdx k }) ∧
      (∀ line key, r = .wait line key → ∃ t, exec (.pageWalk st k) s = .next t ∧
        (t.core st).walks[k]? = some { w with wait := some line, bad := none } ∧ ((t.cache st).fills.any fun f => f.line = line) = true) ∧
      (∀ cause info, r = .fault cause info → w.pref = false → ∃ t, exec (.pageWalk st k) s = .next t ∧ (t.core st).walks[k]? =
        some { w with res := .fault cause info w.va, ad := none, adSent := if cause = 0x14 then false else w.adSent }) ∧
      (∀ addr old new key, r = .setBits addr old new key → w.pref = false → ∃ t, exec (.pageWalk st k) s = .next t ∧
        (t.core st).walks[k]? = some { w with ad := some (addr, old, new, key) }) ∧
      ((∃ cause info, r = .fault cause info) ∨ (∃ addr old new key, r = .setBits addr old new key) → w.pref = true →
        ∃ t, exec (.pageWalk st k) s = .next t ∧ (t.core st).walks[k]? = some { w with res := .dropped } ∧ t.rasSeq = s.rasSeq)) ∧
    (∀ addr old new key, w.ad = some (addr, old, new, key) → w.adSent = false → ∃ t r, exec (.adUpdate st k) s = .next t ∧ s.asked t st r ∧
      r.op = 0x07 ∧ r.pa = addr ∧ r.be = beMask (addr % 64) 8 ∧ r.key = key ∧
      r.data = BitVec.ofNat 512 (new % 2 ^ 64 + old % 2 ^ 64 * 2 ^ 128 + 32 * 2 ^ 256) ∧
      (t.core st).walks[k]? = some { w with adSent := true })

/-- R340 and R341: a piste-wide invalidation goes, once the stores committed before it have been performed, to every other tile of the
gate's tile list, and is complete at once where there is none; a received one is acknowledged once the carves are squashed and the
stores committed before that have been performed. -/
def Obligations.InvalidationsTravel : Prop :=
  ∀ (st : Stop) (x : XinvOut) (y : XinvIn) (rest : List XinvIn) (s : State), s.live = true → isTile st = true → (s.core st).wcDone = true →
    (((s.core st).xinvOut.find? fun z => !z.sent) = some x → (x.after.any fun i => (s.core st).sq.any fun e => e.id = i) = false →
      let tiles := (List.range 160).filter fun lt =>
        bitOf (s.get (pgNi st) F.NI_GATE_TILES_TILES (lt / 64)) (lt % 64) && s.stopLt st ≠ some lt
      let stops := tiles.filterMap fun lt => s.niLtStop st lt
      ∃ t, exec (.pisteInvalidationSend st) s = .next t ∧
        ((t.ni st).reqs.drop (s.ni st).reqs.length).map (fun r => (r.op, r.dst, r.org)) =
          stops.map (fun d => (0x23, some (Fin.ofNat 194 d), Org.xinv x.id)) ∧
        ∀ z ∈ (t.core st).xinvOut, z.id = x.id → z.sent = true ∧ z.acks = stops.length ∧ 0 < stops.length) ∧
    ((s.core st).xinvIn = y :: rest → (∀ z ∈ (s.core st).xinvIn, z.squashed = true) →
      (y.after.any fun i => (s.core st).sq.any fun e => e.id = i) = false → y.req.src.val ≠ st →
      ∃ t, exec (.invalidationAck st) s = .next t ∧ (t.core st).xinvIn = rest ∧ s.offered t st (y.req.reply 0x31 .ok 0 0))

/-- R346, R350-R353 and R466: a request in service at its home slice, for a line no L2 holds. With the line in the LLC a read answers its
data, a shared read listing the requester as a sharer, a read for ownership as the owner with the LLC's copy gone; an atomic answers
the old line and leaves the new one; a write merges its bytes, or replaces the line. Without the line the memory target is asked.
MAINT goes on to the memory target. The data of a write-back by the line's owner go into the LLC, those of anyone else go nowhere. -/
def Obligations.HomeServes : Prop :=
  (∀ (n : NiId) (f : Flit) (s : State), s.homeTakes n f → f.op = 5 →
    let line := f.addr / 64
    let owner := ∃ d, tfind (s.slice n).dir line = some d ∧ d.excl = true ∧ d.sharers = [f.src.val] ∧ d.coarse = none
    (f.be = 0 ∨ tfind (s.slice n).dir line = none → ∃ t, exec (.wb n f) s = .next t ∧ s.offered t n (f.reply 0x31 .ok 0 0) ∧
      (t.slice n).llc = (s.slice n).llc) ∧
    (f.be ≠ 0 → f.noalloc = false → owner → ∃ t m, exec (.wb n f) s = .next t ∧ s.offered t n (f.reply 0x31 .ok 0 0) ∧
      tfind (t.slice n).llc line = some m ∧ m.data = f.payload ∧ m.dirty = true) ∧
    (owner → f.pin = false → ∃ t, exec (.wb n f) s = .next t ∧ tfind (t.slice n).dir line = none)) ∧
  (∀ (n : NiId) (f : Flit) (l : LlcLine) (s : State), s.homeServes n f →
    let line := f.addr / 64
    let inLlc := tfind (s.slice n).llc line = some l
    let p := if l.poison then 255 else 0
    (inLlc → f.op = 1 → f.be ≠ 0 → ∃ t d, exec (.rdS n f) s = .next t ∧ s.offered t n (f.reply 0x30 .ok l.data p) ∧
      tfind (t.slice n).dir line = some d ∧ d.excl = false ∧ d.sharers = [f.src.val] ∧ (t.slice n).txs = (s.slice n).txs) ∧
    (inLlc → f.op = 2 → ∃ t d, exec (.rdO n f) s = .next t ∧ s.offered t n { f.reply 0x30 .ok l.data p with pin := l.dirty } ∧
      tfind (t.slice n).dir line = some d ∧ d.excl = true ∧ d.sharers = [f.src.val] ∧ tfind (t.slice n).llc line = none) ∧
    (inLlc → f.op = 3 → ∃ t, exec (.rdNc n f) s = .next t ∧ s.offered t n (f.reply 0x30 .ok l.data p) ∧
      (t.slice n).dir = (s.slice n).dir ∧ (t.slice n).llc = (s.slice n).llc) ∧
    (inLlc → f.op = 7 → l.poison = false → f.noalloc = false → ∃ t m, exec (.atom n f) s = .next t ∧
      s.offered t n (f.reply 0x30 .ok l.data 0) ∧ tfind (t.slice n).llc line = some m ∧ m.data = farAtomic f l.data ∧ m.dirty = true) ∧
    (inLlc → f.noalloc = false → (f.op = 4 → ∃ t m, exec (.wrNc n f) s = .next t ∧ s.offered t n (f.reply 0x31 .ok 0 0) ∧
        tfind (t.slice n).llc line = some m ∧ m.dirty = true ∧ m.data = (if f.be = 2 ^ 64 - 1 then f.payload else lineMerge l.data f.payload f.be)) ∧
      (f.op = 6 → f.be = 2 ^ 64 - 1 → ∃ t m, exec (.wrLine n f) s = .next t ∧ s.offered t n (f.reply 0x31 .ok 0 0) ∧
        tfind (t.slice n).llc line = some m ∧ m.dirty = true ∧ m.data = f.payload)) ∧
    (tfind (s.slice n).llc line = none → ∀ x ∈ [(1, Instr.rdS n f), (2, .rdO n f), (3, .rdNc n f), (7, .atom n f)], f.op = x.1 →
      ∃ t r id, exec x.2 s = .next t ∧ s.asked t n r ∧ r.op = 1 ∧ r.pa = line * 64 ∧ r.org = .mem id ∧ (t.slice n).dir = (s.slice n).dir) ∧
    (tfind (s.slice n).llc line = none → f.op = 8 → ∃ t r id, exec (.maint n f) s = .next t ∧ s.asked t n r ∧ r.op = 8 ∧
      r.be = f.be % 4 ∧ r.pa = line * 64 ∧ r.org = .mem id))

/-- R293, R341, R351, R352 and R373: a snoop takes the line from the L2 of a tile, or leaves it shared, and answers a dirty copy's data;
an event makes its source pending; a broadcast invalidation removes what it names and is kept until it can be acknowledged, or is
acknowledged at once by a tile in T2 or T3. -/
def Obligations.TileAnswersMesh : Prop :=
  ∀ (n : NiId) (f : Flit) (l : L2Line) (s : State), s.live = true → isTile n = true → f ∈ (s.ni n).serv → f.src ≠ n →
    let line := f.addr / 64
    let held := s.l2On n = true ∧ ((s.cache n).fills.any fun x => x.line = line && x.granted) = false ∧ tfind (s.cache n).l1 line = none ∧ tfind (s.cache n).l2 line = some l
    let p := if l.poison then 255 else 0
    (f.op = 0x10 → held → ∃ t, exec (.snpInv n f) s = .next t ∧ tfind (t.cache n).l2 line = none ∧
      (l.st = .m → s.offered t n { f.reply 0x30 .ok l.data p with noalloc := l.nt, key := l.key }) ∧ (l.st ≠ .m → s.offered t n (f.reply 0x31 .ok 0 0))) ∧
    (f.op = 0x11 → held → ∃ t, exec (.snpSh n f) s = .next t ∧ tfind (t.cache n).l2 line = some { l with st := .s } ∧
      (l.st = .m → s.offered t n { f.reply 0x30 .ok l.data p with pin := true, noalloc := l.nt, key := l.key }) ∧
      (l.st ≠ .m → s.offered t n { f.reply 0x31 .ok 0 0 with pin := true })) ∧
    (f.op = 0x22 → ∃ t, exec (.evt n f) s = .next t ∧ s.offered t n (f.reply 0x31 .ok 0 0) ∧
      (f.be < 8 ∨ f.be = 13 ∨ (16 ≤ f.be ∧ f.be < 256) → t.srcPending n f.be = true) ∧
      ((8 ≤ f.be ∧ f.be ≤ 12) ∨ f.be = 14 ∨ f.be = 15 → t.flag (pgLec n) F.LEC_STAT_BADEVT = true ∧
        t.get (pgLec n) F.LEC_PEND_PEND 0 = s.get (pgLec n) F.LEC_PEND_PEND 0)) ∧
    (f.op = 0x23 → ∃ t, exec (.xinv n f) s = .next t ∧
      (2 ≤ s.get (pgTlift n) F.TLIFT_TSTAT_STATE 0 → s.offered t n (f.reply 0x31 .ok 0 0) ∧ (t.core n).xinvIn = (s.core n).xinvIn) ∧
      (s.get (pgTlift n) F.TLIFT_TSTAT_STATE 0 < 2 → (∃ x ∈ (t.core n).xinvIn, x.req = f) ∧
        (t.core n).dtlb = ((s.core n).xinvApply (xinvOf f.payload)).dtlb ∧ (t.core n).itlb = ((s.core n).xinvApply (xinvOf f.payload)).itlb))

/-- R466, R477 and R486: a response ends the transaction whose tag and epoch it carries: a Patrol access gets its status and data, a store
its place in the queue back. A ticket flit gives the standing ticket back, or a shared one to the target's pool. A shared ticket that
stayed unused goes back to its target. R357, R476, R485-R487, R490, R492, R536 and R585: an NI sends a request that it has checked
once it holds a ticket and a route; a target takes a waiting request into service and gives the ticket back, or answers CLOSED where
its gate is closed; a copy update is applied and acknowledged, but an emptied map cache only once what it admitted is answered; an NI
reports its old epoch drained; a closing gate whose block is idle closes; a transaction that timed out is reported and sent once more
on a new route. -/
def Obligations.ResponsesTicketsAndNis : Prop :=
  (∀ (n : NiId) (f : Flit) (o : Outst) (rest : List Outst) (s : State), s.live = true →
      let answered := f ∈ (s.ni n).rsp ∧ takeFirst (fun x : Outst => x.tag = f.tag && x.epoch = f.epoch) (s.ni n).outst = some (o, rest) ∧
        (rest.any fun x => x.tag = f.tag && x.epoch = f.epoch) = false
      (answered → f.op = 0x30 → o.req.org = .patrol → ∃ t, exec (.data n f) s = .next t ∧ (t.ni n).outst = rest ∧
        t.respStatus = f.status ∧ t.respValue = wd (leNat (lineGet f.payload (o.req.pa % 64) 8))) ∧
      (answered → f.op = 0x31 → o.req.org = .patrol → ∃ t, exec (.ack n f) s = .next t ∧ (t.ni n).outst = rest ∧ t.respStatus = f.status) ∧
      (∀ (sq : Nat) (e : Sq), answered → f.op = 0x31 → o.req.org = .store sq → f.status = .ok →
        ((s.core n).sq.find? fun x => x.id = sq) = some e → e.atype ≠ 3 →
        ∃ t, exec (.ack n f) s = .next t ∧ (t.ni n).outst = rest ∧ (t.core n).sq = (s.core n).sq.filter fun x => x.id ≠ sq) ∧
      (f ∈ (s.ni n).rsp → f.op = 0x32 → f.tkt = true → bitOf f.be 2 = false → (f.src, f.be % 4) ∈ (s.ni n).spent →
        ∃ t, exec (.tkt n f) s = .next t ∧ (t.ni n).spent.length + 1 = (s.ni n).spent.length ∧
          (t.ni n).shared = (s.ni n).shared ++ (if f.grant then [(f.src, f.be % 4)] else [])) ∧
      (f ∈ (s.ni n).rsp → f.op = 0x33 → (f.src, f.be % 4) ∈ (s.ni n).poolOut → ∃ t, exec (.tktRet n f) s = .next t ∧
        (t.ni n).poolOut.length + 1 = (s.ni n).poolOut.length ∧ (t.ni n).shared = (s.ni n).shared) ∧
      (∀ (tgt : NiId) (cls : Fin 4) (r : Nat), tgt ≠ n → (tgt, cls.val) ∈ (s.ni n).shared → s.routeTo n (s.ni n).epoch tgt = some r →
        ∃ t g, exec (.sharedTicketRelease n tgt cls) s = .next t ∧ (t.ni n).shared.length + 1 = (s.ni n).shared.length ∧
          s.offered t n g ∧ g.op = 0x33 ∧ g.dst = tgt ∧ g.be = cls)) ∧
  (∀ (n : NiId) (s : State), s.live = true →
      (∀ (q : Req) (t : NiId) (m sh : Bool) (r : Nat), (s.ni n).reqs = [q] → q.pair = none → s.niCheck n q = (s, .go t.val m) →
        s.ticketFor n (s.asPage n q) t.val = some sh → (s.ni n).outst.length < 512 → s.routeTo n (s.ni n).epoch t.val = some r → t ≠ n →
        ∃ u g, exec (.niRequestSend n) s = .next u ∧ (∀ x ∈ (u.ni n).reqs, (∃ a b, x.org = .trace a b) ∨ ∃ e, x.org = .event e) ∧
          s.offered u n g ∧ g.op = (s.asPage n q).op ∧ g.dst = t ∧ g.addr = q.pa ∧ g.payload = q.data ∧ g.tag = (s.ni n).freeTag ∧
          (u.ni n).outst = (s.ni n).outst ++ [⟨(s.ni n).freeTag, s.asPage n q, t, (s.ni n).epoch, false, sh, m, false, false, false⟩]) ∧
      (∀ (f : Flit) (rest : List Flit), (s.ni n).inq = f :: rest → f.src ≠ n → f.op ≠ 0x12 → f.op ≠ 0x20 → f.op ≠ 0x21 → ¬ (f.cls = 0 ∧ inCtl f.addr = true) →
        (s.gatePass n f = .open_ → s.canTake n f = true → ∃ t g, exec (.requestIntoService n) s = .next t ∧ (t.ni n).inq = rest ∧
          (t.ni n).serv = (s.ni n).serv ++ [f] ∧ s.offered t n g ∧ g.op = 0x32 ∧ g.tkt = true ∧ g.dst = f.src) ∧
        (s.gatePass n f = .closed → ∃ t g, exec (.requestIntoService n) s = .next t ∧ (t.ni n).inq = rest ∧
          (t.ni n).serv = (s.ni n).serv ∧ s.offered t n g ∧ g.op = 0x31 ∧ g.status = .closed)) ∧
      (∀ (m : TblMsg) (rest : List TblMsg), s.tblLog = m :: rest → m.waiting.contains n.val = true → (∀ a b, m.act ≠ .lost a b) →
        (m.act = .pmapInv → (s.ni n).outst.any (fun o => if (s.ni n).emptied then o.old else o.mapped) = false) → ∃ t, exec (.tbl n) s = .next t ∧
          t.tblLog = (({ m with waiting := m.waiting.filter (· ≠ n.val) } :: rest).filter fun x => !x.waiting.isEmpty) ∧
          (∀ k, m.act = .sealed k → t.get (pgNi n) F.NI_SEALED_MASK 0 = k % 2 ^ F.NI_SEALED_MASK.w) ∧
          (m.act = .switch → (t.ni n).epoch = !(s.ni n).epoch ∧ (t.ni n).drainDue = true) ∧
          (m.act = .pmapInv → (s.ni n).emptied = false → (t.ni n).pmapCached = [])) ∧
      (∀ (m : TblMsg) (rest : List TblMsg), s.tblLog = m :: rest → m.waiting.contains n.val = true → m.act = .pmapInv → (s.ni n).emptied = false →
        (s.ni n).outst.any (fun o => o.mapped) = true → ∃ t, exec (.tbl n) s = .next t ∧ t.tblLog = s.tblLog ∧ (t.ni n).pmapCached = [] ∧
          (t.ni n).emptied = true) ∧
      ((s.ni n).drainDue = true → (∀ o ∈ (s.ni n).outst, o.epoch = (s.ni n).epoch) → ∃ t, exec (.epochDrainReport n) s = .next t ∧
        (t.ni n).drainDue = false ∧
        t.get pgMesh F.MESH_EPOCH_STAT_DRAIN_PEND 0 = (s.get pgMesh F.MESH_EPOCH_STAT_DRAIN_PEND 0 - 1) % 2 ^ F.MESH_EPOCH_STAT_DRAIN_PEND.w) ∧
      (∀ g : Fin 4, s.gate n g = .closing → s.gateIdle n g = true → ∃ t, exec (.gateClosed n g) s = .next t ∧ t.gate n g = .closed ∧
        ∀ f ∈ (t.ni n).inq, gateOf f = some g.val → patrolPage f = true ∨ f.op = 0x23) ∧
      (∀ (tag : Nat) (o : Outst), s.frozen = false → ((s.ni n).outst.find? fun x => x.tag = tag && !x.onLink) = some o →
        (o.epoch ≠ (s.ni n).epoch → o.retried = false → o.req.op = 1 ∨ o.req.op = 2 ∨ o.req.op = 8 →
          (s.routeTo n (s.ni n).epoch o.tgt).isSome = true → ∃ t, exec (.niTransactionTimeout n tag) s = .next t ∧ t.rasSeq = s.rasSeq + 1 ∧
            { o with epoch := (s.ni n).epoch, retried := true } ∈ (t.ni n).outst ∧
            t.get (pgNi n) F.NI_RETRY_COUNT 0 = (s.get (pgNi n) F.NI_RETRY_COUNT 0 + 1) % 2 ^ F.NI_RETRY_COUNT.w) ∧
        (∀ sq, o.retried = true → o.req.org = .store sq → ∃ t, exec (.niTransactionTimeout n tag) s = .next t ∧ t.rasSeq = s.rasSeq + 1 ∧
          (t.ni n).outst = (s.ni n).outst.filter (fun x => !(x.tag = o.tag && x.epoch = o.epoch)) ∧
          ∀ e, ((s.core n).sq.find? fun x => x.id = sq) = some e → ∃ x ∈ (t.core n).sq, x.id = sq ∧ x.rsp = some 3)))

/-- R460-R463, R472, R474, R488 and R599: a router output sends the flit its rotation picks into the next router's input, one credit
spent, or to the NI at its stop; a freed entry's credit comes back; a draining router with nothing left is quiet; a failed wire is
replaced while spares last, and the third failure loses the link in both directions. -/
def Obligations.RouterMoves : Prop :=
  ∀ (r : Stop) (s : State), s.live = true →
    (∀ (o : Fin 6) (p : Nat) (f : Flit), (∀ m ∈ nisAt r, (s.ni m).outq = []) → s.absorbable r o = none →
      s.pickCal r o (tget (s.router r).cyc o 0 % 64) = none → s.pickOrd r o = some (p, f) →
      let d := nbr r o
      let g := f.leave r o
      ∃ t, exec (.routerForward r o) s = .next t ∧
        (o.val < 4 → s.routerState d ≠ 2 → (t.router r).port p = dropFlit f ((s.router r).port p) ∧
          (t.router d).port ((o.val + 2) % 4) = (s.router d).port ((o.val + 2) % 4) ++ [g] ∧
          tget (t.router r).used (o.val * 12 + g.vc) 0 = tget (s.router r).used (o.val * 12 + g.vc) 0 + 1) ∧
        (o.val = 4 → f.dst.val = r.val → opOk f.op = true → f.status ≠ .linkLost → f.cls ≠ 1 → (t.ni r).inq = (s.ni r).inq ++ [f])) ∧
    (∀ (o : Fin 6) (vc : Fin 12), let u := tget (s.router r).used (o.val * 12 + vc.val) 0
      o.val < 4 → (s.router (nbr r o)).occ ((o.val + 2) % 4) vc < u → ∃ t, exec (.creditReturn r o vc) s = .next t ∧
        tget (t.router r).used (o.val * 12 + vc.val) 0 = u - 1 ∧ ∀ q, (t.router r).port q = (s.router r).port q) ∧
    (s.routerState r = 1 → (s.router r).empty? = true → ∃ t, exec (.routerQuiet r) s = .next t ∧ t.routerState r = 2 ∧ t.routers = s.routers) ∧
    (∀ dir : Fin 4, dieLink r dir = true →
      (s.wiresLost r dir < 2 → ∃ t, exec (.wireSpare r dir) s = .next t ∧ t.wiresLost r dir = s.wiresLost r dir + 1 ∧
        t.rasSeq = s.rasSeq + 1 ∧ t.sys.lostLinks = s.sys.lostLinks) ∧
      (s.wiresLost r dir = 2 → ∃ t, exec (.linkLoss r dir) s = .next t ∧ (r.val, dir.val) ∈ t.sys.lostLinks ∧
        (nbr r dir, (dir.val + 2) % 4) ∈ t.sys.lostLinks ∧ t.rasSeq = s.rasSeq + 1))

/-- R358, R368-R371, R401-R403 and R620: a range engine that works on an L2 takes out the lines of its range that it was to take out, or
asks for a dirty one's write-back, and no others, and its run ends once it is owed no answer; newly locked ways end empty; a drain
waits for the transactions of its lanes, takes their lines out, and is done when the slice holds none; a zeroed pad reads zero
everywhere and no other pad changes; a copied pad equals its source, a destination that is being zeroed being waited for; a split
latch takes its counters and asks for its record's number. A pad copy and the emptying of ways act as one effect at their end
(assumption 28). -/
def Obligations.EnginesEnd : Prop :=
  ∀ (st : Stop) (s : State), s.live = true → isTile st = true →
    (∀ r : RangeRun, (s.cache st).range = some r → r.depth = 0 → r.abort = false → r.done < r.len →
      ((s.cache st).fills.any fun f => decide (r.base ≤ f.line) && decide (f.line < r.base + r.len)) = false →
      ∃ t, exec (.rangeEngineDone st) s = .next t ∧
        t.get (pgL2 st) F.L2_RANGE_STAT_DONE_LINES 0 = r.len % 2 ^ F.L2_RANGE_STAT_DONE_LINES.w ∧
        (r.act = 1 → ∀ line, r.base ≤ line → line < r.base + r.len → tfind (t.cache st).l2 line = none) ∧
        (r.act = 2 → ∀ line l, r.base ≤ line → line < r.base + r.len → tfind (s.cache st).l2 line = some l → tfind (s.cache st).l1 line = none →
          (l.st ≠ .m → tfind (t.cache st).l2 line = none) ∧ (l.st = .m → ∃ x, (t.cache st).range = some x ∧ line ∈ x.owed)) ∧
        (∀ line, line < r.base ∨ r.base + r.len ≤ line → tfind (t.cache st).l2 line = tfind (s.cache st).l2 line)) ∧
    (∀ r : RangeRun, (s.cache st).range = some r → ¬ (r.depth = 0 ∧ r.abort = false ∧ r.done < r.len) → r.owed = [] →
      r.abort = true ∨ r.depth = 0 ∨ r.sent = r.len → ∃ t, exec (.rangeEngineDone st) s = .next t ∧ (t.cache st).range = none ∧
        t.flag (pgL2 st) F.L2_RANGE_STAT_BUSY = false ∧ t.flag (pgL2 st) F.L2_RANGE_STAT_DONE = true ∧
        (r.abort = true → r.done < r.len → t.flag (pgL2 st) F.L2_RANGE_STAT_ABORTED = true)) ∧
    (s.flag (pgL2 st) F.L2_LOCK_STAT_BUSY = true → ∃ t, exec (.lockEmptyingDone st) s = .next t ∧
      t.flag (pgL2 st) F.L2_LOCK_STAT_BUSY = false ∧ ∀ e ∈ (t.cache st).l2, bitOf (s.cache st).emptying e.2.way = false) ∧
    (∀ all : Nat × Nat × Bool, (s.slice st).drain = some all →
      ((∃ t ∈ (s.slice st).txs, drainHit all t.bucket t.lane = true ∧ t.req.op ≠ opDrain) → exec (.sliceDrainDone st) s = .next s) ∧
      ((∀ t ∈ (s.slice st).txs, drainHit all t.bucket t.lane = false) →
        (∀ line l, tfind (s.slice st).llc line = some l → drainHit all l.bucket l.lane = true → l.dirty = false →
          tfind (s.slice st).dir line = none → (∀ t ∈ (s.slice st).txs, t.line ≠ line ∧ t.victim ≠ some line) →
          ∃ t, exec (.sliceDrainDone st) s = .next t ∧ (t.slice st).drain = some all ∧ tfind (t.slice st).llc line = none) ∧
        ((∀ e ∈ (s.slice st).llc, drainHit all e.2.bucket e.2.lane = false) → (∀ e ∈ (s.slice st).dir, drainHit all e.2.bucket e.2.lane = false) →
          s.memWbOut st = false → ∃ t, exec (.sliceDrainDone st) s = .next t ∧ (t.slice st).drain = none ∧
            t.flag (pgSlice st) F.SLICE_DRAIN_STAT_BUSY = false ∧ t.flag (pgSlice st) F.SLICE_DRAIN_STAT_DONE = true ∧
            (t.slice st).llc = (s.slice st).llc ∧ (t.slice st).dir = (s.slice st).dir))) ∧
    (s.flag (pgPad st) F.PAD_STAT_ZEROING = true → ∃ t, exec (.padZeroingDone st) s = .next t ∧
      t.flag (pgPad st) F.PAD_STAT_ZEROING = false ∧
      ∀ a, Mem.rd t.pads a = if a / 2 ^ 18 = st then 0#8 else Mem.rd s.pads a) ∧
    (let d := s.get (pgPad st) F.PAD_COPY_CTL_DEST 0
     s.flag (pgPad st) F.PAD_COPY_STAT_BUSY = true → s.get (pgPad st) F.PAD_COPY_CTL_OP 0 ≠ 0 → isTile d = true →
      s.flag (pgPad d) F.PAGE_STAT_ENABLED = true → s.padBusy d = true → exec (.padCopyDone st) s = .next s) ∧
    (s.memOk → s.flag (pgPad st) F.PAD_COPY_STAT_BUSY = true → (s.get (pgPad st) F.PAD_COPY_CTL_OP 0 = 0 ∨
      s.padBusy (s.get (pgPad st) F.PAD_COPY_CTL_DEST 0) = false) → ∃ t, exec (.padCopyDone st) s = .next t ∧
      t.flag (pgPad st) F.PAD_COPY_STAT_BUSY = false ∧ t.flag (pgPad st) F.PAD_COPY_STAT_DONE = true ∧
      (s.get (pgPad st) F.PAD_COPY_CTL_OP 0 = 0 → ∀ a, Mem.rd t.pads a = if a / 2 ^ 18 = st then 0#8 else Mem.rd s.pads a) ∧
      (let d := s.get (pgPad st) F.PAD_COPY_CTL_DEST 0
       s.get (pgPad st) F.PAD_COPY_CTL_OP 0 ≠ 0 → isTile d = true → d ≠ st →
        (s.padServing d = true → s.get (pgTlift d) F.TLIFT_TSTAT_STATE 0 ≠ 3 → ∀ a, Mem.rd t.pads a = if a / 2 ^ 18 = d then Mem.rd s.pads (st * 2 ^ 18 + a % 2 ^ 18) else Mem.rd s.pads a) ∧
        (s.padServing d = false ∨ s.get (pgTlift d) F.TLIFT_TSTAT_STATE 0 = 3 → t.pads = s.pads ∧ t.flag (pgPad st) F.PAD_COPY_STAT_ERR = true))) ∧
    (let pg := pgPmu st
     s.flag pg F.PMU_SPLIT_CTL_EN = true → s.flag pg F.PAGE_STAT_ENABLED = true →
      (tfind s.splits pg = none → s.sys.tuckFrozen = false → s.gate st 3 = .open_ → ∃ t r, exec (.splitLatch st) s = .next t ∧ s.asked t st r ∧
        r.op = 7 ∧ r.pa = s.get pg F.PMU_SPLIT_HEAD_PA 0 * 8 ∧ r.data = 1 ∧ t.flag pg F.PMU_SPLIT_STAT_BUSY = true ∧
        ∃ x, tfind t.splits pg = some x ∧ x.words = s.splitWords pg) ∧
      (tfind s.splits pg ≠ none → ∃ t, exec (.splitLatch st) s = .next t ∧ t.splits = s.splits ∧ t.nis = s.nis ∧
        (s.get pg F.PMU_SPLIT_STAT_MISSED 0 < 0xFFFF → t.get pg F.PMU_SPLIT_STAT_MISSED 0 = s.get pg F.PMU_SPLIT_STAT_MISSED 0 + 1)))

/-- R375-R377, R404, R405 and R434: a sweep reads sets and ways in order, and what it does with what it finds: a corrected error sets the
page's CE bit; data that cannot be corrected leave a clean line gone with CE and a dirty one poisoned with UCR, and a pad's or
channel's word poisoned with UCR; lost tags take the array out of service with FATAL. -/
def Obligations.SweepsHandleErrors : Prop :=
  ∀ (st : Stop) (c : Fin 48) (set way line : Nat) (s : State), s.live = true → isTile st = true →
    (let there := (s.cache st).l2.find? fun x => l2Set x.1 = set && x.2.way = way
     s.flag (pgL2 st) F.L2_SWEEP_EN = true → s.get (pgTlift st) F.TLIFT_TSTAT_STATE 0 < 2 → s.l2On st = true →
      (set * 16 + way ≠ (s.cache st).sweep → ∀ e, exec (.cacheSweepRead st false set way e) s = .next s) ∧
      (set * 16 + way = (s.cache st).sweep → (∀ x, there = some x → ((s.cache st).fills.any fun f => f.line = x.1) = false) →
        (∃ t, exec (.cacheSweepRead st false set way .corrected) s = .next t ∧ t.flag (pgL2 st) F.PAGE_ERR_CE = true ∧ (t.cache st).l2 = (s.cache st).l2 ∧
          (t.cache st).sweep = (set * 16 + way + 1) % 16384) ∧
        (∃ t, exec (.cacheSweepRead st false set way .tagFatal) s = .next t ∧ t.flag (pgL2 st) F.PAGE_ERR_FATAL = true ∧ (t.cache st).dead = true) ∧
        (∀ l : L2Line, there = some (line, l) → tfind (s.cache st).l1 line = none →
          ∃ t, exec (.cacheSweepRead st false set way .uncorrectable) s = .next t ∧
            (l.st = .m → t.flag (pgL2 st) F.PAGE_ERR_UCR = true ∧ tfind (t.cache st).l2 line = some { l with poison := true }) ∧
            (l.st ≠ .m → tfind (s.cache st).l2 line = some l → t.flag (pgL2 st) F.PAGE_ERR_CE = true ∧ tfind (t.cache st).l2 line = none)))) ∧
    (let there := (s.slice st).llc.find? fun x => llcSet x.1 = set && x.2.way = way
     s.flag (pgSlice st) F.SLICE_SWEEP_EN = true → s.sliceOn st = true →
      (set * 16 + way ≠ (s.slice st).sweep → ∀ e, exec (.cacheSweepRead st true set way e) s = .next s) ∧
      (set * 16 + way = (s.slice st).sweep → (∀ x, there = some x → ∀ t ∈ (s.slice st).txs, t.line ≠ x.1) →
        (∃ t, exec (.cacheSweepRead st true set way .corrected) s = .next t ∧ t.flag (pgSlice st) F.PAGE_ERR_CE = true) ∧
        (∀ l : LlcLine, there = some (line, l) → ∃ t, exec (.cacheSweepRead st true set way .uncorrectable) s = .next t ∧
          (l.dirty = true → t.flag (pgSlice st) F.PAGE_ERR_UCR = true ∧ tfind (t.slice st).llc line = some { l with poison := true }) ∧
          (l.dirty = false → t.flag (pgSlice st) F.PAGE_ERR_CE = true ∧ tfind (t.slice st).llc line = none)))) ∧
    (s.flag (pgPad st) F.PAD_SWEEP_EN = true → s.padServing st = true → s.get (pgTlift st) F.TLIFT_TSTAT_STATE 0 ≠ 3 →
      (∃ t, exec (.padSweepRead st .corrected) s = .next t ∧ t.flag (pgPad st) F.PAGE_ERR_CE = true ∧ t.flag (pgPad st) F.PAD_ERRLOG_VALID = true ∧
        t.pads = s.pads ∧ t.padPoison = s.padPoison) ∧
      (∃ t w, exec (.padSweepRead st .uncorrectable) s = .next t ∧ t.flag (pgPad st) F.PAGE_ERR_UCR = true ∧ t.pads = s.pads ∧
        w ∈ t.padPoison ∧ w / 2 = st * 2 ^ 14 + tget s.arbs (2 ^ 20 + st.val) 0)) ∧
    (s.chanServing c = true → s.rowsRun c = true → s.flag (pgCh c) F.NMC_CH_SWEEP_EN = true → let at_ := (s.chan c).sweep
      (∃ t, exec (.nmcSweepRead c .clean) s = .next t ∧ (t.chan c).sweep = (at_ + 1) % 62914560 ∧ t.regs = s.regs) ∧
      (∃ t, exec (.nmcSweepRead c .corrected) s = .next t ∧ t.flag (pgCh c) F.PAGE_ERR_CE = true ∧ t.near = s.near) ∧
      (∃ t, exec (.nmcSweepRead c .uncorrectable) s = .next t ∧ t.flag (pgCh c) F.PAGE_ERR_UCR = true ∧
        (t.nearMetaOf c at_).poison = true ∧ t.near = s.near))

/-- R416, R420, R421, R426 and R430: the request a channel's scheduler picks leaves the queue: a flat read answers the stored line under
its key, a whole write stores its line; with no key it is denied. A line that returns from the hub fills its frame and answers the
request that waits for it. Fallback is entered while requests wait. R422-R425, R427 and R431: an idle bank's row is closed; a refresh
closes the row of an idle bank and is postponed for a busy one, and an all-bank refresh of what was postponed closes every row; a
drawn or demanded RFM is issued to its bank when idle; zeroed segments read zero; training readies the channels it does not force OFF;
a calendar comes into force at its period's start, steps through its slots, and refreshes with every bank closed. The DQS oscillator
changes nothing that a register or a request can show. Bank timing is not modelled (assumption 9). -/
def Obligations.NearTierServesAndRefreshes : Prop :=
  (∀ (c : Fin 48) (q : NearReq) (s : State), s.live = true → q.f.src.val ≠ chanStop c →
      let slot := s.reqSlot (chanStop c) q.f
      let d := s.nearRead c q.line (s.keyOf slot)
      (s.chanServing c = true → s.flag (pgCh c) F.NMC_CAL_STAT_ACTIVE = false → s.nearPick c = some q → q.cache = false →
        ∃ t, exec (.nmcRequestIssue c) s = .next t ∧ (t.chan c).queue.length + 1 = (s.chan c).queue.length ∧
          (s.get pgKeys F.KS_SLOT_KIND slot = 0 → s.offered t (chanStop c) (q.f.reply 0x31 .denied 0 0) ∧ t.near = s.near) ∧
          (s.get pgKeys F.KS_SLOT_KIND slot ≠ 0 → q.f.op ≤ 3 →
            s.offered t (chanStop c) (q.f.reply 0x30 .ok d.1 (if d.2 then 255 else 0)) ∧ t.near = s.near) ∧
          (s.get pgKeys F.KS_SLOT_KIND slot ≠ 0 → 4 ≤ q.f.op → q.f.op ≤ 6 → q.f.be = 2 ^ 64 - 1 → s.offered t (chanStop c) (q.f.reply 0x31 .ok 0 0) ∧
            Mem.rds t.near (nearAddr c q.line) 64 = lineBytes q.f.payload ∧ (t.nearMetaOf c q.line).poison = (q.f.poison ≠ 0) ∧
            (t.nearMetaOf c q.line).key = s.keyOf slot)) ∧
      (∀ (data : Line) (poison : Bool) (rest : List NearReq),
        takeFirst (fun x : NearReq => x.line = q.line && x.cache && x.f.op ≤ 3) (s.chan c).waiting = some (q, rest) →
        ∃ t, exec (.nearCacheFill c q.line data poison) s = .next t ∧ (t.chan c).waiting = rest ∧
          s.offered t (chanStop c) (q.f.reply 0x30 .ok data (if poison then 255 else 0)) ∧
          t.nearMetaOf c q.line = ⟨q.tag, false, true, poison, s.keyOf 1⟩ ∧ Mem.rds t.near (nearAddr c q.line) 64 = lineBytes data) ∧
      (s.flag (pgCh c) F.NMC_CAL_STAT_ACTIVE = false → (s.chan c).queue ≠ [] → ∃ t, exec (.fallbackScheduling c) s = .next t ∧
        t.flag (pgCh c) F.NMC_CH_STAT_FALLBACK = true ∧ t.chans = s.chans)) ∧
  (∀ (c : Fin 48) (bank : Fin 16) (s : State), s.live = true →
      (s.bankBusy c bank = false → ∃ t, exec (.pageIdlePrecharge c bank) s = .next t ∧ tfind (t.chan c).rows bank.val = none ∧ t.near = s.near) ∧
      (s.rowsRun c = true →
        (∃ t, exec (.perBankRefresh c bank) s = .next t ∧ t.near = s.near ∧
          (s.bankBusy c bank = true → (t.chan c).postponed = (s.chan c).postponed + 1 ∧ (t.chan c).rows = (s.chan c).rows) ∧
          (s.bankBusy c bank = false → (t.chan c).postponed = (s.chan c).postponed ∧ tfind (t.chan c).rows bank.val = none)) ∧
        ((s.chan c).postponed ≠ 0 → ∃ t, exec (.allBankRefresh c) s = .next t ∧ (t.chan c).rows = [] ∧ (t.chan c).postponed = 0 ∧ t.near = s.near)) ∧
      (∃ t, exec (.deviceRfmDemand c bank) s = .next t ∧ bank.val ∈ (t.chan c).rfm ∧ t.regs = s.regs) ∧
      (s.rowsRun c = true → bank.val ∈ (s.chan c).rfm → s.bankBusy c bank = false → ∃ t, exec (.rfm c bank) s = .next t ∧ bank.val ∉ (t.chan c).rfm ∧
        tfind (t.chan c).rows bank.val = none) ∧
      (∃ t, exec (.segmentZeroingDone c) s = .next t ∧ t.flag (pgCh c) F.NMC_CH_STAT_ZEROING = false ∧ (t.chan c).zero = [] ∧
        ∀ k ∈ (s.chan c).zero, ∀ i < 480 * 2 ^ 20, Mem.rd t.near (c.val * 2 ^ 32 + k * (480 * 2 ^ 20) + i) = 0#8) ∧
      (∀ (n : Fin 8) (fail : BitVec 6), s.flag (pgNmc n) F.NMC_STAT_TRAINING = true → ∃ t, exec (.trainingDone n fail) s = .next t ∧
        t.flag (pgNmc n) F.NMC_STAT_TRAINING = false ∧ ∀ i < 6, let pg := pgCh (6 * n.val + i)
          (fail.getLsbD i = true → t.flag pg F.NMC_CH_STAT_TRAIN_FAIL = true ∧ t.get pg F.NMC_CH_CTL_MODE 0 = 0 ∧ t.flag pg F.NMC_CH_STAT_READY = false) ∧
          (fail.getLsbD i = false → t.flag pg F.NMC_CH_STAT_TRAIN_FAIL = false ∧ t.flag pg F.NMC_CH_STAT_READY = true)) ∧
      (s.flag (pgCh c) F.NMC_CAL_CTL_EN ≠ s.flag (pgCh c) F.NMC_CAL_STAT_ACTIVE →
        (s.flag (pgCh c) F.NMC_CAL_STAT_ACTIVE = true → (s.chan c).slot = 0) → ∃ t, exec (.calendarActivate c) s = .next t ∧
          t.flag (pgCh c) F.NMC_CAL_STAT_ACTIVE = s.flag (pgCh c) F.NMC_CAL_CTL_EN ∧ (t.chan c).slot = 0 ∧
          (s.flag (pgCh c) F.NMC_CAL_CTL_EN = true → t.get (pgCh c) F.NMC_CAL_STAT_PERIODS 0 = 0)) ∧
      (s.flag (pgCh c) F.NMC_CAL_STAT_ACTIVE = true → s.chanServing c = true → let k := (s.chan c).slot
        ∃ t, exec (.nmcCalSlot c) s = .next t ∧ (t.chan c).slot = (k + 1) % 64 ∧ (s.calSlot c k / 64 = 3 → (t.chan c).rows = []) ∧
          (k = 63 → t.get (pgCh c) F.NMC_CAL_STAT_PERIODS 0 = (s.get (pgCh c) F.NMC_CAL_STAT_PERIODS 0 + 1) % 2 ^ F.NMC_CAL_STAT_PERIODS.w)) ∧
      exec (.dqsOscillator c) s = .next s)

/-- R439, R448, R450, R452, R453 and R455: a completion answers the request it is for and frees its tracker entry, with poison for a read
that brings poison or no data, and a far atomic's line goes back changed; one too late is counted. A request without completion for 2
ms ends with poison, or as done, the write half of an atomic with the line that was read. A lost link ends every request of its port
and later ones find the port lost. An integrity failure makes the stream insecure, fires sensor 4 and acts as a lost link. R438, R439,
R441 and R442: a back-invalidate goes to the line's home slice, is answered at once where the line has no home, and is held in
conflict with a request that is out until the device acknowledges. A device's cache request goes to the home under its port's piste
and key, one outside the subset is refused. A device's answer to a snoop, or the hub's after 2 ms, ends the snoop. -/
def Obligations.CxlTraffic : Prop :=
  (∀ (h : Fin 8) (p : Fin 5) (id : Nat) (e : M2s) (r : MemRsp) (s : State), s.live = true →
      let n := hubStop h
      let found := ((s.hub h).m2s.find? fun x => x.id = id) = some e ∧ e.conflict = none ∧ e.f.src.val ≠ n
      let freed (t : State) : Prop := (t.hub h).m2s = (s.hub h).m2s.filter fun x => x.id ≠ id
      (found → e.kind = 0 → r.hasData = true → r.poison = false → ∃ t, exec (.s2mResponse h id r) s = .next t ∧ freed t ∧
        s.offered t n (e.f.reply 0x30 .ok r.data 0)) ∧
      (found → e.kind = 0 → r.hasData = false ∨ r.poison = true → ∃ t d, exec (.s2mResponse h id r) s = .next t ∧ freed t ∧
        s.offered t n (e.f.reply 0x30 .ok d 255) ∧ t.flag (pgHdm h) F.HDM_MEMERR_VALID = true) ∧
      (found → e.kind = 1 → ∃ t, exec (.s2mResponse h id r) s = .next t ∧ freed t ∧ s.offered t n (e.f.reply 0x31 .ok 0 0)) ∧
      (found → e.kind = 2 → r.hasData = true → r.poison = false → ∃ t, exec (.s2mResponse h id r) s = .next t ∧
        s.txed t h e.port (.m2sWr id e.line (2 ^ 64 - 1) (farAtomic e.f r.data) false) ∧
        ((t.hub h).m2s.find? fun x => x.id = id) = some { e with kind := 3, data := r.data }) ∧
      (((s.hub h).m2s.find? fun x => x.id = id) = none → s.get (pgHdm h) F.HDM_STAT_LATE 0 < 0xFFFFFFFF → ∃ t, exec (.s2mResponse h id r) s = .next t ∧
        t.get (pgHdm h) F.HDM_STAT_LATE 0 = s.get (pgHdm h) F.HDM_STAT_LATE 0 + 1 ∧ t.hubs = s.hubs) ∧
      (found → ∃ t, exec (.cxlMemTimeout h id) s = .next t ∧ freed t ∧ t.flag (pgHdm h) F.HDM_MEMERR_VALID = true ∧
        (s.flag (pgHdm h) F.HDM_MEMERR_VALID = false → t.get (pgHdm h) F.HDM_MEMERR_KIND 0 = 1) ∧
        (e.kind = 3 → s.offered t n (e.f.reply 0x30 .ok e.data 0)) ∧
        (e.kind ≠ 3 → e.f.op ≤ 3 ∨ e.f.op = 7 → ∃ d, s.offered t n (e.f.reply 0x30 .ok d 255)) ∧
        (e.kind ≠ 3 → ¬ (e.f.op ≤ 3 ∨ e.f.op = 7) → s.offered t n (e.f.reply 0x31 .ok 0 0))) ∧
      (s.portMode h p = 2 → (∀ viral, viral = true ∨ s.linkUp h p = true → ∃ t, exec (.cxlLinkDown h p viral) s = .next t ∧
          (∀ x ∈ (t.hub h).m2s, x.port ≠ p) ∧ p.val ∈ (t.hub h).dead ∧ t.flag (pgHdm h) F.HDM_MEMERR_VALID = true ∧
          t.flag (pgHdm h) F.PAGE_ERR_UCR = true ∧
          (s.flag (pgHdm h) F.HDM_MEMERR_VALID = false → t.get (pgHdm h) F.HDM_MEMERR_KIND 0 = if viral then 3 else 2)) ∧
        (∃ t, exec (.cachememIdeFail h p) s = .next t ∧ (∀ x ∈ (t.hub h).m2s, x.port ≠ p) ∧ p.val ∈ (t.hub h).dead ∧
          t.flag (pgIde h) F.IDE_PORT_STAT_FAIL p = true ∧ t.flag (pgIde h) F.IDE_PORT_STAT_INSECURE p = true ∧
          t.flag (pgIde h) F.IDE_PORT_STAT_ACTIVE p = false ∧ t.flag pgSec F.SEC_SENSOR_EVENT 4 = true)) ∧
      ((s.hub h).switching = true → ∃ t, exec (.extentSwitched h) s = .next t ∧ t.flag (pgHdm h) F.HDM_EXT_STAT_SWITCHED = true ∧
        (t.hub h).switching = false)) ∧
  (∀ (h : Fin 8) (p : Fin 5) (line kind id : Nat) (q : CacheReq) (e : M2s) (x : H2d) (r : SnpRsp) (s : State), s.live = true →
      let n := hubStop h
      (s.portMode h p = 2 → s.linkUp h p = true → s.cachememOn h p = true → s.hubOn h = true →
        (((s.hub h).m2s.find? fun y => y.line = line && y.port = p.val && y.conflict.isNone) = some e → ∃ t, exec (.bisnp h p line kind) s = .next t ∧
          s.txed t h p (.biConflict e.id) ∧ ∃ y ∈ (t.hub h).m2s, y.id = e.id ∧ y.conflict = some (kind % 3)) ∧
        (((s.hub h).m2s.find? fun y => y.line = line && y.port = p.val && y.conflict.isNone) = none →
          (s.bisnpHome n line = none → ∃ t, exec (.bisnp h p line kind) s = .next t ∧ s.txed t h p (.biRsp line 0)) ∧
          (∀ st, s.bisnpHome n line = some st → ∃ t g, exec (.bisnp h p line kind) s = .next t ∧ s.asked t n g ∧ g.op = 0x12 ∧ g.pa = line * 64 ∧
            g.be = kind % 3 ∧ g.dst = some (Fin.ofNat 194 st)))) ∧
      (((s.hub h).m2s.find? fun y => y.id = id && y.conflict.isSome) = some e → ∃ t, exec (.biconflictack h id) s = .next t ∧
        s.txed t h e.port (.biRsp e.line 0) ∧ (t.hub h).m2s.length = (s.hub h).m2s.length) ∧
      (s.cachePort h = some p.val → s.linkUp h p = true → s.cachememOn h p = true → s.hubOn h = true →
        (inNear (q.line * 64) = true ∨ inHdm (q.line * 64) = true → q.kind ≤ 4 → ∃ t g, exec (.d2hRequest h p q) s = .next t ∧ s.asked t n g ∧
          g.op = (if q.kind = 0 then 1 else if q.kind = 1 then 2 else if q.kind = 2 then 3 else 5) ∧ g.pa = q.line * 64 ∧
          g.be = (if q.kind = 4 then 0 else 2 ^ 64 - 1) ∧ g.data = q.data ∧ g.piste = s.get (pgPort h p) F.PORT_CTL_PISTE 0 ∧
          g.key = s.get (pgPort h p) F.PORT_CTL_KEY 0) ∧
        (4 < q.kind → ∃ t, exec (.d2hRequest h p q) s = .next t ∧ s.txed t h p (.h2dRsp q.id 0 none false) ∧ t.nis = s.nis ∧
          t.flag (pgHdm h) F.HDM_MEMERR_VALID = true)) ∧
      (((s.hub h).h2d.find? fun y => y.id = id) = some x → x.f.src.val ≠ n →
        (∃ t, exec (.h2dSnoopResponse h id r) s = .next t ∧ (t.hub h).h2d = ((s.hub h).h2d.filter fun y => y.id ≠ id) ∧
          let keep := r.keepS && x.f.op = 0x11
          (r.hasData = true → s.offered t n { x.f.reply 0x30 .ok r.data (if r.poison then 255 else 0) with pin := keep }) ∧
          (r.hasData = false → s.offered t n { x.f.reply 0x31 .ok 0 0 with pin := keep })) ∧
        (∃ t l, exec (.h2dSnoopTimeout h id) s = .next t ∧ (t.hub h).h2d = ((s.hub h).h2d.filter fun y => y.id ≠ id) ∧
          s.offered t n (x.f.reply 0x31 .ok 0 0) ∧ t.flag (pgHdm h) F.HDM_CACHE_CTL_EN = false ∧ t.flag (pgHdm h) F.HDM_MEMERR_VALID = true ∧
          tfind (t.slice x.f.src).llc (x.f.addr / 64) = some l ∧ l.poison = true)))

/-- R307, R308, R503, R508-R512, R521 and R524: a completion, behind the posted writes that came before it unless it is relaxed, ends the
outbound request it is for: data, done, all ones after an error or PORT_CTO, or the same request again after a retry status. An
admitted inbound packet enters under its port's piste and key, one the rules refuse is answered UR and logged. A packet to PF1 goes
through its window or is refused. An MSI with a valid entry is delivered, or held where it is masked; a doorbell that was refused is
sent again. The packets and status codes of PCIe, and a retried configuration request, follow assumptions 38, 39 and 42. -/
def Obligations.PcieTraffic : Prop :=
  ∀ (h : Fin 8) (p : Fin 5) (id : Nat) (e : OutTlp) (c : Cpl) (k : Tlp) (s : State), s.live = true →
    let n := hubStop h
    let pg := pgPort h p
    let found := ((s.hub h).outs.find? fun x => x.id = id && x.port = p.val) = some e ∧ e.f.src.val ≠ n
    let after := ((s.hub h).inb.filter fun y => y.port = (if s.epPort h = some p.val then 5 else p.val) && tlpPosted y.t.kind).map fun y => y.id
    let free := c.relaxed = true ∨ after = []
    let gone (t : State) : Prop := (t.hub h).outs = (s.hub h).outs.filter fun x => x.id ≠ id
    let off := (beSpan e.f.be).2
    let ones : Line := BitVec.ofNat 512 (2 ^ 512 - 1)
    (¬ free → ∃ t, exec (.tlpCompletion h p id c) s = .next t ∧ (t.hub h).cpls = (s.hub h).cpls ++ [(p.val, id, c, after)] ∧
      (t.hub h).outs = (s.hub h).outs ∧ t.nis = s.nis) ∧
    (found → free → c.status = 0 → c.ep = false → ∃ t, exec (.tlpCompletion h p id c) s = .next t ∧ gone t ∧
      (e.write = false → s.offered t n (e.f.reply 0x30 .ok (linePut 0 off (c.data.take (64 - off))) 0)) ∧
      (e.write = true → s.offered t n (e.f.reply 0x31 .ok 0 0))) ∧
    (found → free → c.status = 1 ∨ c.status = 2 → e.f.op = 3 → ∃ t, exec (.tlpCompletion h p id c) s = .next t ∧ gone t ∧
      s.offered t n (e.f.reply 0x30 .ok ones 0) ∧ t.flag pg F.PORT_ERRLOG_VALID = true) ∧
    (found → free → c.status = 3 → e.cfg = true → ∃ t, exec (.tlpCompletion h p id c) s = .next t ∧ s.txed t h p e.msg ∧
      (t.hub h).outs = (s.hub h).outs) ∧
    (found → e.f.op = 3 → ∃ t, exec (.completionTimeout h p id) s = .next t ∧ gone t ∧ s.offered t n (e.f.reply 0x30 .ok ones 0) ∧
      (s.flag pg F.PORT_ERRLOG_VALID = false → t.flag pg F.PORT_ERRLOG_VALID = true ∧ t.get pg F.PORT_ERRLOG_KIND 0 = 1)) ∧
    (s.linkUp h p = true → s.hubOn h = true → s.portMode h p = 1 ∨ s.portMode h p = 2 → s.flag (pgIde h) F.IDE_IO_CTL_REQ p = false →
      (k.kind = .memRd ∨ k.kind = .memWr → k.at_ = 0 → k.pasid = false → 0 < k.len → inNear k.addr = true →
        k.addr / 4096 ≠ s.get pg F.PORT_MSI_ADDR_PA 0 * 4 / 4096 →
        (s.flag pg F.PORT_CTL_BME = true → (s.hub h).inb = [] → ∃ t x, exec (.inboundRequest h p k) s = .next t ∧ (t.hub h).inb = [x] ∧
          x.t = k ∧ x.port = p.val ∧ x.piste = s.get pg F.PORT_CTL_PISTE 0 ∧ x.key = s.get pg F.PORT_CTL_KEY 0 ∧ x.sent = true ∧
          ((t.ni n).reqs.drop (s.ni n).reqs.length).map (fun r => (r.pa, r.piste, r.org)) =
            (tlpPieces k.addr (tlpSpan k)).map fun pc => (pc.1, x.piste, Org.inbound x.id)) ∧
        (s.flag pg F.PORT_CTL_BME = false → k.kind = .memRd → ∃ t, exec (.inboundRequest h p k) s = .next t ∧
          s.txed t h p (.cpl k.rid k.tag 1 [] false) ∧ t.flag pg F.PORT_ERRLOG_VALID = true ∧ (t.hub h).inb = (s.hub h).inb)) ∧
      (k.kind = .io → ∃ t, exec (.inboundRequest h p k) s = .next t ∧ s.txed t h p (.cpl k.rid k.tag 1 [] false) ∧
        t.flag pg F.PORT_ERRLOG_VALID = true)) ∧
    (∀ q, s.epPort h = some q → s.pfOn h 1 = true → s.linkUp h q = true → s.frozen = false → s.flag (pgIde h) F.IDE_IO_CTL_REQ q = false →
      k.kind = .memRd → k.at_ = 0 → k.pasid = false → 0 < k.len →
      (s.winMatch h k.addr = none → ∃ t, exec (.pf1Request h k) s = .next t ∧ t.flag (pgEp h) F.EP_WERR_VALID = true ∧ (t.hub h).inb = (s.hub h).inb) ∧
      (∀ lo hi, s.winMatch h k.addr = some (lo, hi) → let ofs := bitsOf lo 12 28 * 4096
        k.addr + k.len ≤ ofs + 2 ^ bitsOf lo 46 6 → bitOf lo 62 = true → ∃ t, exec (.pf1Request h k) s = .next t ∧
          ∃ x ∈ (t.hub h).inb, x.t = { k with addr := bitsOf hi 12 40 * 4096 + (k.addr - ofs) } ∧ x.port = 5 ∧ x.piste = bitsOf lo 54 6)) ∧
    (∀ pa data rid : Nat, s.linkUp h p = true → s.hubOn h = true → s.portMode h p = 1 ∨ s.portMode h p = 2 →
      s.flag (pgIde h) F.IDE_IO_CTL_REQ p = false → pa = s.get pg F.PORT_MSI_ADDR_PA 0 * 4 →
      (s.flag pg F.PORT_CTL_BME = false → ∃ t, exec (.msi h p pa data rid) s = .next t ∧ t.flag pg F.PORT_ERRLOG_VALID = true ∧ (t.hub h).msis = (s.hub h).msis) ∧
      (s.flag pg F.PORT_CTL_BME = true → data < 128 → s.irtOk pg data = true →
        (s.flag pg F.PORT_IRT_RID_CHK data = true → rid = s.get pg F.PORT_IRT_RID data) →
        (s.flag pg F.PORT_IRT_MASKED data = true → ∃ t, exec (.msi h p pa data rid) s = .next t ∧ t.flag pg F.PORT_IRT_PBIT data = true ∧ t.hubs = s.hubs) ∧
        (s.flag pg F.PORT_IRT_MASKED data = false → (s.hub h).msis = [] → (s.hub h).inb = [] → ∃ t r, exec (.msi h p pa data rid) s = .next t ∧
          s.asked t n r ∧ r.op = 4 ∧ r.pa = doorbellPa (s.get pg F.PORT_IRT_TILE data) / 64 * 64 ∧ r.piste = s.get pg F.PORT_IRT_PISTE data))) ∧
    (∀ (i : Fin 128) (m : MsiOut), ((s.hub h).msis.find? fun x => x.port = p.val && x.n = i.val && !x.sent && 0 < x.tries) = some m →
      ∃ t r, exec (.msiRetry h p i) s = .next t ∧ s.asked t n r ∧ r.op = 4 ∧ r.pa = doorbellPa m.tile / 64 * 64 ∧ r.org = .msi m.id)

/-- R501, R505, R514-R517, R599 and R631: a link that comes up shows its rate and width; one that goes down ends every outbound request of
its port, silences the inbound ones and sets Data Link Layer State Changed, and an integrity failure does so with the stream insecure;
a port with a failed lane runs narrower. The slot chain counts its frames and accepts an input after four that agree; Slot Control
waits for a frame; power and reset of a slot follow R516. The bits of the Slot registers are those of PCIe (assumption 40). -/
def Obligations.SlotsAndLinks : Prop :=
  ∀ (h : Fin 8) (p : Fin 5) (s : State), s.live = true →
    let pg := pgPort h p
    let x := s.slot h p
    (∀ (gen width : Nat) (flit : Bool), s.mayTrain h p = true → s.portMode h p ≠ 0 → s.linkUp h p = false → 0 < gen → gen ≤ 6 →
      (s.get pg F.PORT_CTL_MAXGEN 0 = 0 ∨ s.get pg F.PORT_CTL_MAXGEN 0 = 7 ∨ gen ≤ s.get pg F.PORT_CTL_MAXGEN 0) → 0 < width → width ≤ s.portWidth h p →
      (gen = 6 → flit = true) → (s.portMode h p ≠ 3 → s.flag pg F.PORT_CTL_HP = true → x.perst = true) →
      ∃ t, exec (.linkUp h p gen width flit) s = .next t ∧ t.linkUp h p = true ∧ t.get pg F.PORT_STAT_GEN 0 = gen ∧
        t.get pg F.PORT_STAT_WIDTH 0 = width ∧ bitOf (t.slot h p).sts 8 = true) ∧
    (s.linkUp h p = true → (∀ c ∈ [Instr.linkDown h p, .linkIdeFail h p], s.portMode h p ≠ 0 → ∃ t, exec c s = .next t ∧ t.linkUp h p = false ∧
      (∀ y ∈ (t.hub h).outs, y.port ≠ p) ∧ (∀ y ∈ (t.hub h).inb, y.port = p.val → y.silent = true) ∧ bitOf (t.slot h p).sts 8 = true)) ∧
    (s.portMode h p ≠ 0 → ∃ t, exec (.linkIdeFail h p) s = .next t ∧ t.flag (pgIde h) F.IDE_IO_STAT_FAIL p = true ∧
      t.flag (pgIde h) F.IDE_IO_STAT_INSECURE p = true ∧ t.flag (pgIde h) F.IDE_IO_STAT_ACTIVE p = false ∧ t.flag pgSec F.SEC_SENSOR_EVENT 4 = true) ∧
    (∀ width, s.linkUp h p = true → 0 < width → width < s.get pg F.PORT_STAT_WIDTH 0 → width < 32 → ∃ t, exec (.laneSpare h p width) s = .next t ∧
      t.get pg F.PORT_STAT_WIDTH 0 = width ∧ t.linkUp h p = true ∧ t.rasSeq = s.rasSeq + 1) ∧
    (∀ g : Nat, g < 16 → 6 ≤ s.sys.bootStep → s.flag (pgHub (g / 2)) F.PAGE_CTL_ENABLE = true → s.groupOn g = true →
      ∃ t, exec (.perstNRelease g) s = .next t ∧ g ∈ t.sys.perst) ∧
    (∀ i : SlotIn, s.flag (pgHub h) F.HUB_SSC_CTL_EN = true → ∃ t, exec (.sscFrame h [i]) s = .next t ∧
      t.get (pgHub h) F.HUB_SSC_STAT_FRAMES 0 = (s.get (pgHub h) F.HUB_SSC_STAT_FRAMES 0 + 1) % 2 ^ F.HUB_SSC_STAT_FRAMES.w ∧
      (t.hub h).sscOut = (s.hub h).ssc ∧
      (s.flag (pgPort h 0) F.PORT_CTL_HP = true → (s.slot h 0).cmd = 0 → (s.slot h 0).inp.prsntN ≠ i.prsntN →
        ((s.slot h 0).agP < 3 → (t.slot h 0).inp.prsntN = (s.slot h 0).inp.prsntN ∧ (t.slot h 0).agP = (s.slot h 0).agP + 1) ∧
        (3 ≤ (s.slot h 0).agP → (t.slot h 0).inp.prsntN = i.prsntN ∧ bitOf (t.slot h 0).sts 3 = true))) ∧
    (s.flag pg F.PORT_CTL_HP = true →
      (∀ (w : Who) (v : BitVec 16), ∃ t, exec (.slotControlWrite w h p v) s = .next t ∧ t.slot h p = { x with ctl := v.toNat, cmd := if x.cmd < 2 then 1 else 3 }) ∧
      (x.pwrEn = true → x.inp.pgood = false → ∃ t, exec (.pgoodTimeout h p) s = .next t ∧ (t.slot h p).pwrEn = false ∧ bitOf (t.slot h p).sts 1 = true) ∧
      (x.pwrEn = true → x.refclk = true → x.inp.pgood = true → bitOf x.app 10 = false → ∃ t, exec (.slotPerstRelease h p) s = .next t ∧
        t.slot h p = { x with perst := true }) ∧
      (bitOf x.app 10 = true → x.perst = false → ∃ t, exec (.slotPowerOff h p) s = .next t ∧ t.slot h p = { x with pwrEn := false, refclk := false }))

/-- R290, R519-R525 and R529: the composer's ring makes PF0's mailbox busy with its number and words and reaches the Patrol, or is lost;
console bytes wait until they are read; a cleared bus master enable holds a function's messages and setting it sends them; the copied
shadow bank frees COMMIT; a read of PF1_EVT clears it; a function-level reset stops its function, returns its state to reset, and ends
with FLR_DONE. -/
def Obligations.EndpointFace : Prop :=
  ∀ (h : Fin 8) (s : State), s.live = true →
    let ep := (s.hub h).ep
    (s.pfOn h 0 = true →
      (∀ (seq : Nat) (words : List Word), ∃ t, exec (.epMailboxRing h seq words) s = .next t ∧ (t.hub h).ep.busy = true ∧
        (ep.busy = false → (t.hub h).ep.seq = seq % 2 ^ 16 ∧ (t.hub h).ep.done = false ∧ (t.hub h).ep.lost = false ∧
          t.sys.calls = s.sys.calls ++ [⟨none, h, 0, 0, seq % 2 ^ 16, []⟩]) ∧
        (ep.busy = true → (t.hub h).ep.seq = ep.seq ∧ (t.hub h).ep.lost = true) ∧
        ∀ i < 16, ∀ w, words[i]? = some w → t.get (pgEp h) F.EP_MBX_REQ_WORD i = w.toNat) ∧
      (∀ b : Byte, ∃ t, exec (.consoleInWrite h b) s = .next t ∧ t.flag (pgEp h) F.EP_CON_IN_VALID = true ∧ t.get (pgEp h) F.EP_CON_IN 0 = b.toNat) ∧
      (∃ t, exec (.consoleOutRead h) s = .next t ∧ t.respStatus = .ok ∧ (t.hub h).ep.conOut = none ∧
        t.respValue = (match ep.conOut with | some b => BitVec.ofNat 64 (256 + b.toNat) | none => 0))) ∧
    (∀ (pf : Fin 2), ∃ t, exec (.pf0BmeClear h pf false) s = .next t ∧ (t.hub h).ep.held = ep.held ∧
      (pf = 0 → (t.hub h).ep.bme0 = false ∧ (t.hub h).ep.bme1 = ep.bme1 ∧ t.flag (pgEp h) F.EP_STAT_PF0_BME = false) ∧
      (pf = 1 → (t.hub h).ep.bme1 = false ∧ (t.hub h).ep.bme0 = ep.bme0)) ∧
    (∀ (pf : Fin 2) (q : Nat), s.epPort h = some q → ∃ t, exec (.pf0BmeClear h pf true) s = .next t ∧ (∀ v ∈ (t.hub h).ep.held, v.1 ≠ pf.val) ∧
      tget (t.hub h).tx q [] = tget (s.hub h).tx q [] ++ (ep.held.filter fun v => v.1 = pf.val).map fun v => LinkMsg.msix v.1 v.2) ∧
    (s.flag (pgEp h) F.EP_STAT_COMMIT_BUSY = true → ∃ t, exec (.windowCopyDone h) s = .next t ∧ t.flag (pgEp h) F.EP_STAT_COMMIT_BUSY = false ∧
      ∀ w < 32, t.get (pgEp h) F.EP_WSH_LO_VALID w = s.get (pgEp h) F.EP_WACT_LO_VALUE w / 2 ^ 63 % 2 ∧
        t.get (pgEp h) F.EP_WSH_LO_OFFSET w = s.get (pgEp h) F.EP_WACT_LO_VALUE w / 2 ^ 12 % 2 ^ 28 ∧
        t.get (pgEp h) F.EP_WSH_HI_TARGET w = s.get (pgEp h) F.EP_WACT_HI_VALUE w / 2 ^ 12 % 2 ^ 40) ∧
    (s.pfOn h 1 = true → ∃ t, exec (.pf1EvtRead h) s = .next t ∧ t.respValue = BitVec.ofNat 64 (b2n ep.evtC + 2 * b2n ep.evtR) ∧
      (t.hub h).ep.evtC = false ∧ (t.hub h).ep.evtR = false) ∧
    (∀ pf : Fin 2, s.pfOn h pf = true → ∃ t, exec (.flr h pf) s = .next t ∧ bitOf (t.get (pgEp h) F.EP_STAT_FLR 0) pf = true ∧
      (∀ v ∈ (t.hub h).ep.held, v.1 ≠ pf.val) ∧ (pf = 0 → (t.hub h).ep.busy = false ∧ (t.hub h).ep.bme0 = false) ∧
      (pf = 1 → (t.hub h).ep.bme1 = false ∧ (∀ w < 32, t.get (pgEp h) F.EP_WACT_LO_VALUE w = 0) ∧
        ∀ y ∈ (t.hub h).inb, y.port = 5 → y.silent = true)) ∧
    (∀ pf : Fin 2, bitOf (s.get (pgEp h) F.EP_STAT_FLR 0) pf = true → (pf = 1 → ∀ y ∈ (s.hub h).inb, y.port ≠ 5) →
      ∃ t, exec (.flrDone h pf) s = .next t ∧ bitOf (t.get (pgEp h) F.EP_STAT_FLR 0) pf = false ∧ t.flag (pgEp h) F.EP_STAT_FLR_DONE = true)

/-- R550-R552: a call that is not from tile S or H, tile H or the composer, as its service asks, is told DENIED, and nothing of the Patrol
changes but that the call is taken. A function code that R552 does not list is told UNKNOWN. VERSION answers the ROM version and the
image's SVN in the response word, NOTICE_READ the piste's pending reasons, which are then gone. R552, R554 and R645: BOOT_IMAGE from
PF0 with BME set and a length that an image can have (its header, and a body of up to 1.5 MiB) has PF0 read the image from the host:
one memory read for each piece of the range in address order, and a run of the Patrol that holds their identifiers with no data yet,
while the call stays out. Any other length, or BME clear, is told BAD_ARG, and nothing is read. A completion adds its bytes to the run
at its identifier; an error completion marks the run bad. Once no read is out, an image the ROM accepts is told OK and a boot that
waits for one goes on with it, its body in the Patrol's SRAM; another is told BAD_ARG and counted in FAILS. Who counts as composer,
and that a rejected image answers BAD_ARG, are the model's readings (assumptions 64, 71). -/
def Obligations.AuthorityAndImages : Prop :=
  (∀ (c : Call) (s : State),
      let denied (x : Nat × Instr) : Prop := s.callOpen c x.1 → ∃ t, exec x.2 s = .next t ∧ t.answered c 2 ∧ t.sys = s.sysTaken
      (s.composer c = false → ∀ x ∈ [(0x100, Instr.pisteTile c), (0x101, .pisteMap c), (0x102, .pistePort c), (0x103, .pisteFlags c),
        (0x104, .groupSet c), (0x105, .pisteSeal c), (0x106, .thaw c), (0x107, .policy c), (0x108, .bootImage c), (0x109, .svnCommit c)], denied x) ∧
      (c.lt = none ∨ c.lvl ≠ 2 → ∀ x ∈ [(0x10, Instr.irtSet c), (0x11, .tileStart c), (0x12, .keyGen c), (0x14, .extentDone c)], denied x) ∧
      (c.lt = none ∨ c.lvl = 0 → ∀ x ∈ [(2, Instr.noticeRead c), (0x13, .attest c), (0x15, .rasRead c)], denied x) ∧
      (∀ code, s.callOpen c code → code ∉ svcCodes → ∃ t, exec (.version c) s = .next t ∧ t.answered c 1 ∧ t.sys = s.sysTaken) ∧
      (∀ st, s.calls c 1 st → ∃ t, exec (.version c) s = .next t ∧ t.told st 0 ∧
        t.padWord st 0x3880 = Config.romVersion % 2 ^ 16 + s.get pgSec F.SEC_BOOT_SVN 0 % 2 ^ 32 * 2 ^ 16) ∧
      (∀ st, s.calls c 2 st → 1 ≤ c.lvl → ∃ t, exec (.noticeRead c) s = .next t ∧ t.told st 0 ∧ tget t.sys.notices c.piste.val [] = [] ∧
        t.padWord st 0x3880 = Config.noticeWord (tget s.sys.notices c.piste.val []) % 2 ^ 64)) ∧
  (∀ (c : Call) (p : Fin 5) (s : State), s.live = true → c.lt = none → s.epPort c.hub.val = some p.val →
      let h := c.hub.val
      let pieces := tlpPieces (callW c 1) (callW c 2)
      let ask := 512 ≤ callW c 2 ∧ callW c 2 ≤ 1573376 ∧ (s.hub h).ep.bme0 = true
      (s.callOpen c 0x108 →
        (ask → ∃ t, ∃ ids : List Nat, ∃ r : SvcRun, exec (.bootImage c) s = .next t ∧ ids.length = pieces.length ∧
          tget (t.hub h).tx p.val [] = tget (s.hub h).tx p.val [] ++
            (ids.zip pieces).map (fun x => LinkMsg.memRd x.1 x.2.1 (beMask (x.2.1 % 64) x.2.2.1)) ∧
          t.sys.svcs = s.sys.svcs ++ [r] ∧ r.stage = .image ∧ r.call = c ∧ r.bad = false ∧ r.dma = ids.map (fun i => (i, none)) ∧
          t.sys.calls = s.sys.calls.drop 1 ∧ (t.hub h).ep.busy = true ∧ t.regs = s.regs) ∧
        (¬ ask → ∃ t, exec (.bootImage c) s = .next t ∧ t.answered c 3 ∧ t.sys = s.sysTaken)) ∧
      (∀ (id : Nat) (k : Cpl) (r : SvcRun), s.sys.svcs = [r] → r.call = c → (id, none) ∈ r.dma → k.relaxed = true →
        (s.hub h).outs.any (fun e => e.id = id && e.port = p.val) = false →
        ∃ t, ∃ r' : SvcRun, exec (.tlpCompletion c.hub p id k) s = .next t ∧ t.sys.svcs = [r'] ∧ r'.call = c ∧
          (k.status = 0 ∧ k.ep = false → r'.bad = r.bad ∧ r'.dma = r.dma.map fun e => if e.1 = id then (id, some k.data) else e) ∧
          (¬ (k.status = 0 ∧ k.ep = false) → r'.bad = true ∧ r'.dma = r.dma)) ∧
      (∀ r : SvcRun, s.sys.svcs = [r] → r.stage = .image → r.out = false → r.call = c → r.dma.all (fun e => e.2.isSome) = true →
        (s.hub h).ep.busy = true → (s.hub h).ep.seq = c.seq → let t := s.svcAdvance
        let img := (r.dma.flatMap fun e => e.2.getD []).take (callW c 2)
        t.sys.svcs = [] ∧
        (r.bad = false ∧ s.imgOk img = true → t.answered c 0 ∧ (s.sys.bootStep = 1 ∧ s.sys.bootHalted = false → t.sys.bootStep = 3 ∧
          t.sram = Mem.wrs s.sram (imgNum img 0x10 8) (imgBody img) ∧ t.get pgSec F.SEC_BOOT_SVN 0 = imgNum img 4 4 % 2 ^ F.SEC_BOOT_SVN.w)) ∧
        (r.bad = true ∨ s.imgOk img = false → t.answered c 3 ∧ t.sys.bootStep = s.sys.bootStep ∧ t.sram = s.sram ∧
          t.get pgSec F.SEC_BOOT_FAILS 0 = min 255 (s.get pgSec F.SEC_BOOT_FAILS 0 + 1))))

/-- R306, R448, R541, R551, R552, R564, R565 and R580: the services of a piste at H or S. IRT_SET writes the entry with the caller's
piste; TILE_START runs a tile in T3 from the address given; KEY_GEN puts a fresh key's slot under the key select, or has no slot;
EXTENT_DONE knows an extent of the caller's; ATTEST and RAS_READ write the caller's buffer as the Patrol's stores. An argument outside
these is told BAD_ARG. That TILE_START takes no token is the model's reading (assumption 66). -/
def Obligations.PisteServices : Prop :=
  ∀ (c : Call) (st code : Nat) (s : State), s.calls c code st →
    let a := callW c 1
    let b := callW c 2
    let first (t : State) : Prop := ∃ r, s.asked t 192 r ∧ r.op = 4 ∧ r.pa = a / 64 * 64 ∧ r.patrol = true ∧ r.org = .svc s.sys.svcNext
    (c.lvl = 2 →
      (∀ (h : Fin 8) (p : Fin 5) (n : Fin 128), code = 0x10 → a = p.val + 16 * h.val + 65536 * n.val → let pg := pgPort h p
        (s.get pg F.PORT_CTL_PISTE 0 = c.piste.val → bitsOf b 16 8 < 160 → s.get pgPmap F.PMAP_TILE_PISTE (bitsOf b 16 8) = c.piste.val →
          32 ≤ bitsOf b 8 8 → ∃ t, exec (.irtSet c) s = .next t ∧ t.told st 0 ∧ t.get pg F.PORT_IRT_TILE n = bitsOf b 16 8 ∧
            t.get pg F.PORT_IRT_SOURCE n = bitsOf b 8 8 ∧ t.get pg F.PORT_IRT_PISTE n = c.piste.val ∧ t.flag pg F.PORT_IRT_VALID n = bitOf b 0) ∧
        (s.get pg F.PORT_CTL_PISTE 0 ≠ c.piste.val → ∃ t, exec (.irtSet c) s = .next t ∧ t.told st 3 ∧
          ∀ i, t.get pg F.PORT_IRT_TILE i = s.get pg F.PORT_IRT_TILE i)) ∧
      (∀ tile : Nat, code = 0x11 → isTile tile = true → tile ≠ st → s.ltStop a = some tile →
        (s.get pgPmap F.PMAP_TILE_PISTE a = c.piste.val → s.get (pgTlift tile) F.TLIFT_TSTAT_STATE 0 = 3 → b % 64 = 0 → b < 2 ^ 52 →
          ∃ t, exec (.tileStart c) s = .next t ∧ t.told st 0 ∧ t.get (pgTlift tile) F.TLIFT_TSTAT_STATE 0 = 0 ∧
            t.flag (pgTlift tile) F.TLIFT_TCTL_FORCE_T3 = false ∧ (t.core tile).fetch.pc = some b ∧
            t.get (pgTlift tile) F.TLIFT_RESTART_ADDR 0 = b / 64) ∧
        (s.get pgPmap F.PMAP_TILE_PISTE a ≠ c.piste.val ∨ s.get (pgTlift tile) F.TLIFT_TSTAT_STATE 0 ≠ 3 → ∃ t, exec (.tileStart c) s = .next t ∧
          t.told st 3 ∧ t.core tile = s.core tile)) ∧
      (∀ n, code = 0x12 → s.freeSlot = some n → ∃ t, exec (.keyGen c) s = .next t ∧ t.told st 0 ∧ t.get pgKeys F.KS_SLOT_KIND n = 1 ∧
        t.get pgKeys F.KS_PKEY_SLOT (c.piste.val * 4 + a % 4) = n ∧ tget t.sys.keyGen n 0 = tget s.sys.keyGen n 0 + 1) ∧
      (code = 0x12 → s.freeSlot = none → ∃ t, exec (.keyGen c) s = .next t ∧ t.told st 4 ∧ t.sys = s.sysTaken) ∧
      (∀ (h : Fin 8) (i d bs len : Nat) (l), code = 0x14 → i < s.get (pgHdm h) F.HDM_EXT_STAT_COUNT 0 → s.extEntry h i = some (true, d, bs, len) →
        a = bs * 2 ^ 21 → s.leafMem a = .inl l → s.leafAdmits 192 l 1 c.piste.val = true → ∃ t, exec (.extentDone c) s = .next t ∧ t.told st 0 ∧
          t.sys = s.sysTaken) ∧
      (∀ e, code = 0x14 → s.leafMem a = .inr e → ∃ t, exec (.extentDone c) s = .next t ∧ t.told st 3)) ∧
    (1 ≤ c.lvl → s.sys.svcs = [] →
      (code = 0x13 → s.bufOk c.piste.val a 512 = true → (∃ k < 256, s.get pgKeys F.KS_SLOT_KIND k = 5) → ∃ t, exec (.attest c) s = .next t ∧ first t ∧
        (t.core st).sr = (s.core st).sr) ∧
      (code = 0x13 → s.bufOk c.piste.val a 512 = false → ∃ t, exec (.attest c) s = .next t ∧ t.told st 3 ∧ t.nis = s.nis) ∧
      (code = 0x15 → s.bufOk c.piste.val a b = true → 64 ≤ b → s.rasMine c.piste.val ≠ [] → ∃ t, exec (.rasRead c) s = .next t ∧ first t) ∧
      (code = 0x15 → s.bufOk c.piste.val a b = true → s.rasMine c.piste.val = [] → ∃ t, exec (.rasRead c) s = .next t ∧ t.told st 0 ∧ t.nis = s.nis) ∧
      (code = 0x15 → s.bufOk c.piste.val a b = false → ∃ t, exec (.rasRead c) s = .next t ∧ t.told st 3 ∧ t.nis = s.nis))

/-- R542, R543, R548, R549, R551 and R552: PISTE_TILE forces a tile toward T3 and is ACCEPTED; PISTE_MAP writes the leaves, or has no
entry for them; PISTE_PORT, PISTE_FLAGS, GROUP_SET and PISTE_SEAL write the owner, rights, group and seal, DBG and AGENT 0 while
sealed; THAW lets a piste or the device run again, but no erased device; POLICY keeps a level at its floor; SVN_COMMIT raises the
fused floor. The hub and port of PISTE_PORT's word, the slot a fresh key takes, what PISTE_MAP does without a table, and the code of
THAW for an erased device are the model's readings (assumptions 65, 48, 68, 70). -/
def Obligations.ComposerServices : Prop :=
  ∀ (c : Call) (code : Nat) (s : State), s.callOpen c code → s.composer c = true →
    let a := callW c 1
    let b := callW c 2
    let w := callW c 3
    (∀ tile, code = 0x100 → isTile tile = true → s.ltStop a = some tile → s.pisteIs b = true → s.get (pgTlift tile) F.TLIFT_TSTAT_STATE 0 ≠ 3 → s.sys.svcs = [] →
      ∃ t r, exec (.pisteTile c) s = .next t ∧ t.answered c 5 ∧ t.flag (pgTlift tile) F.TLIFT_TCTL_FORCE_T3 = true ∧
        t.sys.svcs = [r] ∧ r.stage = .tileOff ∧ r.call = c ∧ t.get pgPmap F.PMAP_TILE_PISTE a = s.get pgPmap F.PMAP_TILE_PISTE a) ∧
    (code = 0x100 → s.pisteIs b = false → ∃ t, exec (.pisteTile c) s = .next t ∧ t.answered c 3 ∧ t.sys = s.sysTaken) ∧
    (code = 0x101 → a % 2 ^ 21 = 0 → b % 2 ^ 21 = 0 → 0 < b → a + b ≤ 0xF000000000000 → leafArg w = true →
      (∀ e rest, s.mapSlots a (b / 2 ^ 21) (b / 2 ^ 21) = some (e :: rest) → s.sys.svcs = [] → ∃ t r, exec (.pisteMap c) s = .next t ∧ s.asked t 192 r ∧
        r.op = 4 ∧ r.pa = e / 64 * 64 ∧ r.patrol = true ∧ (e % 8 = 0 → r.data = linePut 0 (e % 64) (leBytes w 8) ∧ r.be = beMask (e % 64) 8)) ∧
      (s.mapSlots a (b / 2 ^ 21) (b / 2 ^ 21) = none → ∃ t, exec (.pisteMap c) s = .next t ∧ t.answered c 4 ∧ t.nis = s.nis)) ∧
    (∀ (h : Fin 8) (p : Fin 5), code = 0x102 → a = p.val + 16 * h.val → s.pisteIs (b % 64) = true → let pg := pgPort h p
      ∃ t, exec (.pistePort c) s = .next t ∧ t.answered c 0 ∧ t.get pg F.PORT_CTL_PISTE 0 = b % 64 ∧ t.get pg F.PORT_CTL_KEY 0 = bitsOf b 8 2 ∧
        t.get pg F.PAGE_OWNER_PISTE 0 = b % 64 ∧ t.get pg F.PAGE_OWNER_PLOCK 0 = 0) ∧
    (code = 0x103 → a < 64 → ∃ t, exec (.pisteFlags c) s = .next t ∧ t.answered c 0 ∧ t.flag pgPmap F.PMAP_PISTE_VALID a = bitOf b 0 ∧
      t.flag pgPmap F.PMAP_PISTE_SEALED a = bitOf b 1 ∧ t.flag pgPmap F.PMAP_PISTE_PMU a = bitOf b 3 ∧ t.flag pgPmap F.PMAP_PISTE_SPOT a = bitOf b 4 ∧
      t.get pgPmap F.PMAP_PISTE_NOTICE_TILE a = bitsOf b 24 8 ∧ t.flag pgPmap F.PMAP_PISTE_DBG a = (bitOf b 2 && !bitOf b 1) ∧
      t.flag pgPmap F.PMAP_PISTE_AGENT a = (bitOf b 5 && !bitOf b 1)) ∧
    (code = 0x104 → a < 64 → (w % 256 ≠ 0xFF → ∃ t, exec (.groupSet c) s = .next t ∧ t.answered c 0 ∧ t.get pgPmap F.PMAP_GROUP_MASK a = b ∧
        t.get pgPmap F.PMAP_GKEY_SLOT a = w % 256 ∧ t.flag pgPmap F.PMAP_GKEY_OVR a = bitOf w 8) ∧
      (w % 256 = 0xFF → (∀ n, s.freeSlot = some n → ∃ t, exec (.groupSet c) s = .next t ∧ t.answered c 0 ∧ t.get pgPmap F.PMAP_GROUP_MASK a = b ∧
          t.get pgPmap F.PMAP_GKEY_SLOT a = n ∧ t.get pgKeys F.KS_SLOT_KIND n = 1) ∧
        (s.freeSlot = none → ∃ t, exec (.groupSet c) s = .next t ∧ t.answered c 4 ∧ t.sys = s.sysTaken))) ∧
    (code = 0x105 → s.pisteIs a = true → (b % 2 = 1 → s.sealOk a = true) → ∃ t, exec (.pisteSeal c) s = .next t ∧ t.answered c 0 ∧
      bitOf (t.get pgMesh F.MESH_SEALED_MASK 0) a = bitOf b 0 ∧ t.flag pgPmap F.PMAP_PISTE_SEALED a = bitOf b 0) ∧
    (code = 0x105 → s.pisteIs a = true → b % 2 = 1 → s.sealOk a = false → ∃ t, exec (.pisteSeal c) s = .next t ∧ t.answered c 3 ∧ t.sys = s.sysTaken) ∧
    (code = 0x106 → a = 0xFF → s.flag pgSec F.SEC_STAT_ERASED = false → ∃ t, exec (.thaw c) s = .next t ∧ t.answered c 0 ∧ t.flag pgSec F.SEC_STAT_FROZEN = false) ∧
    (code = 0x106 → a = 0xFF → s.flag pgSec F.SEC_STAT_ERASED = true → ∃ t, exec (.thaw c) s = .next t ∧ t.answered c 3 ∧
      t.flag pgSec F.SEC_STAT_FROZEN = s.flag pgSec F.SEC_STAT_FROZEN) ∧
    (code = 0x106 → s.pisteIs a = true → ∃ t, exec (.thaw c) s = .next t ∧ t.answered c 0 ∧ a ∉ t.sys.pstopped ∧
      ∀ e ∈ s.sys.bmeCleared, e.2 = a → t.flag (pgPort (e.1 / 5) (e.1 % 5)) F.PORT_CTL_BME = true) ∧
    (code = 0x107 → a < 6 → b < 4 → let floor := s.get pgSec F.SEC_SENSOR_FLOOR a
      ∃ t, exec (.policy c) s = .next t ∧ t.answered c 0 ∧ t.get pgSec F.SEC_SENSOR_LEVEL a = if b < floor then floor % 4 else b) ∧
    (code = 0x109 → ∃ t, exec (.svnCommit c) s = .next t ∧ t.answered c 0 ∧ t.sys.svnFloor = max s.sys.svnFloor (s.get pgSec F.SEC_BOOT_SVN 0))

/-- R538, R546, R547, R550 and R587: a denial reported counts for its piste, is recorded where no other is, and fires sensor 5 at the
threshold. A sensor that fires counts, sets EVENT, notifies the piste 0 and the package controller, and acts at its level: LOG records
only, PSTOP stops the piste and its ports, FREEZE freezes, ERASE zeroizes the key store too. A lockstep mismatch takes its pair down,
and the second freezes the device. A Patrol pair that missed its kick is reported. R543: the debug port opens after an answer the
fused debug key verifies, and no other; open, and on a tile of a piste that holds DBG, it halts, resumes and steps the tile by one
stride and reads and writes the halted core's registers; else it is denied and nothing changes. The number 8 of the sensor's notice is
the model's (assumption 62), and so is that a register access needs the tile halted (assumption 73). -/
def Obligations.SecurityAndDebug : Prop :=
  (∀ (s : State), s.live = true →
      (∀ v : Viol, let p := v.piste.val
        ∃ t, exec (.violationReport v) s = .next t ∧ t.get pgPmap F.PMAP_PISTE_VIOLS p = min 255 (s.get pgPmap F.PMAP_PISTE_VIOLS p + 1) ∧
          t.flag pgPmap F.PMAP_VIOL_VALID = true ∧
          (s.flag pgPmap F.PMAP_VIOL_VALID = false → t.get pgPmap F.PMAP_VIOL_PISTE 0 = p ∧ t.get pgPmap F.PMAP_VIOL_STOP 0 = v.stop.val ∧
            t.get pgPmap F.PMAP_VIOL_OP 0 = v.op % 64 ∧ t.get pgPmap F.PMAP_VIOL_ADDR_PA 0 = v.pa % 2 ^ 52) ∧
          (s.flag pgPmap F.PMAP_VIOL_VALID = true → t.flag pgPmap F.PMAP_VIOL_OVF = true ∧
            t.get pgPmap F.PMAP_VIOL_PISTE 0 = s.get pgPmap F.PMAP_VIOL_PISTE 0) ∧
          (if max 1 (s.get pgSec F.SEC_VCTL_THRESH 0) ≤ min 255 (s.get pgPmap F.PMAP_PISTE_VIOLS p + 1) then t.flag pgSec F.SEC_SENSOR_EVENT 5 = true
           else t.sys = s.sys)) ∧
      (∀ (n : Fin 6) (src : Option (Fin 64)), let lvl := max (s.get pgSec F.SEC_SENSOR_LEVEL n) (s.get pgSec F.SEC_SENSOR_FLOOR n)
        let piste := src.isSome = true ∧ n = 5
        ∃ t, exec (.sensorFire n src) s = .next t ∧ t.flag pgSec F.SEC_SENSOR_EVENT n = true ∧
          (s.get pgSec F.SEC_SENSOR_COUNT n < 255 → t.get pgSec F.SEC_SENSOR_COUNT n = s.get pgSec F.SEC_SENSOR_COUNT n + 1) ∧
          tget t.sys.notices 0 [] = tget s.sys.notices 0 [] ++ [8] ∧ t.sys.i3cIbi = s.sys.i3cIbi + 1 ∧
          (lvl = 0 → t.frozen = s.frozen ∧ t.sys.pstopped = s.sys.pstopped ∧ t.sys.keyGen = s.sys.keyGen) ∧
          (∀ p, lvl = 1 → n = 5 → src = some p → p.val ∈ t.sys.pstopped ∧ t.frozen = s.frozen ∧ ∀ (h : Fin 8) (q : Fin 5),
            t.flag (pgPort h q) F.PORT_CTL_BME = (s.flag (pgPort h q) F.PORT_CTL_BME && s.get (pgPort h q) F.PORT_CTL_PISTE 0 ≠ p.val)) ∧
          (lvl = 2 ∨ (lvl = 1 ∧ ¬ piste) → t.frozen = true ∧ t.sys.keyGen = s.sys.keyGen) ∧
          (lvl = 3 → t.frozen = true ∧ t.flag pgSec F.SEC_STAT_ERASED = true ∧ ∀ k < 256, t.get pgKeys F.KS_SLOT_KIND k = 0 ∧
            t.flag pgKeys F.KS_SLOT_ERASED k = true)) ∧
      (∀ pair : Fin 2, let f (k : Fin 2) := if k = 0 then F.SEC_STAT_PAIR0_OK else F.SEC_STAT_PAIR1_OK
        ∃ t, exec (.lockstepMismatch pair) s = .next t ∧ t.flag pgSec (f pair) = false ∧ t.flag pgSec (f (1 - pair)) = s.flag pgSec (f (1 - pair)) ∧
          (s.flag pgSec (f (1 - pair)) = false → t.frozen = true) ∧ (s.flag pgSec (f (1 - pair)) = true → t.frozen = s.frozen)) ∧
      (∀ pair : Fin 2, s.frozen = false → ∃ t, exec (.patrolWatchdog pair) s = .next t ∧ t.rasSeq = s.rasSeq + 1 ∧ t.cores = s.cores)) ∧
  (∀ (st : Stop) (piste : Fin 64) (s : State), s.live = true →
      let open_ := s.sys.dbgOpen = true ∧ s.flag pgPmap F.PMAP_PISTE_DBG (s.tilePiste st) = true
      let held := st.val ∈ s.sys.halted
      (s.patrolUp = true → ∃ t, exec (.debugChallenge piste true) s = .next t ∧ t.sys = { s.sys with dbgOpen := true } ∧ t.regs = s.regs) ∧
      exec (.debugChallenge piste false) s = .next s ∧
      (isTile st = true →
        (∀ d : DbgOp, ¬ open_ → exec (.debugPortAccess st d) s = .next { s with respStatus := .denied, respValue := 0 }) ∧
        (open_ → (∃ t, exec (.debugPortAccess st .halt) s = .next t ∧ t.respStatus = .ok ∧ st.val ∈ t.sys.halted ∧ t.cores = s.cores) ∧
          (∃ t, exec (.debugPortAccess st .resume) s = .next t ∧ t.respStatus = .ok ∧ st.val ∉ t.sys.halted ∧ t.cores = s.cores) ∧
          (held → ∀ n : Fin 32,
            (∃ t, exec (.debugPortAccess st (.readG n)) s = .next t ∧ t.respStatus = .ok ∧ t.cores = s.cores ∧
              t.respValue = if n = 0 then 0 else (tget (s.core st).arch.g n.val ⟨0, none⟩).v) ∧
            (∀ v : Word, ∃ t, exec (.debugPortAccess st (.writeG n v)) s = .next t ∧ t.respStatus = .ok ∧
              (n = 0 → t.cores = s.cores) ∧ (n ≠ 0 → (tget (t.core st).arch.g n.val ⟨0, none⟩).v = v ∧
                ∀ m, m ≠ n.val → tget (t.core st).arch.g m ⟨0, none⟩ = tget (s.core st).arch.g m ⟨0, none⟩))) ∧
          (held → ∃ t, exec (.debugPortAccess st .singleStride) s = .next t ∧ t.respStatus = .ok ∧ t.sys.halted = s.sys.halted ∧
            t.core st = ({ s with sys := { s.sys with halted := s.sys.halted.filter (· ≠ st.val) } }.strideIssue st (s.core st).dbgTrack).core st))))

/-- R559-R561: a ramp that ends leaves the tile at its target. A power estimate gives the average of the last hundred, moves CAP by its
runs of slow and fast estimates to a valid entry or leaves it, and puts a die at TJMAX in emergency until it is below HOT. -/
def Obligations.PerformanceStates : Prop :=
  ∀ (s : State), s.live = true →
    (∀ st : Stop, isTile st = true → let tl := pgTlift st
      (s.flag tl F.TLIFT_PSTAT_MOVING = true → s.get tl F.TLIFT_TSTAT_STATE 0 = 0 → ∃ t, exec (.pstateMove st) s = .next t ∧
        t.get tl F.TLIFT_PSTAT_CUR 0 = s.get tl F.TLIFT_PSTAT_TARGET 0 % 16 ∧ t.cores = s.cores) ∧
      (s.flag tl F.TLIFT_PSTAT_MOVING = false → exec (.pstateMove st) s = .next s)) ∧
    (∀ (watts : Nat) (temps : List Int), let pwr := (watts :: s.sys.pwr).take 100
      let avg := pwr.foldl (· + ·) 0 / pwr.length
      let lim := s.get pgLift F.LIFT_PLIM_WATTS 0
      let hot : Int := s.get pgLift F.LIFT_THERM_HOT 0
      let tj : Int := s.get pgLift F.LIFT_THERM_TJMAX 0
      let temp (d : Nat) := lget temps d (lget s.sys.temps d 0)
      let slow := lim < avg ∨ ∃ d < 4, hot ≤ temp d
      let fast := avg * 100 < 95 * lim ∧ ∀ d < 4, temp d + 5 < hot
      let cap := s.get pgLift F.LIFT_PWR_STAT_CAP 0
      ∃ t, exec (.powerEstimate watts temps) s = .next t ∧ t.get pgLift F.LIFT_PWR_STAT_AVG 0 = min avg 1023 ∧
        (slow → t.sys.slowRun = s.sys.slowRun + 1 ∧ (s.sys.slowRun % 10 = 0 → t.get pgLift F.LIFT_PWR_STAT_CAP 0 = s.psAt (cap + 1)) ∧
          (s.sys.slowRun % 10 ≠ 0 → t.get pgLift F.LIFT_PWR_STAT_CAP 0 = cap % 16)) ∧
        (fast → t.sys.fastRun = s.sys.fastRun + 1 ∧ t.sys.slowRun = 0 ∧ ((s.sys.fastRun + 1) % 100 = 0 →
          t.get pgLift F.LIFT_PWR_STAT_CAP 0 = (((List.range cap).reverse.find? fun k => s.psValid k).getD cap) % 16)) ∧
        (¬ slow → ¬ fast → t.sys.slowRun = 0 ∧ t.sys.fastRun = 0 ∧ t.get pgLift F.LIFT_PWR_STAT_CAP 0 = cap % 16) ∧
        (∀ d < 4, d ∈ t.sys.emerg ↔ (tj ≤ temp d ∨ (d ∈ s.sys.emerg ∧ hot ≤ temp d))) ∧
        (t.flag pgLift F.LIFT_PWR_STAT_THERM_EMERG = true ↔ t.sys.emerg ≠ []))

/-- R402, R563-R565 and R573: a tile whose oldest carve holds WFI with nothing to present stops its core, and is then in T1, or goes
through its phases to T2 or T3, where the caches that state does not keep are empty; the state it goes to is the one TARGET gave as it
began. A source that appears while it prepares takes it back. A halted or powered tile wakes: from T2 with its state, from T3 with its
core at reset and fetch at TLIFT_RESTART. The phases, one for each command, are the model's (assumption 84). -/
def Obligations.TileStates : Prop :=
  ∀ (st : Stop) (s : State), s.live = true → isTile st = true →
    let tl := pgTlift st
    let tgt := s.get tl F.TLIFT_TCTL_TARGET 0
    let cur := s.get tl F.TLIFT_TSTAT_STATE 0
    let ph := s.get tl F.TLIFT_TSTAT_PHASE 0
    let dest := tget s.sys.enterTo st.val 0
    (s.flag tl F.TLIFT_TCTL_FORCE_T3 = false → cur = 0 →
      (ph = 0 → s.oldestWfi st = true → s.lecPresent st = none →
        (tgt = 1 → ∃ t, exec (.tileStateEntry st) s = .next t ∧ t.get tl F.TLIFT_TSTAT_PHASE 0 = 2 ∧ t.get tl F.TLIFT_TSTAT_STATE 0 = 0 ∧
          tget t.sys.enterTo st.val 0 = 1 ∧ t.core st = { s.core st with running := false } ∧ t.caches = s.caches) ∧
        (tgt = 2 ∨ tgt = 3 → ∃ t, exec (.tileStateEntry st) s = .next t ∧ t.get tl F.TLIFT_TSTAT_PHASE 0 = 1 ∧ t.get tl F.TLIFT_TSTAT_STATE 0 = 0 ∧
          tget t.sys.enterTo st.val 0 = tgt ∧ (t.core st).running = false ∧ (t.core st).order = [] ∧ (t.core st).arch = (s.core st).arch ∧ t.caches = s.caches ∧
          ∀ k, (s.core st).order.head? = some k → (t.core st).fetch.pc = some ((s.core st).sta k).addr)) ∧
      (ph = 0 → s.oldestWfi st = false ∨ (s.lecPresent st).isSome = true ∨ tgt = 0 → exec (.tileStateEntry st) s = .next s) ∧
      (ph = 1 → (s.lecPresent st).isSome = true → ∃ t, exec (.tileStateEntry st) s = .next t ∧ t.get tl F.TLIFT_TSTAT_PHASE 0 = 0 ∧
        (t.core st).running = s.flag (pgCore st) F.PAGE_STAT_ENABLED ∧ t.gate st 0 = .open_) ∧
      (ph = 1 → s.lecPresent st = none → dest = 2 → (s.core st).wc = [] → (s.cache st).l1 = [] → (s.core st).sq = [] → s.gateIdle st 0 = true →
        ∃ t, exec (.tileStateEntry st) s = .next t ∧ t.get tl F.TLIFT_TSTAT_PHASE 0 = 2 ∧ t.get tl F.TLIFT_TSTAT_STATE 0 = 0) ∧
      (ph = 2 → dest = 1 ∨ dest = 2 ∨ dest = 3 → ∃ t, exec (.tileStateEntry st) s = .next t ∧ t.get tl F.TLIFT_TSTAT_STATE 0 = dest ∧
        t.get tl F.TLIFT_TSTAT_PHASE 0 = 0 ∧ (dest = 1 → t.caches = s.caches ∧ t.cores = s.cores) ∧
        (dest ≠ 1 → (t.cache st).l1 = [] ∧ (t.cache st).cc = [] ∧ (t.cache st).trackers = [] ∧ (t.core st).dtlb = [] ∧ (t.core st).itlb = [] ∧
          (t.core st).l2tlb = []) ∧
        (dest = 2 → (t.cache st).l2 = (s.cache st).l2) ∧ (dest = 3 → (t.cache st).l2 = []))) ∧
    (cur = 1 → (s.lecPresent st).isSome = true → ∃ t, exec (.tileWake st) s = .next t ∧ t.get tl F.TLIFT_TSTAT_STATE 0 = 0 ∧
      (t.core st).running = s.flag (pgCore st) F.PAGE_STAT_ENABLED ∧ (t.core st).arch = (s.core st).arch ∧ st.val ∉ t.wakeQ) ∧
    (cur = 2 ∨ cur = 3 → ph = 4 → ∃ t, exec (.tileWake st) s = .next t ∧ t.get tl F.TLIFT_TSTAT_STATE 0 = 0 ∧ t.get tl F.TLIFT_TSTAT_PHASE 0 = 0 ∧
      (t.core st).running = s.flag (pgCore st) F.PAGE_STAT_ENABLED ∧ t.gate st 0 = .open_ ∧ st.val ∉ t.wakeQ ∧
      (cur = 2 → t.core st = { s.core st with running := s.flag (pgCore st) F.PAGE_STAT_ENABLED }) ∧
      (cur = 3 → (t.core st).arch = Arch.reset ∧ (t.core st).sr = Sr.reset ∧ (t.core st).order = [] ∧ (t.core st).pred = (s.core st).pred ∧
        (t.core st).fetch.pc = some (s.get tl F.TLIFT_RESTART_ADDR 0 * 64) ∧ t.gate st 1 = .open_ ∧ t.gate st 2 = .open_)) ∧
    (cur = 0 → exec (.tileWake st) s = .next s)

/-- R303, R567, R568, R570-R573, R575, R583 and R594: a wake event by level stays and starts the exit from PK1, as one by edge does in
PK1; an edge while PK1 is prepared abandons it, one in the entry window is lost and counted. Free tokens go to waiting tiles in
logical order and come back. PK1 is prepared in phases: every hub silent; with the NMCs idle, every channel in self-refresh; then the
window closes. A participant that refuses or is silent is recorded, and the hubs resume where they had stopped. The exit reloads the
mesh cycle counts. A tile that shows no power-good is marked failed. The phases, one for each command, are the model's (assumption
84). -/
def Obligations.WakesAndPackageIdle : Prop :=
  ∀ (s : State), s.live = true →
    let pk := s.get pgLift F.LIFT_PK_STAT_STATE 0
    let ph := s.get pgLift F.LIFT_PK_STAT_PHASE 0
    let abort (t : State) (r : Refuser) (tmo : Bool) : Prop := t.flag pgLift F.LIFT_ABORT_WHO_VALID = true ∧
      t.get pgLift F.LIFT_ABORT_WHO_KIND 0 = r.kind % 4 ∧ t.get pgLift F.LIFT_ABORT_WHO_INDEX 0 = r.index % 256 ∧
      t.get pgLift F.LIFT_ABORT_WHO_REASON 0 = r.reason % 8 ∧ t.flag pgLift F.LIFT_ABORT_WHO_TMO = tmo ∧
      t.get pgLift F.LIFT_PK_STAT_PHASE 0 = (if ph = 1 then 3 else 0) ∧ t.get pgLift F.LIFT_PK_STAT_STATE 0 = pk ∧ t.sys.pk1Barred = true
    (∀ lt st, s.ltStop lt = some st → (s.lecPresent st).isSome = true → s.get (pgTlift st) F.TLIFT_TSTAT_STATE 0 ≠ 0 →
      ∃ t, exec (.wakeEvent (.tile lt)) s = .next t ∧ st ∈ t.wakeQ ∧ (pk = 1 → ph = 0 → t.get pgLift F.LIFT_PK_STAT_PHASE 0 = 4)) ∧
    (∀ n : Fin 8, (bitOf (s.get pgLift F.LIFT_WAKE_CFG_EN 0) n = false → exec (.wakeEvent (.source n)) s = .next s) ∧
      (bitOf (s.get pgLift F.LIFT_WAKE_CFG_EN 0) n = true → bitOf (s.get pgLift F.LIFT_WAKE_CFG_EDGE 0) n = false →
        ∃ t, exec (.wakeEvent (.source n)) s = .next t ∧ n.val ∈ t.sys.wakeLevels ∧ (pk = 1 → ph = 0 → t.get pgLift F.LIFT_PK_STAT_PHASE 0 = 4)) ∧
      (bitOf (s.get pgLift F.LIFT_WAKE_CFG_EN 0) n = true → bitOf (s.get pgLift F.LIFT_WAKE_CFG_EDGE 0) n = true → ph = 2 →
        ∃ t, exec (.wakeEvent (.source n)) s = .next t ∧ t.get pgLift F.LIFT_WAKE_STAT_LAST_LOST 0 = n ∧ t.sys = s.sys ∧
          (s.get pgLift F.LIFT_WAKE_STAT_LOST 0 < 2 ^ 32 - 1 → t.get pgLift F.LIFT_WAKE_STAT_LOST 0 = s.get pgLift F.LIFT_WAKE_STAT_LOST 0 + 1)) ∧
      (bitOf (s.get pgLift F.LIFT_WAKE_CFG_EN 0) n = true → bitOf (s.get pgLift F.LIFT_WAKE_CFG_EDGE 0) n = true →
        (pk = 1 → ph = 0 → ∃ t, exec (.wakeEvent (.source n)) s = .next t ∧ t.get pgLift F.LIFT_PK_STAT_PHASE 0 = 4) ∧
        (ph = 1 → ∃ t, exec (.wakeEvent (.source n)) s = .next t ∧ t.get pgLift F.LIFT_PK_STAT_PHASE 0 = 0 ∧
          ∀ h < 8, (t.hub h).quiesced = false))) ∧
    (let cmp := s.get pgLift F.LIFT_WAKE_TMR_CMP 0
     (cmp ≠ 0 → cmp ≤ s.chrono → ∃ t, exec .liftWakeTmr s = .next t ∧ 8 ∈ t.sys.wakeLevels ∧
       (pk = 1 → ph = 0 → t.get pgLift F.LIFT_PK_STAT_PHASE 0 = 4)) ∧
     (cmp = 0 ∨ s.chrono < cmp → exec .liftWakeTmr s = .next s)) ∧
    (pk = 0 → ph = 0 → let k := max 1 (s.get pgLift F.LIFT_WAKE_TOKENS 0)
      let who := (((List.range 160).filterMap fun lt => s.ltStop lt).filter fun st => s.mayWake st).take (k - s.sys.tokensOut)
      ∃ t, exec .wakeTokenGrant s = .next t ∧ t.sys.tokensOut = s.sys.tokensOut + who.length ∧
        ∀ st ∈ who, t.get (pgTlift st) F.TLIFT_TSTAT_PHASE 0 = 4 ∧ st ∉ t.wakeQ) ∧
    (0 < s.sys.tokensOut → ∃ t, exec .wakeTokenReturn s = .next t ∧ t.sys.tokensOut + 1 = s.sys.tokensOut ∧ t.regs = s.regs) ∧
    (s.pk1Ready = true → s.pkRefuser = none → ∃ t, exec (.pk1Entry none) s = .next t ∧ t.get pgLift F.LIFT_PK_STAT_PHASE 0 = 1 ∧
      t.get pgLift F.LIFT_PK_STAT_STATE 0 = 0 ∧ ∀ h < 8, (t.hub h).quiesced = true) ∧
    (pk = 0 → ph = 1 → s.pkRefuser = none →
      (s.nmcWaits = true → exec (.pk1Entry none) s = .next s) ∧
      (s.nmcWaits = false → s.pkFlushed = [] → ∃ t, exec (.pk1Entry none) s = .next t ∧ t.get pgLift F.LIFT_PK_STAT_PHASE 0 = 2 ∧
        t.get pgLift F.LIFT_PK_STAT_STATE 0 = 0 ∧ ∀ c < 48, t.flag (pgCh c) F.NMC_CH_STAT_SELF_REFRESH = true)) ∧
    (pk = 0 → ph = 3 → ∃ t, exec (.pk1Entry none) s = .next t ∧ t.get pgLift F.LIFT_PK_STAT_PHASE 0 = 0 ∧ ∀ h < 8, (t.hub h).quiesced = false) ∧
    (∀ r : Refuser, s.pk1Ready = true ∨ (pk = 0 ∧ ph = 1) → s.pkRefuser = none → ∃ t, exec (.pk1Entry (some r)) s = .next t ∧ abort t r false) ∧
    (∀ k i w, s.pk1Ready = true ∨ (pk = 0 ∧ ph = 1) → s.pkRefuser = some (k, i, w) → ∃ t, exec (.pk1Entry none) s = .next t ∧
      abort t ⟨k, i, w⟩ false) ∧
    (pk = 0 → ph = 2 → ∃ t, exec (.pk1Entry none) s = .next t ∧ t.get pgLift F.LIFT_PK_STAT_STATE 0 = 1 ∧
      t.get pgLift F.LIFT_PK_STAT_PHASE 0 = if s.wakePending then 4 else 0) ∧
    (pk = 1 → ph = 4 → ∃ t, exec .pk1Exit s = .next t ∧ t.get pgLift F.LIFT_PK_STAT_STATE 0 = 0 ∧ t.get pgLift F.LIFT_PK_STAT_PHASE 0 = 0 ∧
      (∀ h < 8, (t.hub h).quiesced = false) ∧ ∀ r < 192, ∀ o < 6, tget (tget t.routers r Router.empty).cyc o 0 = s.chrono) ∧
    (∀ r : Refuser, s.frozen = false → s.sys.rasRun = none →
      (r.kind ≠ 0 → ph = 1 → s.sys.rasWait = [] → ∃ t, exec (.liftHandshakeTimeout r) s = .next t ∧ abort t r true) ∧
      (∀ st, r.kind = 0 → s.ltStop r.index = some st → s.get (pgTlift st) F.TLIFT_TSTAT_PHASE 0 = 4 →
        ∃ t, exec (.liftHandshakeTimeout r) s = .next t ∧ t.get (pgTlift st) F.TLIFT_TSTAT_PHASE 0 = 0 ∧ st ∈ t.sys.failedStops))

/-- R578-R581 and R590: a block's report sets its class bit, writes a record with the time, page, class and number unless the ring is
full, and sends a FATAL or UCR error to source 0 or 1 of the target tile; a block with a FATAL error stops. An aging margin below
AGE_PS is a report, and starts a warm swap of the tile where AUTO_SWAP allows one. That record and event are one step is the model's
(assumption 90), and so is that a swap starts at once (assumption 59). -/
def Obligations.ErrorsAreReported : Prop :=
  ∀ (s : State), s.live = true → s.sys.rasRun = none →
    (∀ r : ErrReport, let pg := pageNo r.page.stop r.page.slot
      let head := s.get pgRas F.RAS_REC_STAT_HEAD 0
      let at_ (t : State) (o : Nat) := leNat (Mem.rds t.sram (rasBase + head * 64 + o) 8)
      (pageTypeNo pg).isSome = true → r.cls < 3 → (∀ e ∈ s.spares, e.2 ≠ r.page.stop.val) →
      ∃ t, exec (.rasReport r) s = .next t ∧ s.rasSeq < t.rasSeq ∧
        (r.cls = 0 → t.flag pg F.PAGE_ERR_CE = true) ∧ (r.cls = 1 → t.flag pg F.PAGE_ERR_UCR = true) ∧ (r.cls = 2 → t.flag pg F.PAGE_ERR_FATAL = true) ∧
        ((head + 1) % 512 ≠ s.get pgRas F.RAS_REC_STAT_TAIL 0 → at_ t 0 = s.chrono % 2 ^ 64 ∧ at_ t 0x28 % 256 = r.cls + 1 ∧
          at_ t 8 % 2 ^ 16 = r.page.stop.val + r.page.slot.val * 256 ∧ at_ t 0x18 = (r.pa.getD 0) % 2 ^ 64 ∧ at_ t 0x30 = s.rasSeq % 2 ^ 64) ∧
        ((head + 1) % 512 = s.get pgRas F.RAS_REC_STAT_TAIL 0 → t.sram = s.sram) ∧
        (1 ≤ r.cls → s.rasTarget pg < 160 → ∃ q ∈ (t.ni 192).reqs, q.op = 0x22 ∧ q.pa = s.rasTarget pg ∧ q.be = 2 - r.cls) ∧
        (r.cls = 2 → (pageTypeNo pg = some .core → (t.core r.page.stop).stopped = true) ∧
          (pageTypeNo pg = some .l2 → (t.cache r.page.stop).dead = true) ∧ (pageTypeNo pg = some .slice → (t.slice r.page.stop).dead = true))) ∧
    (∀ (st : Stop) (margin lt : Nat), s.stopLt st = some lt → s.sys.rasWait = [] →
      (s.get pgRas F.RAS_WEAR_AGE_PS 0 ≤ margin → exec (.agingMonitorRead [(st, margin)]) s = .next s) ∧
      (margin < s.get pgRas F.RAS_WEAR_AGE_PS 0 → ∃ t, exec (.agingMonitorRead [(st, margin)]) s = .next t ∧ t.rasSeq = s.rasSeq + 1 ∧
        (s.flag pgRas F.RAS_CTL_AUTO_SWAP = false → t.sys = s.sys) ∧
        (s.flag pgRas F.RAS_CTL_AUTO_SWAP = true → s.frozen = false → s.ltStop lt = some st.val → ∀ k b, s.chooseSpare st = some (k, b) →
          ∃ x, t.sys.rasRun = some x ∧ x.op = 0 ∧ x.lt = lt ∧ x.src = st.val ∧ x.dst = b)))

/-- R601-R604 and R607: below WARN the device stops and an image with the next number, VALID unless the keys are erased, holds the record
ring; above WARN + HYST the device goes on, the image is superseded, and the event is recorded and notified; below RESET a saved
device enters PK2 and marks the image. The number 10 of the notice is the model's (assumption 62), and so is the slot a save takes
(assumption 75). -/
def Obligations.TuckAndRise : Prop :=
  ∀ (mv : Nat) (s : State), s.live = true →
    let warn := s.get pgRas F.TUCK_CTL_WARN 0
    (s.flag pgRas F.TUCK_CTL_EN = true → mv < warn → s.sys.tuckFrozen = false → let b := s.tuckSlot * 0x20000
      ∃ t, exec (.tuck mv) s = .next t ∧ t.frozen = true ∧ t.get pgRas F.TUCK_STAT_SLOT 0 = s.tuckSlot ∧
        t.tuckNum b 4 = 0x5455434B ∧ t.tuckNum (b + 4) 4 = (if s.flag pgSec F.SEC_STAT_ERASED then 3 else 1) ∧
        t.tuckNum (b + 0x10) 8 = (s.tuckSeq s.tuckNewest + 1) % 2 ^ 64 ∧ Mem.rds t.tuck (b + 0x7000) 0x8000 = Mem.rds s.sram rasBase 0x8000 ∧
        t.cores = s.cores ∧ (s.get pgRas F.TUCK_STAT_TUCKS 0 < 2 ^ 32 - 1 →
          t.get pgRas F.TUCK_STAT_TUCKS 0 = s.get pgRas F.TUCK_STAT_TUCKS 0 + 1)) ∧
    (s.flag pgRas F.TUCK_CTL_EN = false ∨ warn ≤ mv → exec (.tuck mv) s = .next s) ∧
    (s.sys.tuckFrozen = true → warn + s.get pgRas F.TUCK_CTL_HYST 0 < mv → let b := s.get pgRas F.TUCK_STAT_SLOT 0 * 0x20000
      ∃ t, exec (.rise mv) s = .next t ∧ t.sys.tuckFrozen = false ∧ t.rasSeq = s.rasSeq + 1 ∧ t.cores = s.cores ∧
        tget t.sys.notices 0 [] = tget s.sys.notices 0 [] ++ [10] ∧ (s.tuckNum (b + 4) 4 = 1 → t.tuckNum (b + 4) 4 = 2) ∧
        (s.get pgRas F.TUCK_STAT_RISES 0 < 2 ^ 16 - 1 → t.get pgRas F.TUCK_STAT_RISES 0 = s.get pgRas F.TUCK_STAT_RISES 0 + 1)) ∧
    (s.sys.tuckFrozen = false ∨ mv ≤ warn + s.get pgRas F.TUCK_CTL_HYST 0 → exec (.rise mv) s = .next s) ∧
    (mv < s.get pgRas F.TUCK_CTL_RESET 0 → s.sys.tuckFrozen = true → ∃ t, exec (.pk2Entry mv) s = .next t ∧ t.sys.phase = .pk2 ∧
      t.tuckNum (s.get pgRas F.TUCK_STAT_SLOT 0 * 0x20000 + 8) 4 = 1) ∧
    (s.get pgRas F.TUCK_CTL_RESET 0 ≤ mv → exec (.pk2Entry mv) s = .next s)

/-- R632, R640 and R641: cold reset takes every register, core, cache, pad and queue of the mesh to reset and the chrono to zero, keeps
the fuses and the tuck store, makes keys that no fuse derives new ones, and is left into the running device; out of THERMTRIP only a
falling PWR_OK leads, and THERMTRIP stops every clock. R634 and R635: an index of the I3C port reads the boot status, temperatures,
power, security and tuck status, the chrono, or zero; the assigned address stands; the test port gives the IDCODE for its instruction
and refuses EXTEST, as no shipped part's fuses permit it. Which keys come back, and the way out of THERMTRIP, are the model's readings
(assumptions 49, 78). -/
def Obligations.ColdResetBootAndPorts : Prop :=
  (∀ (s : State),
      (∀ why : ResetCause, (s.sys.phase = .thermTrip → why = .pwrOkLow) → ∃ t, exec (.coldResetEntry why) s = .next t ∧ t.sys.phase = .coldReset ∧
        t.regs = State.reset.regs ∧ t.cores = State.reset.cores ∧ t.caches = State.reset.caches ∧ t.slices = State.reset.slices ∧
        t.pads = State.reset.pads ∧ t.nis = State.reset.nis ∧ t.hubs = State.reset.hubs ∧ t.chrono = 0 ∧ t.sys.bootStep = 0 ∧ t.tuck = s.tuck ∧
        t.sys.spareFuse = s.sys.spareFuse ∧ t.sys.svnFloor = s.sys.svnFloor ∧ t.sys.bootEp = s.sys.bootEp ∧ t.sys.keyHash = s.sys.keyHash ∧
        t.sys.keyRevoked = s.sys.keyRevoked ∧ t.sys.flashOn = false ∧
        ∀ n < 256, s.get pgKeys F.KS_SLOT_KIND n ≠ 4 → s.get pgKeys F.KS_SLOT_KIND n ≠ 5 → tget t.sys.keyGen n 0 = tget s.sys.keyGen n 0 + 1) ∧
      (∀ why : ResetCause, s.sys.phase = .thermTrip → why ≠ .pwrOkLow → exec (.coldResetEntry why) s = .next s) ∧
      (s.sys.phase = .coldReset → exec .coldResetExit s = .next { s with sys := { s.sys with phase := .running } }) ∧
      (s.sys.phase ≠ .coldReset → exec .coldResetExit s = .next s) ∧
      (∀ die : Fin 4, s.live = true → ∃ t, exec (.thermtrip die) s = .next t ∧ t.live = false ∧ t.sys.thermTrip = true ∧
        t.sys.i3cIbi = s.sys.i3cIbi + 1 ∧ t.regs = s.regs)) ∧
  (∀ (s : State), s.live = true →
      (∀ i : Byte, ∃ t, exec (.i3cIndexWrite i) s = .next t ∧ t.regs = s.regs ∧ t.respStatus = .ok ∧ t.respValue = BitVec.ofNat 64 t.sys.i3cOut ∧
        (i = 0 → t.sys.i3cOut = s.sys.bootStep + 16 * s.sys.bootErr + 256 * b2n s.sys.bootHalted) ∧
        (i = 1 → ∀ d < 4, t.sys.i3cOut / 256 ^ d % 256 = (lget s.sys.temps d 0 % 256).toNat) ∧
        (i = 2 → t.sys.i3cOut = s.rawReg pgLift 0x190) ∧ (i = 3 → t.sys.i3cOut = s.rawReg pgSec 0x130) ∧ (i = 4 → t.sys.i3cOut = s.rawReg pgRas 0x148) ∧
        (i = 5 → t.sys.i3cOut = s.chrono) ∧ (6 ≤ i.toNat → t.sys.i3cOut = 0)) ∧
      (∀ a : Nat, ∃ t, exec (.i3cDynamicAddressAssignment a) s = .next t ∧ t.sys = { s.sys with i3cAddr := a % 128 } ∧ t.regs = s.regs) ∧
      (∀ j : JtagOp, j ≠ .extest → ∃ t, exec (.jtagInstruction j) s = .next t ∧ t.sys.jtag = j ∧ t.respStatus = .ok ∧ t.regs = s.regs ∧
        (j = .idcode → t.respValue.toNat = 0x19160 * 2 ^ 12 + Config.makerCode % 2 ^ 11 * 2 + 1)) ∧
      (∃ t, exec (.jtagInstruction .extest) s = .next t ∧ t.respStatus = .denied ∧ t.sys = { s.sys with jtagRefused := true } ∧ t.cores = s.cores))

/-- R553, R554, R633, R643, R645 and R646: the boot stops with its code and halted at a failed self-test or fuse check; brings the flash
port out of reset in the mode SFDP offers; takes the first of flash copy 1 and copy 2 that its header, key, signature, version and
digest let it accept, with its body in the Patrol's SRAM; and waits with code 2 where there is none. Its last step runs LT0 from its
pad, zeroed but for the hand-off block and the boot loader. Without a boot endpoint the flash is read again, and an image that is
accepted takes the boot on. How far a boot goes with each input is the model's summary of R643 (assumption 80). -/
def Obligations.BootSteps : Prop :=
  ∀ (b : BootIn) (s : State), s.live = true → s.sys.bootHalted = false →
    let taken (t : State) (img : List Byte) (n : Nat) : Prop := imgForm img = true ∧ s.sys.svnFloor ≤ imgNum img 4 4 ∧
      t.get pgSec F.SEC_BOOT_SVN 0 = imgNum img 4 4 % 2 ^ F.SEC_BOOT_SVN.w ∧ t.get pgSec F.SEC_BOOT_KEYIDX 0 = imgNum img 8 4 ∧
      t.get pgSec F.SEC_BOOT_SOURCE 0 = n ∧ t.sram = Mem.wrs s.sram (imgNum img 0x10 8) (imgBody img) ∧ t.sys.fwEntry = imgNum img 0x18 8 ∧
      t.sys.bootStep = 3 ∧ t.sys.bootErr = 3 ∧ t.sys.bootHalted = true ∧ t.sys.flashOn = true ∧ t.sys.flash8d = b.sfdp8d
    let counted (t : State) (k : Nat) : Prop := s.get pgSec F.SEC_BOOT_FAILS 0 < 250 →
      t.get pgSec F.SEC_BOOT_FAILS 0 = s.get pgSec F.SEC_BOOT_FAILS 0 + k
    let none_ := s.imgOk b.imageA = false ∧ s.imgOk b.imageB = false
    let waits (t : State) : Prop := t.sys.bootStep = 1 ∧ t.sys.bootErr = 2 ∧ t.sys.bootHalted = false ∧ t.sys.flashOn = true ∧
      t.sys.flash8d = b.sfdp8d ∧ t.sram = s.sram ∧ counted t 2
    (s.sys.bootStep = 0 →
      (b.selfTest = false → ∃ t, exec (.boot b) s = .next t ∧ t.sys.bootStep = 0 ∧ t.sys.bootErr = 1 ∧ t.sys.bootHalted = true) ∧
      (b.selfTest = true → none_ → ∃ t, exec (.boot b) s = .next t ∧ waits t) ∧
      (b.selfTest = true → b.fusesFail = true →
        (s.imgOk b.imageA = true → ∃ t, exec (.boot b) s = .next t ∧ taken t b.imageA 0 ∧ counted t 0) ∧
        (s.imgOk b.imageA = false → s.imgOk b.imageB = true → ∃ t, exec (.boot b) s = .next t ∧ taken t b.imageB 1 ∧ counted t 1))) ∧
    (∀ st, s.sys.bootStep = 7 → s.ltStop 0 = some st → s.get (pgTlift st) F.TLIFT_TSTAT_STATE 0 = 3 → ∃ t, exec (.boot b) s = .next t ∧
      t.sys.bootStep = 8 ∧ t.get (pgTlift st) F.TLIFT_TSTAT_STATE 0 = 0 ∧ (t.core st).fetch.pc = some 0x4000004000 ∧
      t.padWord st 0x3900 = 0x4B5A4846 ∧ ∀ i < 0x3C000, ∀ x, b.loader[i]? = some x → Mem.rd t.pads (padKey st (0x4000 + i)) = x) ∧
    (s.sys.bootStep = 8 → exec (.boot b) s = .next s) ∧
    (s.sys.bootStep = 1 → s.sys.bootEp = 0 →
      (none_ → ∃ t, exec (.imageRetry b) s = .next t ∧ waits t) ∧
      (b.fusesFail = true → s.imgOk b.imageA = false → s.imgOk b.imageB = true →
        ∃ t, exec (.imageRetry b) s = .next t ∧ taken t b.imageB 1 ∧ counted t 1)) ∧
    (s.sys.bootEp ≠ 0 → exec (.imageRetry b) s = .next s)
end

