-- ==== Sys2Proof/Laws/Exec.lean ====
section
/-! SUPPORT. The meaning each command runs, so that no later proof unfolds the dispatcher. -/

namespace Sys2Proof.Machine

@[simp] theorem exec_registerWrite {w pa k v} {s : State} : exec (.registerWrite w pa k v) s = execRegisterWrite w pa k v s := rfl
@[simp] theorem exec_pageErrInj {w pg v} {s : State} : exec (.pageErrInj w pg v) s = execPageErrInj w pg v s := rfl
@[simp] theorem exec_pageEnableSet {w pg} {s : State} : exec (.pageEnableSet w pg) s = execPageEnableSet w pg s := rfl
@[simp] theorem exec_pageEnableClear {w pg} {s : State} : exec (.pageEnableClear w pg) s = execPageEnableClear w pg s := rfl
@[simp] theorem exec_blockStopped {pg} {s : State} : exec (.blockStopped pg) s = execBlockStopped pg s := rfl
@[simp] theorem exec_carveFetch {st} {s : State} : exec (.carveFetch st) s = execCarveFetch st s := rfl
@[simp] theorem exec_rename {st} {s : State} : exec (.rename st) s = execRename st s := rfl
@[simp] theorem exec_dispatch {st} {s : State} : exec (.dispatch st) s = execDispatch st s := rfl
@[simp] theorem exec_strideIssue {st trk} {s : State} : exec (.strideIssue st trk) s = execStrideIssue st trk s := rfl
@[simp] theorem exec_lodge {st trk} {s : State} : exec (.lodge st trk) s = execLodge st trk s := rfl
@[simp] theorem exec_resultLand {st stn tag} {s : State} : exec (.resultLand st stn tag) s = execResultLand st stn tag s := rfl
@[simp] theorem exec_carveCommit {st} {s : State} : exec (.carveCommit st) s = execCarveCommit st s := rfl
@[simp] theorem exec_oldestQueueSquash {st} {s : State} : exec (.oldestQueueSquash st) s = execOldestQueueSquash st s := rfl
@[simp] theorem exec_faultRaise {st} {s : State} : exec (.faultRaise st) s = execFaultRaise st s := rfl
@[simp] theorem exec_groomEn {w st v} {s : State} : exec (.groomEn w st v) s = execGroomEn w st v s := rfl
@[simp] theorem exec_checkEn {w st v} {s : State} : exec (.checkEn w st v) s = execCheckEn w st v s := rfl
@[simp] theorem exec_speculativeReissue {st lq} {s : State} : exec (.speculativeReissue st lq) s = execSpeculativeReissue st lq s := rfl
@[simp] theorem exec_rinkFlush {w st} {s : State} : exec (.rinkFlush w st) s = execRinkFlush w st s := rfl
@[simp] theorem exec_predFlush {w st} {s : State} : exec (.predFlush w st) s = execPredFlush w st s := rfl
@[simp] theorem exec_alu {st trk sl o} {s : State} : exec (.alu st trk sl o) s = execAlu st trk sl o s := rfl
@[simp] theorem exec_shift {st trk sl o} {s : State} : exec (.shift st trk sl o) s = execShift st trk sl o s := rfl
@[simp] theorem exec_mul {st trk sl o} {s : State} : exec (.mul st trk sl o) s = execMul st trk sl o s := rfl
@[simp] theorem exec_div {st trk sl o} {s : State} : exec (.div st trk sl o) s = execDiv st trk sl o s := rfl
@[simp] theorem exec_addi {st trk sl o} {s : State} : exec (.addi st trk sl o) s = execAddi st trk sl o s := rfl
@[simp] theorem exec_andi {st trk sl o} {s : State} : exec (.andi st trk sl o) s = execAndi st trk sl o s := rfl
@[simp] theorem exec_ori {st trk sl o} {s : State} : exec (.ori st trk sl o) s = execOri st trk sl o s := rfl
@[simp] theorem exec_xori {st trk sl o} {s : State} : exec (.xori st trk sl o) s = execXori st trk sl o s := rfl
@[simp] theorem exec_slli {st trk sl o} {s : State} : exec (.slli st trk sl o) s = execSlli st trk sl o s := rfl
@[simp] theorem exec_srli {st trk sl o} {s : State} : exec (.srli st trk sl o) s = execSrli st trk sl o s := rfl
@[simp] theorem exec_srai {st trk sl o} {s : State} : exec (.srai st trk sl o) s = execSrai st trk sl o s := rfl
@[simp] theorem exec_rori {st trk sl o} {s : State} : exec (.rori st trk sl o) s = execRori st trk sl o s := rfl
@[simp] theorem exec_cmp {st trk sl o} {s : State} : exec (.cmp st trk sl o) s = execCmp st trk sl o s := rfl
@[simp] theorem exec_cmpeqi {st trk sl o} {s : State} : exec (.cmpeqi st trk sl o) s = execCmpeqi st trk sl o s := rfl
@[simp] theorem exec_cmpnei {st trk sl o} {s : State} : exec (.cmpnei st trk sl o) s = execCmpnei st trk sl o s := rfl
@[simp] theorem exec_cmplti {st trk sl o} {s : State} : exec (.cmplti st trk sl o) s = execCmplti st trk sl o s := rfl
@[simp] theorem exec_cmpgei {st trk sl o} {s : State} : exec (.cmpgei st trk sl o) s = execCmpgei st trk sl o s := rfl
@[simp] theorem exec_cmpltui {st trk sl o} {s : State} : exec (.cmpltui st trk sl o) s = execCmpltui st trk sl o s := rfl
@[simp] theorem exec_cmpgeui {st trk sl o} {s : State} : exec (.cmpgeui st trk sl o) s = execCmpgeui st trk sl o s := rfl
@[simp] theorem exec_plog {st trk sl o} {s : State} : exec (.plog st trk sl o) s = execPlog st trk sl o s := rfl
@[simp] theorem exec_li {st trk sl o} {s : State} : exec (.li st trk sl o) s = execLi st trk sl o s := rfl
@[simp] theorem exec_lih {st trk sl o} {s : State} : exec (.lih st trk sl o) s = execLih st trk sl o s := rfl
@[simp] theorem exec_cadr {st trk sl o} {s : State} : exec (.cadr st trk sl o) s = execCadr st trk sl o s := rfl
@[simp] theorem exec_imx {st trk sl o} {s : State} : exec (.imx st trk sl o) s = execImx st trk sl o s := rfl
@[simp] theorem exec_setvl {st trk sl o} {s : State} : exec (.setvl st trk sl o) s = execSetvl st trk sl o s := rfl
@[simp] theorem exec_vcfgr {st trk sl o} {s : State} : exec (.vcfgr st trk sl o) s = execVcfgr st trk sl o s := rfl
@[simp] theorem exec_vcfgw {st trk sl o} {s : State} : exec (.vcfgw st trk sl o) s = execVcfgw st trk sl o s := rfl
@[simp] theorem exec_fstatr {st trk sl o} {s : State} : exec (.fstatr st trk sl o) s = execFstatr st trk sl o s := rfl
@[simp] theorem exec_fstatw {st trk sl o} {s : State} : exec (.fstatw st trk sl o) s = execFstatw st trk sl o s := rfl
@[simp] theorem exec_srr {st trk sl o} {s : State} : exec (.srr st trk sl o) s = execSrr st trk sl o s := rfl
@[simp] theorem exec_srw {st trk sl o} {s : State} : exec (.srw st trk sl o) s = execSrw st trk sl o s := rfl
@[simp] theorem exec_srset {st trk sl o} {s : State} : exec (.srset st trk sl o) s = execSrset st trk sl o s := rfl
@[simp] theorem exec_srclr {st trk sl o} {s : State} : exec (.srclr st trk sl o) s = execSrclr st trk sl o s := rfl
@[simp] theorem exec_fence {st trk sl o} {s : State} : exec (.fence st trk sl o) s = execFence st trk sl o s := rfl
@[simp] theorem exec_syncC {st trk sl o} {s : State} : exec (.syncC st trk sl o) s = execSyncC st trk sl o s := rfl
@[simp] theorem exec_scall {st trk sl o} {s : State} : exec (.scall st trk sl o) s = execScall st trk sl o s := rfl
@[simp] theorem exec_hcall {st trk sl o} {s : State} : exec (.hcall st trk sl o) s = execHcall st trk sl o s := rfl
@[simp] theorem exec_brk {st trk sl o} {s : State} : exec (.brk st trk sl o) s = execBrk st trk sl o s := rfl
@[simp] theorem exec_udf {st trk sl o} {s : State} : exec (.udf st trk sl o) s = execUdf st trk sl o s := rfl
@[simp] theorem exec_sret {st trk sl o} {s : State} : exec (.sret st trk sl o) s = execSret st trk sl o s := rfl
@[simp] theorem exec_hret {st trk sl o} {s : State} : exec (.hret st trk sl o) s = execHret st trk sl o s := rfl
@[simp] theorem exec_wfi {st trk sl o} {s : State} : exec (.wfi st trk sl o) s = execWfi st trk sl o s := rfl
@[simp] theorem exec_rdcnt {st trk sl o} {s : State} : exec (.rdcnt st trk sl o) s = execRdcnt st trk sl o s := rfl
@[simp] theorem exec_rdchrono {st trk sl o} {s : State} : exec (.rdchrono st trk sl o) s = execRdchrono st trk sl o s := rfl
@[simp] theorem exec_exitR {st trk sl o} {s : State} : exec (.exitR st trk sl o) s = execExitR st trk sl o s := rfl
@[simp] theorem exec_callR {st trk sl o} {s : State} : exec (.callR st trk sl o) s = execCallR st trk sl o s := rfl
@[simp] theorem exec_exitX {st trk sl o} {s : State} : exec (.exitX st trk sl o) s = execExitX st trk sl o s := rfl
@[simp] theorem exec_callX {st trk sl o} {s : State} : exec (.callX st trk sl o) s = execCallX st trk sl o s := rfl
@[simp] theorem exec_ret {st trk sl o} {s : State} : exec (.ret st trk sl o) s = execRet st trk sl o s := rfl
@[simp] theorem exec_ldB {st trk sl o} {s : State} : exec (.ldB st trk sl o) s = execLdB st trk sl o s := rfl
@[simp] theorem exec_ldBu {st trk sl o} {s : State} : exec (.ldBu st trk sl o) s = execLdBu st trk sl o s := rfl
@[simp] theorem exec_ldH {st trk sl o} {s : State} : exec (.ldH st trk sl o) s = execLdH st trk sl o s := rfl
@[simp] theorem exec_ldHu {st trk sl o} {s : State} : exec (.ldHu st trk sl o) s = execLdHu st trk sl o s := rfl
@[simp] theorem exec_ldW {st trk sl o} {s : State} : exec (.ldW st trk sl o) s = execLdW st trk sl o s := rfl
@[simp] theorem exec_ldWu {st trk sl o} {s : State} : exec (.ldWu st trk sl o) s = execLdWu st trk sl o s := rfl
@[simp] theorem exec_ldD {st trk sl o} {s : State} : exec (.ldD st trk sl o) s = execLdD st trk sl o s := rfl
@[simp] theorem exec_ldfD {st trk sl o} {s : State} : exec (.ldfD st trk sl o) s = execLdfD st trk sl o s := rfl
@[simp] theorem exec_ldfW {st trk sl o} {s : State} : exec (.ldfW st trk sl o) s = execLdfW st trk sl o s := rfl
@[simp] theorem exec_ldfH {st trk sl o} {s : State} : exec (.ldfH st trk sl o) s = execLdfH st trk sl o s := rfl
@[simp] theorem exec_stB {st trk sl o} {s : State} : exec (.stB st trk sl o) s = execStB st trk sl o s := rfl
@[simp] theorem exec_stH {st trk sl o} {s : State} : exec (.stH st trk sl o) s = execStH st trk sl o s := rfl
@[simp] theorem exec_stW {st trk sl o} {s : State} : exec (.stW st trk sl o) s = execStW st trk sl o s := rfl
@[simp] theorem exec_stD {st trk sl o} {s : State} : exec (.stD st trk sl o) s = execStD st trk sl o s := rfl
@[simp] theorem exec_stfD {st trk sl o} {s : State} : exec (.stfD st trk sl o) s = execStfD st trk sl o s := rfl
@[simp] theorem exec_stfW {st trk sl o} {s : State} : exec (.stfW st trk sl o) s = execStfW st trk sl o s := rfl
@[simp] theorem exec_stfH {st trk sl o} {s : State} : exec (.stfH st trk sl o) s = execStfH st trk sl o s := rfl
@[simp] theorem exec_ldx {st trk sl o} {s : State} : exec (.ldx st trk sl o) s = execLdx st trk sl o s := rfl
@[simp] theorem exec_stx {st trk sl o} {s : State} : exec (.stx st trk sl o) s = execStx st trk sl o s := rfl
@[simp] theorem exec_ldAcq {st trk sl o} {s : State} : exec (.ldAcq st trk sl o) s = execLdAcq st trk sl o s := rfl
@[simp] theorem exec_stRel {st trk sl o} {s : State} : exec (.stRel st trk sl o) s = execStRel st trk sl o s := rfl
@[simp] theorem exec_amo {st trk sl o} {s : State} : exec (.amo st trk sl o) s = execAmo st trk sl o s := rfl
@[simp] theorem exec_amoW {st trk sl o} {s : State} : exec (.amoW st trk sl o) s = execAmoW st trk sl o s := rfl
@[simp] theorem exec_amoAr {st trk sl o} {s : State} : exec (.amoAr st trk sl o) s = execAmoAr st trk sl o s := rfl
@[simp] theorem exec_amoWAr {st trk sl o} {s : State} : exec (.amoWAr st trk sl o) s = execAmoWAr st trk sl o s := rfl
@[simp] theorem exec_cas {st trk sl o} {s : State} : exec (.cas st trk sl o) s = execCas st trk sl o s := rfl
@[simp] theorem exec_atomicPerform {st lq} {s : State} : exec (.atomicPerform st lq) s = execAtomicPerform st lq s := rfl
@[simp] theorem exec_pref {st trk sl o} {s : State} : exec (.pref st trk sl o) s = execPref st trk sl o s := rfl
@[simp] theorem exec_clean {st trk sl o} {s : State} : exec (.clean st trk sl o) s = execClean st trk sl o s := rfl
@[simp] theorem exec_inval {st trk sl o} {s : State} : exec (.inval st trk sl o) s = execInval st trk sl o s := rfl
@[simp] theorem exec_clinv {st trk sl o} {s : State} : exec (.clinv st trk sl o) s = execClinv st trk sl o s := rfl
@[simp] theorem exec_lockfill {st trk sl o} {s : State} : exec (.lockfill st trk sl o) s = execLockfill st trk sl o s := rfl
@[simp] theorem exec_xinvAd {st trk sl o} {s : State} : exec (.xinvAd st trk sl o) s = execXinvAd st trk sl o s := rfl
@[simp] theorem exec_xinvTag {st trk sl o} {s : State} : exec (.xinvTag st trk sl o) s = execXinvTag st trk sl o s := rfl
@[simp] theorem exec_xinvAll {st trk sl o} {s : State} : exec (.xinvAll st trk sl o) s = execXinvAll st trk sl o s := rfl
@[simp] theorem exec_xwait {st trk sl o} {s : State} : exec (.xwait st trk sl o) s = execXwait st trk sl o s := rfl
@[simp] theorem exec_pisteInvalidationSend {st} {s : State} : exec (.pisteInvalidationSend st) s = execPisteInvalidationSend st s := rfl
@[simp] theorem exec_vld {st trk sl o} {s : State} : exec (.vld st trk sl o) s = execVld st trk sl o s := rfl
@[simp] theorem exec_vst {st trk sl o} {s : State} : exec (.vst st trk sl o) s = execVst st trk sl o s := rfl
@[simp] theorem exec_vlds {st trk sl o} {s : State} : exec (.vlds st trk sl o) s = execVlds st trk sl o s := rfl
@[simp] theorem exec_vsts {st trk sl o} {s : State} : exec (.vsts st trk sl o) s = execVsts st trk sl o s := rfl
@[simp] theorem exec_vgather {st trk sl o} {s : State} : exec (.vgather st trk sl o) s = execVgather st trk sl o s := rfl
@[simp] theorem exec_vscatter {st trk sl o} {s : State} : exec (.vscatter st trk sl o) s = execVscatter st trk sl o s := rfl
@[simp] theorem exec_scalarFp64 {st trk sl o} {s : State} : exec (.scalarFp64 st trk sl o) s = execScalarFp64 st trk sl o s := rfl
@[simp] theorem exec_scalarFp32 {st trk sl o} {s : State} : exec (.scalarFp32 st trk sl o) s = execScalarFp32 st trk sl o s := rfl
@[simp] theorem exec_scalarFp16 {st trk sl o} {s : State} : exec (.scalarFp16 st trk sl o) s = execScalarFp16 st trk sl o s := rfl
@[simp] theorem exec_scalarBf16 {st trk sl o} {s : State} : exec (.scalarBf16 st trk sl o) s = execScalarBf16 st trk sl o s := rfl
@[simp] theorem exec_fma {st trk sl o} {s : State} : exec (.fma st trk sl o) s = execFma st trk sl o s := rfl
@[simp] theorem exec_fcmp {st trk sl o} {s : State} : exec (.fcmp st trk sl o) s = execFcmp st trk sl o s := rfl
@[simp] theorem exec_fcvtFf {st trk sl o} {s : State} : exec (.fcvtFf st trk sl o) s = execFcvtFf st trk sl o s := rfl
@[simp] theorem exec_fcvtFi {st trk sl o} {s : State} : exec (.fcvtFi st trk sl o) s = execFcvtFi st trk sl o s := rfl
@[simp] theorem exec_fcvtIf {st trk sl o} {s : State} : exec (.fcvtIf st trk sl o) s = execFcvtIf st trk sl o s := rfl
@[simp] theorem exec_fbits {st trk sl o} {s : State} : exec (.fbits st trk sl o) s = execFbits st trk sl o s := rfl
@[simp] theorem exec_vintVv {st trk sl o} {s : State} : exec (.vintVv st trk sl o) s = execVintVv st trk sl o s := rfl
@[simp] theorem exec_vintVx {st trk sl o} {s : State} : exec (.vintVx st trk sl o) s = execVintVx st trk sl o s := rfl
@[simp] theorem exec_vmac {st trk sl o} {s : State} : exec (.vmac st trk sl o) s = execVmac st trk sl o s := rfl
@[simp] theorem exec_vfpVv {st trk sl o} {s : State} : exec (.vfpVv st trk sl o) s = execVfpVv st trk sl o s := rfl
@[simp] theorem exec_vfpVf {st trk sl o} {s : State} : exec (.vfpVf st trk sl o) s = execVfpVf st trk sl o s := rfl
@[simp] theorem exec_vfma {st trk sl o} {s : State} : exec (.vfma st trk sl o) s = execVfma st trk sl o s := rfl
@[simp] theorem exec_vfds {st trk sl o} {s : State} : exec (.vfds st trk sl o) s = execVfds st trk sl o s := rfl
@[simp] theorem exec_vfcvt {st trk sl o} {s : State} : exec (.vfcvt st trk sl o) s = execVfcvt st trk sl o s := rfl
@[simp] theorem exec_vfcmp {st trk sl o} {s : State} : exec (.vfcmp st trk sl o) s = execVfcmp st trk sl o s := rfl
@[simp] theorem exec_vperm {st trk sl o} {s : State} : exec (.vperm st trk sl o) s = execVperm st trk sl o s := rfl
@[simp] theorem exec_vred {st trk sl o} {s : State} : exec (.vred st trk sl o) s = execVred st trk sl o s := rfl
@[simp] theorem exec_vfred {st trk sl o} {s : State} : exec (.vfred st trk sl o) s = execVfred st trk sl o s := rfl
@[simp] theorem exec_storeDrain {st sq} {s : State} : exec (.storeDrain st sq) s = execStoreDrain st sq s := rfl
@[simp] theorem exec_wcBufferTimeout {st line} {s : State} : exec (.wcBufferTimeout st line) s = execWcBufferTimeout st line s := rfl
@[simp] theorem exec_devSAcknowledge {st sq} {s : State} : exec (.devSAcknowledge st sq) s = execDevSAcknowledge st sq s := rfl
@[simp] theorem exec_storeRefusal {st sq r} {s : State} : exec (.storeRefusal st sq r) s = execStoreRefusal st sq r s := rfl
@[simp] theorem exec_interruptAccept {st} {s : State} : exec (.interruptAccept st) s = execInterruptAccept st s := rfl
@[simp] theorem exec_pmbRing {st} {s : State} : exec (.pmbRing st) s = execPmbRing st s := rfl
@[simp] theorem exec_pmbCompletion {st seq result rsp} {s : State} : exec (.pmbCompletion st seq result rsp) s = execPmbCompletion st seq result rsp s := rfl
@[simp] theorem exec_pmbTimeout {st} {s : State} : exec (.pmbTimeout st) s = execPmbTimeout st s := rfl
@[simp] theorem exec_evt {ni f} {s : State} : exec (.evt ni f) s = execEvt ni f s := rfl
@[simp] theorem exec_lecClaim {w st} {s : State} : exec (.lecClaim w st) s = execLecClaim w st s := rfl
@[simp] theorem exec_lecComplete {w st src} {s : State} : exec (.lecComplete w st src) s = execLecComplete w st src s := rfl
@[simp] theorem exec_lecDoorbell {w st src} {s : State} : exec (.lecDoorbell w st src) s = execLecDoorbell w st src s := rfl
@[simp] theorem exec_lecPendWrite {w st k v} {s : State} : exec (.lecPendWrite w st k v) s = execLecPendWrite w st k v s := rfl
@[simp] theorem exec_msi {h p pa data rid} {s : State} : exec (.msi h p pa data rid) s = execMsi h p pa data rid s := rfl
@[simp] theorem exec_msiRetry {h p n} {s : State} : exec (.msiRetry h p n) s = execMsiRetry h p n s := rfl
@[simp] theorem exec_irtUnmask {w h p n} {s : State} : exec (.irtUnmask w h p n) s = execIrtUnmask w h p n s := rfl
@[simp] theorem exec_lecTimer {st n} {s : State} : exec (.lecTimer st n) s = execLecTimer st n s := rfl
@[simp] theorem exec_watchdogFirstStage {st} {s : State} : exec (.watchdogFirstStage st) s = execWatchdogFirstStage st s := rfl
@[simp] theorem exec_watchdogExpiry {st} {s : State} : exec (.watchdogExpiry st) s = execWatchdogExpiry st s := rfl
@[simp] theorem exec_lecWdogKick {w st} {s : State} : exec (.lecWdogKick w st) s = execLecWdogKick w st s := rfl
@[simp] theorem exec_pageWalk {st k} {s : State} : exec (.pageWalk st k) s = execPageWalk st k s := rfl
@[simp] theorem exec_adUpdate {st k} {s : State} : exec (.adUpdate st k) s = execAdUpdate st k s := rfl
@[simp] theorem exec_xinv {ni f} {s : State} : exec (.xinv ni f) s = execXinv ni f s := rfl
@[simp] theorem exec_invalidationAck {st} {s : State} : exec (.invalidationAck st) s = execInvalidationAck st s := rfl
@[simp] theorem exec_tlbFlush {w st} {s : State} : exec (.tlbFlush w st) s = execTlbFlush w st s := rfl
@[simp] theorem exec_rdS {ni f} {s : State} : exec (.rdS ni f) s = execRdS ni f s := rfl
@[simp] theorem exec_rdO {ni f} {s : State} : exec (.rdO ni f) s = execRdO ni f s := rfl
@[simp] theorem exec_rdNc {ni f} {s : State} : exec (.rdNc ni f) s = execRdNc ni f s := rfl
@[simp] theorem exec_wrNc {ni f} {s : State} : exec (.wrNc ni f) s = execWrNc ni f s := rfl
@[simp] theorem exec_wb {ni f} {s : State} : exec (.wb ni f) s = execWb ni f s := rfl
@[simp] theorem exec_wrLine {ni f} {s : State} : exec (.wrLine ni f) s = execWrLine ni f s := rfl
@[simp] theorem exec_atom {ni f} {s : State} : exec (.atom ni f) s = execAtom ni f s := rfl
@[simp] theorem exec_maint {ni f} {s : State} : exec (.maint ni f) s = execMaint ni f s := rfl
@[simp] theorem exec_snpInv {ni f} {s : State} : exec (.snpInv ni f) s = execSnpInv ni f s := rfl
@[simp] theorem exec_snpSh {ni f} {s : State} : exec (.snpSh ni f) s = execSnpSh ni f s := rfl
@[simp] theorem exec_data {ni f} {s : State} : exec (.data ni f) s = execData ni f s := rfl
@[simp] theorem exec_ack {ni f} {s : State} : exec (.ack ni f) s = execAck ni f s := rfl
@[simp] theorem exec_tkt {ni f} {s : State} : exec (.tkt ni f) s = execTkt ni f s := rfl
@[simp] theorem exec_tktRet {ni f} {s : State} : exec (.tktRet ni f) s = execTktRet ni f s := rfl
@[simp] theorem exec_tbl {ni} {s : State} : exec (.tbl ni) s = execTbl ni s := rfl
@[simp] theorem exec_l2RangeGo {w st} {s : State} : exec (.l2RangeGo w st) s = execL2RangeGo w st s := rfl
@[simp] theorem exec_l2RangeAbort {w st} {s : State} : exec (.l2RangeAbort w st) s = execL2RangeAbort w st s := rfl
@[simp] theorem exec_rangeEngineDone {st} {s : State} : exec (.rangeEngineDone st) s = execRangeEngineDone st s := rfl
@[simp] theorem exec_l2Lock {w st mask} {s : State} : exec (.l2Lock w st mask) s = execL2Lock w st mask s := rfl
@[simp] theorem exec_lockEmptyingDone {st} {s : State} : exec (.lockEmptyingDone st) s = execLockEmptyingDone st s := rfl
@[simp] theorem exec_cacheSweepRead {st slice set way e} {s : State} : exec (.cacheSweepRead st slice set way e) s = execCacheSweepRead st slice set way e s := rfl
@[simp] theorem exec_sliceDrain {w st v} {s : State} : exec (.sliceDrain w st v) s = execSliceDrain w st v s := rfl
@[simp] theorem exec_sliceDrainDone {st} {s : State} : exec (.sliceDrainDone st) s = execSliceDrainDone st s := rfl
@[simp] theorem exec_bremapEntWrite {w b v} {s : State} : exec (.bremapEntWrite w b v) s = execBremapEntWrite w b v s := rfl
@[simp] theorem exec_padZeroingDone {st} {s : State} : exec (.padZeroingDone st) s = execPadZeroingDone st s := rfl
@[simp] theorem exec_padCopyGo {w st v} {s : State} : exec (.padCopyGo w st v) s = execPadCopyGo w st v s := rfl
@[simp] theorem exec_padCopyDone {st} {s : State} : exec (.padCopyDone st) s = execPadCopyDone st s := rfl
@[simp] theorem exec_padSweepRead {st e} {s : State} : exec (.padSweepRead st e) s = execPadSweepRead st e s := rfl
@[simp] theorem exec_nmcRequestIssue {c} {s : State} : exec (.nmcRequestIssue c) s = execNmcRequestIssue c s := rfl
@[simp] theorem exec_fallbackScheduling {c} {s : State} : exec (.fallbackScheduling c) s = execFallbackScheduling c s := rfl
@[simp] theorem exec_pageIdlePrecharge {c bank} {s : State} : exec (.pageIdlePrecharge c bank) s = execPageIdlePrecharge c bank s := rfl
@[simp] theorem exec_perBankRefresh {c bank} {s : State} : exec (.perBankRefresh c bank) s = execPerBankRefresh c bank s := rfl
@[simp] theorem exec_allBankRefresh {c} {s : State} : exec (.allBankRefresh c) s = execAllBankRefresh c s := rfl
@[simp] theorem exec_rfm {c bank} {s : State} : exec (.rfm c bank) s = execRfm c bank s := rfl
@[simp] theorem exec_deviceRfmDemand {c bank} {s : State} : exec (.deviceRfmDemand c bank) s = execDeviceRfmDemand c bank s := rfl
@[simp] theorem exec_trainGo {w n} {s : State} : exec (.trainGo w n) s = execTrainGo w n s := rfl
@[simp] theorem exec_trainingDone {n fail} {s : State} : exec (.trainingDone n fail) s = execTrainingDone n fail s := rfl
@[simp] theorem exec_dqsOscillator {c} {s : State} : exec (.dqsOscillator c) s = execDqsOscillator c s := rfl
@[simp] theorem exec_nmcSweepRead {c e} {s : State} : exec (.nmcSweepRead c e) s = execNmcSweepRead c e s := rfl
@[simp] theorem exec_nearCacheFill {c line data poison} {s : State} : exec (.nearCacheFill c line data poison) s = execNearCacheFill c line data poison s := rfl
@[simp] theorem exec_segmentZeroingDone {c} {s : State} : exec (.segmentZeroingDone c) s = execSegmentZeroingDone c s := rfl
@[simp] theorem exec_nmcCalendarEn {w c v} {s : State} : exec (.nmcCalendarEn w c v) s = execNmcCalendarEn w c v s := rfl
@[simp] theorem exec_calendarActivate {c} {s : State} : exec (.calendarActivate c) s = execCalendarActivate c s := rfl
@[simp] theorem exec_nmcCalSlot {c} {s : State} : exec (.nmcCalSlot c) s = execNmcCalSlot c s := rfl
@[simp] theorem exec_ntmapWrite {w off v} {s : State} : exec (.ntmapWrite w off v) s = execNtmapWrite w off v s := rfl
@[simp] theorem exec_bisnp {h p line kind} {s : State} : exec (.bisnp h p line kind) s = execBisnp h p line kind s := rfl
@[simp] theorem exec_d2hRequest {h p q} {s : State} : exec (.d2hRequest h p q) s = execD2hRequest h p q s := rfl
@[simp] theorem exec_h2dSnoopTimeout {h id} {s : State} : exec (.h2dSnoopTimeout h id) s = execH2dSnoopTimeout h id s := rfl
@[simp] theorem exec_hdmDecCtlWrite {w h j v} {s : State} : exec (.hdmDecCtlWrite w h j v) s = execHdmDecCtlWrite w h j v s := rfl
@[simp] theorem exec_hdmExtNextCommit {w h v} {s : State} : exec (.hdmExtNextCommit w h v) s = execHdmExtNextCommit w h v s := rfl
@[simp] theorem exec_extentSwitched {h} {s : State} : exec (.extentSwitched h) s = execExtentSwitched h s := rfl
@[simp] theorem exec_cxlLinkDown {h p viral} {s : State} : exec (.cxlLinkDown h p viral) s = execCxlLinkDown h p viral s := rfl
@[simp] theorem exec_s2mResponse {h id r} {s : State} : exec (.s2mResponse h id r) s = execS2mResponse h id r s := rfl
@[simp] theorem exec_cxlMemTimeout {h id} {s : State} : exec (.cxlMemTimeout h id) s = execCxlMemTimeout h id s := rfl
@[simp] theorem exec_cachememIdeFail {h p} {s : State} : exec (.cachememIdeFail h p) s = execCachememIdeFail h p s := rfl
@[simp] theorem exec_routerForward {r o} {s : State} : exec (.routerForward r o) s = execRouterForward r o s := rfl
@[simp] theorem exec_creditReturn {r o vc} {s : State} : exec (.creditReturn r o vc) s = execCreditReturn r o vc s := rfl
@[simp] theorem exec_niRequestSend {ni} {s : State} : exec (.niRequestSend ni) s = execNiRequestSend ni s := rfl
@[simp] theorem exec_requestIntoService {ni} {s : State} : exec (.requestIntoService ni) s = execRequestIntoService ni s := rfl
@[simp] theorem exec_sharedTicketRelease {ni tgt cls} {s : State} : exec (.sharedTicketRelease ni tgt cls) s = execSharedTicketRelease ni tgt cls s := rfl
@[simp] theorem exec_niRouteWrite {w ni e n v} {s : State} : exec (.niRouteWrite w ni e n v) s = execNiRouteWrite w ni e n v s := rfl
@[simp] theorem exec_meshEpochSwitch {w} {s : State} : exec (.meshEpochSwitch w) s = execMeshEpochSwitch w s := rfl
@[simp] theorem exec_epochDrainReport {ni} {s : State} : exec (.epochDrainReport ni) s = execEpochDrainReport ni s := rfl
@[simp] theorem exec_routerDrain {w r v} {s : State} : exec (.routerDrain w r v) s = execRouterDrain w r v s := rfl
@[simp] theorem exec_routerQuiet {r} {s : State} : exec (.routerQuiet r) s = execRouterQuiet r s := rfl
@[simp] theorem exec_routerCalEn {w r v} {s : State} : exec (.routerCalEn w r v) s = execRouterCalEn w r v s := rfl
@[simp] theorem exec_niClose {w ni v} {s : State} : exec (.niClose w ni v) s = execNiClose w ni v s := rfl
@[simp] theorem exec_gateClosed {ni g} {s : State} : exec (.gateClosed ni g) s = execGateClosed ni g s := rfl
@[simp] theorem exec_meshSealedWrite {w v} {s : State} : exec (.meshSealedWrite w v) s = execMeshSealedWrite w v s := rfl
@[simp] theorem exec_meshLost {w} {s : State} : exec (.meshLost w) s = execMeshLost w s := rfl
@[simp] theorem exec_inboundRequest {h p t} {s : State} : exec (.inboundRequest h p t) s = execInboundRequest h p t s := rfl
@[simp] theorem exec_pf1Request {h t} {s : State} : exec (.pf1Request h t) s = execPf1Request h t s := rfl
@[simp] theorem exec_tlpCompletion {h p id c} {s : State} : exec (.tlpCompletion h p id c) s = execTlpCompletion h p id c s := rfl
@[simp] theorem exec_completionTimeout {h p id} {s : State} : exec (.completionTimeout h p id) s = execCompletionTimeout h p id s := rfl
@[simp] theorem exec_mmioWindowWrite {w h p off v} {s : State} : exec (.mmioWindowWrite w h p off v) s = execMmioWindowWrite w h p off v s := rfl
@[simp] theorem exec_bmeClear {w h p} {s : State} : exec (.bmeClear w h p) s = execBmeClear w h p s := rfl
@[simp] theorem exec_sscFrame {h ins} {s : State} : exec (.sscFrame h ins) s = execSscFrame h ins s := rfl
@[simp] theorem exec_slotControlWrite {w h p v} {s : State} : exec (.slotControlWrite w h p v) s = execSlotControlWrite w h p v s := rfl
@[simp] theorem exec_pgoodTimeout {h p} {s : State} : exec (.pgoodTimeout h p) s = execPgoodTimeout h p s := rfl
@[simp] theorem exec_slotPerstRelease {h p} {s : State} : exec (.slotPerstRelease h p) s = execSlotPerstRelease h p s := rfl
@[simp] theorem exec_slotPowerOff {h p} {s : State} : exec (.slotPowerOff h p) s = execSlotPowerOff h p s := rfl
@[simp] theorem exec_linkDown {h p} {s : State} : exec (.linkDown h p) s = execLinkDown h p s := rfl
@[simp] theorem exec_linkIdeFail {h p} {s : State} : exec (.linkIdeFail h p) s = execLinkIdeFail h p s := rfl
@[simp] theorem exec_perstNRelease {g} {s : State} : exec (.perstNRelease g) s = execPerstNRelease g s := rfl
@[simp] theorem exec_epMailboxRing {h seq words} {s : State} : exec (.epMailboxRing h seq words) s = execEpMailboxRing h seq words s := rfl
@[simp] theorem exec_epMbxResult {w h result} {s : State} : exec (.epMbxResult w h result) s = execEpMbxResult w h result s := rfl
@[simp] theorem exec_consoleInWrite {h b} {s : State} : exec (.consoleInWrite h b) s = execConsoleInWrite h b s := rfl
@[simp] theorem exec_consoleOutRead {h} {s : State} : exec (.consoleOutRead h) s = execConsoleOutRead h s := rfl
@[simp] theorem exec_epConInRead {w h} {s : State} : exec (.epConInRead w h) s = execEpConInRead w h s := rfl
@[simp] theorem exec_epConOutWrite {w h b} {s : State} : exec (.epConOutWrite w h b) s = execEpConOutWrite w h b s := rfl
@[simp] theorem exec_pf0BmeClear {h pf v} {s : State} : exec (.pf0BmeClear h pf v) s = execPf0BmeClear h pf v s := rfl
@[simp] theorem exec_winCommit {w h} {s : State} : exec (.winCommit w h) s = execWinCommit w h s := rfl
@[simp] theorem exec_windowCopyDone {h} {s : State} : exec (.windowCopyDone h) s = execWindowCopyDone h s := rfl
@[simp] theorem exec_pf1EvtRead {h} {s : State} : exec (.pf1EvtRead h) s = execPf1EvtRead h s := rfl
@[simp] theorem exec_flr {h pf} {s : State} : exec (.flr h pf) s = execFlr h pf s := rfl
@[simp] theorem exec_flrDone {h pf} {s : State} : exec (.flrDone h pf) s = execFlrDone h pf s := rfl
@[simp] theorem exec_pmapInv {w} {s : State} : exec (.pmapInv w) s = execPmapInv w s := rfl
@[simp] theorem exec_pmapCopyWrite {w off v} {s : State} : exec (.pmapCopyWrite w off v) s = execPmapCopyWrite w off v s := rfl
@[simp] theorem exec_violationReport {v} {s : State} : exec (.violationReport v) s = execViolationReport v s := rfl
@[simp] theorem exec_sensorFire {sn src} {s : State} : exec (.sensorFire sn src) s = execSensorFire sn src s := rfl
@[simp] theorem exec_lockstepMismatch {pair} {s : State} : exec (.lockstepMismatch pair) s = execLockstepMismatch pair s := rfl
@[simp] theorem exec_debugChallenge {piste ok} {s : State} : exec (.debugChallenge piste ok) s = execDebugChallenge piste ok s := rfl
@[simp] theorem exec_ksGenerate {w slot kind} {s : State} : exec (.ksGenerate w slot kind) s = execKsGenerate w slot kind s := rfl
@[simp] theorem exec_ksClear {w slot} {s : State} : exec (.ksClear w slot) s = execKsClear w slot s := rfl
@[simp] theorem exec_ksUnwrap {w slot} {s : State} : exec (.ksUnwrap w slot) s = execKsUnwrap w slot s := rfl
@[simp] theorem exec_version {c} {s : State} : exec (.version c) s = execVersion c s := rfl
@[simp] theorem exec_noticeRead {c} {s : State} : exec (.noticeRead c) s = execNoticeRead c s := rfl
@[simp] theorem exec_irtSet {c} {s : State} : exec (.irtSet c) s = execIrtSet c s := rfl
@[simp] theorem exec_tileStart {c} {s : State} : exec (.tileStart c) s = execTileStart c s := rfl
@[simp] theorem exec_keyGen {c} {s : State} : exec (.keyGen c) s = execKeyGen c s := rfl
@[simp] theorem exec_attest {c} {s : State} : exec (.attest c) s = execAttest c s := rfl
@[simp] theorem exec_extentDone {c} {s : State} : exec (.extentDone c) s = execExtentDone c s := rfl
@[simp] theorem exec_rasRead {c} {s : State} : exec (.rasRead c) s = execRasRead c s := rfl
@[simp] theorem exec_pisteTile {c} {s : State} : exec (.pisteTile c) s = execPisteTile c s := rfl
@[simp] theorem exec_pisteMap {c} {s : State} : exec (.pisteMap c) s = execPisteMap c s := rfl
@[simp] theorem exec_pistePort {c} {s : State} : exec (.pistePort c) s = execPistePort c s := rfl
@[simp] theorem exec_pisteFlags {c} {s : State} : exec (.pisteFlags c) s = execPisteFlags c s := rfl
@[simp] theorem exec_groupSet {c} {s : State} : exec (.groupSet c) s = execGroupSet c s := rfl
@[simp] theorem exec_pisteSeal {c} {s : State} : exec (.pisteSeal c) s = execPisteSeal c s := rfl
@[simp] theorem exec_thaw {c} {s : State} : exec (.thaw c) s = execThaw c s := rfl
@[simp] theorem exec_policy {c} {s : State} : exec (.policy c) s = execPolicy c s := rfl
@[simp] theorem exec_bootImage {c} {s : State} : exec (.bootImage c) s = execBootImage c s := rfl
@[simp] theorem exec_svnCommit {c} {s : State} : exec (.svnCommit c) s = execSvnCommit c s := rfl
@[simp] theorem exec_tliftPreqWrite {w st v} {s : State} : exec (.tliftPreqWrite w st v) s = execTliftPreqWrite w st v s := rfl
@[simp] theorem exec_pstateMove {st} {s : State} : exec (.pstateMove st) s = execPstateMove st s := rfl
@[simp] theorem exec_liftPstateWrite {w n v} {s : State} : exec (.liftPstateWrite w n v) s = execLiftPstateWrite w n v s := rfl
@[simp] theorem exec_powerEstimate {watts temps} {s : State} : exec (.powerEstimate watts temps) s = execPowerEstimate watts temps s := rfl
@[simp] theorem exec_tileStateEntry {st} {s : State} : exec (.tileStateEntry st) s = execTileStateEntry st s := rfl
@[simp] theorem exec_tileWake {st} {s : State} : exec (.tileWake st) s = execTileWake st s := rfl
@[simp] theorem exec_forceT3 {w st v} {s : State} : exec (.forceT3 w st v) s = execForceT3 w st v s := rfl
@[simp] theorem exec_wakeEvent {e} {s : State} : exec (.wakeEvent e) s = execWakeEvent e s := rfl
@[simp] theorem exec_wakeTokenGrant {s : State} : exec .wakeTokenGrant s = execWakeTokenGrant s := rfl
@[simp] theorem exec_wakeTokenReturn {s : State} : exec .wakeTokenReturn s = execWakeTokenReturn s := rfl
@[simp] theorem exec_pk1Entry {refuse} {s : State} : exec (.pk1Entry refuse) s = execPk1Entry refuse s := rfl
@[simp] theorem exec_pk1Exit {s : State} : exec .pk1Exit s = execPk1Exit s := rfl
@[simp] theorem exec_liftHandshakeTimeout {r} {s : State} : exec (.liftHandshakeTimeout r) s = execLiftHandshakeTimeout r s := rfl
@[simp] theorem exec_liftChronoWrite {w v} {s : State} : exec (.liftChronoWrite w v) s = execLiftChronoWrite w v s := rfl
@[simp] theorem exec_liftWakeTmr {s : State} : exec .liftWakeTmr s = execLiftWakeTmr s := rfl
@[simp] theorem exec_rasReport {r} {s : State} : exec (.rasReport r) s = execRasReport r s := rfl
@[simp] theorem exec_agingMonitorRead {margins} {s : State} : exec (.agingMonitorRead margins) s = execAgingMonitorRead margins s := rfl
@[simp] theorem exec_stuckStrideTimeout {st trk} {s : State} : exec (.stuckStrideTimeout st trk) s = execStuckStrideTimeout st trk s := rfl
@[simp] theorem exec_niTransactionTimeout {ni tag} {s : State} : exec (.niTransactionTimeout ni tag) s = execNiTransactionTimeout ni tag s := rfl
@[simp] theorem exec_claimWatchdog {st act} {s : State} : exec (.claimWatchdog st act) s = execClaimWatchdog st act s := rfl
@[simp] theorem exec_patrolWatchdog {pair} {s : State} : exec (.patrolWatchdog pair) s = execPatrolWatchdog pair s := rfl
@[simp] theorem exec_swap {w tile stop} {s : State} : exec (.swap w tile stop) s = execSwap w tile stop s := rfl
@[simp] theorem exec_swapCold {w tile stop} {s : State} : exec (.swapCold w tile stop) s = execSwapCold w tile stop s := rfl
@[simp] theorem exec_retireSlice {w stop} {s : State} : exec (.retireSlice w stop) s = execRetireSlice w stop s := rfl
@[simp] theorem exec_wireSpare {st dir} {s : State} : exec (.wireSpare st dir) s = execWireSpare st dir s := rfl
@[simp] theorem exec_linkLoss {st dir} {s : State} : exec (.linkLoss st dir) s = execLinkLoss st dir s := rfl
@[simp] theorem exec_laneSpare {h p width} {s : State} : exec (.laneSpare h p width) s = execLaneSpare h p width s := rfl
@[simp] theorem exec_tuck {mv} {s : State} : exec (.tuck mv) s = execTuck mv s := rfl
@[simp] theorem exec_rise {mv} {s : State} : exec (.rise mv) s = execRise mv s := rfl
@[simp] theorem exec_pk2Entry {mv} {s : State} : exec (.pk2Entry mv) s = execPk2Entry mv s := rfl
@[simp] theorem exec_splitLatch {p} {s : State} : exec (.splitLatch p) s = execSplitLatch p s := rfl
@[simp] theorem exec_tdClr {w p} {s : State} : exec (.tdClr w p) s = execTdClr w p s := rfl
@[simp] theorem exec_coldResetEntry {why} {s : State} : exec (.coldResetEntry why) s = execColdResetEntry why s := rfl
@[simp] theorem exec_coldResetExit {s : State} : exec .coldResetExit s = execColdResetExit s := rfl
@[simp] theorem exec_boot {b} {s : State} : exec (.boot b) s = execBoot b s := rfl
@[simp] theorem exec_imageRetry {b} {s : State} : exec (.imageRetry b) s = execImageRetry b s := rfl
@[simp] theorem exec_thermtrip {die} {s : State} : exec (.thermtrip die) s = execThermtrip die s := rfl
@[simp] theorem exec_i3cIndexWrite {idx} {s : State} : exec (.i3cIndexWrite idx) s = execI3cIndexWrite idx s := rfl
@[simp] theorem exec_linkUp {h p gen width flit} {s : State} : exec (.linkUp h p gen width flit) s = execLinkUp h p gen width flit s := rfl
@[simp] theorem exec_biconflictack {h id} {s : State} : exec (.biconflictack h id) s = execBiconflictack h id s := rfl
@[simp] theorem exec_h2dSnoopResponse {h id r} {s : State} : exec (.h2dSnoopResponse h id r) s = execH2dSnoopResponse h id r s := rfl
@[simp] theorem exec_i3cDynamicAddressAssignment {a} {s : State} : exec (.i3cDynamicAddressAssignment a) s = execI3cDynamicAddressAssignment a s := rfl
@[simp] theorem exec_jtagInstruction {j} {s : State} : exec (.jtagInstruction j) s = execJtagInstruction j s := rfl
@[simp] theorem exec_debugPortAccess {st d} {s : State} : exec (.debugPortAccess st d) s = execDebugPortAccess st d s := rfl

end Sys2Proof.Machine
end

