-- ==== Sys2Proof/Laws/Table.lean ====
section
/-! SUPPORT. What finite tables answer after a change: the value put under a key is found there, and every other key keeps its own. -/

namespace Sys2Proof.Machine

variable {κ α : Type} [DecidableEq κ]

@[simp] theorem tfind_terase_self (t : Tbl κ α) (x : κ) : tfind (terase t x) x = none := by
  induction t with
  | nil => rfl
  | cons e t ih =>
    unfold terase
    split
    · exact ih
    · rename_i h; simp [tfind, h, ih]

theorem tfind_terase_ne (t : Tbl κ α) {x y : κ} (h : x ≠ y) : tfind (terase t x) y = tfind t y := by
  induction t with
  | nil => rfl
  | cons e t ih =>
    unfold terase
    split
    · rename_i hk; rw [ih, tfind, if_neg (hk ▸ h)]
    · unfold tfind; rw [ih]

theorem tfind_tins_self [Ord κ] (t : Tbl κ α) (x : κ) (v : α) (h : tfind t x = none) : tfind (tins x v t) x = some v := by
  induction t with
  | nil => simp [tins, tfind]
  | cons e t ih =>
    obtain ⟨k, w⟩ := e
    by_cases hk : k = x
    · simp [tfind, hk] at h
    · simp only [tfind, if_neg hk] at h
      unfold tins
      split <;> simp [tfind, hk, ih h]

theorem tfind_tins_ne [Ord κ] (t : Tbl κ α) {x y : κ} (v : α) (h : x ≠ y) : tfind (tins x v t) y = tfind t y := by
  induction t with
  | nil => simp [tins, tfind, h]
  | cons e t ih =>
    unfold tins
    split
    · simp only [tfind, ih]
    · simp [tfind, h]

@[simp] theorem tfind_tput_self [Ord κ] (t : Tbl κ α) (x : κ) (v : α) : tfind (tput t x v) x = some v :=
  tfind_tins_self _ _ _ (tfind_terase_self t x)

theorem tfind_tput_ne [Ord κ] (t : Tbl κ α) {x y : κ} (v : α) (h : x ≠ y) : tfind (tput t x v) y = tfind t y := by
  rw [tput, tfind_tins_ne _ _ h, tfind_terase_ne _ h]

@[simp] theorem tget_tput_self [Ord κ] (t : Tbl κ α) (x : κ) (v d : α) : tget (tput t x v) x d = v := by
  simp [tget]

theorem tget_tput_ne [Ord κ] (t : Tbl κ α) {x y : κ} (v d : α) (h : x ≠ y) : tget (tput t x v) y d = tget t y d := by
  rw [tget, tfind_tput_ne _ _ h, tget]

@[simp] theorem tget_tset_self [Ord κ] [DecidableEq α] (t : Tbl κ α) (x : κ) (v d : α) : tget (tset t x v d) x d = v := by
  unfold tset
  split
  · rename_i h; simp [tget, h]
  · exact tget_tput_self ..

theorem tget_tset_ne [Ord κ] [DecidableEq α] (t : Tbl κ α) {x y : κ} (v d e : α) (h : x ≠ y) :
    tget (tset t x v d) y e = tget t y e := by
  unfold tset
  split
  · rw [tget, tfind_terase_ne _ h, tget]
  · exact tget_tput_ne _ _ _ h

@[simp] theorem tget_nil (x : κ) (d : α) : tget ([] : Tbl κ α) x d = d := rfl

@[simp] theorem lget_nil {α : Type} (i : Nat) (d : α) : lget ([] : List α) i d = d := rfl

@[simp] theorem lset_length {α : Type} (l : List α) (i : Nat) (v : α) : (lset l i v).length = l.length := by
  induction l generalizing i with
  | nil => rfl
  | cons a t ih => cases i <;> simp [lset, ih]

theorem lget_lset_self {α : Type} (l : List α) {i : Nat} (v d : α) (h : i < l.length) : lget (lset l i v) i d = v := by
  induction l generalizing i with
  | nil => simp at h
  | cons a t ih =>
    cases i with
    | zero => rfl
    | succ n => exact ih (by simpa using h)

theorem lget_lset_ne {α : Type} (l : List α) {i j : Nat} (v d : α) (h : i ≠ j) : lget (lset l i v) j d = lget l j d := by
  induction l generalizing i j with
  | nil => rfl
  | cons a t ih =>
    cases i <;> cases j
    · exact absurd rfl h
    · rfl
    · rfl
    · exact ih (by omega)

end Sys2Proof.Machine
end

