-- ==== Sys2Proof/Laws/State.lean ====
section
/-! SUPPORT. One lemma for each update of the state and each field it leaves alone, and what each reader answers after each update:
later proofs cite these and never unfold a record update. -/

namespace Sys2Proof.Machine

/-! ### State.set -/

@[simp] theorem State.set_pending (s : State) (pg : Nat) (f : Fld) (i v : Nat) : (s.set pg f i v).pending = s.pending := rfl
@[simp] theorem State.set_respStatus (s : State) (pg : Nat) (f : Fld) (i v : Nat) : (s.set pg f i v).respStatus = s.respStatus := rfl
@[simp] theorem State.set_respValue (s : State) (pg : Nat) (f : Fld) (i v : Nat) : (s.set pg f i v).respValue = s.respValue := rfl
@[simp] theorem State.set_fresh (s : State) (pg : Nat) (f : Fld) (i v : Nat) : (s.set pg f i v).fresh = s.fresh := rfl
@[simp] theorem State.set_cores (s : State) (pg : Nat) (f : Fld) (i v : Nat) : (s.set pg f i v).cores = s.cores := rfl
@[simp] theorem State.set_caches (s : State) (pg : Nat) (f : Fld) (i v : Nat) : (s.set pg f i v).caches = s.caches := rfl
@[simp] theorem State.set_slices (s : State) (pg : Nat) (f : Fld) (i v : Nat) : (s.set pg f i v).slices = s.slices := rfl
@[simp] theorem State.set_nis (s : State) (pg : Nat) (f : Fld) (i v : Nat) : (s.set pg f i v).nis = s.nis := rfl
@[simp] theorem State.set_lecs (s : State) (pg : Nat) (f : Fld) (i v : Nat) : (s.set pg f i v).lecs = s.lecs := rfl
@[simp] theorem State.set_wakeQ (s : State) (pg : Nat) (f : Fld) (i v : Nat) : (s.set pg f i v).wakeQ = s.wakeQ := rfl
@[simp] theorem State.set_pads (s : State) (pg : Nat) (f : Fld) (i v : Nat) : (s.set pg f i v).pads = s.pads := rfl
@[simp] theorem State.set_padPoison (s : State) (pg : Nat) (f : Fld) (i v : Nat) : (s.set pg f i v).padPoison = s.padPoison := rfl
@[simp] theorem State.set_sram (s : State) (pg : Nat) (f : Fld) (i v : Nat) : (s.set pg f i v).sram = s.sram := rfl
@[simp] theorem State.set_rasSeq (s : State) (pg : Nat) (f : Fld) (i v : Nat) : (s.set pg f i v).rasSeq = s.rasSeq := rfl
@[simp] theorem State.set_ceHist (s : State) (pg : Nat) (f : Fld) (i v : Nat) : (s.set pg f i v).ceHist = s.ceHist := rfl
@[simp] theorem State.set_faultHist (s : State) (pg : Nat) (f : Fld) (i v : Nat) : (s.set pg f i v).faultHist = s.faultHist := rfl
@[simp] theorem State.set_tblLog (s : State) (pg : Nat) (f : Fld) (i v : Nat) : (s.set pg f i v).tblLog = s.tblLog := rfl
@[simp] theorem State.set_tmaps (s : State) (pg : Nat) (f : Fld) (i v : Nat) : (s.set pg f i v).tmaps = s.tmaps := rfl
@[simp] theorem State.set_routers (s : State) (pg : Nat) (f : Fld) (i v : Nat) : (s.set pg f i v).routers = s.routers := rfl
@[simp] theorem State.set_traces (s : State) (pg : Nat) (f : Fld) (i v : Nat) : (s.set pg f i v).traces = s.traces := rfl
@[simp] theorem State.set_arbs (s : State) (pg : Nat) (f : Fld) (i v : Nat) : (s.set pg f i v).arbs = s.arbs := rfl
@[simp] theorem State.set_near (s : State) (pg : Nat) (f : Fld) (i v : Nat) : (s.set pg f i v).near = s.near := rfl
@[simp] theorem State.set_nearMeta (s : State) (pg : Nat) (f : Fld) (i v : Nat) : (s.set pg f i v).nearMeta = s.nearMeta := rfl
@[simp] theorem State.set_chans (s : State) (pg : Nat) (f : Fld) (i v : Nat) : (s.set pg f i v).chans = s.chans := rfl
@[simp] theorem State.set_hubs (s : State) (pg : Nat) (f : Fld) (i v : Nat) : (s.set pg f i v).hubs = s.hubs := rfl
@[simp] theorem State.set_splits (s : State) (pg : Nat) (f : Fld) (i v : Nat) : (s.set pg f i v).splits = s.splits := rfl
@[simp] theorem State.set_sys (s : State) (pg : Nat) (f : Fld) (i v : Nat) : (s.set pg f i v).sys = s.sys := rfl
@[simp] theorem State.set_tuck (s : State) (pg : Nat) (f : Fld) (i v : Nat) : (s.set pg f i v).tuck = s.tuck := rfl

/-! ### State.answer -/

@[simp] theorem State.answer_pending (s : State) (r : Resp) (v : Word) : (s.answer r v).pending = s.pending := rfl
@[simp] theorem State.answer_fresh (s : State) (r : Resp) (v : Word) : (s.answer r v).fresh = s.fresh := rfl
@[simp] theorem State.answer_regs (s : State) (r : Resp) (v : Word) : (s.answer r v).regs = s.regs := rfl
@[simp] theorem State.answer_cores (s : State) (r : Resp) (v : Word) : (s.answer r v).cores = s.cores := rfl
@[simp] theorem State.answer_caches (s : State) (r : Resp) (v : Word) : (s.answer r v).caches = s.caches := rfl
@[simp] theorem State.answer_slices (s : State) (r : Resp) (v : Word) : (s.answer r v).slices = s.slices := rfl
@[simp] theorem State.answer_nis (s : State) (r : Resp) (v : Word) : (s.answer r v).nis = s.nis := rfl
@[simp] theorem State.answer_lecs (s : State) (r : Resp) (v : Word) : (s.answer r v).lecs = s.lecs := rfl
@[simp] theorem State.answer_wakeQ (s : State) (r : Resp) (v : Word) : (s.answer r v).wakeQ = s.wakeQ := rfl
@[simp] theorem State.answer_pads (s : State) (r : Resp) (v : Word) : (s.answer r v).pads = s.pads := rfl
@[simp] theorem State.answer_padPoison (s : State) (r : Resp) (v : Word) : (s.answer r v).padPoison = s.padPoison := rfl
@[simp] theorem State.answer_sram (s : State) (r : Resp) (v : Word) : (s.answer r v).sram = s.sram := rfl
@[simp] theorem State.answer_rasSeq (s : State) (r : Resp) (v : Word) : (s.answer r v).rasSeq = s.rasSeq := rfl
@[simp] theorem State.answer_ceHist (s : State) (r : Resp) (v : Word) : (s.answer r v).ceHist = s.ceHist := rfl
@[simp] theorem State.answer_faultHist (s : State) (r : Resp) (v : Word) : (s.answer r v).faultHist = s.faultHist := rfl
@[simp] theorem State.answer_tblLog (s : State) (r : Resp) (v : Word) : (s.answer r v).tblLog = s.tblLog := rfl
@[simp] theorem State.answer_tmaps (s : State) (r : Resp) (v : Word) : (s.answer r v).tmaps = s.tmaps := rfl
@[simp] theorem State.answer_routers (s : State) (r : Resp) (v : Word) : (s.answer r v).routers = s.routers := rfl
@[simp] theorem State.answer_traces (s : State) (r : Resp) (v : Word) : (s.answer r v).traces = s.traces := rfl
@[simp] theorem State.answer_arbs (s : State) (r : Resp) (v : Word) : (s.answer r v).arbs = s.arbs := rfl
@[simp] theorem State.answer_near (s : State) (r : Resp) (v : Word) : (s.answer r v).near = s.near := rfl
@[simp] theorem State.answer_nearMeta (s : State) (r : Resp) (v : Word) : (s.answer r v).nearMeta = s.nearMeta := rfl
@[simp] theorem State.answer_chans (s : State) (r : Resp) (v : Word) : (s.answer r v).chans = s.chans := rfl
@[simp] theorem State.answer_hubs (s : State) (r : Resp) (v : Word) : (s.answer r v).hubs = s.hubs := rfl
@[simp] theorem State.answer_splits (s : State) (r : Resp) (v : Word) : (s.answer r v).splits = s.splits := rfl
@[simp] theorem State.answer_sys (s : State) (r : Resp) (v : Word) : (s.answer r v).sys = s.sys := rfl
@[simp] theorem State.answer_tuck (s : State) (r : Resp) (v : Word) : (s.answer r v).tuck = s.tuck := rfl

/-! ### State.setCore -/

@[simp] theorem State.setCore_pending (s : State) (st : Nat) (c : Core) : (s.setCore st c).pending = s.pending := rfl
@[simp] theorem State.setCore_respStatus (s : State) (st : Nat) (c : Core) : (s.setCore st c).respStatus = s.respStatus := rfl
@[simp] theorem State.setCore_respValue (s : State) (st : Nat) (c : Core) : (s.setCore st c).respValue = s.respValue := rfl
@[simp] theorem State.setCore_fresh (s : State) (st : Nat) (c : Core) : (s.setCore st c).fresh = s.fresh := rfl
@[simp] theorem State.setCore_regs (s : State) (st : Nat) (c : Core) : (s.setCore st c).regs = s.regs := rfl
@[simp] theorem State.setCore_caches (s : State) (st : Nat) (c : Core) : (s.setCore st c).caches = s.caches := rfl
@[simp] theorem State.setCore_slices (s : State) (st : Nat) (c : Core) : (s.setCore st c).slices = s.slices := rfl
@[simp] theorem State.setCore_nis (s : State) (st : Nat) (c : Core) : (s.setCore st c).nis = s.nis := rfl
@[simp] theorem State.setCore_lecs (s : State) (st : Nat) (c : Core) : (s.setCore st c).lecs = s.lecs := rfl
@[simp] theorem State.setCore_wakeQ (s : State) (st : Nat) (c : Core) : (s.setCore st c).wakeQ = s.wakeQ := rfl
@[simp] theorem State.setCore_pads (s : State) (st : Nat) (c : Core) : (s.setCore st c).pads = s.pads := rfl
@[simp] theorem State.setCore_padPoison (s : State) (st : Nat) (c : Core) : (s.setCore st c).padPoison = s.padPoison := rfl
@[simp] theorem State.setCore_sram (s : State) (st : Nat) (c : Core) : (s.setCore st c).sram = s.sram := rfl
@[simp] theorem State.setCore_rasSeq (s : State) (st : Nat) (c : Core) : (s.setCore st c).rasSeq = s.rasSeq := rfl
@[simp] theorem State.setCore_ceHist (s : State) (st : Nat) (c : Core) : (s.setCore st c).ceHist = s.ceHist := rfl
@[simp] theorem State.setCore_faultHist (s : State) (st : Nat) (c : Core) : (s.setCore st c).faultHist = s.faultHist := rfl
@[simp] theorem State.setCore_tblLog (s : State) (st : Nat) (c : Core) : (s.setCore st c).tblLog = s.tblLog := rfl
@[simp] theorem State.setCore_tmaps (s : State) (st : Nat) (c : Core) : (s.setCore st c).tmaps = s.tmaps := rfl
@[simp] theorem State.setCore_routers (s : State) (st : Nat) (c : Core) : (s.setCore st c).routers = s.routers := rfl
@[simp] theorem State.setCore_traces (s : State) (st : Nat) (c : Core) : (s.setCore st c).traces = s.traces := rfl
@[simp] theorem State.setCore_arbs (s : State) (st : Nat) (c : Core) : (s.setCore st c).arbs = s.arbs := rfl
@[simp] theorem State.setCore_near (s : State) (st : Nat) (c : Core) : (s.setCore st c).near = s.near := rfl
@[simp] theorem State.setCore_nearMeta (s : State) (st : Nat) (c : Core) : (s.setCore st c).nearMeta = s.nearMeta := rfl
@[simp] theorem State.setCore_chans (s : State) (st : Nat) (c : Core) : (s.setCore st c).chans = s.chans := rfl
@[simp] theorem State.setCore_hubs (s : State) (st : Nat) (c : Core) : (s.setCore st c).hubs = s.hubs := rfl
@[simp] theorem State.setCore_splits (s : State) (st : Nat) (c : Core) : (s.setCore st c).splits = s.splits := rfl
@[simp] theorem State.setCore_sys (s : State) (st : Nat) (c : Core) : (s.setCore st c).sys = s.sys := rfl
@[simp] theorem State.setCore_tuck (s : State) (st : Nat) (c : Core) : (s.setCore st c).tuck = s.tuck := rfl

/-! ### State.setCache -/

@[simp] theorem State.setCache_pending (s : State) (st : Nat) (c : Caches) : (s.setCache st c).pending = s.pending := rfl
@[simp] theorem State.setCache_respStatus (s : State) (st : Nat) (c : Caches) : (s.setCache st c).respStatus = s.respStatus := rfl
@[simp] theorem State.setCache_respValue (s : State) (st : Nat) (c : Caches) : (s.setCache st c).respValue = s.respValue := rfl
@[simp] theorem State.setCache_fresh (s : State) (st : Nat) (c : Caches) : (s.setCache st c).fresh = s.fresh := rfl
@[simp] theorem State.setCache_regs (s : State) (st : Nat) (c : Caches) : (s.setCache st c).regs = s.regs := rfl
@[simp] theorem State.setCache_cores (s : State) (st : Nat) (c : Caches) : (s.setCache st c).cores = s.cores := rfl
@[simp] theorem State.setCache_slices (s : State) (st : Nat) (c : Caches) : (s.setCache st c).slices = s.slices := rfl
@[simp] theorem State.setCache_nis (s : State) (st : Nat) (c : Caches) : (s.setCache st c).nis = s.nis := rfl
@[simp] theorem State.setCache_lecs (s : State) (st : Nat) (c : Caches) : (s.setCache st c).lecs = s.lecs := rfl
@[simp] theorem State.setCache_wakeQ (s : State) (st : Nat) (c : Caches) : (s.setCache st c).wakeQ = s.wakeQ := rfl
@[simp] theorem State.setCache_pads (s : State) (st : Nat) (c : Caches) : (s.setCache st c).pads = s.pads := rfl
@[simp] theorem State.setCache_padPoison (s : State) (st : Nat) (c : Caches) : (s.setCache st c).padPoison = s.padPoison := rfl
@[simp] theorem State.setCache_sram (s : State) (st : Nat) (c : Caches) : (s.setCache st c).sram = s.sram := rfl
@[simp] theorem State.setCache_rasSeq (s : State) (st : Nat) (c : Caches) : (s.setCache st c).rasSeq = s.rasSeq := rfl
@[simp] theorem State.setCache_ceHist (s : State) (st : Nat) (c : Caches) : (s.setCache st c).ceHist = s.ceHist := rfl
@[simp] theorem State.setCache_faultHist (s : State) (st : Nat) (c : Caches) : (s.setCache st c).faultHist = s.faultHist := rfl
@[simp] theorem State.setCache_tblLog (s : State) (st : Nat) (c : Caches) : (s.setCache st c).tblLog = s.tblLog := rfl
@[simp] theorem State.setCache_tmaps (s : State) (st : Nat) (c : Caches) : (s.setCache st c).tmaps = s.tmaps := rfl
@[simp] theorem State.setCache_routers (s : State) (st : Nat) (c : Caches) : (s.setCache st c).routers = s.routers := rfl
@[simp] theorem State.setCache_traces (s : State) (st : Nat) (c : Caches) : (s.setCache st c).traces = s.traces := rfl
@[simp] theorem State.setCache_arbs (s : State) (st : Nat) (c : Caches) : (s.setCache st c).arbs = s.arbs := rfl
@[simp] theorem State.setCache_near (s : State) (st : Nat) (c : Caches) : (s.setCache st c).near = s.near := rfl
@[simp] theorem State.setCache_nearMeta (s : State) (st : Nat) (c : Caches) : (s.setCache st c).nearMeta = s.nearMeta := rfl
@[simp] theorem State.setCache_chans (s : State) (st : Nat) (c : Caches) : (s.setCache st c).chans = s.chans := rfl
@[simp] theorem State.setCache_hubs (s : State) (st : Nat) (c : Caches) : (s.setCache st c).hubs = s.hubs := rfl
@[simp] theorem State.setCache_splits (s : State) (st : Nat) (c : Caches) : (s.setCache st c).splits = s.splits := rfl
@[simp] theorem State.setCache_sys (s : State) (st : Nat) (c : Caches) : (s.setCache st c).sys = s.sys := rfl
@[simp] theorem State.setCache_tuck (s : State) (st : Nat) (c : Caches) : (s.setCache st c).tuck = s.tuck := rfl

/-! ### State.setSlice -/

@[simp] theorem State.setSlice_pending (s : State) (st : Nat) (c : Slice) : (s.setSlice st c).pending = s.pending := rfl
@[simp] theorem State.setSlice_respStatus (s : State) (st : Nat) (c : Slice) : (s.setSlice st c).respStatus = s.respStatus := rfl
@[simp] theorem State.setSlice_respValue (s : State) (st : Nat) (c : Slice) : (s.setSlice st c).respValue = s.respValue := rfl
@[simp] theorem State.setSlice_fresh (s : State) (st : Nat) (c : Slice) : (s.setSlice st c).fresh = s.fresh := rfl
@[simp] theorem State.setSlice_regs (s : State) (st : Nat) (c : Slice) : (s.setSlice st c).regs = s.regs := rfl
@[simp] theorem State.setSlice_cores (s : State) (st : Nat) (c : Slice) : (s.setSlice st c).cores = s.cores := rfl
@[simp] theorem State.setSlice_caches (s : State) (st : Nat) (c : Slice) : (s.setSlice st c).caches = s.caches := rfl
@[simp] theorem State.setSlice_nis (s : State) (st : Nat) (c : Slice) : (s.setSlice st c).nis = s.nis := rfl
@[simp] theorem State.setSlice_lecs (s : State) (st : Nat) (c : Slice) : (s.setSlice st c).lecs = s.lecs := rfl
@[simp] theorem State.setSlice_wakeQ (s : State) (st : Nat) (c : Slice) : (s.setSlice st c).wakeQ = s.wakeQ := rfl
@[simp] theorem State.setSlice_pads (s : State) (st : Nat) (c : Slice) : (s.setSlice st c).pads = s.pads := rfl
@[simp] theorem State.setSlice_padPoison (s : State) (st : Nat) (c : Slice) : (s.setSlice st c).padPoison = s.padPoison := rfl
@[simp] theorem State.setSlice_sram (s : State) (st : Nat) (c : Slice) : (s.setSlice st c).sram = s.sram := rfl
@[simp] theorem State.setSlice_rasSeq (s : State) (st : Nat) (c : Slice) : (s.setSlice st c).rasSeq = s.rasSeq := rfl
@[simp] theorem State.setSlice_ceHist (s : State) (st : Nat) (c : Slice) : (s.setSlice st c).ceHist = s.ceHist := rfl
@[simp] theorem State.setSlice_faultHist (s : State) (st : Nat) (c : Slice) : (s.setSlice st c).faultHist = s.faultHist := rfl
@[simp] theorem State.setSlice_tblLog (s : State) (st : Nat) (c : Slice) : (s.setSlice st c).tblLog = s.tblLog := rfl
@[simp] theorem State.setSlice_tmaps (s : State) (st : Nat) (c : Slice) : (s.setSlice st c).tmaps = s.tmaps := rfl
@[simp] theorem State.setSlice_routers (s : State) (st : Nat) (c : Slice) : (s.setSlice st c).routers = s.routers := rfl
@[simp] theorem State.setSlice_traces (s : State) (st : Nat) (c : Slice) : (s.setSlice st c).traces = s.traces := rfl
@[simp] theorem State.setSlice_arbs (s : State) (st : Nat) (c : Slice) : (s.setSlice st c).arbs = s.arbs := rfl
@[simp] theorem State.setSlice_near (s : State) (st : Nat) (c : Slice) : (s.setSlice st c).near = s.near := rfl
@[simp] theorem State.setSlice_nearMeta (s : State) (st : Nat) (c : Slice) : (s.setSlice st c).nearMeta = s.nearMeta := rfl
@[simp] theorem State.setSlice_chans (s : State) (st : Nat) (c : Slice) : (s.setSlice st c).chans = s.chans := rfl
@[simp] theorem State.setSlice_hubs (s : State) (st : Nat) (c : Slice) : (s.setSlice st c).hubs = s.hubs := rfl
@[simp] theorem State.setSlice_splits (s : State) (st : Nat) (c : Slice) : (s.setSlice st c).splits = s.splits := rfl
@[simp] theorem State.setSlice_sys (s : State) (st : Nat) (c : Slice) : (s.setSlice st c).sys = s.sys := rfl
@[simp] theorem State.setSlice_tuck (s : State) (st : Nat) (c : Slice) : (s.setSlice st c).tuck = s.tuck := rfl

/-! ### State.setChan -/

@[simp] theorem State.setChan_pending (s : State) (c : Nat) (x : Chan) : (s.setChan c x).pending = s.pending := rfl
@[simp] theorem State.setChan_respStatus (s : State) (c : Nat) (x : Chan) : (s.setChan c x).respStatus = s.respStatus := rfl
@[simp] theorem State.setChan_respValue (s : State) (c : Nat) (x : Chan) : (s.setChan c x).respValue = s.respValue := rfl
@[simp] theorem State.setChan_fresh (s : State) (c : Nat) (x : Chan) : (s.setChan c x).fresh = s.fresh := rfl
@[simp] theorem State.setChan_regs (s : State) (c : Nat) (x : Chan) : (s.setChan c x).regs = s.regs := rfl
@[simp] theorem State.setChan_cores (s : State) (c : Nat) (x : Chan) : (s.setChan c x).cores = s.cores := rfl
@[simp] theorem State.setChan_caches (s : State) (c : Nat) (x : Chan) : (s.setChan c x).caches = s.caches := rfl
@[simp] theorem State.setChan_slices (s : State) (c : Nat) (x : Chan) : (s.setChan c x).slices = s.slices := rfl
@[simp] theorem State.setChan_nis (s : State) (c : Nat) (x : Chan) : (s.setChan c x).nis = s.nis := rfl
@[simp] theorem State.setChan_lecs (s : State) (c : Nat) (x : Chan) : (s.setChan c x).lecs = s.lecs := rfl
@[simp] theorem State.setChan_wakeQ (s : State) (c : Nat) (x : Chan) : (s.setChan c x).wakeQ = s.wakeQ := rfl
@[simp] theorem State.setChan_pads (s : State) (c : Nat) (x : Chan) : (s.setChan c x).pads = s.pads := rfl
@[simp] theorem State.setChan_padPoison (s : State) (c : Nat) (x : Chan) : (s.setChan c x).padPoison = s.padPoison := rfl
@[simp] theorem State.setChan_sram (s : State) (c : Nat) (x : Chan) : (s.setChan c x).sram = s.sram := rfl
@[simp] theorem State.setChan_rasSeq (s : State) (c : Nat) (x : Chan) : (s.setChan c x).rasSeq = s.rasSeq := rfl
@[simp] theorem State.setChan_ceHist (s : State) (c : Nat) (x : Chan) : (s.setChan c x).ceHist = s.ceHist := rfl
@[simp] theorem State.setChan_faultHist (s : State) (c : Nat) (x : Chan) : (s.setChan c x).faultHist = s.faultHist := rfl
@[simp] theorem State.setChan_tblLog (s : State) (c : Nat) (x : Chan) : (s.setChan c x).tblLog = s.tblLog := rfl
@[simp] theorem State.setChan_tmaps (s : State) (c : Nat) (x : Chan) : (s.setChan c x).tmaps = s.tmaps := rfl
@[simp] theorem State.setChan_routers (s : State) (c : Nat) (x : Chan) : (s.setChan c x).routers = s.routers := rfl
@[simp] theorem State.setChan_traces (s : State) (c : Nat) (x : Chan) : (s.setChan c x).traces = s.traces := rfl
@[simp] theorem State.setChan_arbs (s : State) (c : Nat) (x : Chan) : (s.setChan c x).arbs = s.arbs := rfl
@[simp] theorem State.setChan_near (s : State) (c : Nat) (x : Chan) : (s.setChan c x).near = s.near := rfl
@[simp] theorem State.setChan_nearMeta (s : State) (c : Nat) (x : Chan) : (s.setChan c x).nearMeta = s.nearMeta := rfl
@[simp] theorem State.setChan_hubs (s : State) (c : Nat) (x : Chan) : (s.setChan c x).hubs = s.hubs := rfl
@[simp] theorem State.setChan_splits (s : State) (c : Nat) (x : Chan) : (s.setChan c x).splits = s.splits := rfl
@[simp] theorem State.setChan_sys (s : State) (c : Nat) (x : Chan) : (s.setChan c x).sys = s.sys := rfl
@[simp] theorem State.setChan_tuck (s : State) (c : Nat) (x : Chan) : (s.setChan c x).tuck = s.tuck := rfl

/-! ### State.setHub -/

@[simp] theorem State.setHub_pending (s : State) (h : Nat) (x : Hub) : (s.setHub h x).pending = s.pending := rfl
@[simp] theorem State.setHub_respStatus (s : State) (h : Nat) (x : Hub) : (s.setHub h x).respStatus = s.respStatus := rfl
@[simp] theorem State.setHub_respValue (s : State) (h : Nat) (x : Hub) : (s.setHub h x).respValue = s.respValue := rfl
@[simp] theorem State.setHub_fresh (s : State) (h : Nat) (x : Hub) : (s.setHub h x).fresh = s.fresh := rfl
@[simp] theorem State.setHub_regs (s : State) (h : Nat) (x : Hub) : (s.setHub h x).regs = s.regs := rfl
@[simp] theorem State.setHub_cores (s : State) (h : Nat) (x : Hub) : (s.setHub h x).cores = s.cores := rfl
@[simp] theorem State.setHub_caches (s : State) (h : Nat) (x : Hub) : (s.setHub h x).caches = s.caches := rfl
@[simp] theorem State.setHub_slices (s : State) (h : Nat) (x : Hub) : (s.setHub h x).slices = s.slices := rfl
@[simp] theorem State.setHub_nis (s : State) (h : Nat) (x : Hub) : (s.setHub h x).nis = s.nis := rfl
@[simp] theorem State.setHub_lecs (s : State) (h : Nat) (x : Hub) : (s.setHub h x).lecs = s.lecs := rfl
@[simp] theorem State.setHub_wakeQ (s : State) (h : Nat) (x : Hub) : (s.setHub h x).wakeQ = s.wakeQ := rfl
@[simp] theorem State.setHub_pads (s : State) (h : Nat) (x : Hub) : (s.setHub h x).pads = s.pads := rfl
@[simp] theorem State.setHub_padPoison (s : State) (h : Nat) (x : Hub) : (s.setHub h x).padPoison = s.padPoison := rfl
@[simp] theorem State.setHub_sram (s : State) (h : Nat) (x : Hub) : (s.setHub h x).sram = s.sram := rfl
@[simp] theorem State.setHub_rasSeq (s : State) (h : Nat) (x : Hub) : (s.setHub h x).rasSeq = s.rasSeq := rfl
@[simp] theorem State.setHub_ceHist (s : State) (h : Nat) (x : Hub) : (s.setHub h x).ceHist = s.ceHist := rfl
@[simp] theorem State.setHub_faultHist (s : State) (h : Nat) (x : Hub) : (s.setHub h x).faultHist = s.faultHist := rfl
@[simp] theorem State.setHub_tblLog (s : State) (h : Nat) (x : Hub) : (s.setHub h x).tblLog = s.tblLog := rfl
@[simp] theorem State.setHub_tmaps (s : State) (h : Nat) (x : Hub) : (s.setHub h x).tmaps = s.tmaps := rfl
@[simp] theorem State.setHub_routers (s : State) (h : Nat) (x : Hub) : (s.setHub h x).routers = s.routers := rfl
@[simp] theorem State.setHub_traces (s : State) (h : Nat) (x : Hub) : (s.setHub h x).traces = s.traces := rfl
@[simp] theorem State.setHub_arbs (s : State) (h : Nat) (x : Hub) : (s.setHub h x).arbs = s.arbs := rfl
@[simp] theorem State.setHub_near (s : State) (h : Nat) (x : Hub) : (s.setHub h x).near = s.near := rfl
@[simp] theorem State.setHub_nearMeta (s : State) (h : Nat) (x : Hub) : (s.setHub h x).nearMeta = s.nearMeta := rfl
@[simp] theorem State.setHub_chans (s : State) (h : Nat) (x : Hub) : (s.setHub h x).chans = s.chans := rfl
@[simp] theorem State.setHub_splits (s : State) (h : Nat) (x : Hub) : (s.setHub h x).splits = s.splits := rfl
@[simp] theorem State.setHub_sys (s : State) (h : Nat) (x : Hub) : (s.setHub h x).sys = s.sys := rfl
@[simp] theorem State.setHub_tuck (s : State) (h : Nat) (x : Hub) : (s.setHub h x).tuck = s.tuck := rfl

/-! ### State.setNi -/

@[simp] theorem State.setNi_pending (s : State) (n : Nat) (x : Ni) : (s.setNi n x).pending = s.pending := rfl
@[simp] theorem State.setNi_respStatus (s : State) (n : Nat) (x : Ni) : (s.setNi n x).respStatus = s.respStatus := rfl
@[simp] theorem State.setNi_respValue (s : State) (n : Nat) (x : Ni) : (s.setNi n x).respValue = s.respValue := rfl
@[simp] theorem State.setNi_fresh (s : State) (n : Nat) (x : Ni) : (s.setNi n x).fresh = s.fresh := rfl
@[simp] theorem State.setNi_regs (s : State) (n : Nat) (x : Ni) : (s.setNi n x).regs = s.regs := rfl
@[simp] theorem State.setNi_cores (s : State) (n : Nat) (x : Ni) : (s.setNi n x).cores = s.cores := rfl
@[simp] theorem State.setNi_caches (s : State) (n : Nat) (x : Ni) : (s.setNi n x).caches = s.caches := rfl
@[simp] theorem State.setNi_slices (s : State) (n : Nat) (x : Ni) : (s.setNi n x).slices = s.slices := rfl
@[simp] theorem State.setNi_lecs (s : State) (n : Nat) (x : Ni) : (s.setNi n x).lecs = s.lecs := rfl
@[simp] theorem State.setNi_wakeQ (s : State) (n : Nat) (x : Ni) : (s.setNi n x).wakeQ = s.wakeQ := rfl
@[simp] theorem State.setNi_pads (s : State) (n : Nat) (x : Ni) : (s.setNi n x).pads = s.pads := rfl
@[simp] theorem State.setNi_padPoison (s : State) (n : Nat) (x : Ni) : (s.setNi n x).padPoison = s.padPoison := rfl
@[simp] theorem State.setNi_sram (s : State) (n : Nat) (x : Ni) : (s.setNi n x).sram = s.sram := rfl
@[simp] theorem State.setNi_rasSeq (s : State) (n : Nat) (x : Ni) : (s.setNi n x).rasSeq = s.rasSeq := rfl
@[simp] theorem State.setNi_ceHist (s : State) (n : Nat) (x : Ni) : (s.setNi n x).ceHist = s.ceHist := rfl
@[simp] theorem State.setNi_faultHist (s : State) (n : Nat) (x : Ni) : (s.setNi n x).faultHist = s.faultHist := rfl
@[simp] theorem State.setNi_tblLog (s : State) (n : Nat) (x : Ni) : (s.setNi n x).tblLog = s.tblLog := rfl
@[simp] theorem State.setNi_tmaps (s : State) (n : Nat) (x : Ni) : (s.setNi n x).tmaps = s.tmaps := rfl
@[simp] theorem State.setNi_routers (s : State) (n : Nat) (x : Ni) : (s.setNi n x).routers = s.routers := rfl
@[simp] theorem State.setNi_traces (s : State) (n : Nat) (x : Ni) : (s.setNi n x).traces = s.traces := rfl
@[simp] theorem State.setNi_arbs (s : State) (n : Nat) (x : Ni) : (s.setNi n x).arbs = s.arbs := rfl
@[simp] theorem State.setNi_near (s : State) (n : Nat) (x : Ni) : (s.setNi n x).near = s.near := rfl
@[simp] theorem State.setNi_nearMeta (s : State) (n : Nat) (x : Ni) : (s.setNi n x).nearMeta = s.nearMeta := rfl
@[simp] theorem State.setNi_chans (s : State) (n : Nat) (x : Ni) : (s.setNi n x).chans = s.chans := rfl
@[simp] theorem State.setNi_hubs (s : State) (n : Nat) (x : Ni) : (s.setNi n x).hubs = s.hubs := rfl
@[simp] theorem State.setNi_splits (s : State) (n : Nat) (x : Ni) : (s.setNi n x).splits = s.splits := rfl
@[simp] theorem State.setNi_sys (s : State) (n : Nat) (x : Ni) : (s.setNi n x).sys = s.sys := rfl
@[simp] theorem State.setNi_tuck (s : State) (n : Nat) (x : Ni) : (s.setNi n x).tuck = s.tuck := rfl

/-! ### State.setLec -/

@[simp] theorem State.setLec_pending (s : State) (st : Nat) (l : Lec) : (s.setLec st l).pending = s.pending := rfl
@[simp] theorem State.setLec_respStatus (s : State) (st : Nat) (l : Lec) : (s.setLec st l).respStatus = s.respStatus := rfl
@[simp] theorem State.setLec_respValue (s : State) (st : Nat) (l : Lec) : (s.setLec st l).respValue = s.respValue := rfl
@[simp] theorem State.setLec_fresh (s : State) (st : Nat) (l : Lec) : (s.setLec st l).fresh = s.fresh := rfl
@[simp] theorem State.setLec_regs (s : State) (st : Nat) (l : Lec) : (s.setLec st l).regs = s.regs := rfl
@[simp] theorem State.setLec_cores (s : State) (st : Nat) (l : Lec) : (s.setLec st l).cores = s.cores := rfl
@[simp] theorem State.setLec_caches (s : State) (st : Nat) (l : Lec) : (s.setLec st l).caches = s.caches := rfl
@[simp] theorem State.setLec_slices (s : State) (st : Nat) (l : Lec) : (s.setLec st l).slices = s.slices := rfl
@[simp] theorem State.setLec_nis (s : State) (st : Nat) (l : Lec) : (s.setLec st l).nis = s.nis := rfl
@[simp] theorem State.setLec_wakeQ (s : State) (st : Nat) (l : Lec) : (s.setLec st l).wakeQ = s.wakeQ := rfl
@[simp] theorem State.setLec_pads (s : State) (st : Nat) (l : Lec) : (s.setLec st l).pads = s.pads := rfl
@[simp] theorem State.setLec_padPoison (s : State) (st : Nat) (l : Lec) : (s.setLec st l).padPoison = s.padPoison := rfl
@[simp] theorem State.setLec_sram (s : State) (st : Nat) (l : Lec) : (s.setLec st l).sram = s.sram := rfl
@[simp] theorem State.setLec_rasSeq (s : State) (st : Nat) (l : Lec) : (s.setLec st l).rasSeq = s.rasSeq := rfl
@[simp] theorem State.setLec_ceHist (s : State) (st : Nat) (l : Lec) : (s.setLec st l).ceHist = s.ceHist := rfl
@[simp] theorem State.setLec_faultHist (s : State) (st : Nat) (l : Lec) : (s.setLec st l).faultHist = s.faultHist := rfl
@[simp] theorem State.setLec_tblLog (s : State) (st : Nat) (l : Lec) : (s.setLec st l).tblLog = s.tblLog := rfl
@[simp] theorem State.setLec_tmaps (s : State) (st : Nat) (l : Lec) : (s.setLec st l).tmaps = s.tmaps := rfl
@[simp] theorem State.setLec_routers (s : State) (st : Nat) (l : Lec) : (s.setLec st l).routers = s.routers := rfl
@[simp] theorem State.setLec_traces (s : State) (st : Nat) (l : Lec) : (s.setLec st l).traces = s.traces := rfl
@[simp] theorem State.setLec_arbs (s : State) (st : Nat) (l : Lec) : (s.setLec st l).arbs = s.arbs := rfl
@[simp] theorem State.setLec_near (s : State) (st : Nat) (l : Lec) : (s.setLec st l).near = s.near := rfl
@[simp] theorem State.setLec_nearMeta (s : State) (st : Nat) (l : Lec) : (s.setLec st l).nearMeta = s.nearMeta := rfl
@[simp] theorem State.setLec_chans (s : State) (st : Nat) (l : Lec) : (s.setLec st l).chans = s.chans := rfl
@[simp] theorem State.setLec_hubs (s : State) (st : Nat) (l : Lec) : (s.setLec st l).hubs = s.hubs := rfl
@[simp] theorem State.setLec_splits (s : State) (st : Nat) (l : Lec) : (s.setLec st l).splits = s.splits := rfl
@[simp] theorem State.setLec_sys (s : State) (st : Nat) (l : Lec) : (s.setLec st l).sys = s.sys := rfl
@[simp] theorem State.setLec_tuck (s : State) (st : Nat) (l : Lec) : (s.setLec st l).tuck = s.tuck := rfl

/-! ### State.setRouter -/

@[simp] theorem State.setRouter_pending (s : State) (r : Nat) (x : Router) : (s.setRouter r x).pending = s.pending := rfl
@[simp] theorem State.setRouter_respStatus (s : State) (r : Nat) (x : Router) : (s.setRouter r x).respStatus = s.respStatus := rfl
@[simp] theorem State.setRouter_respValue (s : State) (r : Nat) (x : Router) : (s.setRouter r x).respValue = s.respValue := rfl
@[simp] theorem State.setRouter_fresh (s : State) (r : Nat) (x : Router) : (s.setRouter r x).fresh = s.fresh := rfl
@[simp] theorem State.setRouter_regs (s : State) (r : Nat) (x : Router) : (s.setRouter r x).regs = s.regs := rfl
@[simp] theorem State.setRouter_cores (s : State) (r : Nat) (x : Router) : (s.setRouter r x).cores = s.cores := rfl
@[simp] theorem State.setRouter_caches (s : State) (r : Nat) (x : Router) : (s.setRouter r x).caches = s.caches := rfl
@[simp] theorem State.setRouter_slices (s : State) (r : Nat) (x : Router) : (s.setRouter r x).slices = s.slices := rfl
@[simp] theorem State.setRouter_nis (s : State) (r : Nat) (x : Router) : (s.setRouter r x).nis = s.nis := rfl
@[simp] theorem State.setRouter_lecs (s : State) (r : Nat) (x : Router) : (s.setRouter r x).lecs = s.lecs := rfl
@[simp] theorem State.setRouter_wakeQ (s : State) (r : Nat) (x : Router) : (s.setRouter r x).wakeQ = s.wakeQ := rfl
@[simp] theorem State.setRouter_pads (s : State) (r : Nat) (x : Router) : (s.setRouter r x).pads = s.pads := rfl
@[simp] theorem State.setRouter_padPoison (s : State) (r : Nat) (x : Router) : (s.setRouter r x).padPoison = s.padPoison := rfl
@[simp] theorem State.setRouter_sram (s : State) (r : Nat) (x : Router) : (s.setRouter r x).sram = s.sram := rfl
@[simp] theorem State.setRouter_rasSeq (s : State) (r : Nat) (x : Router) : (s.setRouter r x).rasSeq = s.rasSeq := rfl
@[simp] theorem State.setRouter_ceHist (s : State) (r : Nat) (x : Router) : (s.setRouter r x).ceHist = s.ceHist := rfl
@[simp] theorem State.setRouter_faultHist (s : State) (r : Nat) (x : Router) : (s.setRouter r x).faultHist = s.faultHist := rfl
@[simp] theorem State.setRouter_tblLog (s : State) (r : Nat) (x : Router) : (s.setRouter r x).tblLog = s.tblLog := rfl
@[simp] theorem State.setRouter_tmaps (s : State) (r : Nat) (x : Router) : (s.setRouter r x).tmaps = s.tmaps := rfl
@[simp] theorem State.setRouter_traces (s : State) (r : Nat) (x : Router) : (s.setRouter r x).traces = s.traces := rfl
@[simp] theorem State.setRouter_arbs (s : State) (r : Nat) (x : Router) : (s.setRouter r x).arbs = s.arbs := rfl
@[simp] theorem State.setRouter_near (s : State) (r : Nat) (x : Router) : (s.setRouter r x).near = s.near := rfl
@[simp] theorem State.setRouter_nearMeta (s : State) (r : Nat) (x : Router) : (s.setRouter r x).nearMeta = s.nearMeta := rfl
@[simp] theorem State.setRouter_chans (s : State) (r : Nat) (x : Router) : (s.setRouter r x).chans = s.chans := rfl
@[simp] theorem State.setRouter_hubs (s : State) (r : Nat) (x : Router) : (s.setRouter r x).hubs = s.hubs := rfl
@[simp] theorem State.setRouter_splits (s : State) (r : Nat) (x : Router) : (s.setRouter r x).splits = s.splits := rfl
@[simp] theorem State.setRouter_sys (s : State) (r : Nat) (x : Router) : (s.setRouter r x).sys = s.sys := rfl
@[simp] theorem State.setRouter_tuck (s : State) (r : Nat) (x : Router) : (s.setRouter r x).tuck = s.tuck := rfl

/-! ### State.setNearMeta -/

@[simp] theorem State.setNearMeta_pending (s : State) (c line : Nat) (x : NearMeta) : (s.setNearMeta c line x).pending = s.pending := rfl
@[simp] theorem State.setNearMeta_respStatus (s : State) (c line : Nat) (x : NearMeta) : (s.setNearMeta c line x).respStatus = s.respStatus := rfl
@[simp] theorem State.setNearMeta_respValue (s : State) (c line : Nat) (x : NearMeta) : (s.setNearMeta c line x).respValue = s.respValue := rfl
@[simp] theorem State.setNearMeta_fresh (s : State) (c line : Nat) (x : NearMeta) : (s.setNearMeta c line x).fresh = s.fresh := rfl
@[simp] theorem State.setNearMeta_regs (s : State) (c line : Nat) (x : NearMeta) : (s.setNearMeta c line x).regs = s.regs := rfl
@[simp] theorem State.setNearMeta_cores (s : State) (c line : Nat) (x : NearMeta) : (s.setNearMeta c line x).cores = s.cores := rfl
@[simp] theorem State.setNearMeta_caches (s : State) (c line : Nat) (x : NearMeta) : (s.setNearMeta c line x).caches = s.caches := rfl
@[simp] theorem State.setNearMeta_slices (s : State) (c line : Nat) (x : NearMeta) : (s.setNearMeta c line x).slices = s.slices := rfl
@[simp] theorem State.setNearMeta_nis (s : State) (c line : Nat) (x : NearMeta) : (s.setNearMeta c line x).nis = s.nis := rfl
@[simp] theorem State.setNearMeta_lecs (s : State) (c line : Nat) (x : NearMeta) : (s.setNearMeta c line x).lecs = s.lecs := rfl
@[simp] theorem State.setNearMeta_wakeQ (s : State) (c line : Nat) (x : NearMeta) : (s.setNearMeta c line x).wakeQ = s.wakeQ := rfl
@[simp] theorem State.setNearMeta_pads (s : State) (c line : Nat) (x : NearMeta) : (s.setNearMeta c line x).pads = s.pads := rfl
@[simp] theorem State.setNearMeta_padPoison (s : State) (c line : Nat) (x : NearMeta) : (s.setNearMeta c line x).padPoison = s.padPoison := rfl
@[simp] theorem State.setNearMeta_sram (s : State) (c line : Nat) (x : NearMeta) : (s.setNearMeta c line x).sram = s.sram := rfl
@[simp] theorem State.setNearMeta_rasSeq (s : State) (c line : Nat) (x : NearMeta) : (s.setNearMeta c line x).rasSeq = s.rasSeq := rfl
@[simp] theorem State.setNearMeta_ceHist (s : State) (c line : Nat) (x : NearMeta) : (s.setNearMeta c line x).ceHist = s.ceHist := rfl
@[simp] theorem State.setNearMeta_faultHist (s : State) (c line : Nat) (x : NearMeta) : (s.setNearMeta c line x).faultHist = s.faultHist := rfl
@[simp] theorem State.setNearMeta_tblLog (s : State) (c line : Nat) (x : NearMeta) : (s.setNearMeta c line x).tblLog = s.tblLog := rfl
@[simp] theorem State.setNearMeta_tmaps (s : State) (c line : Nat) (x : NearMeta) : (s.setNearMeta c line x).tmaps = s.tmaps := rfl
@[simp] theorem State.setNearMeta_routers (s : State) (c line : Nat) (x : NearMeta) : (s.setNearMeta c line x).routers = s.routers := rfl
@[simp] theorem State.setNearMeta_traces (s : State) (c line : Nat) (x : NearMeta) : (s.setNearMeta c line x).traces = s.traces := rfl
@[simp] theorem State.setNearMeta_arbs (s : State) (c line : Nat) (x : NearMeta) : (s.setNearMeta c line x).arbs = s.arbs := rfl
@[simp] theorem State.setNearMeta_near (s : State) (c line : Nat) (x : NearMeta) : (s.setNearMeta c line x).near = s.near := rfl
@[simp] theorem State.setNearMeta_chans (s : State) (c line : Nat) (x : NearMeta) : (s.setNearMeta c line x).chans = s.chans := rfl
@[simp] theorem State.setNearMeta_hubs (s : State) (c line : Nat) (x : NearMeta) : (s.setNearMeta c line x).hubs = s.hubs := rfl
@[simp] theorem State.setNearMeta_splits (s : State) (c line : Nat) (x : NearMeta) : (s.setNearMeta c line x).splits = s.splits := rfl
@[simp] theorem State.setNearMeta_sys (s : State) (c line : Nat) (x : NearMeta) : (s.setNearMeta c line x).sys = s.sys := rfl
@[simp] theorem State.setNearMeta_tuck (s : State) (c line : Nat) (x : NearMeta) : (s.setNearMeta c line x).tuck = s.tuck := rfl

/-! ### State.padWr -/

@[simp] theorem State.padWr_pending (s : State) (st off : Nat) (bs : List Byte) (p : Bool) : (s.padWr st off bs p).pending = s.pending := rfl
@[simp] theorem State.padWr_respStatus (s : State) (st off : Nat) (bs : List Byte) (p : Bool) : (s.padWr st off bs p).respStatus = s.respStatus := rfl
@[simp] theorem State.padWr_respValue (s : State) (st off : Nat) (bs : List Byte) (p : Bool) : (s.padWr st off bs p).respValue = s.respValue := rfl
@[simp] theorem State.padWr_fresh (s : State) (st off : Nat) (bs : List Byte) (p : Bool) : (s.padWr st off bs p).fresh = s.fresh := rfl
@[simp] theorem State.padWr_regs (s : State) (st off : Nat) (bs : List Byte) (p : Bool) : (s.padWr st off bs p).regs = s.regs := rfl
@[simp] theorem State.padWr_cores (s : State) (st off : Nat) (bs : List Byte) (p : Bool) : (s.padWr st off bs p).cores = s.cores := rfl
@[simp] theorem State.padWr_caches (s : State) (st off : Nat) (bs : List Byte) (p : Bool) : (s.padWr st off bs p).caches = s.caches := rfl
@[simp] theorem State.padWr_slices (s : State) (st off : Nat) (bs : List Byte) (p : Bool) : (s.padWr st off bs p).slices = s.slices := rfl
@[simp] theorem State.padWr_nis (s : State) (st off : Nat) (bs : List Byte) (p : Bool) : (s.padWr st off bs p).nis = s.nis := rfl
@[simp] theorem State.padWr_lecs (s : State) (st off : Nat) (bs : List Byte) (p : Bool) : (s.padWr st off bs p).lecs = s.lecs := rfl
@[simp] theorem State.padWr_wakeQ (s : State) (st off : Nat) (bs : List Byte) (p : Bool) : (s.padWr st off bs p).wakeQ = s.wakeQ := rfl
@[simp] theorem State.padWr_sram (s : State) (st off : Nat) (bs : List Byte) (p : Bool) : (s.padWr st off bs p).sram = s.sram := rfl
@[simp] theorem State.padWr_rasSeq (s : State) (st off : Nat) (bs : List Byte) (p : Bool) : (s.padWr st off bs p).rasSeq = s.rasSeq := rfl
@[simp] theorem State.padWr_ceHist (s : State) (st off : Nat) (bs : List Byte) (p : Bool) : (s.padWr st off bs p).ceHist = s.ceHist := rfl
@[simp] theorem State.padWr_faultHist (s : State) (st off : Nat) (bs : List Byte) (p : Bool) : (s.padWr st off bs p).faultHist = s.faultHist := rfl
@[simp] theorem State.padWr_tblLog (s : State) (st off : Nat) (bs : List Byte) (p : Bool) : (s.padWr st off bs p).tblLog = s.tblLog := rfl
@[simp] theorem State.padWr_tmaps (s : State) (st off : Nat) (bs : List Byte) (p : Bool) : (s.padWr st off bs p).tmaps = s.tmaps := rfl
@[simp] theorem State.padWr_routers (s : State) (st off : Nat) (bs : List Byte) (p : Bool) : (s.padWr st off bs p).routers = s.routers := rfl
@[simp] theorem State.padWr_traces (s : State) (st off : Nat) (bs : List Byte) (p : Bool) : (s.padWr st off bs p).traces = s.traces := rfl
@[simp] theorem State.padWr_arbs (s : State) (st off : Nat) (bs : List Byte) (p : Bool) : (s.padWr st off bs p).arbs = s.arbs := rfl
@[simp] theorem State.padWr_near (s : State) (st off : Nat) (bs : List Byte) (p : Bool) : (s.padWr st off bs p).near = s.near := rfl
@[simp] theorem State.padWr_nearMeta (s : State) (st off : Nat) (bs : List Byte) (p : Bool) : (s.padWr st off bs p).nearMeta = s.nearMeta := rfl
@[simp] theorem State.padWr_chans (s : State) (st off : Nat) (bs : List Byte) (p : Bool) : (s.padWr st off bs p).chans = s.chans := rfl
@[simp] theorem State.padWr_hubs (s : State) (st off : Nat) (bs : List Byte) (p : Bool) : (s.padWr st off bs p).hubs = s.hubs := rfl
@[simp] theorem State.padWr_splits (s : State) (st off : Nat) (bs : List Byte) (p : Bool) : (s.padWr st off bs p).splits = s.splits := rfl
@[simp] theorem State.padWr_sys (s : State) (st off : Nat) (bs : List Byte) (p : Bool) : (s.padWr st off bs p).sys = s.sys := rfl
@[simp] theorem State.padWr_tuck (s : State) (st off : Nat) (bs : List Byte) (p : Bool) : (s.padWr st off bs p).tuck = s.tuck := rfl

/-! ### State.modCore -/

@[simp] theorem State.modCore_pending (s : State) (st : Nat) (f : Core → Core) : (s.modCore st f).pending = s.pending := rfl
@[simp] theorem State.modCore_respStatus (s : State) (st : Nat) (f : Core → Core) : (s.modCore st f).respStatus = s.respStatus := rfl
@[simp] theorem State.modCore_respValue (s : State) (st : Nat) (f : Core → Core) : (s.modCore st f).respValue = s.respValue := rfl
@[simp] theorem State.modCore_fresh (s : State) (st : Nat) (f : Core → Core) : (s.modCore st f).fresh = s.fresh := rfl
@[simp] theorem State.modCore_regs (s : State) (st : Nat) (f : Core → Core) : (s.modCore st f).regs = s.regs := rfl
@[simp] theorem State.modCore_caches (s : State) (st : Nat) (f : Core → Core) : (s.modCore st f).caches = s.caches := rfl
@[simp] theorem State.modCore_slices (s : State) (st : Nat) (f : Core → Core) : (s.modCore st f).slices = s.slices := rfl
@[simp] theorem State.modCore_nis (s : State) (st : Nat) (f : Core → Core) : (s.modCore st f).nis = s.nis := rfl
@[simp] theorem State.modCore_lecs (s : State) (st : Nat) (f : Core → Core) : (s.modCore st f).lecs = s.lecs := rfl
@[simp] theorem State.modCore_wakeQ (s : State) (st : Nat) (f : Core → Core) : (s.modCore st f).wakeQ = s.wakeQ := rfl
@[simp] theorem State.modCore_pads (s : State) (st : Nat) (f : Core → Core) : (s.modCore st f).pads = s.pads := rfl
@[simp] theorem State.modCore_padPoison (s : State) (st : Nat) (f : Core → Core) : (s.modCore st f).padPoison = s.padPoison := rfl
@[simp] theorem State.modCore_sram (s : State) (st : Nat) (f : Core → Core) : (s.modCore st f).sram = s.sram := rfl
@[simp] theorem State.modCore_rasSeq (s : State) (st : Nat) (f : Core → Core) : (s.modCore st f).rasSeq = s.rasSeq := rfl
@[simp] theorem State.modCore_ceHist (s : State) (st : Nat) (f : Core → Core) : (s.modCore st f).ceHist = s.ceHist := rfl
@[simp] theorem State.modCore_faultHist (s : State) (st : Nat) (f : Core → Core) : (s.modCore st f).faultHist = s.faultHist := rfl
@[simp] theorem State.modCore_tblLog (s : State) (st : Nat) (f : Core → Core) : (s.modCore st f).tblLog = s.tblLog := rfl
@[simp] theorem State.modCore_tmaps (s : State) (st : Nat) (f : Core → Core) : (s.modCore st f).tmaps = s.tmaps := rfl
@[simp] theorem State.modCore_routers (s : State) (st : Nat) (f : Core → Core) : (s.modCore st f).routers = s.routers := rfl
@[simp] theorem State.modCore_traces (s : State) (st : Nat) (f : Core → Core) : (s.modCore st f).traces = s.traces := rfl
@[simp] theorem State.modCore_arbs (s : State) (st : Nat) (f : Core → Core) : (s.modCore st f).arbs = s.arbs := rfl
@[simp] theorem State.modCore_near (s : State) (st : Nat) (f : Core → Core) : (s.modCore st f).near = s.near := rfl
@[simp] theorem State.modCore_nearMeta (s : State) (st : Nat) (f : Core → Core) : (s.modCore st f).nearMeta = s.nearMeta := rfl
@[simp] theorem State.modCore_chans (s : State) (st : Nat) (f : Core → Core) : (s.modCore st f).chans = s.chans := rfl
@[simp] theorem State.modCore_hubs (s : State) (st : Nat) (f : Core → Core) : (s.modCore st f).hubs = s.hubs := rfl
@[simp] theorem State.modCore_splits (s : State) (st : Nat) (f : Core → Core) : (s.modCore st f).splits = s.splits := rfl
@[simp] theorem State.modCore_sys (s : State) (st : Nat) (f : Core → Core) : (s.modCore st f).sys = s.sys := rfl
@[simp] theorem State.modCore_tuck (s : State) (st : Nat) (f : Core → Core) : (s.modCore st f).tuck = s.tuck := rfl

/-! ### State.modCache -/

@[simp] theorem State.modCache_pending (s : State) (st : Nat) (f : Caches → Caches) : (s.modCache st f).pending = s.pending := rfl
@[simp] theorem State.modCache_respStatus (s : State) (st : Nat) (f : Caches → Caches) : (s.modCache st f).respStatus = s.respStatus := rfl
@[simp] theorem State.modCache_respValue (s : State) (st : Nat) (f : Caches → Caches) : (s.modCache st f).respValue = s.respValue := rfl
@[simp] theorem State.modCache_fresh (s : State) (st : Nat) (f : Caches → Caches) : (s.modCache st f).fresh = s.fresh := rfl
@[simp] theorem State.modCache_regs (s : State) (st : Nat) (f : Caches → Caches) : (s.modCache st f).regs = s.regs := rfl
@[simp] theorem State.modCache_cores (s : State) (st : Nat) (f : Caches → Caches) : (s.modCache st f).cores = s.cores := rfl
@[simp] theorem State.modCache_slices (s : State) (st : Nat) (f : Caches → Caches) : (s.modCache st f).slices = s.slices := rfl
@[simp] theorem State.modCache_nis (s : State) (st : Nat) (f : Caches → Caches) : (s.modCache st f).nis = s.nis := rfl
@[simp] theorem State.modCache_lecs (s : State) (st : Nat) (f : Caches → Caches) : (s.modCache st f).lecs = s.lecs := rfl
@[simp] theorem State.modCache_wakeQ (s : State) (st : Nat) (f : Caches → Caches) : (s.modCache st f).wakeQ = s.wakeQ := rfl
@[simp] theorem State.modCache_pads (s : State) (st : Nat) (f : Caches → Caches) : (s.modCache st f).pads = s.pads := rfl
@[simp] theorem State.modCache_padPoison (s : State) (st : Nat) (f : Caches → Caches) : (s.modCache st f).padPoison = s.padPoison := rfl
@[simp] theorem State.modCache_sram (s : State) (st : Nat) (f : Caches → Caches) : (s.modCache st f).sram = s.sram := rfl
@[simp] theorem State.modCache_rasSeq (s : State) (st : Nat) (f : Caches → Caches) : (s.modCache st f).rasSeq = s.rasSeq := rfl
@[simp] theorem State.modCache_ceHist (s : State) (st : Nat) (f : Caches → Caches) : (s.modCache st f).ceHist = s.ceHist := rfl
@[simp] theorem State.modCache_faultHist (s : State) (st : Nat) (f : Caches → Caches) : (s.modCache st f).faultHist = s.faultHist := rfl
@[simp] theorem State.modCache_tblLog (s : State) (st : Nat) (f : Caches → Caches) : (s.modCache st f).tblLog = s.tblLog := rfl
@[simp] theorem State.modCache_tmaps (s : State) (st : Nat) (f : Caches → Caches) : (s.modCache st f).tmaps = s.tmaps := rfl
@[simp] theorem State.modCache_routers (s : State) (st : Nat) (f : Caches → Caches) : (s.modCache st f).routers = s.routers := rfl
@[simp] theorem State.modCache_traces (s : State) (st : Nat) (f : Caches → Caches) : (s.modCache st f).traces = s.traces := rfl
@[simp] theorem State.modCache_arbs (s : State) (st : Nat) (f : Caches → Caches) : (s.modCache st f).arbs = s.arbs := rfl
@[simp] theorem State.modCache_near (s : State) (st : Nat) (f : Caches → Caches) : (s.modCache st f).near = s.near := rfl
@[simp] theorem State.modCache_nearMeta (s : State) (st : Nat) (f : Caches → Caches) : (s.modCache st f).nearMeta = s.nearMeta := rfl
@[simp] theorem State.modCache_chans (s : State) (st : Nat) (f : Caches → Caches) : (s.modCache st f).chans = s.chans := rfl
@[simp] theorem State.modCache_hubs (s : State) (st : Nat) (f : Caches → Caches) : (s.modCache st f).hubs = s.hubs := rfl
@[simp] theorem State.modCache_splits (s : State) (st : Nat) (f : Caches → Caches) : (s.modCache st f).splits = s.splits := rfl
@[simp] theorem State.modCache_sys (s : State) (st : Nat) (f : Caches → Caches) : (s.modCache st f).sys = s.sys := rfl
@[simp] theorem State.modCache_tuck (s : State) (st : Nat) (f : Caches → Caches) : (s.modCache st f).tuck = s.tuck := rfl

/-! ### State.modChan -/

@[simp] theorem State.modChan_pending (s : State) (c : Nat) (f : Chan → Chan) : (s.modChan c f).pending = s.pending := rfl
@[simp] theorem State.modChan_respStatus (s : State) (c : Nat) (f : Chan → Chan) : (s.modChan c f).respStatus = s.respStatus := rfl
@[simp] theorem State.modChan_respValue (s : State) (c : Nat) (f : Chan → Chan) : (s.modChan c f).respValue = s.respValue := rfl
@[simp] theorem State.modChan_fresh (s : State) (c : Nat) (f : Chan → Chan) : (s.modChan c f).fresh = s.fresh := rfl
@[simp] theorem State.modChan_regs (s : State) (c : Nat) (f : Chan → Chan) : (s.modChan c f).regs = s.regs := rfl
@[simp] theorem State.modChan_cores (s : State) (c : Nat) (f : Chan → Chan) : (s.modChan c f).cores = s.cores := rfl
@[simp] theorem State.modChan_caches (s : State) (c : Nat) (f : Chan → Chan) : (s.modChan c f).caches = s.caches := rfl
@[simp] theorem State.modChan_slices (s : State) (c : Nat) (f : Chan → Chan) : (s.modChan c f).slices = s.slices := rfl
@[simp] theorem State.modChan_nis (s : State) (c : Nat) (f : Chan → Chan) : (s.modChan c f).nis = s.nis := rfl
@[simp] theorem State.modChan_lecs (s : State) (c : Nat) (f : Chan → Chan) : (s.modChan c f).lecs = s.lecs := rfl
@[simp] theorem State.modChan_wakeQ (s : State) (c : Nat) (f : Chan → Chan) : (s.modChan c f).wakeQ = s.wakeQ := rfl
@[simp] theorem State.modChan_pads (s : State) (c : Nat) (f : Chan → Chan) : (s.modChan c f).pads = s.pads := rfl
@[simp] theorem State.modChan_padPoison (s : State) (c : Nat) (f : Chan → Chan) : (s.modChan c f).padPoison = s.padPoison := rfl
@[simp] theorem State.modChan_sram (s : State) (c : Nat) (f : Chan → Chan) : (s.modChan c f).sram = s.sram := rfl
@[simp] theorem State.modChan_rasSeq (s : State) (c : Nat) (f : Chan → Chan) : (s.modChan c f).rasSeq = s.rasSeq := rfl
@[simp] theorem State.modChan_ceHist (s : State) (c : Nat) (f : Chan → Chan) : (s.modChan c f).ceHist = s.ceHist := rfl
@[simp] theorem State.modChan_faultHist (s : State) (c : Nat) (f : Chan → Chan) : (s.modChan c f).faultHist = s.faultHist := rfl
@[simp] theorem State.modChan_tblLog (s : State) (c : Nat) (f : Chan → Chan) : (s.modChan c f).tblLog = s.tblLog := rfl
@[simp] theorem State.modChan_tmaps (s : State) (c : Nat) (f : Chan → Chan) : (s.modChan c f).tmaps = s.tmaps := rfl
@[simp] theorem State.modChan_routers (s : State) (c : Nat) (f : Chan → Chan) : (s.modChan c f).routers = s.routers := rfl
@[simp] theorem State.modChan_traces (s : State) (c : Nat) (f : Chan → Chan) : (s.modChan c f).traces = s.traces := rfl
@[simp] theorem State.modChan_arbs (s : State) (c : Nat) (f : Chan → Chan) : (s.modChan c f).arbs = s.arbs := rfl
@[simp] theorem State.modChan_near (s : State) (c : Nat) (f : Chan → Chan) : (s.modChan c f).near = s.near := rfl
@[simp] theorem State.modChan_nearMeta (s : State) (c : Nat) (f : Chan → Chan) : (s.modChan c f).nearMeta = s.nearMeta := rfl
@[simp] theorem State.modChan_hubs (s : State) (c : Nat) (f : Chan → Chan) : (s.modChan c f).hubs = s.hubs := rfl
@[simp] theorem State.modChan_splits (s : State) (c : Nat) (f : Chan → Chan) : (s.modChan c f).splits = s.splits := rfl
@[simp] theorem State.modChan_sys (s : State) (c : Nat) (f : Chan → Chan) : (s.modChan c f).sys = s.sys := rfl
@[simp] theorem State.modChan_tuck (s : State) (c : Nat) (f : Chan → Chan) : (s.modChan c f).tuck = s.tuck := rfl

/-! ### State.modHub -/

@[simp] theorem State.modHub_pending (s : State) (h : Nat) (f : Hub → Hub) : (s.modHub h f).pending = s.pending := rfl
@[simp] theorem State.modHub_respStatus (s : State) (h : Nat) (f : Hub → Hub) : (s.modHub h f).respStatus = s.respStatus := rfl
@[simp] theorem State.modHub_respValue (s : State) (h : Nat) (f : Hub → Hub) : (s.modHub h f).respValue = s.respValue := rfl
@[simp] theorem State.modHub_fresh (s : State) (h : Nat) (f : Hub → Hub) : (s.modHub h f).fresh = s.fresh := rfl
@[simp] theorem State.modHub_regs (s : State) (h : Nat) (f : Hub → Hub) : (s.modHub h f).regs = s.regs := rfl
@[simp] theorem State.modHub_cores (s : State) (h : Nat) (f : Hub → Hub) : (s.modHub h f).cores = s.cores := rfl
@[simp] theorem State.modHub_caches (s : State) (h : Nat) (f : Hub → Hub) : (s.modHub h f).caches = s.caches := rfl
@[simp] theorem State.modHub_slices (s : State) (h : Nat) (f : Hub → Hub) : (s.modHub h f).slices = s.slices := rfl
@[simp] theorem State.modHub_nis (s : State) (h : Nat) (f : Hub → Hub) : (s.modHub h f).nis = s.nis := rfl
@[simp] theorem State.modHub_lecs (s : State) (h : Nat) (f : Hub → Hub) : (s.modHub h f).lecs = s.lecs := rfl
@[simp] theorem State.modHub_wakeQ (s : State) (h : Nat) (f : Hub → Hub) : (s.modHub h f).wakeQ = s.wakeQ := rfl
@[simp] theorem State.modHub_pads (s : State) (h : Nat) (f : Hub → Hub) : (s.modHub h f).pads = s.pads := rfl
@[simp] theorem State.modHub_padPoison (s : State) (h : Nat) (f : Hub → Hub) : (s.modHub h f).padPoison = s.padPoison := rfl
@[simp] theorem State.modHub_sram (s : State) (h : Nat) (f : Hub → Hub) : (s.modHub h f).sram = s.sram := rfl
@[simp] theorem State.modHub_rasSeq (s : State) (h : Nat) (f : Hub → Hub) : (s.modHub h f).rasSeq = s.rasSeq := rfl
@[simp] theorem State.modHub_ceHist (s : State) (h : Nat) (f : Hub → Hub) : (s.modHub h f).ceHist = s.ceHist := rfl
@[simp] theorem State.modHub_faultHist (s : State) (h : Nat) (f : Hub → Hub) : (s.modHub h f).faultHist = s.faultHist := rfl
@[simp] theorem State.modHub_tblLog (s : State) (h : Nat) (f : Hub → Hub) : (s.modHub h f).tblLog = s.tblLog := rfl
@[simp] theorem State.modHub_tmaps (s : State) (h : Nat) (f : Hub → Hub) : (s.modHub h f).tmaps = s.tmaps := rfl
@[simp] theorem State.modHub_routers (s : State) (h : Nat) (f : Hub → Hub) : (s.modHub h f).routers = s.routers := rfl
@[simp] theorem State.modHub_traces (s : State) (h : Nat) (f : Hub → Hub) : (s.modHub h f).traces = s.traces := rfl
@[simp] theorem State.modHub_arbs (s : State) (h : Nat) (f : Hub → Hub) : (s.modHub h f).arbs = s.arbs := rfl
@[simp] theorem State.modHub_near (s : State) (h : Nat) (f : Hub → Hub) : (s.modHub h f).near = s.near := rfl
@[simp] theorem State.modHub_nearMeta (s : State) (h : Nat) (f : Hub → Hub) : (s.modHub h f).nearMeta = s.nearMeta := rfl
@[simp] theorem State.modHub_chans (s : State) (h : Nat) (f : Hub → Hub) : (s.modHub h f).chans = s.chans := rfl
@[simp] theorem State.modHub_splits (s : State) (h : Nat) (f : Hub → Hub) : (s.modHub h f).splits = s.splits := rfl
@[simp] theorem State.modHub_sys (s : State) (h : Nat) (f : Hub → Hub) : (s.modHub h f).sys = s.sys := rfl
@[simp] theorem State.modHub_tuck (s : State) (h : Nat) (f : Hub → Hub) : (s.modHub h f).tuck = s.tuck := rfl

/-! ### State.modNi -/

@[simp] theorem State.modNi_pending (s : State) (n : Nat) (f : Ni → Ni) : (s.modNi n f).pending = s.pending := rfl
@[simp] theorem State.modNi_respStatus (s : State) (n : Nat) (f : Ni → Ni) : (s.modNi n f).respStatus = s.respStatus := rfl
@[simp] theorem State.modNi_respValue (s : State) (n : Nat) (f : Ni → Ni) : (s.modNi n f).respValue = s.respValue := rfl
@[simp] theorem State.modNi_fresh (s : State) (n : Nat) (f : Ni → Ni) : (s.modNi n f).fresh = s.fresh := rfl
@[simp] theorem State.modNi_regs (s : State) (n : Nat) (f : Ni → Ni) : (s.modNi n f).regs = s.regs := rfl
@[simp] theorem State.modNi_cores (s : State) (n : Nat) (f : Ni → Ni) : (s.modNi n f).cores = s.cores := rfl
@[simp] theorem State.modNi_caches (s : State) (n : Nat) (f : Ni → Ni) : (s.modNi n f).caches = s.caches := rfl
@[simp] theorem State.modNi_slices (s : State) (n : Nat) (f : Ni → Ni) : (s.modNi n f).slices = s.slices := rfl
@[simp] theorem State.modNi_lecs (s : State) (n : Nat) (f : Ni → Ni) : (s.modNi n f).lecs = s.lecs := rfl
@[simp] theorem State.modNi_wakeQ (s : State) (n : Nat) (f : Ni → Ni) : (s.modNi n f).wakeQ = s.wakeQ := rfl
@[simp] theorem State.modNi_pads (s : State) (n : Nat) (f : Ni → Ni) : (s.modNi n f).pads = s.pads := rfl
@[simp] theorem State.modNi_padPoison (s : State) (n : Nat) (f : Ni → Ni) : (s.modNi n f).padPoison = s.padPoison := rfl
@[simp] theorem State.modNi_sram (s : State) (n : Nat) (f : Ni → Ni) : (s.modNi n f).sram = s.sram := rfl
@[simp] theorem State.modNi_rasSeq (s : State) (n : Nat) (f : Ni → Ni) : (s.modNi n f).rasSeq = s.rasSeq := rfl
@[simp] theorem State.modNi_ceHist (s : State) (n : Nat) (f : Ni → Ni) : (s.modNi n f).ceHist = s.ceHist := rfl
@[simp] theorem State.modNi_faultHist (s : State) (n : Nat) (f : Ni → Ni) : (s.modNi n f).faultHist = s.faultHist := rfl
@[simp] theorem State.modNi_tblLog (s : State) (n : Nat) (f : Ni → Ni) : (s.modNi n f).tblLog = s.tblLog := rfl
@[simp] theorem State.modNi_tmaps (s : State) (n : Nat) (f : Ni → Ni) : (s.modNi n f).tmaps = s.tmaps := rfl
@[simp] theorem State.modNi_routers (s : State) (n : Nat) (f : Ni → Ni) : (s.modNi n f).routers = s.routers := rfl
@[simp] theorem State.modNi_traces (s : State) (n : Nat) (f : Ni → Ni) : (s.modNi n f).traces = s.traces := rfl
@[simp] theorem State.modNi_arbs (s : State) (n : Nat) (f : Ni → Ni) : (s.modNi n f).arbs = s.arbs := rfl
@[simp] theorem State.modNi_near (s : State) (n : Nat) (f : Ni → Ni) : (s.modNi n f).near = s.near := rfl
@[simp] theorem State.modNi_nearMeta (s : State) (n : Nat) (f : Ni → Ni) : (s.modNi n f).nearMeta = s.nearMeta := rfl
@[simp] theorem State.modNi_chans (s : State) (n : Nat) (f : Ni → Ni) : (s.modNi n f).chans = s.chans := rfl
@[simp] theorem State.modNi_hubs (s : State) (n : Nat) (f : Ni → Ni) : (s.modNi n f).hubs = s.hubs := rfl
@[simp] theorem State.modNi_splits (s : State) (n : Nat) (f : Ni → Ni) : (s.modNi n f).splits = s.splits := rfl
@[simp] theorem State.modNi_sys (s : State) (n : Nat) (f : Ni → Ni) : (s.modNi n f).sys = s.sys := rfl
@[simp] theorem State.modNi_tuck (s : State) (n : Nat) (f : Ni → Ni) : (s.modNi n f).tuck = s.tuck := rfl

/-! ### State.send -/

@[simp] theorem State.send_pending (s : State) (n : Nat) (r : Req) : (s.send n r).pending = s.pending := rfl
@[simp] theorem State.send_respStatus (s : State) (n : Nat) (r : Req) : (s.send n r).respStatus = s.respStatus := rfl
@[simp] theorem State.send_respValue (s : State) (n : Nat) (r : Req) : (s.send n r).respValue = s.respValue := rfl
@[simp] theorem State.send_fresh (s : State) (n : Nat) (r : Req) : (s.send n r).fresh = s.fresh := rfl
@[simp] theorem State.send_regs (s : State) (n : Nat) (r : Req) : (s.send n r).regs = s.regs := rfl
@[simp] theorem State.send_cores (s : State) (n : Nat) (r : Req) : (s.send n r).cores = s.cores := rfl
@[simp] theorem State.send_caches (s : State) (n : Nat) (r : Req) : (s.send n r).caches = s.caches := rfl
@[simp] theorem State.send_slices (s : State) (n : Nat) (r : Req) : (s.send n r).slices = s.slices := rfl
@[simp] theorem State.send_lecs (s : State) (n : Nat) (r : Req) : (s.send n r).lecs = s.lecs := rfl
@[simp] theorem State.send_wakeQ (s : State) (n : Nat) (r : Req) : (s.send n r).wakeQ = s.wakeQ := rfl
@[simp] theorem State.send_pads (s : State) (n : Nat) (r : Req) : (s.send n r).pads = s.pads := rfl
@[simp] theorem State.send_padPoison (s : State) (n : Nat) (r : Req) : (s.send n r).padPoison = s.padPoison := rfl
@[simp] theorem State.send_sram (s : State) (n : Nat) (r : Req) : (s.send n r).sram = s.sram := rfl
@[simp] theorem State.send_rasSeq (s : State) (n : Nat) (r : Req) : (s.send n r).rasSeq = s.rasSeq := rfl
@[simp] theorem State.send_ceHist (s : State) (n : Nat) (r : Req) : (s.send n r).ceHist = s.ceHist := rfl
@[simp] theorem State.send_faultHist (s : State) (n : Nat) (r : Req) : (s.send n r).faultHist = s.faultHist := rfl
@[simp] theorem State.send_tblLog (s : State) (n : Nat) (r : Req) : (s.send n r).tblLog = s.tblLog := rfl
@[simp] theorem State.send_tmaps (s : State) (n : Nat) (r : Req) : (s.send n r).tmaps = s.tmaps := rfl
@[simp] theorem State.send_routers (s : State) (n : Nat) (r : Req) : (s.send n r).routers = s.routers := rfl
@[simp] theorem State.send_traces (s : State) (n : Nat) (r : Req) : (s.send n r).traces = s.traces := rfl
@[simp] theorem State.send_arbs (s : State) (n : Nat) (r : Req) : (s.send n r).arbs = s.arbs := rfl
@[simp] theorem State.send_near (s : State) (n : Nat) (r : Req) : (s.send n r).near = s.near := rfl
@[simp] theorem State.send_nearMeta (s : State) (n : Nat) (r : Req) : (s.send n r).nearMeta = s.nearMeta := rfl
@[simp] theorem State.send_chans (s : State) (n : Nat) (r : Req) : (s.send n r).chans = s.chans := rfl
@[simp] theorem State.send_hubs (s : State) (n : Nat) (r : Req) : (s.send n r).hubs = s.hubs := rfl
@[simp] theorem State.send_splits (s : State) (n : Nat) (r : Req) : (s.send n r).splits = s.splits := rfl
@[simp] theorem State.send_sys (s : State) (n : Nat) (r : Req) : (s.send n r).sys = s.sys := rfl
@[simp] theorem State.send_tuck (s : State) (n : Nat) (r : Req) : (s.send n r).tuck = s.tuck := rfl

@[simp] theorem State.core_setCore_self (s : State) (st : Nat) (c : Core) : (s.setCore st c).core st = c := tget_tset_self ..
theorem State.core_setCore_ne (s : State) {st m : Nat} (c : Core) (h : st ≠ m) : (s.setCore st c).core m = s.core m := tget_tset_ne _ _ _ _ h
@[simp] theorem State.cache_setCache_self (s : State) (st : Nat) (c : Caches) : (s.setCache st c).cache st = c := tget_tset_self ..
theorem State.cache_setCache_ne (s : State) {st m : Nat} (c : Caches) (h : st ≠ m) : (s.setCache st c).cache m = s.cache m := tget_tset_ne _ _ _ _ h
@[simp] theorem State.slice_setSlice_self (s : State) (st : Nat) (c : Slice) : (s.setSlice st c).slice st = c := tget_tset_self ..
theorem State.slice_setSlice_ne (s : State) {st m : Nat} (c : Slice) (h : st ≠ m) : (s.setSlice st c).slice m = s.slice m := tget_tset_ne _ _ _ _ h
@[simp] theorem State.chan_setChan_self (s : State) (n : Nat) (c : Chan) : (s.setChan n c).chan n = c := tget_tset_self ..
theorem State.chan_setChan_ne (s : State) {n m : Nat} (c : Chan) (h : n ≠ m) : (s.setChan n c).chan m = s.chan m := tget_tset_ne _ _ _ _ h
@[simp] theorem State.hub_setHub_self (s : State) (n : Nat) (c : Hub) : (s.setHub n c).hub n = c := tget_tset_self ..
theorem State.hub_setHub_ne (s : State) {n m : Nat} (c : Hub) (h : n ≠ m) : (s.setHub n c).hub m = s.hub m := tget_tset_ne _ _ _ _ h
@[simp] theorem State.ni_setNi_self (s : State) (n : Nat) (c : Ni) : (s.setNi n c).ni n = c := tget_tset_self ..
theorem State.ni_setNi_ne (s : State) {n m : Nat} (c : Ni) (h : n ≠ m) : (s.setNi n c).ni m = s.ni m := tget_tset_ne _ _ _ _ h
@[simp] theorem State.lec_setLec_self (s : State) (st : Nat) (c : Lec) : (s.setLec st c).lec st = c := tget_tset_self ..
theorem State.lec_setLec_ne (s : State) {st m : Nat} (c : Lec) (h : st ≠ m) : (s.setLec st c).lec m = s.lec m := tget_tset_ne _ _ _ _ h
@[simp] theorem State.router_setRouter_self (s : State) (st : Nat) (c : Router) : (s.setRouter st c).router st = c := tget_tset_self ..
theorem State.router_setRouter_ne (s : State) {st m : Nat} (c : Router) (h : st ≠ m) : (s.setRouter st c).router m = s.router m := tget_tset_ne _ _ _ _ h
@[simp] theorem State.core_modCore_self (s : State) (st : Nat) (f : Core → Core) : (s.modCore st f).core st = f (s.core st) := tget_tset_self ..
theorem State.core_modCore_ne (s : State) {st m : Nat} (f : Core → Core) (h : st ≠ m) : (s.modCore st f).core m = s.core m := tget_tset_ne _ _ _ _ h
@[simp] theorem State.cache_modCache_self (s : State) (st : Nat) (f : Caches → Caches) : (s.modCache st f).cache st = f (s.cache st) := tget_tset_self ..
theorem State.cache_modCache_ne (s : State) {st m : Nat} (f : Caches → Caches) (h : st ≠ m) : (s.modCache st f).cache m = s.cache m := tget_tset_ne _ _ _ _ h
@[simp] theorem State.chan_modChan_self (s : State) (n : Nat) (f : Chan → Chan) : (s.modChan n f).chan n = f (s.chan n) := tget_tset_self ..
theorem State.chan_modChan_ne (s : State) {n m : Nat} (f : Chan → Chan) (h : n ≠ m) : (s.modChan n f).chan m = s.chan m := tget_tset_ne _ _ _ _ h
@[simp] theorem State.hub_modHub_self (s : State) (n : Nat) (f : Hub → Hub) : (s.modHub n f).hub n = f (s.hub n) := tget_tset_self ..
theorem State.hub_modHub_ne (s : State) {n m : Nat} (f : Hub → Hub) (h : n ≠ m) : (s.modHub n f).hub m = s.hub m := tget_tset_ne _ _ _ _ h
@[simp] theorem State.ni_modNi_self (s : State) (n : Nat) (f : Ni → Ni) : (s.modNi n f).ni n = f (s.ni n) := tget_tset_self ..
theorem State.ni_modNi_ne (s : State) {n m : Nat} (f : Ni → Ni) (h : n ≠ m) : (s.modNi n f).ni m = s.ni m := tget_tset_ne _ _ _ _ h
@[simp] theorem State.get_answer (s : State) (r : Resp) (v : Word) (q : Nat) (g : Fld) (j : Nat) : (s.answer r v).get q g j = s.get q g j := rfl
@[simp] theorem State.get_setCore (s : State) (st : Nat) (c : Core) (q : Nat) (g : Fld) (j : Nat) : (s.setCore st c).get q g j = s.get q g j := rfl
@[simp] theorem State.get_setCache (s : State) (st : Nat) (c : Caches) (q : Nat) (g : Fld) (j : Nat) : (s.setCache st c).get q g j = s.get q g j := rfl
@[simp] theorem State.get_setSlice (s : State) (st : Nat) (c : Slice) (q : Nat) (g : Fld) (j : Nat) : (s.setSlice st c).get q g j = s.get q g j := rfl
@[simp] theorem State.get_setChan (s : State) (c : Nat) (x : Chan) (q : Nat) (g : Fld) (j : Nat) : (s.setChan c x).get q g j = s.get q g j := rfl
@[simp] theorem State.get_setHub (s : State) (h : Nat) (x : Hub) (q : Nat) (g : Fld) (j : Nat) : (s.setHub h x).get q g j = s.get q g j := rfl
@[simp] theorem State.get_setNi (s : State) (n : Nat) (x : Ni) (q : Nat) (g : Fld) (j : Nat) : (s.setNi n x).get q g j = s.get q g j := rfl
@[simp] theorem State.get_setLec (s : State) (st : Nat) (l : Lec) (q : Nat) (g : Fld) (j : Nat) : (s.setLec st l).get q g j = s.get q g j := rfl
@[simp] theorem State.get_setRouter (s : State) (r : Nat) (x : Router) (q : Nat) (g : Fld) (j : Nat) : (s.setRouter r x).get q g j = s.get q g j := rfl
@[simp] theorem State.get_setNearMeta (s : State) (c line : Nat) (x : NearMeta) (q : Nat) (g : Fld) (j : Nat) : (s.setNearMeta c line x).get q g j = s.get q g j := rfl
@[simp] theorem State.get_padWr (s : State) (st off : Nat) (bs : List Byte) (p : Bool) (q : Nat) (g : Fld) (j : Nat) : (s.padWr st off bs p).get q g j = s.get q g j := rfl
@[simp] theorem State.get_modCore (s : State) (st : Nat) (f : Core → Core) (q : Nat) (g : Fld) (j : Nat) : (s.modCore st f).get q g j = s.get q g j := rfl
@[simp] theorem State.get_modCache (s : State) (st : Nat) (f : Caches → Caches) (q : Nat) (g : Fld) (j : Nat) : (s.modCache st f).get q g j = s.get q g j := rfl
@[simp] theorem State.get_modChan (s : State) (c : Nat) (f : Chan → Chan) (q : Nat) (g : Fld) (j : Nat) : (s.modChan c f).get q g j = s.get q g j := rfl
@[simp] theorem State.get_modHub (s : State) (h : Nat) (f : Hub → Hub) (q : Nat) (g : Fld) (j : Nat) : (s.modHub h f).get q g j = s.get q g j := rfl
@[simp] theorem State.get_modNi (s : State) (n : Nat) (f : Ni → Ni) (q : Nat) (g : Fld) (j : Nat) : (s.modNi n f).get q g j = s.get q g j := rfl
@[simp] theorem State.get_send (s : State) (n : Nat) (r : Req) (q : Nat) (g : Fld) (j : Nat) : (s.send n r).get q g j = s.get q g j := rfl
@[simp] theorem State.flag_answer (s : State) (r : Resp) (v : Word) (q : Nat) (g : Fld) (j : Nat) : (s.answer r v).flag q g j = s.flag q g j := rfl
@[simp] theorem State.flag_setCore (s : State) (st : Nat) (c : Core) (q : Nat) (g : Fld) (j : Nat) : (s.setCore st c).flag q g j = s.flag q g j := rfl
@[simp] theorem State.flag_setCache (s : State) (st : Nat) (c : Caches) (q : Nat) (g : Fld) (j : Nat) : (s.setCache st c).flag q g j = s.flag q g j := rfl
@[simp] theorem State.flag_setSlice (s : State) (st : Nat) (c : Slice) (q : Nat) (g : Fld) (j : Nat) : (s.setSlice st c).flag q g j = s.flag q g j := rfl
@[simp] theorem State.flag_setChan (s : State) (c : Nat) (x : Chan) (q : Nat) (g : Fld) (j : Nat) : (s.setChan c x).flag q g j = s.flag q g j := rfl
@[simp] theorem State.flag_setHub (s : State) (h : Nat) (x : Hub) (q : Nat) (g : Fld) (j : Nat) : (s.setHub h x).flag q g j = s.flag q g j := rfl
@[simp] theorem State.flag_setNi (s : State) (n : Nat) (x : Ni) (q : Nat) (g : Fld) (j : Nat) : (s.setNi n x).flag q g j = s.flag q g j := rfl
@[simp] theorem State.flag_setLec (s : State) (st : Nat) (l : Lec) (q : Nat) (g : Fld) (j : Nat) : (s.setLec st l).flag q g j = s.flag q g j := rfl
@[simp] theorem State.flag_setRouter (s : State) (r : Nat) (x : Router) (q : Nat) (g : Fld) (j : Nat) : (s.setRouter r x).flag q g j = s.flag q g j := rfl
@[simp] theorem State.flag_setNearMeta (s : State) (c line : Nat) (x : NearMeta) (q : Nat) (g : Fld) (j : Nat) : (s.setNearMeta c line x).flag q g j = s.flag q g j := rfl
@[simp] theorem State.flag_padWr (s : State) (st off : Nat) (bs : List Byte) (p : Bool) (q : Nat) (g : Fld) (j : Nat) : (s.padWr st off bs p).flag q g j = s.flag q g j := rfl
@[simp] theorem State.flag_modCore (s : State) (st : Nat) (f : Core → Core) (q : Nat) (g : Fld) (j : Nat) : (s.modCore st f).flag q g j = s.flag q g j := rfl
@[simp] theorem State.flag_modCache (s : State) (st : Nat) (f : Caches → Caches) (q : Nat) (g : Fld) (j : Nat) : (s.modCache st f).flag q g j = s.flag q g j := rfl
@[simp] theorem State.flag_modChan (s : State) (c : Nat) (f : Chan → Chan) (q : Nat) (g : Fld) (j : Nat) : (s.modChan c f).flag q g j = s.flag q g j := rfl
@[simp] theorem State.flag_modHub (s : State) (h : Nat) (f : Hub → Hub) (q : Nat) (g : Fld) (j : Nat) : (s.modHub h f).flag q g j = s.flag q g j := rfl
@[simp] theorem State.flag_modNi (s : State) (n : Nat) (f : Ni → Ni) (q : Nat) (g : Fld) (j : Nat) : (s.modNi n f).flag q g j = s.flag q g j := rfl
@[simp] theorem State.flag_send (s : State) (n : Nat) (r : Req) (q : Nat) (g : Fld) (j : Nat) : (s.send n r).flag q g j = s.flag q g j := rfl
@[simp] theorem State.core_set (s : State) (pg : Nat) (f : Fld) (i v : Nat) (m : Nat) : (s.set pg f i v).core m = s.core m := rfl
@[simp] theorem State.core_answer (s : State) (r : Resp) (v : Word) (m : Nat) : (s.answer r v).core m = s.core m := rfl
@[simp] theorem State.core_setCache (s : State) (st : Nat) (c : Caches) (m : Nat) : (s.setCache st c).core m = s.core m := rfl
@[simp] theorem State.core_setSlice (s : State) (st : Nat) (c : Slice) (m : Nat) : (s.setSlice st c).core m = s.core m := rfl
@[simp] theorem State.core_setChan (s : State) (c : Nat) (x : Chan) (m : Nat) : (s.setChan c x).core m = s.core m := rfl
@[simp] theorem State.core_setHub (s : State) (h : Nat) (x : Hub) (m : Nat) : (s.setHub h x).core m = s.core m := rfl
@[simp] theorem State.core_setNi (s : State) (n : Nat) (x : Ni) (m : Nat) : (s.setNi n x).core m = s.core m := rfl
@[simp] theorem State.core_setLec (s : State) (st : Nat) (l : Lec) (m : Nat) : (s.setLec st l).core m = s.core m := rfl
@[simp] theorem State.core_setRouter (s : State) (r : Nat) (x : Router) (m : Nat) : (s.setRouter r x).core m = s.core m := rfl
@[simp] theorem State.core_setNearMeta (s : State) (c line : Nat) (x : NearMeta) (m : Nat) : (s.setNearMeta c line x).core m = s.core m := rfl
@[simp] theorem State.core_padWr (s : State) (st off : Nat) (bs : List Byte) (p : Bool) (m : Nat) : (s.padWr st off bs p).core m = s.core m := rfl
@[simp] theorem State.core_modCache (s : State) (st : Nat) (f : Caches → Caches) (m : Nat) : (s.modCache st f).core m = s.core m := rfl
@[simp] theorem State.core_modChan (s : State) (c : Nat) (f : Chan → Chan) (m : Nat) : (s.modChan c f).core m = s.core m := rfl
@[simp] theorem State.core_modHub (s : State) (h : Nat) (f : Hub → Hub) (m : Nat) : (s.modHub h f).core m = s.core m := rfl
@[simp] theorem State.core_modNi (s : State) (n : Nat) (f : Ni → Ni) (m : Nat) : (s.modNi n f).core m = s.core m := rfl
@[simp] theorem State.core_send (s : State) (n : Nat) (r : Req) (m : Nat) : (s.send n r).core m = s.core m := rfl
@[simp] theorem State.cache_set (s : State) (pg : Nat) (f : Fld) (i v : Nat) (m : Nat) : (s.set pg f i v).cache m = s.cache m := rfl
@[simp] theorem State.cache_answer (s : State) (r : Resp) (v : Word) (m : Nat) : (s.answer r v).cache m = s.cache m := rfl
@[simp] theorem State.cache_setCore (s : State) (st : Nat) (c : Core) (m : Nat) : (s.setCore st c).cache m = s.cache m := rfl
@[simp] theorem State.cache_setSlice (s : State) (st : Nat) (c : Slice) (m : Nat) : (s.setSlice st c).cache m = s.cache m := rfl
@[simp] theorem State.cache_setChan (s : State) (c : Nat) (x : Chan) (m : Nat) : (s.setChan c x).cache m = s.cache m := rfl
@[simp] theorem State.cache_setHub (s : State) (h : Nat) (x : Hub) (m : Nat) : (s.setHub h x).cache m = s.cache m := rfl
@[simp] theorem State.cache_setNi (s : State) (n : Nat) (x : Ni) (m : Nat) : (s.setNi n x).cache m = s.cache m := rfl
@[simp] theorem State.cache_setLec (s : State) (st : Nat) (l : Lec) (m : Nat) : (s.setLec st l).cache m = s.cache m := rfl
@[simp] theorem State.cache_setRouter (s : State) (r : Nat) (x : Router) (m : Nat) : (s.setRouter r x).cache m = s.cache m := rfl
@[simp] theorem State.cache_setNearMeta (s : State) (c line : Nat) (x : NearMeta) (m : Nat) : (s.setNearMeta c line x).cache m = s.cache m := rfl
@[simp] theorem State.cache_padWr (s : State) (st off : Nat) (bs : List Byte) (p : Bool) (m : Nat) : (s.padWr st off bs p).cache m = s.cache m := rfl
@[simp] theorem State.cache_modCore (s : State) (st : Nat) (f : Core → Core) (m : Nat) : (s.modCore st f).cache m = s.cache m := rfl
@[simp] theorem State.cache_modChan (s : State) (c : Nat) (f : Chan → Chan) (m : Nat) : (s.modChan c f).cache m = s.cache m := rfl
@[simp] theorem State.cache_modHub (s : State) (h : Nat) (f : Hub → Hub) (m : Nat) : (s.modHub h f).cache m = s.cache m := rfl
@[simp] theorem State.cache_modNi (s : State) (n : Nat) (f : Ni → Ni) (m : Nat) : (s.modNi n f).cache m = s.cache m := rfl
@[simp] theorem State.cache_send (s : State) (n : Nat) (r : Req) (m : Nat) : (s.send n r).cache m = s.cache m := rfl
@[simp] theorem State.slice_set (s : State) (pg : Nat) (f : Fld) (i v : Nat) (m : Nat) : (s.set pg f i v).slice m = s.slice m := rfl
@[simp] theorem State.slice_answer (s : State) (r : Resp) (v : Word) (m : Nat) : (s.answer r v).slice m = s.slice m := rfl
@[simp] theorem State.slice_setCore (s : State) (st : Nat) (c : Core) (m : Nat) : (s.setCore st c).slice m = s.slice m := rfl
@[simp] theorem State.slice_setCache (s : State) (st : Nat) (c : Caches) (m : Nat) : (s.setCache st c).slice m = s.slice m := rfl
@[simp] theorem State.slice_setChan (s : State) (c : Nat) (x : Chan) (m : Nat) : (s.setChan c x).slice m = s.slice m := rfl
@[simp] theorem State.slice_setHub (s : State) (h : Nat) (x : Hub) (m : Nat) : (s.setHub h x).slice m = s.slice m := rfl
@[simp] theorem State.slice_setNi (s : State) (n : Nat) (x : Ni) (m : Nat) : (s.setNi n x).slice m = s.slice m := rfl
@[simp] theorem State.slice_setLec (s : State) (st : Nat) (l : Lec) (m : Nat) : (s.setLec st l).slice m = s.slice m := rfl
@[simp] theorem State.slice_setRouter (s : State) (r : Nat) (x : Router) (m : Nat) : (s.setRouter r x).slice m = s.slice m := rfl
@[simp] theorem State.slice_setNearMeta (s : State) (c line : Nat) (x : NearMeta) (m : Nat) : (s.setNearMeta c line x).slice m = s.slice m := rfl
@[simp] theorem State.slice_padWr (s : State) (st off : Nat) (bs : List Byte) (p : Bool) (m : Nat) : (s.padWr st off bs p).slice m = s.slice m := rfl
@[simp] theorem State.slice_modCore (s : State) (st : Nat) (f : Core → Core) (m : Nat) : (s.modCore st f).slice m = s.slice m := rfl
@[simp] theorem State.slice_modCache (s : State) (st : Nat) (f : Caches → Caches) (m : Nat) : (s.modCache st f).slice m = s.slice m := rfl
@[simp] theorem State.slice_modChan (s : State) (c : Nat) (f : Chan → Chan) (m : Nat) : (s.modChan c f).slice m = s.slice m := rfl
@[simp] theorem State.slice_modHub (s : State) (h : Nat) (f : Hub → Hub) (m : Nat) : (s.modHub h f).slice m = s.slice m := rfl
@[simp] theorem State.slice_modNi (s : State) (n : Nat) (f : Ni → Ni) (m : Nat) : (s.modNi n f).slice m = s.slice m := rfl
@[simp] theorem State.slice_send (s : State) (n : Nat) (r : Req) (m : Nat) : (s.send n r).slice m = s.slice m := rfl
@[simp] theorem State.chan_set (s : State) (pg : Nat) (f : Fld) (i v : Nat) (m : Nat) : (s.set pg f i v).chan m = s.chan m := rfl
@[simp] theorem State.chan_answer (s : State) (r : Resp) (v : Word) (m : Nat) : (s.answer r v).chan m = s.chan m := rfl
@[simp] theorem State.chan_setCore (s : State) (st : Nat) (c : Core) (m : Nat) : (s.setCore st c).chan m = s.chan m := rfl
@[simp] theorem State.chan_setCache (s : State) (st : Nat) (c : Caches) (m : Nat) : (s.setCache st c).chan m = s.chan m := rfl
@[simp] theorem State.chan_setSlice (s : State) (st : Nat) (c : Slice) (m : Nat) : (s.setSlice st c).chan m = s.chan m := rfl
@[simp] theorem State.chan_setHub (s : State) (h : Nat) (x : Hub) (m : Nat) : (s.setHub h x).chan m = s.chan m := rfl
@[simp] theorem State.chan_setNi (s : State) (n : Nat) (x : Ni) (m : Nat) : (s.setNi n x).chan m = s.chan m := rfl
@[simp] theorem State.chan_setLec (s : State) (st : Nat) (l : Lec) (m : Nat) : (s.setLec st l).chan m = s.chan m := rfl
@[simp] theorem State.chan_setRouter (s : State) (r : Nat) (x : Router) (m : Nat) : (s.setRouter r x).chan m = s.chan m := rfl
@[simp] theorem State.chan_setNearMeta (s : State) (c line : Nat) (x : NearMeta) (m : Nat) : (s.setNearMeta c line x).chan m = s.chan m := rfl
@[simp] theorem State.chan_padWr (s : State) (st off : Nat) (bs : List Byte) (p : Bool) (m : Nat) : (s.padWr st off bs p).chan m = s.chan m := rfl
@[simp] theorem State.chan_modCore (s : State) (st : Nat) (f : Core → Core) (m : Nat) : (s.modCore st f).chan m = s.chan m := rfl
@[simp] theorem State.chan_modCache (s : State) (st : Nat) (f : Caches → Caches) (m : Nat) : (s.modCache st f).chan m = s.chan m := rfl
@[simp] theorem State.chan_modHub (s : State) (h : Nat) (f : Hub → Hub) (m : Nat) : (s.modHub h f).chan m = s.chan m := rfl
@[simp] theorem State.chan_modNi (s : State) (n : Nat) (f : Ni → Ni) (m : Nat) : (s.modNi n f).chan m = s.chan m := rfl
@[simp] theorem State.chan_send (s : State) (n : Nat) (r : Req) (m : Nat) : (s.send n r).chan m = s.chan m := rfl
@[simp] theorem State.hub_set (s : State) (pg : Nat) (f : Fld) (i v : Nat) (m : Nat) : (s.set pg f i v).hub m = s.hub m := rfl
@[simp] theorem State.hub_answer (s : State) (r : Resp) (v : Word) (m : Nat) : (s.answer r v).hub m = s.hub m := rfl
@[simp] theorem State.hub_setCore (s : State) (st : Nat) (c : Core) (m : Nat) : (s.setCore st c).hub m = s.hub m := rfl
@[simp] theorem State.hub_setCache (s : State) (st : Nat) (c : Caches) (m : Nat) : (s.setCache st c).hub m = s.hub m := rfl
@[simp] theorem State.hub_setSlice (s : State) (st : Nat) (c : Slice) (m : Nat) : (s.setSlice st c).hub m = s.hub m := rfl
@[simp] theorem State.hub_setChan (s : State) (c : Nat) (x : Chan) (m : Nat) : (s.setChan c x).hub m = s.hub m := rfl
@[simp] theorem State.hub_setNi (s : State) (n : Nat) (x : Ni) (m : Nat) : (s.setNi n x).hub m = s.hub m := rfl
@[simp] theorem State.hub_setLec (s : State) (st : Nat) (l : Lec) (m : Nat) : (s.setLec st l).hub m = s.hub m := rfl
@[simp] theorem State.hub_setRouter (s : State) (r : Nat) (x : Router) (m : Nat) : (s.setRouter r x).hub m = s.hub m := rfl
@[simp] theorem State.hub_setNearMeta (s : State) (c line : Nat) (x : NearMeta) (m : Nat) : (s.setNearMeta c line x).hub m = s.hub m := rfl
@[simp] theorem State.hub_padWr (s : State) (st off : Nat) (bs : List Byte) (p : Bool) (m : Nat) : (s.padWr st off bs p).hub m = s.hub m := rfl
@[simp] theorem State.hub_modCore (s : State) (st : Nat) (f : Core → Core) (m : Nat) : (s.modCore st f).hub m = s.hub m := rfl
@[simp] theorem State.hub_modCache (s : State) (st : Nat) (f : Caches → Caches) (m : Nat) : (s.modCache st f).hub m = s.hub m := rfl
@[simp] theorem State.hub_modChan (s : State) (c : Nat) (f : Chan → Chan) (m : Nat) : (s.modChan c f).hub m = s.hub m := rfl
@[simp] theorem State.hub_modNi (s : State) (n : Nat) (f : Ni → Ni) (m : Nat) : (s.modNi n f).hub m = s.hub m := rfl
@[simp] theorem State.hub_send (s : State) (n : Nat) (r : Req) (m : Nat) : (s.send n r).hub m = s.hub m := rfl
@[simp] theorem State.ni_set (s : State) (pg : Nat) (f : Fld) (i v : Nat) (m : Nat) : (s.set pg f i v).ni m = s.ni m := rfl
@[simp] theorem State.ni_answer (s : State) (r : Resp) (v : Word) (m : Nat) : (s.answer r v).ni m = s.ni m := rfl
@[simp] theorem State.ni_setCore (s : State) (st : Nat) (c : Core) (m : Nat) : (s.setCore st c).ni m = s.ni m := rfl
@[simp] theorem State.ni_setCache (s : State) (st : Nat) (c : Caches) (m : Nat) : (s.setCache st c).ni m = s.ni m := rfl
@[simp] theorem State.ni_setSlice (s : State) (st : Nat) (c : Slice) (m : Nat) : (s.setSlice st c).ni m = s.ni m := rfl
@[simp] theorem State.ni_setChan (s : State) (c : Nat) (x : Chan) (m : Nat) : (s.setChan c x).ni m = s.ni m := rfl
@[simp] theorem State.ni_setHub (s : State) (h : Nat) (x : Hub) (m : Nat) : (s.setHub h x).ni m = s.ni m := rfl
@[simp] theorem State.ni_setLec (s : State) (st : Nat) (l : Lec) (m : Nat) : (s.setLec st l).ni m = s.ni m := rfl
@[simp] theorem State.ni_setRouter (s : State) (r : Nat) (x : Router) (m : Nat) : (s.setRouter r x).ni m = s.ni m := rfl
@[simp] theorem State.ni_setNearMeta (s : State) (c line : Nat) (x : NearMeta) (m : Nat) : (s.setNearMeta c line x).ni m = s.ni m := rfl
@[simp] theorem State.ni_padWr (s : State) (st off : Nat) (bs : List Byte) (p : Bool) (m : Nat) : (s.padWr st off bs p).ni m = s.ni m := rfl
@[simp] theorem State.ni_modCore (s : State) (st : Nat) (f : Core → Core) (m : Nat) : (s.modCore st f).ni m = s.ni m := rfl
@[simp] theorem State.ni_modCache (s : State) (st : Nat) (f : Caches → Caches) (m : Nat) : (s.modCache st f).ni m = s.ni m := rfl
@[simp] theorem State.ni_modChan (s : State) (c : Nat) (f : Chan → Chan) (m : Nat) : (s.modChan c f).ni m = s.ni m := rfl
@[simp] theorem State.ni_modHub (s : State) (h : Nat) (f : Hub → Hub) (m : Nat) : (s.modHub h f).ni m = s.ni m := rfl
@[simp] theorem State.lec_set (s : State) (pg : Nat) (f : Fld) (i v : Nat) (m : Nat) : (s.set pg f i v).lec m = s.lec m := rfl
@[simp] theorem State.lec_answer (s : State) (r : Resp) (v : Word) (m : Nat) : (s.answer r v).lec m = s.lec m := rfl
@[simp] theorem State.lec_setCore (s : State) (st : Nat) (c : Core) (m : Nat) : (s.setCore st c).lec m = s.lec m := rfl
@[simp] theorem State.lec_setCache (s : State) (st : Nat) (c : Caches) (m : Nat) : (s.setCache st c).lec m = s.lec m := rfl
@[simp] theorem State.lec_setSlice (s : State) (st : Nat) (c : Slice) (m : Nat) : (s.setSlice st c).lec m = s.lec m := rfl
@[simp] theorem State.lec_setChan (s : State) (c : Nat) (x : Chan) (m : Nat) : (s.setChan c x).lec m = s.lec m := rfl
@[simp] theorem State.lec_setHub (s : State) (h : Nat) (x : Hub) (m : Nat) : (s.setHub h x).lec m = s.lec m := rfl
@[simp] theorem State.lec_setNi (s : State) (n : Nat) (x : Ni) (m : Nat) : (s.setNi n x).lec m = s.lec m := rfl
@[simp] theorem State.lec_setRouter (s : State) (r : Nat) (x : Router) (m : Nat) : (s.setRouter r x).lec m = s.lec m := rfl
@[simp] theorem State.lec_setNearMeta (s : State) (c line : Nat) (x : NearMeta) (m : Nat) : (s.setNearMeta c line x).lec m = s.lec m := rfl
@[simp] theorem State.lec_padWr (s : State) (st off : Nat) (bs : List Byte) (p : Bool) (m : Nat) : (s.padWr st off bs p).lec m = s.lec m := rfl
@[simp] theorem State.lec_modCore (s : State) (st : Nat) (f : Core → Core) (m : Nat) : (s.modCore st f).lec m = s.lec m := rfl
@[simp] theorem State.lec_modCache (s : State) (st : Nat) (f : Caches → Caches) (m : Nat) : (s.modCache st f).lec m = s.lec m := rfl
@[simp] theorem State.lec_modChan (s : State) (c : Nat) (f : Chan → Chan) (m : Nat) : (s.modChan c f).lec m = s.lec m := rfl
@[simp] theorem State.lec_modHub (s : State) (h : Nat) (f : Hub → Hub) (m : Nat) : (s.modHub h f).lec m = s.lec m := rfl
@[simp] theorem State.lec_modNi (s : State) (n : Nat) (f : Ni → Ni) (m : Nat) : (s.modNi n f).lec m = s.lec m := rfl
@[simp] theorem State.lec_send (s : State) (n : Nat) (r : Req) (m : Nat) : (s.send n r).lec m = s.lec m := rfl
@[simp] theorem State.router_set (s : State) (pg : Nat) (f : Fld) (i v : Nat) (m : Nat) : (s.set pg f i v).router m = s.router m := rfl
@[simp] theorem State.router_answer (s : State) (r : Resp) (v : Word) (m : Nat) : (s.answer r v).router m = s.router m := rfl
@[simp] theorem State.router_setCore (s : State) (st : Nat) (c : Core) (m : Nat) : (s.setCore st c).router m = s.router m := rfl
@[simp] theorem State.router_setCache (s : State) (st : Nat) (c : Caches) (m : Nat) : (s.setCache st c).router m = s.router m := rfl
@[simp] theorem State.router_setSlice (s : State) (st : Nat) (c : Slice) (m : Nat) : (s.setSlice st c).router m = s.router m := rfl
@[simp] theorem State.router_setChan (s : State) (c : Nat) (x : Chan) (m : Nat) : (s.setChan c x).router m = s.router m := rfl
@[simp] theorem State.router_setHub (s : State) (h : Nat) (x : Hub) (m : Nat) : (s.setHub h x).router m = s.router m := rfl
@[simp] theorem State.router_setNi (s : State) (n : Nat) (x : Ni) (m : Nat) : (s.setNi n x).router m = s.router m := rfl
@[simp] theorem State.router_setLec (s : State) (st : Nat) (l : Lec) (m : Nat) : (s.setLec st l).router m = s.router m := rfl
@[simp] theorem State.router_setNearMeta (s : State) (c line : Nat) (x : NearMeta) (m : Nat) : (s.setNearMeta c line x).router m = s.router m := rfl
@[simp] theorem State.router_padWr (s : State) (st off : Nat) (bs : List Byte) (p : Bool) (m : Nat) : (s.padWr st off bs p).router m = s.router m := rfl
@[simp] theorem State.router_modCore (s : State) (st : Nat) (f : Core → Core) (m : Nat) : (s.modCore st f).router m = s.router m := rfl
@[simp] theorem State.router_modCache (s : State) (st : Nat) (f : Caches → Caches) (m : Nat) : (s.modCache st f).router m = s.router m := rfl
@[simp] theorem State.router_modChan (s : State) (c : Nat) (f : Chan → Chan) (m : Nat) : (s.modChan c f).router m = s.router m := rfl
@[simp] theorem State.router_modHub (s : State) (h : Nat) (f : Hub → Hub) (m : Nat) : (s.modHub h f).router m = s.router m := rfl
@[simp] theorem State.router_modNi (s : State) (n : Nat) (f : Ni → Ni) (m : Nat) : (s.modNi n f).router m = s.router m := rfl
@[simp] theorem State.router_send (s : State) (n : Nat) (r : Req) (m : Nat) : (s.send n r).router m = s.router m := rfl
@[simp] theorem State.live_set (s : State) (pg : Nat) (f : Fld) (i v : Nat) : (s.set pg f i v).live = s.live := rfl
@[simp] theorem State.live_answer (s : State) (r : Resp) (v : Word) : (s.answer r v).live = s.live := rfl
@[simp] theorem State.live_setCore (s : State) (st : Nat) (c : Core) : (s.setCore st c).live = s.live := rfl
@[simp] theorem State.live_setCache (s : State) (st : Nat) (c : Caches) : (s.setCache st c).live = s.live := rfl
@[simp] theorem State.live_setSlice (s : State) (st : Nat) (c : Slice) : (s.setSlice st c).live = s.live := rfl
@[simp] theorem State.live_setChan (s : State) (c : Nat) (x : Chan) : (s.setChan c x).live = s.live := rfl
@[simp] theorem State.live_setHub (s : State) (h : Nat) (x : Hub) : (s.setHub h x).live = s.live := rfl
@[simp] theorem State.live_setNi (s : State) (n : Nat) (x : Ni) : (s.setNi n x).live = s.live := rfl
@[simp] theorem State.live_setLec (s : State) (st : Nat) (l : Lec) : (s.setLec st l).live = s.live := rfl
@[simp] theorem State.live_setRouter (s : State) (r : Nat) (x : Router) : (s.setRouter r x).live = s.live := rfl
@[simp] theorem State.live_setNearMeta (s : State) (c line : Nat) (x : NearMeta) : (s.setNearMeta c line x).live = s.live := rfl
@[simp] theorem State.live_padWr (s : State) (st off : Nat) (bs : List Byte) (p : Bool) : (s.padWr st off bs p).live = s.live := rfl
@[simp] theorem State.live_modCore (s : State) (st : Nat) (f : Core → Core) : (s.modCore st f).live = s.live := rfl
@[simp] theorem State.live_modCache (s : State) (st : Nat) (f : Caches → Caches) : (s.modCache st f).live = s.live := rfl
@[simp] theorem State.live_modChan (s : State) (c : Nat) (f : Chan → Chan) : (s.modChan c f).live = s.live := rfl
@[simp] theorem State.live_modHub (s : State) (h : Nat) (f : Hub → Hub) : (s.modHub h f).live = s.live := rfl
@[simp] theorem State.live_modNi (s : State) (n : Nat) (f : Ni → Ni) : (s.modNi n f).live = s.live := rfl
@[simp] theorem State.live_send (s : State) (n : Nat) (r : Req) : (s.send n r).live = s.live := rfl

/-! ### Register fields -/

@[simp] theorem State.get_set_self (s : State) (pg : Nat) (f : Fld) (i v : Nat) : (s.set pg f i v).get pg f i = v % 2 ^ f.w :=
  tget_tset_self ..

theorem State.get_set_ne (s : State) {pg q : Nat} {f g : Fld} {i j : Nat} (v : Nat) (h : fkey pg f i ≠ fkey q g j) :
    (s.set pg f i v).get q g j = s.get q g j := tget_tset_ne _ _ _ _ h

theorem State.get_set_page (s : State) {pg q : Nat} (f g : Fld) (i j v : Nat) (h : pg ≠ q) :
    (s.set pg f i v).get q g j = s.get q g j := State.get_set_ne s v (by simp [fkey, h])

theorem State.get_set_fld (s : State) (pg : Nat) {f g : Fld} (i j v : Nat) (h : f.fid ≠ g.fid) :
    (s.set pg f i v).get pg g j = s.get pg g j := State.get_set_ne s v (by simp [fkey, h])

theorem State.get_set_idx (s : State) (pg : Nat) (f : Fld) {i j : Nat} (v : Nat) (h : i ≠ j) :
    (s.set pg f i v).get pg f j = s.get pg f j := State.get_set_ne s v (by simp [fkey, h])

theorem State.flag_set_self (s : State) (pg : Nat) (f : Fld) (i v : Nat) : (s.set pg f i v).flag pg f i = decide (v % 2 ^ f.w = 1) := by
  simp [State.flag]

theorem State.set_get (s : State) (pg : Nat) (f : Fld) (i v : Nat) (h : v < 2 ^ f.w) : (s.set pg f i v).get pg f i = v := by
  simp [Nat.mod_eq_of_lt h]

@[simp] theorem State.ni_send_self (s : State) (n : Nat) (r : Req) : ((s.send n r).ni n).reqs = (s.ni n).reqs ++ [r] := by
  simp [State.send]

theorem State.ni_send_ne (s : State) {n m : Nat} (r : Req) (h : n ≠ m) : (s.send n r).ni m = s.ni m :=
  State.ni_modNi_ne s _ h

@[simp] theorem State.answer_respStatus (s : State) (r : Resp) (v : Word) : (s.answer r v).respStatus = r := rfl
@[simp] theorem State.answer_respValue (s : State) (r : Resp) (v : Word) : (s.answer r v).respValue = v := rfl

/-! ### Outcomes -/

theorem act_live {s : State} (h : s.live = true) (f : State → State) : act s f = .next (f s) := by simp [act, h]
theorem act_dead {s : State} (h : s.live = false) (f : State → State) : act s f = .next s := by simp [act, h]
theorem onTile_live {st : Stop} {s : State} (ht : isTile st.val = true) (h : s.live = true) (f : State → State) :
    onTile st s f = .next (f s) := by simp [onTile, ht, h]
theorem onTile_dead {st : Stop} {s : State} (ht : isTile st.val = true) (h : s.live = false) (f : State → State) :
    onTile st s f = .next s := by simp [onTile, ht, h]
theorem onTile_agent {st : Stop} {s : State} (ht : isTile st.val = false) (f : State → State) :
    onTile st s f = .refused .noSuchUnit := by simp [onTile, ht]

end Sys2Proof.Machine
end

