-- ==== Sys2Proof/Laws/Issue.lean ====
section
/-! SUPPORT. What an operation row comes to when its stride meets no hold and no fault: the operations of its stride, and the one
pending result, effect for the commit, or memory access it leaves. -/

namespace Sys2Proof.Machine

/-! ### Words -/

theorem OpW.ofWord_toWord (x : OpW) (hp : x.p < 8) (ho : x.o < 128) (hd : x.d < 64) (ha : x.a < 64) (hb : x.b < 64) (hf : x.f < 16) :
    OpW.ofWord x.toWord = x := by
  obtain ⟨p, o, d, a, b, f⟩ := x
  simp only [OpW.ofWord, OpW.toWord, bitsOf, Nat.shiftRight_eq_div_pow, OpW.mk.injEq] at *
  omega

theorem isImx_toWord (x : OpW) (ho : x.o < 126) : isImx x.toWord = false := by
  simp only [isImx, OpW.toWord, bitsOf, Nat.shiftRight_eq_div_pow, decide_eq_false_iff_not] at *
  omega

theorem isImx_imxWord (X : Nat) : isImx (imxWord X) = true := by
  simp only [isImx, imxWord, bitsOf, Nat.shiftRight_eq_div_pow, decide_eq_true_eq] at *
  omega

theorem imxPayload_imxWord (X : Nat) (h : X < 2 ^ 26) : imxPayload (imxWord X) = X := by
  simp only [imxPayload, imxWord, bitsOf, Nat.shiftRight_eq_div_pow] at *
  omega

/-- The operations of a row's stride: its IMX, where it has one outside slot A, and its own operation with the payload. -/
theorem rowOps_eq (sl opcode f : Nat) (o : Op) (ho : opcode < 126) (hf : f < 16) :
    ∃ pre, rowOps sl opcode f o = pre ++ [rowOp sl opcode f o] ∧
      (∀ q ∈ pre, isImx q.word = true) ∧ (sl = 0 → pre = []) ∧ (∀ q ∈ pre, q.slot < 2) ∧ pre.length ≤ 1 := by
  have hx : OpW.ofWord (rowX opcode f o).toWord = rowX opcode f o :=
    OpW.ofWord_toWord _ o.p.isLt (by simp [rowX]; omega) o.d.isLt o.a.isLt o.b.isLt hf
  have hn : isImx (rowX opcode f o).toWord = false := isImx_toWord _ ho
  unfold rowOps rowWords
  by_cases h0 : sl = 0
  · refine ⟨[], ?_, by simp, by simp, by simp, by simp⟩
    subst h0
    have : (⟨o.p.toNat, opcode, o.d.toNat, o.a.toNat, o.b.toNat, f⟩ : OpW) = rowX opcode f o := rfl
    cases o.imx <;> simp [pairOps, rowOp, this, hx, hn]
  · have : (⟨o.p.toNat, opcode, o.d.toNat, o.a.toNat, o.b.toNat, f⟩ : OpW) = rowX opcode f o := rfl
    cases hi : o.imx with
    | none => refine ⟨[], ?_, by simp, by simp, by simp, by simp⟩; simp [pairOps, rowOp, this, hx, hn, hi]
    | some X =>
      refine ⟨[⟨if sl = 1 then 0 else 1, imxWord X.toNat, OpW.ofWord (imxWord X.toNat), none⟩], ?_, ?_, ?_, ?_, by simp⟩
      · simp [pairOps, rowOp, this, hx, hn, hi, h0, isImx_imxWord X.toNat, imxPayload_imxWord X.toNat X.isLt]
      · simp [isImx_imxWord X.toNat]
      · exact fun h => absurd h h0
      · simp only [List.mem_singleton, forall_eq]; split <;> omega

/-! ### No fault -/

theorem firstFault_mem {s : State} {st k : Nat} {ops l : List SlotOp} (h : s.firstFault st k ops l = none) {o : SlotOp} (ho : o ∈ l) :
    s.opFault st k ops o (ops.find? fun q => o.slot < q.slot) = none := by
  induction l with
  | nil => simp at ho
  | cons a t ih =>
    unfold State.firstFault at h
    split at h
    · simp at h
    · rename_i ha
      cases List.mem_cons.1 ho with
      | inl e => exact e ▸ ha
      | inr e => exact ih h e

theorem firstFault_sub {s : State} {st k : Nat} {ops l : List SlotOp} (h : ∀ o ∈ l, s.opFault st k ops o (ops.find? fun q => o.slot < q.slot) = none) :
    s.firstFault st k ops l = none := by
  induction l with
  | nil => rfl
  | cons a t ih =>
    unfold State.firstFault
    rw [h a (by simp)]
    exact ih fun o ho => h o (by simp [ho])

theorem minReason_some (a : Nat) (r : Option Nat) : ∃ n, minReason (some a) r = some n := by
  cases r <;> exact ⟨_, rfl⟩

/-- An operation that does not fault is assigned and has a format. -/
theorem opFault_fmt {s : State} {st k : Nat} {ops : List SlotOp} {o : SlotOp} {nx : Option SlotOp} (h : s.opFault st k ops o nx = none)
    (hi : o.x.o < 126) : ∃ m, fmtOf o.x.o o.x.f ((s.core st).rdCfg k) = some m := by
  cases hm : fmtOf o.x.o o.x.f ((s.core st).rdCfg k) with
  | some m => exact ⟨m, rfl⟩
  | none =>
    exfalso
    have hr : ∃ n, illegalReason o.slot o.x ((s.core st).rdCfg k) = some n := by
      unfold illegalReason
      split
      · exact ⟨_, rfl⟩
      · rw [if_neg (by omega), hm]; exact ⟨_, rfl⟩
    obtain ⟨n, hn⟩ := hr
    have : ∃ n, decodeReason ((s.core st).sta k) ((s.core st).rdCfg k) o nx = some n := by
      unfold decodeReason
      rw [hn]
      obtain ⟨a, ha⟩ := minReason_some n (imxReason ((s.core st).rdCfg k) o nx)
      rw [ha]
      exact minReason_some a _
    obtain ⟨n, hn⟩ := this
    unfold State.opFault at h
    simp [hn] at h

/-! ### The stride of a row -/

theorem step_go_of_find_none {ops : List SlotOp} (h : ∀ q ∈ ops, (!isImx q.word && 0x40 ≤ q.x.o && q.x.o ≤ 0x5B || (!isImx q.word && isVmemOp q.x.o)) = false) :
    (ops.find? fun o => !isImx o.word && 0x40 ≤ o.x.o && o.x.o ≤ 0x5B || (!isImx o.word && isVmemOp o.x.o)) = none := by
  simpa using h

/-- A clear stride with no memory access issues each of its operations and moves on. -/
theorem issueOps_clear {s : State} {st k : Nat} {ws : List (Nat × Nat)}
    (hi : ((s.landed st k).core st).interlocked k (pairOps none ws) = none)
    (ho : needsOldest (pairOps none ws) = true → ((s.landed st k).core st).isOldest k = true)
    (hf : (s.landed st k).firstFault st k (pairOps none ws) (pairOps none ws) = none)
    (hm : ∀ q ∈ pairOps none ws, (!isImx q.word && 0x40 ≤ q.x.o && q.x.o ≤ 0x5B || (!isImx q.word && isVmemOp q.x.o)) = false)
    (hw : (s.landed st k).wfiHeld st k (pairOps none ws) = false)
    (hx : ((s.landed st k).core st).xwaitHeld k (pairOps none ws) = false) :
    s.issueOps st k ws =
      ((pairOps none ws).foldl (fun t o => t.issueOp st k ((s.landed st k).core st) [] false o)
        (s.stridePre st k (pairOps none ws))).advance st k := by
  unfold State.issueOps
  simp only [State.landed] at hi ho hf hw hx ⊢
  have hn : ¬ (needsOldest (pairOps none ws) = true ∧
      ¬ ((s.modCore st fun c => c.modSta k fun x => x.release x.ptr).core st).isOldest k = true) := by
    intro h; exact h.2 (ho h.1)
  have hp : ∀ l, (∀ o ∈ l, o ∈ pairOps none ws) →
      (s.modCore st fun c => c.modSta k fun x => x.release x.ptr).firstFault st k (pairOps none ws) l = none :=
    fun l hl => firstFault_sub fun o h => firstFault_mem hf (hl o h)
  rw [hi]
  simp only [if_neg hn, step_go_of_find_none hm]
  rw [hp _ fun o h => List.takeWhile_subset _ h]
  dsimp only
  rw [hp _ fun o h => List.dropWhile_subset _ h]
  simp only [hw, hx, Bool.false_eq_true, if_false, reduceCtorEq, decide_false, State.stridePre, State.landed]
  rfl

theorem ranOp_rowOp (c : Core) (k sl opcode f : Nat) (o : Op) (ho : opcode < 126) :
    c.ranOp k (rowOp sl opcode f o) = c.rdP k o.p.toNat := by
  simp [Core.ranOp, rowOp, rowX, isImx_toWord ⟨o.p.toNat, opcode, o.d.toNat, o.a.toNat, o.b.toNat, f⟩ ho]

theorem isImx_rowOp (sl opcode f : Nat) (o : Op) (ho : opcode < 126) : isImx (rowOp sl opcode f o).word = false :=
  isImx_toWord _ ho

theorem issueOp_imx {s : State} {st k : Nat} {b : Core} {ps : List XPart} {dr : Bool} {o : SlotOp} (h : isImx o.word = true) :
    s.issueOp st k b ps dr o = s := by
  simp [State.issueOp, h]

theorem rowOps_any {sl opcode f : Nat} {o : Op} (ho : opcode < 126) (hf : f < 16) (g : SlotOp → Bool)
    (h : g (rowOp sl opcode f o) = false) : (rowOps sl opcode f o).any (fun q => !isImx q.word && g q) = false := by
  obtain ⟨pre, e, hi, -⟩ := rowOps_eq sl opcode f o ho hf
  simp only [e, List.any_append, List.any_cons, List.any_nil, h, Bool.and_false, Bool.or_false, List.any_eq_false]
  intro q hq
  simp [hi q hq]

theorem rowOps_foldl {s : State} {st k : Nat} {b : Core} {sl opcode f : Nat} {o : Op} (ho : opcode < 126) (hf : f < 16) :
    (rowOps sl opcode f o).foldl (fun t q => t.issueOp st k b [] false q) s = s.issueOp st k b [] false (rowOp sl opcode f o) := by
  obtain ⟨pre, e, hi, -⟩ := rowOps_eq sl opcode f o ho hf
  have hp : pre.foldl (fun t q => t.issueOp st k b [] false q) s = s := by
    clear e
    induction pre with
    | nil => rfl
    | cons a t ih =>
      rw [List.foldl_cons, issueOp_imx (hi a (by simp))]
      exact ih fun q hq => hi q (by simp [hq])
  rw [e, List.foldl_append, hp, List.foldl_cons, List.foldl_nil]

/-- A clear row that is no memory access and is not held by a wait issues its operation and moves on. -/
theorem issueRow_go {s : State} {st trk sl opcode f k : Nat} {o : Op} (hc : s.clearAt st trk sl opcode f o k)
    (ho : opcode < 126) (hf : f < 16) (hm : ¬ (0x40 ≤ opcode ∧ opcode ≤ 0x5B)) (hv : ¬ (0x5D ≤ opcode ∧ opcode ≤ 0x5F))
    (hw : (s.landed st k).wfiHeld st k (rowOps sl opcode f o) = false)
    (hx : ((s.landed st k).core st).xwaitHeld k (rowOps sl opcode f o) = false) :
    s.issueRow st trk sl opcode f o =
      ((s.stridePre st k (rowOps sl opcode f o)).issueOp st k ((s.landed st k).core st) [] false (rowOp sl opcode f o)).advance st k := by
  obtain ⟨-, h1, h2, h3, h4, h5⟩ := hc
  unfold State.issueRow State.issueStride
  simp only [h1, if_neg h2]
  rw [issueOps_clear h3 h4 h5 ?_ hw hx, ← rowOps_foldl ho hf]
  · rfl
  · intro q hq
    have hv : isVmemOp opcode = false := by
      simp only [isVmemOp, Bool.and_eq_false_iff, decide_eq_false_iff_not]; omega
    obtain ⟨pre, e, hi, -⟩ := rowOps_eq sl opcode f o ho hf
    change q ∈ rowOps sl opcode f o at hq
    rw [e] at hq
    cases List.mem_append.1 hq with
    | inl h => simp [hi q h]
    | inr h =>
      have : q = rowOp sl opcode f o := by simpa using h
      subst this
      have : (decide (0x40 ≤ opcode) && decide (opcode ≤ 0x5B)) = false := by
        rw [Bool.and_eq_false_iff, decide_eq_false_iff_not, decide_eq_false_iff_not]; omega
      simp only [rowOp, rowX, hv, Bool.and_false, Bool.or_false, Bool.and_assoc]
      exact Bool.and_eq_false_iff.2 (.inr this)

theorem wfiHeld_row {s : State} {st k sl opcode f : Nat} {o : Op} (ho : opcode < 126) (hf : f < 16) (hw : opcode ≠ 0x38) :
    s.wfiHeld st k (rowOps sl opcode f o) = false := by
  have := rowOps_any (sl := sl) (o := o) ho hf (fun q => q.x.o = 0x38 && (s.core st).ranOp k q) (by simp [rowOp, rowX, hw])
  simp only [State.wfiHeld, Bool.and_eq_false_iff]
  left
  simpa [Bool.and_assoc, rowOps] using this

theorem xwaitHeld_row {c : Core} {k sl opcode f : Nat} {o : Op} (ho : opcode < 126) (hf : f < 16) (hx : ¬ (opcode = 0x5C ∧ f % 4 = 3)) :
    c.xwaitHeld k (rowOps sl opcode f o) = false := by
  have := rowOps_any (sl := sl) (o := o) ho hf (fun q => q.x.o = 0x5C && q.x.f % 4 = 3 && c.ranOp k q)
    (by simp only [rowOp, rowX]; by_cases h : opcode = 0x5C <;> simp [h]; intro h3; exact absurd ⟨h, of_decide_eq_true h3⟩ hx)
  simp only [Core.xwaitHeld, Bool.and_eq_false_iff]
  left
  simpa [Bool.and_assoc, rowOps] using this

/-- A clear row that is no memory access, no exit and no wait issues its operation and moves on. -/
theorem issueRow_clear {s : State} {st trk sl opcode f k : Nat} {o : Op} (hc : s.clearAt st trk sl opcode f o k)
    (ho : opcode < 126) (hf : f < 16) (hm : ¬ (0x40 ≤ opcode ∧ opcode ≤ 0x5F)) (hw : opcode ≠ 0x38) :
    s.issueRow st trk sl opcode f o =
      ((s.stridePre st k (rowOps sl opcode f o)).issueOp st k ((s.landed st k).core st) [] false (rowOp sl opcode f o)).advance st k :=
  issueRow_go hc ho hf (by omega) (by omega) (wfiHeld_row ho hf hw) (xwaitHeld_row ho hf (by omega))

/-- The format of a clear row's operation. -/
theorem clearAt_fmt {s : State} {st trk sl opcode f k : Nat} {o : Op} (hc : s.clearAt st trk sl opcode f o k)
    (ho : opcode < 126) (hf : f < 16) : ∃ m, fmtOf opcode f (((s.landed st k).core st).rdCfg k) = some m := by
  obtain ⟨pre, e, -⟩ := rowOps_eq sl opcode f o ho hf
  exact opFault_fmt (firstFault_mem hc.2.2.2.2.2 (o := rowOp sl opcode f o) (by simp [e])) ho

/-- A clear stride whose memory access has room, order and permission issues each of its operations and moves on. -/
theorem issueOps_mem {s : State} {st k : Nat} {ws : List (Nat × Nat)} {op : SlotOp} {ps : List XPart}
    (hi : ((s.landed st k).core st).interlocked k (pairOps none ws) = none)
    (ho : needsOldest (pairOps none ws) = true → ((s.landed st k).core st).isOldest k = true)
    (hf : (s.landed st k).firstFault st k (pairOps none ws) (pairOps none ws) = none)
    (hm : (pairOps none ws).find? (fun q => !isImx q.word && 0x40 ≤ q.x.o && q.x.o ≤ 0x5B || (!isImx q.word && isVmemOp q.x.o)) = some op)
    (hs1 : ((s.landed st k).core st).ranOp k op = true →
      (s.landed st k).memStep st k op (((s.landed st k).core st).operands k op.x) = .go ps)
    (hs2 : ((s.landed st k).core st).ranOp k op = false → ps = [] ∧
      (s.landed st k).memGate st k op (((s.landed st k).core st).operands k op.x) = none)
    (hw : (s.landed st k).wfiHeld st k (pairOps none ws) = false)
    (hx : ((s.landed st k).core st).xwaitHeld k (pairOps none ws) = false) :
    s.issueOps st k ws =
      ((pairOps none ws).foldl (fun t o => t.issueOp st k ((s.landed st k).core st) ps false o)
        (s.stridePre st k (pairOps none ws))).advance st k := by
  unfold State.issueOps
  simp only [State.landed] at hi ho hf hs1 hs2 hw hx ⊢
  have hn : ¬ (needsOldest (pairOps none ws) = true ∧
      ¬ ((s.modCore st fun c => c.modSta k fun x => x.release x.ptr).core st).isOldest k = true) := by
    intro h; exact h.2 (ho h.1)
  have hp : ∀ l, (∀ o ∈ l, o ∈ pairOps none ws) →
      (s.modCore st fun c => c.modSta k fun x => x.release x.ptr).firstFault st k (pairOps none ws) l = none :=
    fun l hl => firstFault_sub fun o h => firstFault_mem hf (hl o h)
  rw [hi]
  simp only [if_neg hn, hm]
  rw [hp _ fun o h => List.takeWhile_subset _ h]
  dsimp only
  cases hr : ((s.modCore st fun c => c.modSta k fun x => x.release x.ptr).core st).ranOp k op with
  | true =>
    simp only [if_true, hs1 hr]
    rw [hp _ fun o h => List.dropWhile_subset _ h]
    simp only [hw, hx, Bool.false_eq_true, if_false, reduceCtorEq, decide_false, State.stridePre, State.landed]
    rfl
  | false =>
    obtain ⟨rfl, hg⟩ := hs2 hr
    simp only [Bool.false_eq_true, if_false, hg, Option.getD_none]
    rw [hp _ fun o h => List.dropWhile_subset _ h]
    simp only [hw, hx, Bool.false_eq_true, if_false, reduceCtorEq, decide_false, State.stridePre, State.landed]
    rfl

theorem rowOps_find {sl opcode f : Nat} {o : Op} (hf : f < 16) (h1 : 0x40 ≤ opcode) (h2 : opcode ≤ 0x5F) (h3 : opcode ≠ 0x5C) :
    (rowOps sl opcode f o).find? (fun q => !isImx q.word && 0x40 ≤ q.x.o && q.x.o ≤ 0x5B || (!isImx q.word && isVmemOp q.x.o)) =
      some (rowOp sl opcode f o) := by
  have ho : opcode < 126 := by omega
  obtain ⟨pre, e, hi, -⟩ := rowOps_eq sl opcode f o ho hf
  rw [e, List.find?_append, List.find?_eq_none.2 (by intro q hq; simp [hi q hq]), Option.none_or]
  refine List.find?_cons_of_pos ?_
  have hn := isImx_rowOp sl opcode f o ho
  have : (rowOp sl opcode f o).x.o = opcode := rfl
  simp only [hn, this, isVmemOp, Bool.or_eq_true, Bool.and_eq_true, decide_eq_true_eq, Bool.not_false, true_and]
  omega

theorem rowOps_foldl_mem {s : State} {st k : Nat} {b : Core} {ps : List XPart} {sl opcode f : Nat} {o : Op} (ho : opcode < 126) (hf : f < 16) :
    (rowOps sl opcode f o).foldl (fun t q => t.issueOp st k b ps false q) s = s.issueOp st k b ps false (rowOp sl opcode f o) := by
  obtain ⟨pre, e, hi, -⟩ := rowOps_eq sl opcode f o ho hf
  have hp : pre.foldl (fun t q => t.issueOp st k b ps false q) s = s := by
    clear e
    induction pre with
    | nil => rfl
    | cons a t ih =>
      rw [List.foldl_cons, issueOp_imx (hi a (by simp))]
      exact ih fun q hq => hi q (by simp [hq])
  rw [e, List.foldl_append, hp, List.foldl_cons, List.foldl_nil]

/-- A clear row that accesses memory issues its access over the parts it was checked for, and moves on. -/
theorem issueRow_mem {s : State} {st trk sl opcode f k : Nat} {o : Op} {ps : List XPart} (hc : s.memClear st trk sl opcode f o k ps)
    (hf : f < 16) (h1 : 0x40 ≤ opcode) (h2 : opcode ≤ 0x5F) (h3 : opcode ≠ 0x5C) :
    s.issueRow st trk sl opcode f o =
      ((s.stridePre st k (rowOps sl opcode f o)).issueOp st k ((s.landed st k).core st) ps false (rowOp sl opcode f o)).advance st k := by
  have ho : opcode < 126 := by omega
  obtain ⟨⟨-, c1, c2, c3, c4, c5⟩, m1, m2⟩ := hc
  unfold State.issueRow State.issueStride
  simp only [c1, if_neg c2]
  rw [issueOps_mem c3 c4 c5 (rowOps_find hf h1 h2 h3) (fun h => m1 (ranOp_rowOp _ k sl opcode f o ho ▸ h))
    (fun h => m2 (ranOp_rowOp _ k sl opcode f o ho ▸ h)) (wfiHeld_row ho hf (by omega)) (xwaitHeld_row ho hf (by omega)),
    ← rowOps_foldl_mem ho hf]
  rfl

/-- What a clear row that is no memory access, no exit and no wait leaves behind: one pending result with the registers it names, its
values, latency and flags, or nothing but its effect at commit. -/
theorem issueRow_value {s : State} {st trk sl opcode f k : Nat} {o : Op} {m : Fmt} (hc : s.clearAt st trk sl opcode f o k)
    (ho : opcode < 126) (hf : f < 16) (hm : ¬ (0x3C ≤ opcode ∧ opcode ≤ 0x5F)) (hw : opcode ≠ 0x38)
    (hfm : fmtOf opcode f (((s.landed st k).core st).rdCfg k) = some m) :
    let c := (s.landed st k).core st
    let op := rowOp sl opcode f o
    let ops := rowOps sl opcode f o
    let on := c.rdP k o.p.toNat
    let r := c.operands k (rowX opcode f o)
    let v := (s.stridePre st k ops).opRes st op r
    let acts := if on then commitAct op r 0 0 else []
    s.issueRow st trk sl opcode f o = match m.lat with
      | .fixed n => s.withResult st k sl ops acts on (some n) false (writeRefs (rowX opcode f o) m (c.rdCfg k)) v.1 v.2
      | .inter => s.withResult st k sl ops acts on none true (writeRefs (rowX opcode f o) m (c.rdCfg k)) v.1 v.2
      | .none => s.withActs st k ops acts false := by
  intro c op ops on r v acts
  rw [issueRow_clear hc ho hf (by omega) hw]
  have hl : ∀ l, commitAct op r l 0 = commitAct op r 0 0 := by
    intro l
    simp only [commitAct, op, rowOp, rowX, show opcode ≠ 0x5C by omega, false_and, if_false]
  have hran : c.ranOp k op = on := ranOp_rowOp c k sl opcode f o ho
  unfold State.issueOp
  simp only [isImx_rowOp sl opcode f o ho, Bool.false_eq_true, if_false, ranOp_rowOp _ k sl opcode f o ho]
  have e1 : (rowOp sl opcode f o).x.o = opcode := rfl
  have e2 : (rowOp sl opcode f o).x.f = f := rfl
  have e3 : (rowOp sl opcode f o).slot = sl := rfl
  have e4 : (rowOp sl opcode f o).x = rowX opcode f o := rfl
  simp only [e1, e2, hfm, if_neg (show ¬ (0x3C ≤ opcode ∧ opcode ≤ 0x3E) by omega),
    if_neg (show ¬ (0x40 ≤ opcode ∧ opcode ≤ 0x5F) by omega), hw, decide_false, Bool.and_false]
  simp only [e3, e4]
  have hl' : ∀ l, commitAct (rowOp sl opcode f o) (((s.landed st k).core st).operands k (rowX opcode f o)) l 0 =
      commitAct op r 0 0 := hl
  simp only [hl']
  cases m.lat <;> rfl

/-- A clear row with a fixed-latency result and nothing for the commit. -/
theorem issueRow_fixed {s : State} {st trk sl opcode f k n : Nat} {o : Op} {m : Fmt} (hc : s.clearAt st trk sl opcode f o k)
    (ho : opcode < 126) (hf : f < 16) (hm : ¬ (0x3C ≤ opcode ∧ opcode ≤ 0x5F)) (hw : opcode ≠ 0x38)
    (hfm : fmtOf opcode f ((s.opCore st k).rdCfg k) = some m) (hl : m.lat = .fixed n)
    (ha : ∀ r, commitAct (rowOp sl opcode f o) r 0 0 = []) :
    s.issueRow st trk sl opcode f o =
      s.withResult st k sl (rowOps sl opcode f o) [] (s.opOn st k o) (some n) false
        (writeRefs (rowX opcode f o) m ((s.opCore st k).rdCfg k))
        ((s.stridePre st k (rowOps sl opcode f o)).opRes st (rowOp sl opcode f o) ((s.opCore st k).operands k (rowX opcode f o))).1
        ((s.stridePre st k (rowOps sl opcode f o)).opRes st (rowOp sl opcode f o) ((s.opCore st k).operands k (rowX opcode f o))).2 := by
  have h := issueRow_value hc ho hf hm hw hfm
  simp only [ha, hl, ite_self] at h
  exact h

/-- A clear row with an interlocked result known at once, and nothing for the commit. -/
theorem issueRow_inter {s : State} {st trk sl opcode f k : Nat} {o : Op} {m : Fmt} (hc : s.clearAt st trk sl opcode f o k)
    (ho : opcode < 126) (hf : f < 16) (hm : ¬ (0x3C ≤ opcode ∧ opcode ≤ 0x5F)) (hw : opcode ≠ 0x38)
    (hfm : fmtOf opcode f ((s.opCore st k).rdCfg k) = some m) (hl : m.lat = .inter)
    (ha : ∀ r, commitAct (rowOp sl opcode f o) r 0 0 = []) :
    s.issueRow st trk sl opcode f o =
      s.withResult st k sl (rowOps sl opcode f o) [] (s.opOn st k o) none true
        (writeRefs (rowX opcode f o) m ((s.opCore st k).rdCfg k))
        ((s.stridePre st k (rowOps sl opcode f o)).opRes st (rowOp sl opcode f o) ((s.opCore st k).operands k (rowX opcode f o))).1
        ((s.stridePre st k (rowOps sl opcode f o)).opRes st (rowOp sl opcode f o) ((s.opCore st k).operands k (rowX opcode f o))).2 := by
  have h := issueRow_value hc ho hf hm hw hfm
  simp only [ha, hl, ite_self] at h
  exact h

/-- A clear row with no result, which leaves its effect for the commit where its guard is true. -/
theorem issueRow_acts {s : State} {st trk sl opcode f k : Nat} {o : Op} {m : Fmt} (hc : s.clearAt st trk sl opcode f o k)
    (ho : opcode < 126) (hf : f < 16) (hm : ¬ (0x3C ≤ opcode ∧ opcode ≤ 0x5F)) (hw : opcode ≠ 0x38)
    (hfm : fmtOf opcode f ((s.opCore st k).rdCfg k) = some m) (hl : m.lat = .none) :
    s.issueRow st trk sl opcode f o =
      s.withActs st k (rowOps sl opcode f o)
        (if s.opOn st k o then commitAct (rowOp sl opcode f o) ((s.opCore st k).operands k (rowX opcode f o)) 0 0 else []) false := by
  have h := issueRow_value hc ho hf hm hw hfm
  simp only [hl] at h
  exact h

/-- The immediate a row's operation uses. -/
theorem rowOp_imm (sl opcode : Nat) (o : Op) : (rowOp sl opcode o.f.toNat o).imm = rowImm sl o := by
  unfold SlotOp.imm rowImm rowOp
  have : (rowX opcode o.f.toNat o).imm10 = o.b.toNat * 16 + o.f.toNat := by
    simp only [rowX, OpW.imm10]
    have := o.b.isLt
    have := o.f.isLt
    omega
  by_cases h : sl = 0
  · simp [h, this]
  · simp only [h, if_false, this]
    cases o.imx <;> rfl

end Sys2Proof.Machine
end

