-- ==== Sys2Proof/Laws/Memory.lean ====
section
/-! SUPPORT. Byte memories: what is read after a write, and that every operation keeps the canonical form. -/

namespace Sys2Proof.Machine

theorem Mem.wfFrom_mono {m : Mem} {a b : Nat} (hab : a ≤ b) (h : Mem.wfFrom b m = true) : Mem.wfFrom a m = true := by
  cases m with
  | nil => rfl
  | cons c t =>
    obtain ⟨k, v⟩ := c
    simp only [Mem.wfFrom, Bool.and_eq_true, decide_eq_true_eq] at h ⊢
    exact ⟨⟨Nat.le_trans hab h.1.1, h.1.2⟩, h.2⟩

theorem Mem.wfFrom_del {m : Mem} (a : Nat) : ∀ {lo : Nat}, Mem.wfFrom lo m = true → Mem.wfFrom lo (Mem.del m a) = true := by
  induction m with
  | nil => intro lo _; rfl
  | cons c t ih =>
    obtain ⟨k, v⟩ := c
    intro lo h
    simp only [Mem.wfFrom, Bool.and_eq_true, decide_eq_true_eq] at h
    unfold Mem.del
    split
    · exact ih (Mem.wfFrom_mono (by omega) h.2)
    · simp only [Mem.wfFrom, Bool.and_eq_true, decide_eq_true_eq]
      exact ⟨h.1, ih h.2⟩

theorem Mem.wfFrom_del_self {m : Mem} (a : Nat) : ∀ {lo : Nat}, lo ≤ a → Mem.wfFrom lo m = true →
    ∀ b, b ≠ 0#8 → Mem.wfFrom lo (Mem.ins a b (Mem.del m a)) = true := by
  induction m with
  | nil => intro lo hlo _ b hb; simp [Mem.del, Mem.ins, Mem.wfFrom, hlo, hb]
  | cons c t ih =>
    obtain ⟨k, v⟩ := c
    intro lo hlo h b hb
    simp only [Mem.wfFrom, Bool.and_eq_true, decide_eq_true_eq] at h
    unfold Mem.del
    split
    · rename_i hk
      exact ih (by omega) (Mem.wfFrom_mono (by omega) h.2) b hb
    · rename_i hk
      unfold Mem.ins
      split
      · simp only [Mem.wfFrom, Bool.and_eq_true, decide_eq_true_eq]
        exact ⟨h.1, ih (by omega) h.2 b hb⟩
      · simp only [Mem.wfFrom, Bool.and_eq_true, decide_eq_true_eq]
        refine ⟨⟨hlo, by simpa using hb⟩, ⟨by omega, h.1.2⟩, Mem.wfFrom_del a h.2⟩

@[simp] theorem Mem.wf_wr {m : Mem} (h : Mem.wf m = true) (a : Nat) (b : Byte) : Mem.wf (Mem.wr m a b) = true := by
  unfold Mem.wr
  split
  · exact Mem.wfFrom_del a h
  · rename_i hb; exact Mem.wfFrom_del_self a (Nat.zero_le _) h b hb

@[simp] theorem Mem.wf_wrs {m : Mem} (h : Mem.wf m = true) (a : Nat) (bs : List Byte) : Mem.wf (Mem.wrs m a bs) = true := by
  induction bs generalizing m a with
  | nil => exact h
  | cons b t ih => exact ih (Mem.wf_wr h a b) (a + 1)

theorem Mem.wfFrom_filter (p : Host.Cell → Bool) {m : Mem} : ∀ {lo : Nat}, Mem.wfFrom lo m = true → Mem.wfFrom lo (m.filter p) = true := by
  induction m with
  | nil => intro lo _; rfl
  | cons c t ih =>
    obtain ⟨k, v⟩ := c
    intro lo h
    simp only [Mem.wfFrom, Bool.and_eq_true, decide_eq_true_eq] at h
    rw [List.filter_cons]
    split
    · simp only [Mem.wfFrom, Bool.and_eq_true, decide_eq_true_eq]
      exact ⟨h.1, ih h.2⟩
    · exact ih (Mem.wfFrom_mono (by omega) h.2)

@[simp] theorem Mem.wf_clear {m : Mem} (h : Mem.wf m = true) (lo len : Nat) : Mem.wf (Mem.clear m lo len) = true :=
  Mem.wfFrom_filter _ h

@[simp] theorem Mem.wf_foldl_wr {α : Type} (l : List α) (f : α → Nat) (g : α → Byte) {m : Mem} (h : Mem.wf m = true) :
    Mem.wf (l.foldl (fun m c => Mem.wr m (f c) (g c)) m) = true := by
  induction l generalizing m with
  | nil => exact h
  | cons c t ih => exact ih (Mem.wf_wr h _ _)

@[simp] theorem Mem.wf_nil : Mem.wf [] = true := rfl

/-! ### Reading after a change -/

theorem Mem.rd_del_self (m : Mem) (a : Nat) : Mem.rd (Mem.del m a) a = 0#8 := by
  induction m with
  | nil => rfl
  | cons c t ih =>
    unfold Mem.del
    split
    · exact ih
    · rename_i h; simp [Mem.rd, h, ih]

theorem Mem.rd_del_ne (m : Mem) {a b : Nat} (h : a ≠ b) : Mem.rd (Mem.del m a) b = Mem.rd m b := by
  induction m with
  | nil => rfl
  | cons c t ih =>
    unfold Mem.del
    split
    · rename_i hk; rw [ih, Mem.rd, if_neg (hk ▸ h)]
    · unfold Mem.rd; rw [ih]

theorem Mem.rd_ins_self (m : Mem) (a : Nat) (v : Byte) (h : ∀ c ∈ m, c.1 ≠ a) : Mem.rd (Mem.ins a v m) a = v := by
  induction m with
  | nil => simp [Mem.ins, Mem.rd]
  | cons c t ih =>
    have hc := h c (by simp)
    unfold Mem.ins
    split <;> simp [Mem.rd, hc, ih fun c hc => h c (by simp [hc])]

theorem Mem.rd_ins_ne (m : Mem) {a b : Nat} (v : Byte) (h : a ≠ b) : Mem.rd (Mem.ins a v m) b = Mem.rd m b := by
  induction m with
  | nil => simp [Mem.ins, Mem.rd, h]
  | cons c t ih =>
    unfold Mem.ins
    split
    · simp only [Mem.rd, ih]
    · simp [Mem.rd, h]

theorem Mem.del_ne (m : Mem) (a : Nat) : ∀ c ∈ Mem.del m a, c.1 ≠ a := by
  induction m with
  | nil => simp [Mem.del]
  | cons c t ih =>
    unfold Mem.del
    split
    · exact ih
    · rename_i h; simpa [h] using ih

/-- A byte reads as written last. -/
@[simp] theorem Mem.rd_wr_self (m : Mem) (a : Nat) (v : Byte) : Mem.rd (Mem.wr m a v) a = v := by
  unfold Mem.wr
  split
  · rename_i h; rw [h]; exact Mem.rd_del_self m a
  · exact Mem.rd_ins_self _ _ _ (Mem.del_ne m a)

/-- A write leaves every other byte. -/
theorem Mem.rd_wr_ne (m : Mem) {a b : Nat} (v : Byte) (h : a ≠ b) : Mem.rd (Mem.wr m a v) b = Mem.rd m b := by
  unfold Mem.wr
  split
  · exact Mem.rd_del_ne m h
  · rw [Mem.rd_ins_ne _ _ h, Mem.rd_del_ne m h]

/-- A write of several bytes leaves every byte outside them. -/
theorem Mem.rd_wrs_out (m : Mem) (a : Nat) (bs : List Byte) (b : Nat) (h : b < a ∨ a + bs.length ≤ b) :
    Mem.rd (Mem.wrs m a bs) b = Mem.rd m b := by
  induction bs generalizing m a with
  | nil => rfl
  | cons v t ih =>
    simp only [List.length_cons] at h
    rw [Mem.wrs, ih _ _ (by omega), Mem.rd_wr_ne _ _ (by omega)]

/-- A write of several bytes is read back. -/
theorem Mem.rd_wrs_in (m : Mem) (a : Nat) (bs : List Byte) (i : Nat) (h : i < bs.length) :
    Mem.rd (Mem.wrs m a bs) (a + i) = bs[i] := by
  induction bs generalizing m a i with
  | nil => simp at h
  | cons v t ih =>
    cases i with
    | zero => rw [Mem.wrs, Nat.add_zero, Mem.rd_wrs_out _ _ _ _ (by omega)]; simp
    | succ n =>
      have := ih (m.wr a v) (a + 1) n (by simpa using h)
      rw [Mem.wrs, show a + (n + 1) = a + 1 + n by omega, this]; rfl

end Sys2Proof.Machine
end

