-- ==== Sys2Proof/Laws/Keep.lean ====
section
/-! SUPPORT. The rules by which a change of the state is shown to keep the byte memories canonical and the queue as it stands. The
files LawsKeep… that follow prove it once for every operation of the machine. -/

namespace Sys2Proof.Machine

variable {m : Prop} {q : List Instr}

theorem State.memOk.pads {s : State} (h : s.memOk) : Mem.wf s.pads = true := h.1
theorem State.memOk.sram {s : State} (h : s.memOk) : Mem.wf s.sram = true := h.2.1
theorem State.memOk.near {s : State} (h : s.memOk) : Mem.wf s.near = true := h.2.2.1
theorem State.memOk.tuck {s : State} (h : s.memOk) : Mem.wf s.tuck = true := h.2.2.2

theorem State.keeps.pads {s : State} (h : s.keeps m q) (hm : m) : Mem.wf s.pads = true := (h.1 hm).1
theorem State.keeps.sram {s : State} (h : s.keeps m q) (hm : m) : Mem.wf s.sram = true := (h.1 hm).2.1
theorem State.keeps.near {s : State} (h : s.keeps m q) (hm : m) : Mem.wf s.near = true := (h.1 hm).2.2.1
theorem State.keeps.tuck {s : State} (h : s.keeps m q) (hm : m) : Mem.wf s.tuck = true := (h.1 hm).2.2.2
theorem State.keeps.pending {s : State} (h : s.keeps m q) : s.pending = q := h.2

theorem keeps_self (s : State) : s.keeps s.memOk s.pending := ⟨id, rfl⟩

theorem keeps_mk {a b c d e f g h i j k l n o p r t u v w x y z aa bb cc dd ee ff} :
    (State.mk a b c d e f g h i j k l n o p r t u v w x y z aa bb cc dd ee ff).keeps m q ↔
      (m → Mem.wf l = true ∧ Mem.wf o = true ∧ Mem.wf z = true ∧ Mem.wf ff = true) ∧ a = q := Iff.rfl

theorem keeps_upd {s : State} (h : s.keeps m q) {b c d e f g i j k l n p r t u v w x y z aa bb cc dd} :
    (State.mk s.pending b c d e f g i j k l s.pads n s.sram p r t u v w x y s.near z aa bb cc dd s.tuck).keeps m q := h

theorem ite_keeps {c : Prop} [Decidable c] {x y : State} (hx : x.keeps m q) (hy : y.keeps m q) : (if c then x else y).keeps m q := by
  split
  · exact hx
  · exact hy

theorem foldl_keeps {α : Type} {f : State → α → State} (hf : ∀ s a, s.keeps m q → (f s a).keeps m q) (l : List α) {s : State}
    (h : s.keeps m q) : (l.foldl f s).keeps m q := by
  induction l generalizing s with
  | nil => exact h
  | cons c t ih => exact ih (hf s c h)

theorem fst_keeps {α : Type} {p : State × α} {s : State} {r : α} (e : p = (s, r)) (h : p.1.keeps m q) : s.keeps m q := by
  rw [e] at h
  exact h

theorem snd_keeps {α : Type} {p : α × State} {s : State} {r : α} (e : p = (r, s)) (h : p.2.keeps m q) : s.keeps m q := by
  rw [e] at h
  exact h

theorem ite_fst_keeps {α : Type} {c : Prop} [Decidable c] {x y : State × α} (hx : x.1.keeps m q) (hy : y.1.keeps m q) :
    (if c then x else y).1.keeps m q := by
  split
  · exact hx
  · exact hy

end Sys2Proof.Machine
end

