-- ==== Sys2Proof/Laws/KeepRegs.lean ====
section
/-! SUPPORT. Every operation of Machine/Regs.lean keeps the byte memories canonical and the queue as it stands. -/

namespace Sys2Proof.Machine

variable {m : Prop} {q : List Instr}

theorem State.set_keeps {s : State} (h : s.keeps m q) : ∀ a1 a2 a3 a4, (@State.set s a1 a2 a3 a4).keeps m q := by
  intro a1 a2 a3 a4
  unfold State.set
  try dsimp only
  repeat' first
    | (with_reducible first | assumption | intro _ | apply ite_keeps | apply foldl_keeps)
    | split
    | dsimp only
    | with_reducible apply keeps_upd

theorem State.satInc_keeps {s : State} (h : s.keeps m q) : ∀ a1 a2 a3 a4, (@State.satInc s a1 a2 a3 a4).keeps m q := by
  intro a1 a2 a3 a4
  unfold State.satInc
  try dsimp only
  repeat' first
    | (with_reducible first | assumption | intro _ | apply State.set_keeps | apply ite_keeps | apply foldl_keeps)
    | split
    | dsimp only
    | with_reducible apply keeps_upd

theorem State.inc_keeps {s : State} (h : s.keeps m q) : ∀ a1 a2 a3 a4, (@State.inc s a1 a2 a3 a4).keeps m q := by
  intro a1 a2 a3 a4
  unfold State.inc
  try dsimp only
  repeat' first
    | (with_reducible first | assumption | intro _ | apply State.set_keeps | apply ite_keeps | apply foldl_keeps)
    | split
    | dsimp only
    | with_reducible apply keeps_upd

theorem State.dec_keeps {s : State} (h : s.keeps m q) : ∀ a1 a2 a3, (@State.dec s a1 a2 a3).keeps m q := by
  intro a1 a2 a3
  unfold State.dec
  try dsimp only
  repeat' first
    | (with_reducible first | assumption | intro _ | apply State.set_keeps | apply ite_keeps | apply foldl_keeps)
    | split
    | dsimp only
    | with_reducible apply keeps_upd

theorem State.clearPage_keeps {s : State} (h : s.keeps m q) : ∀ a1, (@State.clearPage s a1).keeps m q := by
  intro a1
  unfold State.clearPage
  try dsimp only
  repeat' first
    | (with_reducible first | assumption | intro _ | apply ite_keeps | apply foldl_keeps)
    | split
    | dsimp only
    | with_reducible apply keeps_upd

theorem State.clearBlock_keeps {s : State} (h : s.keeps m q) : ∀ a1, (@State.clearBlock s a1).keeps m q := by
  intro a1
  unfold State.clearBlock
  try dsimp only
  repeat' first
    | (with_reducible first | assumption | intro _ | apply ite_keeps | apply foldl_keeps)
    | split
    | dsimp only
    | with_reducible apply keeps_upd

theorem State.free_keeps {s : State} (h : s.keeps m q) : (@State.free s).2.keeps m q := by
  unfold State.free
  try dsimp only
  repeat' first
    | (with_reducible first | assumption | intro _ | apply ite_keeps | apply foldl_keeps | apply ite_fst_keeps)
    | (with_reducible first | refine fst_keeps (by assumption) ?_ | refine snd_keeps (by assumption) ?_)
    | split
    | dsimp only
    | with_reducible apply keeps_upd

end Sys2Proof.Machine
end

