-- ==== Sys2Proof/Laws/KeepOps.lean ====
section
/-! SUPPORT. Every operation of Machine/Ops.lean keeps the byte memories canonical and the queue as it stands. -/

namespace Sys2Proof.Machine

variable {m : Prop} {q : List Instr}

theorem State.setCore_keeps {s : State} (h : s.keeps m q) : ∀ a1 a2, (@State.setCore s a1 a2).keeps m q := by
  intro a1 a2
  unfold State.setCore
  try dsimp only
  repeat' first
    | (with_reducible first | assumption | intro _ | apply ite_keeps | apply foldl_keeps)
    | split
    | dsimp only
    | with_reducible apply keeps_upd

theorem State.modCore_keeps {s : State} (h : s.keeps m q) : ∀ a1 a2, (@State.modCore s a1 a2).keeps m q := by
  intro a1 a2
  unfold State.modCore
  try dsimp only
  repeat' first
    | (with_reducible first | assumption | intro _ | apply State.setCore_keeps | apply ite_keeps | apply foldl_keeps)
    | split
    | dsimp only
    | with_reducible apply keeps_upd

theorem State.setCache_keeps {s : State} (h : s.keeps m q) : ∀ a1 a2, (@State.setCache s a1 a2).keeps m q := by
  intro a1 a2
  unfold State.setCache
  try dsimp only
  repeat' first
    | (with_reducible first | assumption | intro _ | apply ite_keeps | apply foldl_keeps)
    | split
    | dsimp only
    | with_reducible apply keeps_upd

theorem State.modCache_keeps {s : State} (h : s.keeps m q) : ∀ a1 a2, (@State.modCache s a1 a2).keeps m q := by
  intro a1 a2
  unfold State.modCache
  try dsimp only
  repeat' first
    | (with_reducible first | assumption | intro _ | apply State.setCache_keeps | apply ite_keeps | apply foldl_keeps)
    | split
    | dsimp only
    | with_reducible apply keeps_upd

theorem State.setSlice_keeps {s : State} (h : s.keeps m q) : ∀ a1 a2, (@State.setSlice s a1 a2).keeps m q := by
  intro a1 a2
  unfold State.setSlice
  try dsimp only
  repeat' first
    | (with_reducible first | assumption | intro _ | apply ite_keeps | apply foldl_keeps)
    | split
    | dsimp only
    | with_reducible apply keeps_upd

theorem State.modSlice_keeps {s : State} (h : s.keeps m q) : ∀ a1 a2, (@State.modSlice s a1 a2).keeps m q := by
  intro a1 a2
  unfold State.modSlice
  try dsimp only
  repeat' first
    | (with_reducible first | assumption | intro _ | apply State.setSlice_keeps | apply ite_keeps | apply foldl_keeps)
    | split
    | dsimp only
    | with_reducible apply keeps_upd

theorem State.setChan_keeps {s : State} (h : s.keeps m q) : ∀ a1 a2, (@State.setChan s a1 a2).keeps m q := by
  intro a1 a2
  unfold State.setChan
  try dsimp only
  repeat' first
    | (with_reducible first | assumption | intro _ | apply ite_keeps | apply foldl_keeps)
    | split
    | dsimp only
    | with_reducible apply keeps_upd

theorem State.modChan_keeps {s : State} (h : s.keeps m q) : ∀ a1 a2, (@State.modChan s a1 a2).keeps m q := by
  intro a1 a2
  unfold State.modChan
  try dsimp only
  repeat' first
    | (with_reducible first | assumption | intro _ | apply State.setChan_keeps | apply ite_keeps | apply foldl_keeps)
    | split
    | dsimp only
    | with_reducible apply keeps_upd

theorem State.setHub_keeps {s : State} (h : s.keeps m q) : ∀ a1 a2, (@State.setHub s a1 a2).keeps m q := by
  intro a1 a2
  unfold State.setHub
  try dsimp only
  repeat' first
    | (with_reducible first | assumption | intro _ | apply ite_keeps | apply foldl_keeps)
    | split
    | dsimp only
    | with_reducible apply keeps_upd

theorem State.modHub_keeps {s : State} (h : s.keeps m q) : ∀ a1 a2, (@State.modHub s a1 a2).keeps m q := by
  intro a1 a2
  unfold State.modHub
  try dsimp only
  repeat' first
    | (with_reducible first | assumption | intro _ | apply State.setHub_keeps | apply ite_keeps | apply foldl_keeps)
    | split
    | dsimp only
    | with_reducible apply keeps_upd

theorem State.setNi_keeps {s : State} (h : s.keeps m q) : ∀ a1 a2, (@State.setNi s a1 a2).keeps m q := by
  intro a1 a2
  unfold State.setNi
  try dsimp only
  repeat' first
    | (with_reducible first | assumption | intro _ | apply ite_keeps | apply foldl_keeps)
    | split
    | dsimp only
    | with_reducible apply keeps_upd

theorem State.modNi_keeps {s : State} (h : s.keeps m q) : ∀ a1 a2, (@State.modNi s a1 a2).keeps m q := by
  intro a1 a2
  unfold State.modNi
  try dsimp only
  repeat' first
    | (with_reducible first | assumption | intro _ | apply State.setNi_keeps | apply ite_keeps | apply foldl_keeps)
    | split
    | dsimp only
    | with_reducible apply keeps_upd

theorem State.send_keeps {s : State} (h : s.keeps m q) : ∀ a1 a2, (@State.send s a1 a2).keeps m q := by
  intro a1 a2
  unfold State.send
  try dsimp only
  repeat' first
    | (with_reducible first | assumption | intro _ | apply State.modNi_keeps | apply ite_keeps | apply foldl_keeps)
    | split
    | dsimp only
    | with_reducible apply keeps_upd

theorem State.sendEvt_keeps {s : State} (h : s.keeps m q) : ∀ a1 a2 a3 a4, (@State.sendEvt s a1 a2 a3 a4).keeps m q := by
  intro a1 a2 a3 a4
  unfold State.sendEvt
  try dsimp only
  repeat' first
    | (with_reducible first | assumption | intro _ | apply State.send_keeps | apply ite_keeps | apply foldl_keeps)
    | split
    | dsimp only
    | with_reducible apply keeps_upd

theorem State.padWr_keeps {s : State} (h : s.keeps m q) : ∀ a1 a2 a3 a4, (@State.padWr s a1 a2 a3 a4).keeps m q := by
  intro a1 a2 a3 a4
  unfold State.padWr
  try dsimp only
  repeat' first
    | (with_reducible first | assumption | intro _ | apply ite_keeps | apply foldl_keeps | apply Mem.wf_wrs)
    | (with_reducible first | apply Mem.wf_foldl_wr | apply Mem.wf_clear)
    | (with_reducible first | refine State.keeps.pads (m := m) (q := q) ?_ (by assumption))
    | (with_reducible first | refine State.keeps.sram (m := m) (q := q) ?_ (by assumption))
    | (with_reducible first | refine State.keeps.near (m := m) (q := q) ?_ (by assumption))
    | (with_reducible first | refine State.keeps.tuck (m := m) (q := q) ?_ (by assumption))
    | (with_reducible first | refine State.keeps.pending (m := m) (q := q) ?_ | apply And.intro)
    | split
    | dsimp only
    | simp only [keeps_mk]

theorem State.padWrWord_keeps {s : State} (h : s.keeps m q) : ∀ a1 a2 a3 a4, (@State.padWrWord s a1 a2 a3 a4).keeps m q := by
  intro a1 a2 a3 a4
  unfold State.padWrWord
  try dsimp only
  repeat' first
    | (with_reducible first | assumption | intro _ | apply State.padWr_keeps | apply ite_keeps | apply foldl_keeps)
    | split
    | dsimp only
    | with_reducible apply keeps_upd

theorem State.padGrant_keeps {s : State} (h : s.keeps m q) : ∀ a1 a2 a3 a4, (@State.padGrant s a1 a2 a3 a4).keeps m q := by
  intro a1 a2 a3 a4
  unfold State.padGrant
  try dsimp only
  repeat' first
    | (with_reducible first | assumption | intro _ | apply ite_keeps | apply foldl_keeps)
    | split
    | dsimp only
    | with_reducible apply keeps_upd

theorem State.raiseErr_keeps {s : State} (h : s.keeps m q) : ∀ a1 a2, (@State.raiseErr s a1 a2).keeps m q := by
  intro a1 a2
  unfold State.raiseErr
  try dsimp only
  repeat' first
    | (with_reducible first | assumption | intro _ | apply State.set_keeps | apply State.sendEvt_keeps | apply ite_keeps)
    | (with_reducible first | apply foldl_keeps)
    | split
    | dsimp only
    | with_reducible apply keeps_upd

theorem State.lecRaise_keeps {s : State} (h : s.keeps m q) : ∀ a1 a2, (@State.lecRaise s a1 a2).keeps m q := by
  intro a1 a2
  unfold State.lecRaise
  try dsimp only
  repeat' first
    | (with_reducible first | assumption | intro _ | apply State.set_keeps | apply ite_keeps | apply foldl_keeps)
    | split
    | dsimp only
    | with_reducible apply keeps_upd

theorem State.answer_keeps {s : State} (h : s.keeps m q) : ∀ a1 a2, (@State.answer s a1 a2).keeps m q := by
  intro a1 a2
  unfold State.answer
  try dsimp only
  repeat' first
    | (with_reducible first | assumption | intro _ | apply ite_keeps | apply foldl_keeps)
    | split
    | dsimp only
    | with_reducible apply keeps_upd

end Sys2Proof.Machine
end

