-- ==== Sys2Proof/Laws/KeepEvents.lean ====
section
/-! SUPPORT. Every operation of Machine/Events.lean keeps the byte memories canonical and the queue as it stands. -/

namespace Sys2Proof.Machine

variable {m : Prop} {q : List Instr}

theorem State.setLec_keeps {s : State} (h : s.keeps m q) : ∀ a1 a2, (@State.setLec s a1 a2).keeps m q := by
  intro a1 a2
  unfold State.setLec
  try dsimp only
  repeat' first
    | (with_reducible first | assumption | intro _ | apply ite_keeps | apply foldl_keeps)
    | split
    | dsimp only
    | with_reducible apply keeps_upd

theorem State.lecWake_keeps {s : State} (h : s.keeps m q) : ∀ a1, (@State.lecWake s a1).keeps m q := by
  intro a1
  unfold State.lecWake
  try dsimp only
  repeat' first
    | (with_reducible first | assumption | intro _ | apply ite_keeps | apply foldl_keeps)
    | split
    | dsimp only
    | with_reducible apply keeps_upd

theorem State.lecEvent_keeps {s : State} (h : s.keeps m q) : ∀ a1 a2, (@State.lecEvent s a1 a2).keeps m q := by
  intro a1 a2
  unfold State.lecEvent
  try dsimp only
  repeat' first
    | (with_reducible first | assumption | intro _ | apply State.set_keeps | apply State.lecWake_keeps)
    | (with_reducible first | apply State.lecRaise_keeps | apply ite_keeps | apply foldl_keeps)
    | split
    | dsimp only
    | with_reducible apply keeps_upd

theorem State.claimLec_keeps {s : State} (h : s.keeps m q) : ∀ a1 a2, (@State.claimLec s a1 a2).1.keeps m q := by
  intro a1 a2
  unfold State.claimLec
  try dsimp only
  repeat' first
    | (with_reducible first | assumption | intro _ | apply State.setLec_keeps | apply State.set_keeps | apply ite_keeps)
    | (with_reducible first | apply foldl_keeps | apply ite_fst_keeps | refine fst_keeps (by assumption) ?_)
    | (with_reducible first | refine snd_keeps (by assumption) ?_)
    | split
    | dsimp only
    | with_reducible apply keeps_upd

theorem State.pmuCount_keeps {s : State} (h : s.keeps m q) : ∀ a1 a2 a3 a4 a5, (@State.pmuCount s a1 a2 a3 a4 a5).keeps m q := by
  intro a1 a2 a3 a4 a5
  unfold State.pmuCount
  try dsimp only
  repeat' first
    | (with_reducible first | assumption | intro _ | apply State.set_keeps | apply State.lecEvent_keeps)
    | (with_reducible first | apply State.sendEvt_keeps | apply ite_keeps | apply foldl_keeps)
    | split
    | dsimp only
    | with_reducible apply keeps_upd

theorem State.pmuAdd_keeps {s : State} (h : s.keeps m q) : ∀ a1 a2 a3 a4 a5, (@State.pmuAdd s a1 a2 a3 a4 a5).keeps m q := by
  intro a1 a2 a3 a4 a5
  unfold State.pmuAdd
  try dsimp only
  repeat' first
    | (with_reducible first | assumption | intro _ | apply State.pmuCount_keeps | apply ite_keeps | apply foldl_keeps)
    | split
    | dsimp only
    | with_reducible apply keeps_upd

theorem State.pmuFix_keeps {s : State} (h : s.keeps m q) : ∀ a1 a2 a3, (@State.pmuFix s a1 a2 a3).keeps m q := by
  intro a1 a2 a3
  unfold State.pmuFix
  try dsimp only
  repeat' first
    | (with_reducible first | assumption | intro _ | apply State.pmuAdd_keeps | apply ite_keeps | apply foldl_keeps)
    | split
    | dsimp only
    | with_reducible apply keeps_upd

theorem State.pmuEventPg_keeps {s : State} (h : s.keeps m q) : ∀ a1 a2 a3 a4 a5, (@State.pmuEventPg s a1 a2 a3 a4 a5).keeps m q := by
  intro a1 a2 a3 a4 a5
  unfold State.pmuEventPg
  try dsimp only
  repeat' first
    | (with_reducible first | assumption | intro _ | apply State.pmuAdd_keeps | apply ite_keeps | apply foldl_keeps)
    | split
    | dsimp only
    | with_reducible apply keeps_upd

theorem State.pmuEvent_keeps {s : State} (h : s.keeps m q) : ∀ a1 a2 a3, (@State.pmuEvent s a1 a2 a3).keeps m q := by
  intro a1 a2 a3
  unfold State.pmuEvent
  try dsimp only
  repeat' first
    | (with_reducible first | assumption | intro _ | apply State.pmuEventPg_keeps | apply ite_keeps | apply foldl_keeps)
    | split
    | dsimp only
    | with_reducible apply keeps_upd

theorem State.coreEvent_keeps {s : State} (h : s.keeps m q) : ∀ a1 a2 a3, (@State.coreEvent s a1 a2 a3).keeps m q := by
  intro a1 a2 a3
  unfold State.coreEvent
  try dsimp only
  repeat' first
    | (with_reducible first | assumption | intro _ | apply State.pmuEventPg_keeps | apply ite_keeps | apply foldl_keeps)
    | split
    | dsimp only
    | with_reducible apply keeps_upd

theorem State.tdAdd_keeps {s : State} (h : s.keeps m q) : ∀ a1 a2 a3, (@State.tdAdd s a1 a2 a3).keeps m q := by
  intro a1 a2 a3
  unfold State.tdAdd
  try dsimp only
  repeat' first
    | (with_reducible first | assumption | intro _ | apply State.set_keeps | apply ite_keeps | apply foldl_keeps)
    | split
    | dsimp only
    | with_reducible apply keeps_upd

theorem State.coreOcc_keeps {s : State} (h : s.keeps m q) : ∀ a1 a2 a3 a4, (@State.coreOcc s a1 a2 a3 a4).keeps m q := by
  intro a1 a2 a3 a4
  unfold State.coreOcc
  try dsimp only
  repeat' first
    | (with_reducible first | assumption | intro _ | apply State.pmuEventPg_keeps | apply ite_keeps | apply foldl_keeps)
    | split
    | dsimp only
    | with_reducible apply keeps_upd

theorem State.tdPend_keeps {s : State} (h : s.keeps m q) : ∀ a1 a2, (@State.tdPend s a1 a2).keeps m q := by
  intro a1 a2
  unfold State.tdPend
  try dsimp only
  repeat' first
    | (with_reducible first | assumption | intro _ | apply State.set_keeps | apply ite_keeps | apply foldl_keeps)
    | split
    | dsimp only
    | with_reducible apply keeps_upd

theorem State.tdUnpend_keeps {s : State} (h : s.keeps m q) : ∀ a1 a2, (@State.tdUnpend s a1 a2).keeps m q := by
  intro a1 a2
  unfold State.tdUnpend
  try dsimp only
  repeat' first
    | (with_reducible first | assumption | intro _ | apply State.set_keeps | apply ite_keeps | apply foldl_keeps)
    | split
    | dsimp only
    | with_reducible apply keeps_upd

end Sys2Proof.Machine
end

