-- ==== Sys2Proof/Laws/KeepCacheOps.lean ====
section
/-! SUPPORT. Every operation of Machine/CacheOps.lean keeps the byte memories canonical and the queue as it stands. -/

namespace Sys2Proof.Machine

variable {m : Prop} {q : List Instr}

theorem State.evictL2_keeps {s : State} (h : s.keeps m q) : ∀ a1 a2, (@State.evictL2 s a1 a2).keeps m q := by
  intro a1 a2
  unfold State.evictL2
  try dsimp only
  repeat' first
    | (with_reducible first | assumption | intro _ | apply State.setCache_keeps | apply State.send_keeps | apply ite_keeps)
    | (with_reducible first | apply foldl_keeps)
    | split
    | dsimp only
    | with_reducible apply keeps_upd

theorem State.fillL2_keeps {s : State} (h : s.keeps m q) : ∀ a1 a2 a3, (@State.fillL2 s a1 a2 a3).keeps m q := by
  intro a1 a2 a3
  unfold State.fillL2
  try dsimp only
  repeat' first
    | (with_reducible first | assumption | intro _ | apply State.setCache_keeps | apply State.evictL2_keeps)
    | (with_reducible first | apply State.modCache_keeps | apply State.free_keeps | apply ite_keeps | apply foldl_keeps)
    | (with_reducible first | apply ite_fst_keeps | refine fst_keeps (by assumption) ?_ | refine snd_keeps (by assumption) ?_)
    | split
    | dsimp only
    | with_reducible apply keeps_upd

theorem State.fillLocked_keeps {s : State} (h : s.keeps m q) : ∀ a1 a2 a3 a4, (@State.fillLocked s a1 a2 a3 a4).keeps m q := by
  intro a1 a2 a3 a4
  unfold State.fillLocked
  try dsimp only
  repeat' first
    | (with_reducible first | assumption | intro _ | apply State.modCache_keeps | apply ite_keeps | apply foldl_keeps)
    | split
    | dsimp only
    | with_reducible apply keeps_upd

theorem State.fillL1_keeps {s : State} (h : s.keeps m q) : ∀ a1 a2 a3 a4 a5, (@State.fillL1 s a1 a2 a3 a4 a5).keeps m q := by
  intro a1 a2 a3 a4 a5
  unfold State.fillL1
  try dsimp only
  repeat' first
    | (with_reducible first | assumption | intro _ | apply State.setCache_keeps | apply State.modCache_keeps)
    | (with_reducible first | apply State.free_keeps | apply ite_keeps | apply foldl_keeps | apply ite_fst_keeps)
    | (with_reducible first | refine fst_keeps (by assumption) ?_ | refine snd_keeps (by assumption) ?_)
    | split
    | dsimp only
    | with_reducible apply keeps_upd

theorem State.intoL1_keeps {s : State} (h : s.keeps m q) : ∀ a1 a2 a3 a4 a5, (@State.intoL1 s a1 a2 a3 a4 a5).keeps m q := by
  intro a1 a2 a3 a4 a5
  unfold State.intoL1
  try dsimp only
  repeat' first
    | (with_reducible first | assumption | intro _ | apply State.fillL1_keeps | apply ite_keeps | apply foldl_keeps)
    | split
    | dsimp only
    | with_reducible apply keeps_upd

theorem State.fillCc_keeps {s : State} (h : s.keeps m q) : ∀ a1 a2 a3, (@State.fillCc s a1 a2 a3).keeps m q := by
  intro a1 a2 a3
  unfold State.fillCc
  try dsimp only
  repeat' first
    | (with_reducible first | assumption | intro _ | apply State.setCache_keeps | apply State.modCache_keeps)
    | (with_reducible first | apply State.free_keeps | apply ite_keeps | apply foldl_keeps | apply ite_fst_keeps)
    | (with_reducible first | refine fst_keeps (by assumption) ?_ | refine snd_keeps (by assumption) ?_)
    | split
    | dsimp only
    | with_reducible apply keeps_upd

theorem State.askLine_keeps {s : State} (h : s.keeps m q) : ∀ a1 a2, (@State.askLine s a1 a2).keeps m q := by
  intro a1 a2
  unfold State.askLine
  try dsimp only
  repeat' first
    | (with_reducible first | assumption | intro _ | apply State.modCache_keeps | apply State.send_keeps | apply ite_keeps)
    | (with_reducible first | apply foldl_keeps)
    | split
    | dsimp only
    | with_reducible apply keeps_upd

theorem State.prefetch_keeps {s : State} (h : s.keeps m q) : ∀ a1 a2 a3 a4 a5 a6, (@State.prefetch s a1 a2 a3 a4 a5 a6).keeps m q := by
  intro a1 a2 a3 a4 a5 a6
  unfold State.prefetch
  try dsimp only
  repeat' first
    | (with_reducible first | assumption | intro _ | apply State.askLine_keeps | apply State.coreEvent_keeps)
    | (with_reducible first | apply State.setCache_keeps | apply ite_keeps | apply foldl_keeps)
    | split
    | dsimp only
    | with_reducible apply keeps_upd

theorem State.writeOwned_keeps {s : State} (h : s.keeps m q) : ∀ a1 a2 a3 a4 a5, (@State.writeOwned s a1 a2 a3 a4 a5).keeps m q := by
  intro a1 a2 a3 a4 a5
  unfold State.writeOwned
  try dsimp only
  repeat' first
    | (with_reducible first | assumption | intro _ | apply State.modCache_keeps | apply State.fillL1_keeps | apply ite_keeps)
    | (with_reducible first | apply foldl_keeps)
    | split
    | dsimp only
    | with_reducible apply keeps_upd

end Sys2Proof.Machine
end

