-- ==== Sys2Proof/Laws/KeepReport.lean ====
section
/-! SUPPORT. Every operation of Machine/Report.lean keeps the byte memories canonical and the queue as it stands. -/

namespace Sys2Proof.Machine

variable {m : Prop} {q : List Instr}

theorem State.setRaw_keeps {s : State} (h : s.keeps m q) : ∀ a1 a2 a3, (@State.setRaw s a1 a2 a3).keeps m q := by
  intro a1 a2 a3
  unfold State.setRaw
  try dsimp only
  repeat' first
    | (with_reducible first | assumption | intro _ | apply State.set_keeps | apply ite_keeps | apply foldl_keeps)
    | split
    | dsimp only
    | with_reducible apply keeps_upd

theorem State.rasRecord_keeps {s : State} (h : s.keeps m q) : ∀ a1 a2 a3 a4 a5 a6, (@State.rasRecord s a1 a2 a3 a4 a5 a6).keeps m q := by
  intro a1 a2 a3 a4 a5 a6
  unfold State.rasRecord
  extract_lets tgt src head full piste words s1 s2
  have h1 : s1.keeps m q :=
    ite_keeps (State.satInc_keeps h _ _ _ _) (State.set_keeps
      (keeps_mk.2 ⟨fun hm => ⟨h.pads hm, Mem.wf_wrs (h.sram hm) _ _, h.near hm, h.tuck hm⟩, h.pending⟩) _ _ _ _)
  have h2 : s2.keeps m q := keeps_upd h1
  clear_value s2 s1 words src
  cases src with
  | none => exact h2
  | some n => exact ite_keeps (State.sendEvt_keeps h2 _ _ _ _) h2

theorem State.notice_keeps {s : State} (h : s.keeps m q) : ∀ a1 a2, (@State.notice s a1 a2).keeps m q := by
  intro a1 a2
  unfold State.notice
  try dsimp only
  repeat' first
    | (with_reducible first | assumption | intro _ | apply State.sendEvt_keeps | apply ite_keeps | apply foldl_keeps)
    | split
    | dsimp only
    | with_reducible apply keeps_upd

theorem State.rasAsk_keeps {s : State} (h : s.keeps m q) : ∀ a1 a2 a3, (@State.rasAsk s a1 a2 a3).keeps m q := by
  intro a1 a2 a3
  unfold State.rasAsk
  try dsimp only
  repeat' first
    | (with_reducible first | assumption | intro _ | apply ite_keeps | apply foldl_keeps)
    | split
    | dsimp only
    | with_reducible apply keeps_upd

theorem State.repairEntry_keeps {s : State} (h : s.keeps m q) : ∀ a1 a2, (@State.repairEntry s a1 a2).keeps m q := by
  intro a1 a2
  unfold State.repairEntry
  try dsimp only
  repeat' first
    | (with_reducible first | assumption | intro _ | apply ite_keeps | apply foldl_keeps | apply Mem.wf_wrs)
    | (with_reducible first | apply Mem.wf_foldl_wr | apply Mem.wf_clear)
    | (with_reducible first | refine State.keeps.pads (m := m) (q := q) ?_ (by assumption))
    | (with_reducible first | refine State.keeps.sram (m := m) (q := q) ?_ (by assumption))
    | (with_reducible first | refine State.keeps.near (m := m) (q := q) ?_ (by assumption))
    | (with_reducible first | refine State.keeps.tuck (m := m) (q := q) ?_ (by assumption))
    | (with_reducible first | refine State.keeps.pending (m := m) (q := q) ?_ | apply And.intro)
    | split
    | dsimp only
    | simp only [keeps_mk]

theorem State.lineErr_keeps {s : State} (h : s.keeps m q) : ∀ a1 a2 a3, (@State.lineErr s a1 a2 a3).keeps m q := by
  intro a1 a2 a3
  unfold State.lineErr
  try dsimp only
  repeat' first
    | (with_reducible first | assumption | intro _ | apply State.repairEntry_keeps | apply State.rasRecord_keeps)
    | (with_reducible first | apply ite_keeps | apply foldl_keeps)
    | split
    | dsimp only
    | with_reducible apply keeps_upd

theorem State.wear_keeps {s : State} (h : s.keeps m q) : ∀ a1, (@State.wear s a1).keeps m q := by
  intro a1
  unfold State.wear
  try dsimp only
  repeat' first
    | (with_reducible first | assumption | intro _ | apply State.rasRecord_keeps | apply State.rasAsk_keeps | apply ite_keeps)
    | (with_reducible first | apply foldl_keeps)
    | split
    | dsimp only
    | with_reducible apply keeps_upd

theorem State.fatalAct_keeps {s : State} (h : s.keeps m q) : ∀ a1, (@State.fatalAct s a1).keeps m q := by
  intro a1
  unfold State.fatalAct
  try dsimp only
  repeat' first
    | (with_reducible first | assumption | intro _ | apply State.rasAsk_keeps | apply ite_keeps | apply foldl_keeps)
    | split
    | dsimp only
    | with_reducible apply keeps_upd

theorem State.classErr_keeps {s : State} (h : s.keeps m q) : ∀ a1 a2 a3 a4, (@State.classErr s a1 a2 a3 a4).keeps m q := by
  intro a1 a2 a3 a4
  unfold State.classErr
  try dsimp only
  repeat' first
    | (with_reducible first | assumption | intro _ | apply State.rasRecord_keeps | apply State.raiseErr_keeps)
    | (with_reducible first | apply State.wear_keeps | apply State.fatalAct_keeps | apply ite_keeps | apply foldl_keeps)
    | split
    | dsimp only
    | with_reducible apply keeps_upd

end Sys2Proof.Machine
end

