-- ==== Sys2Proof/Laws/KeepMesh.lean ====
section
/-! SUPPORT. Every operation of Machine/Mesh.lean keeps the byte memories canonical and the queue as it stands. -/

namespace Sys2Proof.Machine

variable {m : Prop} {q : List Instr}

theorem State.tmapWrite_keeps {s : State} (h : s.keeps m q) : ∀ a1 a2 a3, (@State.tmapWrite s a1 a2 a3).keeps m q := by
  intro a1 a2 a3
  unfold State.tmapWrite
  try dsimp only
  repeat' first
    | (with_reducible first | assumption | intro _ | apply ite_keeps | apply foldl_keeps)
    | split
    | dsimp only
    | with_reducible apply keeps_upd

theorem State.tblSend_keeps {s : State} (h : s.keeps m q) : ∀ a1 a2 a3, (@State.tblSend s a1 a2 a3).keeps m q := by
  intro a1 a2 a3
  unfold State.tblSend
  try dsimp only
  repeat' first
    | (with_reducible first | assumption | intro _ | apply State.set_keeps | apply ite_keeps | apply foldl_keeps)
    | split
    | dsimp only
    | with_reducible apply keeps_upd

theorem State.tblCopy_keeps {s : State} (h : s.keeps m q) {s1 : State} (h1 : s1.keeps m q) : ∀ a2 a3 a4, (@State.tblCopy s s1 a2 a3 a4).keeps m q := by
  intro a2 a3 a4
  unfold State.tblCopy
  try dsimp only
  repeat' first
    | (with_reducible first | assumption | intro _ | apply State.tblSend_keeps | apply ite_keeps | apply foldl_keeps)
    | split
    | dsimp only
    | with_reducible apply keeps_upd

theorem State.decKey_keeps {s : State} (h : s.keeps m q) : ∀ a1, (@State.decKey s a1).keeps m q := by
  intro a1
  unfold State.decKey
  try dsimp only
  repeat' first
    | (with_reducible first | assumption | intro _ | apply State.dec_keeps | apply ite_keeps | apply foldl_keeps)
    | split
    | dsimp only
    | with_reducible apply keeps_upd

theorem State.tblApply_keeps {s : State} (h : s.keeps m q) : ∀ a1, (@State.tblApply s a1).keeps m q := by
  intro a1
  unfold State.tblApply
  try dsimp only
  repeat' first
    | (with_reducible first | assumption | intro _ | apply State.decKey_keeps | apply State.modNi_keeps | apply State.set_keeps)
    | (with_reducible first | apply ite_keeps | apply foldl_keeps)
    | split
    | dsimp only
    | with_reducible apply keeps_upd

theorem State.setRouter_keeps {s : State} (h : s.keeps m q) : ∀ a1 a2, (@State.setRouter s a1 a2).keeps m q := by
  intro a1 a2
  unfold State.setRouter
  try dsimp only
  repeat' first
    | (with_reducible first | assumption | intro _ | apply ite_keeps | apply foldl_keeps)
    | split
    | dsimp only
    | with_reducible apply keeps_upd

theorem State.meshEvent_keeps {s : State} (h : s.keeps m q) : ∀ a1 a2 a3 a4, (@State.meshEvent s a1 a2 a3 a4).keeps m q := by
  intro a1 a2 a3 a4
  unfold State.meshEvent
  try dsimp only
  repeat' first
    | (with_reducible first | assumption | intro _ | apply State.pmuEvent_keeps | apply ite_keeps | apply foldl_keeps)
    | split
    | dsimp only
    | with_reducible apply keeps_upd

theorem State.routeFault_keeps {s : State} (h : s.keeps m q) : ∀ a1 a2 a3, (@State.routeFault s a1 a2 a3).keeps m q := by
  intro a1 a2 a3
  unfold State.routeFault
  try dsimp only
  repeat' first
    | (with_reducible first | assumption | intro _ | apply State.set_keeps | apply ite_keeps | apply foldl_keeps)
    | split
    | dsimp only
    | with_reducible apply keeps_upd

theorem State.absorb_keeps {s : State} (h : s.keeps m q) : ∀ a1 a2 a3, (@State.absorb s a1 a2 a3).keeps m q := by
  intro a1 a2 a3
  unfold State.absorb
  try dsimp only
  repeat' first
    | (with_reducible first | assumption | intro _ | apply State.set_keeps | apply State.satInc_keeps)
    | (with_reducible first | apply State.routeFault_keeps | apply ite_keeps | apply foldl_keeps)
    | split
    | dsimp only
    | with_reducible apply keeps_upd

theorem State.traceFlush_keeps {s : State} (h : s.keeps m q) : ∀ a1 a2 a3, (@State.traceFlush s a1 a2 a3).keeps m q := by
  intro a1 a2 a3
  unfold State.traceFlush
  try dsimp only
  repeat' first
    | (with_reducible first | assumption | intro _ | apply State.send_keeps | apply State.set_keeps | apply ite_keeps)
    | (with_reducible first | apply foldl_keeps)
    | split
    | dsimp only
    | with_reducible apply keeps_upd

theorem State.spotSee_keeps {s : State} (h : s.keeps m q) : ∀ a1 a2 a3 a4, (@State.spotSee s a1 a2 a3 a4).keeps m q := by
  intro a1 a2 a3 a4
  unfold State.spotSee
  try dsimp only
  repeat' first
    | (with_reducible first | assumption | intro _ | apply State.inc_keeps | apply State.satInc_keeps)
    | (with_reducible first | apply State.traceFlush_keeps | apply ite_keeps | apply foldl_keeps)
    | split
    | dsimp only
    | with_reducible apply keeps_upd

theorem State.niArrive_keeps {s : State} (h : s.keeps m q) : ∀ a1 a2, (@State.niArrive s a1 a2).keeps m q := by
  intro a1 a2
  unfold State.niArrive
  try dsimp only
  repeat' first
    | (with_reducible first | assumption | intro _ | apply State.routeFault_keeps | apply State.set_keeps)
    | (with_reducible first | apply State.spotSee_keeps | apply State.modNi_keeps | apply ite_keeps | apply foldl_keeps)
    | split
    | dsimp only
    | with_reducible apply keeps_upd

theorem State.niOffer_keeps {s : State} (h : s.keeps m q) : ∀ a1 a2, (@State.niOffer s a1 a2).keeps m q := by
  intro a1 a2
  unfold State.niOffer
  try dsimp only
  repeat' first
    | (with_reducible first | assumption | intro _ | apply State.niArrive_keeps | apply State.modNi_keeps)
    | (with_reducible first | apply State.spotSee_keeps | apply ite_keeps | apply foldl_keeps)
    | split
    | dsimp only
    | with_reducible apply keeps_upd

theorem State.replyData_keeps {s : State} (h : s.keeps m q) : ∀ a1 a2 a3 a4, (@State.replyData s a1 a2 a3 a4).keeps m q := by
  intro a1 a2 a3 a4
  unfold State.replyData
  try dsimp only
  repeat' first
    | (with_reducible first | assumption | intro _ | apply State.niOffer_keeps | apply ite_keeps | apply foldl_keeps)
    | split
    | dsimp only
    | with_reducible apply keeps_upd

theorem State.replyAck_keeps {s : State} (h : s.keeps m q) : ∀ a1 a2 a3, (@State.replyAck s a1 a2 a3).keeps m q := by
  intro a1 a2 a3
  unfold State.replyAck
  try dsimp only
  repeat' first
    | (with_reducible first | assumption | intro _ | apply State.niOffer_keeps | apply ite_keeps | apply foldl_keeps)
    | split
    | dsimp only
    | with_reducible apply keeps_upd

theorem State.served_keeps {s : State} (h : s.keeps m q) : ∀ a1 a2, (@State.served s a1 a2).keeps m q := by
  intro a1 a2
  unfold State.served
  try dsimp only
  repeat' first
    | (with_reducible first | assumption | intro _ | apply State.modNi_keeps | apply ite_keeps | apply foldl_keeps)
    | split
    | dsimp only
    | with_reducible apply keeps_upd

theorem State.pullLocal_keeps {s : State} (h : s.keeps m q) : ∀ a1, (@State.pullLocal s a1).keeps m q := by
  intro a1
  unfold State.pullLocal
  try dsimp only
  repeat' first
    | (with_reducible first | assumption | intro _ | apply State.spotSee_keeps | apply State.modNi_keeps)
    | (with_reducible first | apply State.setRouter_keeps | apply ite_keeps | apply foldl_keeps)
    | split
    | dsimp only
    | with_reducible apply keeps_upd

theorem State.cross_keeps {s : State} (h : s.keeps m q) : ∀ a1 a2 a3, (@State.cross s a1 a2 a3).keeps m q := by
  intro a1 a2 a3
  unfold State.cross
  try dsimp only
  repeat' first
    | (with_reducible first | assumption | intro _ | apply State.niArrive_keeps | apply State.absorb_keeps)
    | (with_reducible first | apply State.setRouter_keeps | apply State.spotSee_keeps | apply ite_keeps | apply foldl_keeps)
    | split
    | dsimp only
    | with_reducible apply keeps_upd

theorem State.routerForward_keeps {s : State} (h : s.keeps m q) : ∀ a1 a2, (@State.routerForward s a1 a2).keeps m q := by
  intro a1 a2
  unfold State.routerForward
  try dsimp only
  repeat' first
    | (with_reducible first | assumption | intro _ | apply State.pullLocal_keeps | apply State.setRouter_keeps)
    | (with_reducible first | apply State.absorb_keeps | apply State.meshEvent_keeps | apply State.cross_keeps | apply ite_keeps)
    | (with_reducible first | apply foldl_keeps)
    | split
    | dsimp only
    | with_reducible apply keeps_upd

theorem State.creditReturn_keeps {s : State} (h : s.keeps m q) : ∀ a1 a2 a3, (@State.creditReturn s a1 a2 a3).keeps m q := by
  intro a1 a2 a3
  unfold State.creditReturn
  try dsimp only
  repeat' first
    | (with_reducible first | assumption | intro _ | apply State.setRouter_keeps | apply ite_keeps | apply foldl_keeps)
    | split
    | dsimp only
    | with_reducible apply keeps_upd

theorem State.takeTicket_keeps {s : State} (h : s.keeps m q) : ∀ a1 a2, (@State.takeTicket s a1 a2).keeps m q := by
  intro a1 a2
  unfold State.takeTicket
  try dsimp only
  repeat' first
    | (with_reducible first | assumption | intro _ | apply State.modNi_keeps | apply ite_keeps | apply foldl_keeps)
    | split
    | dsimp only
    | with_reducible apply keeps_upd

theorem State.sendTkt_keeps {s : State} (h : s.keeps m q) : ∀ a1 a2, (@State.sendTkt s a1 a2).keeps m q := by
  intro a1 a2
  unfold State.sendTkt
  try dsimp only
  repeat' first
    | (with_reducible first | assumption | intro _ | apply State.modNi_keeps | apply State.niOffer_keeps | apply ite_keeps)
    | (with_reducible first | apply foldl_keeps)
    | split
    | dsimp only
    | with_reducible apply keeps_upd

theorem State.replyTkt_keeps {s : State} (h : s.keeps m q) : ∀ a1 a2 a3 a4 a5, (@State.replyTkt s a1 a2 a3 a4 a5).keeps m q := by
  intro a1 a2 a3 a4 a5
  unfold State.replyTkt
  try dsimp only
  repeat' first
    | (with_reducible first | assumption | intro _ | apply State.modNi_keeps | apply State.niOffer_keeps | apply ite_keeps)
    | (with_reducible first | apply foldl_keeps)
    | split
    | dsimp only
    | with_reducible apply keeps_upd

end Sys2Proof.Machine
end

