-- ==== Sys2Proof/Laws/KeepTarget.lean ====
section
/-! SUPPORT. Every operation of Machine/Target.lean keeps the byte memories canonical and the queue as it stands. -/

namespace Sys2Proof.Machine

variable {m : Prop} {q : List Instr}

theorem State.setNearMeta_keeps {s : State} (h : s.keeps m q) : ∀ a1 a2 a3, (@State.setNearMeta s a1 a2 a3).keeps m q := by
  intro a1 a2 a3
  unfold State.setNearMeta
  try dsimp only
  repeat' first
    | (with_reducible first | assumption | intro _ | apply ite_keeps | apply foldl_keeps)
    | split
    | dsimp only
    | with_reducible apply keeps_upd

theorem State.nearWrite_keeps {s : State} (h : s.keeps m q) : ∀ a1 a2 a3 a4 a5, (@State.nearWrite s a1 a2 a3 a4 a5).keeps m q := by
  intro a1 a2 a3 a4 a5
  unfold State.nearWrite
  try dsimp only
  repeat' first
    | (with_reducible first | assumption | intro _ | apply State.setNearMeta_keeps | apply ite_keeps | apply foldl_keeps)
    | (with_reducible first | apply Mem.wf_wrs | apply Mem.wf_foldl_wr | apply Mem.wf_clear)
    | (with_reducible first | refine State.keeps.pads (m := m) (q := q) ?_ (by assumption))
    | (with_reducible first | refine State.keeps.sram (m := m) (q := q) ?_ (by assumption))
    | (with_reducible first | refine State.keeps.near (m := m) (q := q) ?_ (by assumption))
    | (with_reducible first | refine State.keeps.tuck (m := m) (q := q) ?_ (by assumption))
    | (with_reducible first | refine State.keeps.pending (m := m) (q := q) ?_ | apply And.intro)
    | split
    | dsimp only
    | simp only [keeps_mk]

theorem State.niLeaf_keeps {s : State} (h : s.keeps m q) : ∀ a1 a2, (@State.niLeaf s a1 a2).1.keeps m q := by
  intro a1 a2
  unfold State.niLeaf
  try dsimp only
  repeat' first
    | (with_reducible first | assumption | intro _ | apply State.modNi_keeps | apply State.free_keeps | apply ite_keeps)
    | (with_reducible first | apply foldl_keeps | apply ite_fst_keeps | refine fst_keeps (by assumption) ?_)
    | (with_reducible first | refine snd_keeps (by assumption) ?_)
    | split
    | dsimp only
    | with_reducible apply keeps_upd

end Sys2Proof.Machine
end

