-- ==== Sys2Proof/Laws/KeepSecure.lean ====
section
/-! SUPPORT. Every operation of Machine/Secure.lean keeps the byte memories canonical and the queue as it stands. -/

namespace Sys2Proof.Machine

variable {m : Prop} {q : List Instr}

theorem State.freeLine_keeps {s : State} (h : s.keeps m q) : (@State.freeLine s).2.keeps m q := by
  unfold State.freeLine
  try dsimp only
  repeat' first
    | (with_reducible first | assumption | intro _ | apply State.free_keeps | apply ite_keeps | apply foldl_keeps)
    | (with_reducible first | apply ite_fst_keeps | refine fst_keeps (by assumption) ?_ | refine snd_keeps (by assumption) ?_)
    | split
    | dsimp only
    | with_reducible apply keeps_upd

theorem State.tx_keeps {s : State} (h : s.keeps m q) : ∀ a1 a2 a3, (@State.tx s a1 a2 a3).keeps m q := by
  intro a1 a2 a3
  unfold State.tx
  try dsimp only
  repeat' first
    | (with_reducible first | assumption | intro _ | apply State.modHub_keeps | apply ite_keeps | apply foldl_keeps)
    | split
    | dsimp only
    | with_reducible apply keeps_upd

theorem State.msix_keeps {s : State} (h : s.keeps m q) : ∀ a1 a2 a3, (@State.msix s a1 a2 a3).keeps m q := by
  intro a1 a2 a3
  unfold State.msix
  try dsimp only
  repeat' first
    | (with_reducible first | assumption | intro _ | apply State.tx_keeps | apply State.modHub_keeps | apply ite_keeps)
    | (with_reducible first | apply foldl_keeps)
    | split
    | dsimp only
    | with_reducible apply keeps_upd

theorem State.epBme_keeps {s : State} (h : s.keeps m q) : ∀ a1 a2 a3, (@State.epBme s a1 a2 a3).keeps m q := by
  intro a1 a2 a3
  unfold State.epBme
  try dsimp only
  repeat' first
    | (with_reducible first | assumption | intro _ | apply State.modHub_keeps | apply State.set_keeps | apply State.msix_keeps)
    | (with_reducible first | apply ite_keeps | apply foldl_keeps)
    | split
    | dsimp only
    | with_reducible apply keeps_upd

theorem State.pf0Alarm_keeps {s : State} (h : s.keeps m q) : (@State.pf0Alarm s).keeps m q := by
  unfold State.pf0Alarm
  try dsimp only
  repeat' first
    | (with_reducible first | assumption | intro _ | apply State.msix_keeps | apply ite_keeps | apply foldl_keeps)
    | split
    | dsimp only
    | with_reducible apply keeps_upd

theorem State.pageEvent_keeps {s : State} (h : s.keeps m q) : ∀ a1, (@State.pageEvent s a1).keeps m q := by
  intro a1
  unfold State.pageEvent
  try dsimp only
  repeat' first
    | (with_reducible first | assumption | intro _ | apply State.set_keeps | apply State.sendEvt_keeps | apply ite_keeps)
    | (with_reducible first | apply foldl_keeps)
    | split
    | dsimp only
    | with_reducible apply keeps_upd

theorem State.pstop_keeps {s : State} (h : s.keeps m q) : ∀ a1, (@State.pstop s a1).keeps m q := by
  intro a1
  unfold State.pstop
  try dsimp only
  repeat' first
    | (with_reducible first | assumption | intro _ | apply State.set_keeps | apply ite_keeps | apply foldl_keeps)
    | split
    | dsimp only
    | with_reducible apply keeps_upd

theorem State.freeze_keeps {s : State} (h : s.keeps m q) : (@State.freeze s).keeps m q := by
  unfold State.freeze
  try dsimp only
  repeat' first
    | (with_reducible first | assumption | intro _ | apply State.set_keeps | apply ite_keeps | apply foldl_keeps)
    | split
    | dsimp only
    | with_reducible apply keeps_upd

theorem State.newKey_keeps {s : State} (h : s.keeps m q) : ∀ a1, (@State.newKey s a1).keeps m q := by
  intro a1
  unfold State.newKey
  try dsimp only
  repeat' first
    | (with_reducible first | assumption | intro _ | apply ite_keeps | apply foldl_keeps)
    | split
    | dsimp only
    | with_reducible apply keeps_upd

theorem State.tuckState_keeps {s : State} (h : s.keeps m q) : ∀ a1 a2, (@State.tuckState s a1 a2).keeps m q := by
  intro a1 a2
  unfold State.tuckState
  try dsimp only
  repeat' first
    | (with_reducible first | assumption | intro _ | apply ite_keeps | apply foldl_keeps | apply Mem.wf_wrs)
    | (with_reducible first | apply Mem.wf_foldl_wr | apply Mem.wf_clear)
    | (with_reducible first | refine State.keeps.pads (m := m) (q := q) ?_ (by assumption))
    | (with_reducible first | refine State.keeps.sram (m := m) (q := q) ?_ (by assumption))
    | (with_reducible first | refine State.keeps.near (m := m) (q := q) ?_ (by assumption))
    | (with_reducible first | refine State.keeps.tuck (m := m) (q := q) ?_ (by assumption))
    | (with_reducible first | refine State.keeps.pending (m := m) (q := q) ?_ | apply And.intro)
    | split
    | dsimp only
    | simp only [keeps_mk]

theorem State.erase_keeps {s : State} (h : s.keeps m q) : (@State.erase s).keeps m q := by
  unfold State.erase
  try dsimp only
  repeat' first
    | (with_reducible first | assumption | intro _ | apply State.newKey_keeps | apply State.set_keeps | apply State.freeze_keeps)
    | (with_reducible first | apply State.tuckState_keeps | apply ite_keeps | apply foldl_keeps)
    | split
    | dsimp only
    | with_reducible apply keeps_upd

theorem State.ibi_keeps {s : State} (h : s.keeps m q) : (@State.ibi s).keeps m q := by
  unfold State.ibi
  try dsimp only
  repeat' first
    | (with_reducible first | assumption | intro _ | apply ite_keeps | apply foldl_keeps)
    | split
    | dsimp only
    | with_reducible apply keeps_upd

theorem State.sensorFire_keeps {s : State} (h : s.keeps m q) : ∀ a1 a2, (@State.sensorFire s a1 a2).keeps m q := by
  intro a1 a2
  unfold State.sensorFire
  try dsimp only
  repeat' first
    | (with_reducible first | assumption | intro _ | apply State.set_keeps | apply State.satInc_keeps | apply State.pstop_keeps)
    | (with_reducible first | apply State.erase_keeps | apply State.freeze_keeps | apply State.ibi_keeps)
    | (with_reducible first | apply State.pf0Alarm_keeps | apply State.notice_keeps | apply ite_keeps | apply foldl_keeps)
    | split
    | dsimp only
    | with_reducible apply keeps_upd

theorem State.violation_keeps {s : State} (h : s.keeps m q) : ∀ a1 a2 a3 a4, (@State.violation s a1 a2 a3 a4).keeps m q := by
  intro a1 a2 a3 a4
  unfold State.violation
  try dsimp only
  repeat' first
    | (with_reducible first | assumption | intro _ | apply State.set_keeps | apply State.satInc_keeps)
    | (with_reducible first | apply State.sensorFire_keeps | apply ite_keeps | apply foldl_keeps)
    | split
    | dsimp only
    | with_reducible apply keeps_upd

theorem State.ksErr_keeps {s : State} (h : s.keeps m q) : (@State.ksErr s).keeps m q := by
  unfold State.ksErr
  try dsimp only
  repeat' first
    | (with_reducible first | assumption | intro _ | apply State.set_keeps | apply ite_keeps | apply foldl_keeps)
    | split
    | dsimp only
    | with_reducible apply keeps_upd

theorem State.ksGenerate_keeps {s : State} (h : s.keeps m q) : ∀ a1 a2, (@State.ksGenerate s a1 a2).keeps m q := by
  intro a1 a2
  unfold State.ksGenerate
  try dsimp only
  repeat' first
    | (with_reducible first | assumption | intro _ | apply State.ksErr_keeps | apply State.set_keeps | apply State.newKey_keeps)
    | (with_reducible first | apply ite_keeps | apply foldl_keeps)
    | split
    | dsimp only
    | with_reducible apply keeps_upd

theorem State.ksClear_keeps {s : State} (h : s.keeps m q) : ∀ a1, (@State.ksClear s a1).keeps m q := by
  intro a1
  unfold State.ksClear
  try dsimp only
  repeat' first
    | (with_reducible first | assumption | intro _ | apply State.ksErr_keeps | apply State.set_keeps | apply State.newKey_keeps)
    | (with_reducible first | apply ite_keeps | apply foldl_keeps)
    | split
    | dsimp only
    | with_reducible apply keeps_upd

theorem State.ksUnwrap_keeps {s : State} (h : s.keeps m q) : ∀ a1, (@State.ksUnwrap s a1).keeps m q := by
  intro a1
  unfold State.ksUnwrap
  try dsimp only
  repeat' first
    | (with_reducible first | assumption | intro _ | apply State.ksErr_keeps | apply State.set_keeps | apply ite_keeps)
    | (with_reducible first | apply foldl_keeps)
    | split
    | dsimp only
    | with_reducible apply keeps_upd

theorem State.ksGo_keeps {s : State} (h : s.keeps m q) : (@State.ksGo s).keeps m q := by
  unfold State.ksGo
  try dsimp only
  repeat' first
    | (with_reducible first | assumption | intro _ | apply State.ksGenerate_keeps | apply State.ksClear_keeps)
    | (with_reducible first | apply State.ksUnwrap_keeps | apply State.ksErr_keeps | apply ite_keeps | apply foldl_keeps)
    | split
    | dsimp only
    | with_reducible apply keeps_upd

end Sys2Proof.Machine
end

