-- ==== Sys2Proof/Laws/KeepLsu.lean ====
section
/-! SUPPORT. Every operation of Machine/Lsu.lean keeps the byte memories canonical and the queue as it stands. -/

namespace Sys2Proof.Machine

variable {m : Prop} {q : List Instr}

theorem State.loadMiss_keeps {s : State} (h : s.keeps m q) : ∀ a1 a2 a3, (@State.loadMiss s a1 a2 a3).keeps m q := by
  intro a1 a2 a3
  unfold State.loadMiss
  try dsimp only
  repeat' first
    | (with_reducible first | assumption | intro _ | apply State.coreEvent_keeps | apply State.modCore_keeps | apply ite_keeps)
    | (with_reducible first | apply foldl_keeps)
    | split
    | dsimp only
    | with_reducible apply keeps_upd

theorem State.loadPiece_keeps {s : State} (h : s.keeps m q) : ∀ a1 a2 a3 a4 a5 a6 a7 a8 a9, (@State.loadPiece s a1 a2 a3 a4 a5 a6 a7 a8 a9).keeps m q := by
  intro a1 a2 a3 a4 a5 a6 a7 a8 a9
  unfold State.loadPiece
  try dsimp only
  repeat' first
    | (with_reducible first | assumption | intro _ | apply State.modCore_keeps | apply State.padGrant_keeps)
    | (with_reducible first | apply State.intoL1_keeps | apply State.prefetch_keeps | apply State.askLine_keeps)
    | (with_reducible first | apply State.loadMiss_keeps | apply State.send_keeps | apply ite_keeps | apply foldl_keeps)
    | split
    | dsimp only
    | with_reducible apply keeps_upd

theorem State.wcFlush_keeps {s : State} (h : s.keeps m q) : ∀ a1 a2, (@State.wcFlush s a1 a2).keeps m q := by
  intro a1 a2
  unfold State.wcFlush
  try dsimp only
  repeat' first
    | (with_reducible first | assumption | intro _ | apply State.send_keeps | apply State.modCore_keeps | apply ite_keeps)
    | (with_reducible first | apply foldl_keeps)
    | split
    | dsimp only
    | with_reducible apply keeps_upd

theorem State.wcFlushAll_keeps {s : State} (h : s.keeps m q) : ∀ a1, (@State.wcFlushAll s a1).keeps m q := by
  intro a1
  unfold State.wcFlushAll
  try dsimp only
  repeat' first
    | (with_reducible first | assumption | intro _ | apply State.wcFlush_keeps | apply ite_keeps | apply foldl_keeps)
    | split
    | dsimp only
    | with_reducible apply keeps_upd

end Sys2Proof.Machine
end

