-- ==== Sys2Proof/Laws/KeepHome.lean ====
section
/-! SUPPORT. Every operation of Machine/Home.lean keeps the byte memories canonical and the queue as it stands. -/

namespace Sys2Proof.Machine

variable {m : Prop} {q : List Instr}

theorem State.sliceEvent_keeps {s : State} (h : s.keeps m q) : ∀ a1 a2 a3, (@State.sliceEvent s a1 a2 a3).keeps m q := by
  intro a1 a2 a3
  unfold State.sliceEvent
  try dsimp only
  repeat' first
    | (with_reducible first | assumption | intro _ | apply State.meshEvent_keeps | apply ite_keeps | apply foldl_keeps)
    | split
    | dsimp only
    | with_reducible apply keeps_upd

theorem State.dirDrop_keeps {s : State} (h : s.keeps m q) : ∀ a1 a2 a3, (@State.dirDrop s a1 a2 a3).keeps m q := by
  intro a1 a2 a3
  unfold State.dirDrop
  try dsimp only
  repeat' first
    | (with_reducible first | assumption | intro _ | apply State.setSlice_keeps | apply ite_keeps | apply foldl_keeps)
    | split
    | dsimp only
    | with_reducible apply keeps_upd

theorem State.dirGrant_keeps {s : State} (h : s.keeps m q) : ∀ a1 a2 a3 a4 a5 a6, (@State.dirGrant s a1 a2 a3 a4 a5 a6).keeps m q := by
  intro a1 a2 a3 a4 a5 a6
  unfold State.dirGrant
  try dsimp only
  repeat' first
    | (with_reducible first | assumption | intro _ | apply State.setSlice_keeps | apply ite_keeps | apply foldl_keeps)
    | split
    | dsimp only
    | with_reducible apply keeps_upd

theorem State.sliceWriteMem_keeps {s : State} (h : s.keeps m q) : ∀ a1 a2 a3 a4 a5 a6 a7, (@State.sliceWriteMem s a1 a2 a3 a4 a5 a6 a7).keeps m q := by
  intro a1 a2 a3 a4 a5 a6 a7
  unfold State.sliceWriteMem
  try dsimp only
  repeat' first
    | (with_reducible first | assumption | intro _ | apply State.send_keeps | apply ite_keeps | apply foldl_keeps)
    | split
    | dsimp only
    | with_reducible apply keeps_upd

theorem State.llcPut_keeps {s : State} (h : s.keeps m q) : ∀ a1 a2 a3, (@State.llcPut s a1 a2 a3).keeps m q := by
  intro a1 a2 a3
  unfold State.llcPut
  try dsimp only
  repeat' first
    | (with_reducible first | assumption | intro _ | apply State.setSlice_keeps | apply State.sliceWriteMem_keeps)
    | (with_reducible first | apply State.free_keeps | apply ite_keeps | apply foldl_keeps | apply ite_fst_keeps)
    | (with_reducible first | refine fst_keeps (by assumption) ?_ | refine snd_keeps (by assumption) ?_)
    | split
    | dsimp only
    | with_reducible apply keeps_upd

theorem State.llcDrop_keeps {s : State} (h : s.keeps m q) : ∀ a1 a2, (@State.llcDrop s a1 a2).keeps m q := by
  intro a1 a2
  unfold State.llcDrop
  try dsimp only
  repeat' first
    | (with_reducible first | assumption | intro _ | apply State.setSlice_keeps | apply ite_keeps | apply foldl_keeps)
    | split
    | dsimp only
    | with_reducible apply keeps_upd

theorem State.setTx_keeps {s : State} (h : s.keeps m q) : ∀ a1 a2 a3, (@State.setTx s a1 a2 a3).keeps m q := by
  intro a1 a2 a3
  unfold State.setTx
  try dsimp only
  repeat' first
    | (with_reducible first | assumption | intro _ | apply State.setSlice_keeps | apply ite_keeps | apply foldl_keeps)
    | split
    | dsimp only
    | with_reducible apply keeps_upd

theorem State.homeSnoop_keeps {s : State} (h : s.keeps m q) : ∀ a1 a2 a3 a4 a5 a6, (@State.homeSnoop s a1 a2 a3 a4 a5 a6).keeps m q := by
  intro a1 a2 a3 a4 a5 a6
  unfold State.homeSnoop
  try dsimp only
  repeat' first
    | (with_reducible first | assumption | intro _ | apply State.setTx_keeps | apply State.send_keeps)
    | (with_reducible first | apply State.sliceEvent_keeps | apply ite_keeps | apply foldl_keeps)
    | split
    | dsimp only
    | with_reducible apply keeps_upd

theorem State.homeMem_keeps {s : State} (h : s.keeps m q) : ∀ a1 a2, (@State.homeMem s a1 a2).keeps m q := by
  intro a1 a2
  unfold State.homeMem
  try dsimp only
  repeat' first
    | (with_reducible first | assumption | intro _ | apply State.send_keeps | apply State.setTx_keeps | apply ite_keeps)
    | (with_reducible first | apply foldl_keeps)
    | split
    | dsimp only
    | with_reducible apply keeps_upd

theorem State.homeDone_keeps {s : State} (h : s.keeps m q) (st : Nat) (t : HTx) (r : State → State)
    (hr : ∀ s, s.keeps m q → (r s).keeps m q) : (s.homeDone st t r).keeps m q :=
  hr _ (State.served_keeps (State.setTx_keeps h _ _ _) _ _)

theorem State.answerLine_keeps {s : State} (h : s.keeps m q) : ∀ a1 a2 a3 a4 a5, (@State.answerLine s a1 a2 a3 a4 a5).keeps m q := by
  intro a1 a2 a3 a4 a5
  unfold State.answerLine
  try dsimp only
  repeat' first
    | (with_reducible first | assumption | intro _ | apply State.modCache_keeps | apply State.homeDone_keeps)
    | (with_reducible first | apply State.niOffer_keeps | apply ite_keeps | apply foldl_keeps)
    | split
    | dsimp only
    | with_reducible apply keeps_upd

theorem State.homeKeep_keeps {s : State} (h : s.keeps m q) : ∀ a1 a2 a3 a4 a5, (@State.homeKeep s a1 a2 a3 a4 a5).keeps m q := by
  intro a1 a2 a3 a4 a5
  unfold State.homeKeep
  try dsimp only
  repeat' first
    | (with_reducible first | assumption | intro _ | apply State.sliceWriteMem_keeps | apply State.llcDrop_keeps)
    | (with_reducible first | apply State.llcPut_keeps | apply ite_keeps | apply foldl_keeps)
    | split
    | dsimp only
    | with_reducible apply keeps_upd

theorem State.homeFinish_keeps {s : State} (h : s.keeps m q) : ∀ a1 a2 a3 a4 a5, (@State.homeFinish s a1 a2 a3 a4 a5).keeps m q := by
  intro a1 a2 a3 a4 a5
  unfold State.homeFinish
  try dsimp only
  repeat' first
    | (with_reducible first | assumption | intro _ | apply State.dirGrant_keeps | apply State.homeKeep_keeps)
    | (with_reducible first | apply State.llcPut_keeps | apply State.answerLine_keeps | apply State.llcDrop_keeps)
    | (with_reducible first | apply State.sliceWriteMem_keeps | apply State.homeDone_keeps | apply State.replyAck_keeps)
    | (with_reducible first | apply ite_keeps | apply foldl_keeps)
    | split
    | dsimp only
    | with_reducible apply keeps_upd

theorem State.homeWriteWait_keeps {s : State} (h : s.keeps m q) : ∀ a1 a2 a3 a4, (@State.homeWriteWait s a1 a2 a3 a4).keeps m q := by
  intro a1 a2 a3 a4
  unfold State.homeWriteWait
  try dsimp only
  repeat' first
    | (with_reducible first | assumption | intro _ | apply State.sliceWriteMem_keeps | apply State.setTx_keeps | apply ite_keeps)
    | (with_reducible first | apply foldl_keeps)
    | split
    | dsimp only
    | with_reducible apply keeps_upd

theorem State.biAnswer_keeps {s : State} (h : s.keeps m q) : ∀ a1 a2 a3, (@State.biAnswer s a1 a2 a3).keeps m q := by
  intro a1 a2 a3
  unfold State.biAnswer
  try dsimp only
  repeat' first
    | (with_reducible first | assumption | intro _ | apply State.homeDone_keeps | apply State.niOffer_keeps | apply ite_keeps)
    | (with_reducible first | apply foldl_keeps)
    | split
    | dsimp only
    | with_reducible apply keeps_upd

theorem State.homeTell_keeps {s : State} (h : s.keeps m q) : ∀ a1 a2, (@State.homeTell s a1 a2).keeps m q := by
  intro a1 a2
  unfold State.homeTell
  try dsimp only
  repeat' first
    | (with_reducible first | assumption | intro _ | apply State.send_keeps | apply State.setTx_keeps | apply ite_keeps)
    | (with_reducible first | apply foldl_keeps)
    | split
    | dsimp only
    | with_reducible apply keeps_upd

theorem State.llcMaint_keeps {s : State} (h : s.keeps m q) : ∀ a1 a2 a3, (@State.llcMaint s a1 a2 a3).keeps m q := by
  intro a1 a2 a3
  unfold State.llcMaint
  try dsimp only
  repeat' first
    | (with_reducible first | assumption | intro _ | apply State.setSlice_keeps | apply State.llcDrop_keeps | apply ite_keeps)
    | (with_reducible first | apply foldl_keeps)
    | split
    | dsimp only
    | with_reducible apply keeps_upd

theorem State.homeSnooped_keeps {s : State} (h : s.keeps m q) : ∀ a1 a2, (@State.homeSnooped s a1 a2).keeps m q := by
  intro a1 a2
  unfold State.homeSnooped
  try dsimp only
  repeat' first
    | (with_reducible first | assumption | intro _ | apply State.homeDone_keeps | apply State.llcMaint_keeps)
    | (with_reducible first | apply State.replyAck_keeps | apply State.homeWriteWait_keeps | apply State.homeTell_keeps)
    | (with_reducible first | apply State.modSlice_keeps | apply State.llcDrop_keeps | apply State.inc_keeps)
    | (with_reducible first | apply State.setTx_keeps | apply State.biAnswer_keeps | apply State.setSlice_keeps)
    | (with_reducible first | apply State.llcPut_keeps | apply State.send_keeps | apply State.homeFinish_keeps)
    | (with_reducible first | apply State.sliceEvent_keeps | apply State.homeMem_keeps | apply ite_keeps | apply foldl_keeps)
    | split
    | dsimp only
    | with_reducible apply keeps_upd

theorem State.homeGo_keeps {s : State} (h : s.keeps m q) : ∀ a1 a2, (@State.homeGo s a1 a2).keeps m q := by
  intro a1 a2
  unfold State.homeGo
  try dsimp only
  repeat' first
    | (with_reducible first | assumption | intro _ | apply State.homeSnooped_keeps | apply State.modSlice_keeps)
    | (with_reducible first | apply State.homeDone_keeps | apply State.replyAck_keeps | apply State.homeSnoop_keeps)
    | (with_reducible first | apply ite_keeps | apply foldl_keeps)
    | split
    | dsimp only
    | with_reducible apply keeps_upd

theorem State.homeStart_keeps {s : State} (h : s.keeps m q) : ∀ a1 a2, (@State.homeStart s a1 a2).keeps m q := by
  intro a1 a2
  unfold State.homeStart
  try dsimp only
  repeat' first
    | (with_reducible first | assumption | intro _ | apply State.homeTell_keeps | apply State.homeGo_keeps | apply ite_keeps)
    | (with_reducible first | apply foldl_keeps)
    | split
    | dsimp only
    | with_reducible apply keeps_upd

theorem State.homeBack_keeps {s : State} (h : s.keeps m q) : ∀ a1 a2, (@State.homeBack s a1 a2).keeps m q := by
  intro a1 a2
  unfold State.homeBack
  try dsimp only
  repeat' first
    | (with_reducible first | assumption | intro _ | apply State.dirDrop_keeps | apply State.homeDone_keeps)
    | (with_reducible first | apply State.replyAck_keeps | apply State.homeWriteWait_keeps | apply State.llcDrop_keeps)
    | (with_reducible first | apply State.llcPut_keeps | apply ite_keeps | apply foldl_keeps)
    | split
    | dsimp only
    | with_reducible apply keeps_upd

/-- Making room in a directory keeps what every command keeps. -/
theorem State.dirVictim_keeps {s t : State} {st line : Nat} {v : Option (Nat × DirEntry)} (h : s.keeps m q)
    (hv : s.dirVictim st line = some (t, v)) : t.keeps m q := by
  unfold State.dirVictim at hv
  dsimp only at hv
  split at hv
  · cases hv; exact h
  · split at hv
    · cases hv
    · split at hv
      · cases hv; exact State.satInc_keeps (State.free_keeps h) _ _ _ _
      · cases hv; exact State.free_keeps h

theorem State.homeEnter_keeps {s : State} (h : s.keeps m q) (st : Nat) (t : HTx) : (s.homeEnter st t).keeps m q := by
  unfold State.homeEnter
  dsimp only
  split
  · exact h
  · rename_i hv
    exact State.homeSnoop_keeps (State.modSlice_keeps (State.dirVictim_keeps h hv) _ _) _ _ _ _ _ _
  · rename_i hv
    exact State.homeGo_keeps (State.modSlice_keeps (State.dirVictim_keeps h hv) _ _) _ _

theorem State.homeReq_keeps {s : State} (h : s.keeps m q) : ∀ a1 a2, (@State.homeReq s a1 a2).keeps m q := by
  intro a1 a2
  unfold State.homeReq
  try dsimp only
  repeat' first
    | (with_reducible first | assumption | intro _ | apply State.modSlice_keeps | apply State.homeBack_keeps)
    | (with_reducible first | apply State.homeEnter_keeps | apply State.homeStart_keeps | apply ite_keeps | apply foldl_keeps)
    | split
    | dsimp only
    | with_reducible apply keeps_upd

theorem State.snoopAnswer_keeps {s : State} (h : s.keeps m q) : ∀ a1 a2 a3 a4 a5 a6 a7, (@State.snoopAnswer s a1 a2 a3 a4 a5 a6 a7).keeps m q := by
  intro a1 a2 a3 a4 a5 a6 a7
  unfold State.snoopAnswer
  try dsimp only
  repeat' first
    | (with_reducible first | assumption | intro _ | apply State.setSlice_keeps | apply State.dirDrop_keeps)
    | (with_reducible first | apply State.setTx_keeps | apply State.homeSnooped_keeps | apply State.sliceWriteMem_keeps)
    | (with_reducible first | apply State.llcPut_keeps | apply State.homeGo_keeps | apply ite_keeps | apply foldl_keeps)
    | split
    | dsimp only
    | with_reducible apply keeps_upd

theorem State.homeMemRsp_keeps {s : State} (h : s.keeps m q) : ∀ a1 a2 a3 a4 a5, (@State.homeMemRsp s a1 a2 a3 a4 a5).keeps m q := by
  intro a1 a2 a3 a4 a5
  unfold State.homeMemRsp
  try dsimp only
  repeat' first
    | (with_reducible first | assumption | intro _ | apply State.homeGo_keeps | apply State.homeDone_keeps)
    | (with_reducible first | apply State.replyAck_keeps | apply State.homeTell_keeps | apply State.llcMaint_keeps)
    | (with_reducible first | apply State.llcPut_keeps | apply State.setTx_keeps | apply State.biAnswer_keeps)
    | (with_reducible first | apply State.homeFinish_keeps | apply ite_keeps | apply foldl_keeps)
    | split
    | dsimp only
    | with_reducible apply keeps_upd

theorem State.poisonHome_keeps {s : State} (h : s.keeps m q) : ∀ a1 a2, (@State.poisonHome s a1 a2).keeps m q := by
  intro a1 a2
  unfold State.poisonHome
  try dsimp only
  repeat' first
    | (with_reducible first | assumption | intro _ | apply State.setSlice_keeps | apply State.llcPut_keeps | apply ite_keeps)
    | (with_reducible first | apply foldl_keeps)
    | split
    | dsimp only
    | with_reducible apply keeps_upd

theorem State.drainGo_keeps {s : State} (h : s.keeps m q) : ∀ a1, (@State.drainGo s a1).keeps m q := by
  intro a1
  unfold State.drainGo
  try dsimp only
  repeat' first
    | (with_reducible first | assumption | intro _ | apply State.set_keeps | apply State.setSlice_keeps | apply ite_keeps)
    | (with_reducible first | apply foldl_keeps)
    | split
    | dsimp only
    | with_reducible apply keeps_upd

theorem State.drainLine_keeps {s : State} (h : s.keeps m q) : ∀ a1 a2 a3, (@State.drainLine s a1 a2 a3).keeps m q := by
  intro a1 a2 a3
  unfold State.drainLine
  try dsimp only
  repeat' first
    | (with_reducible first | assumption | intro _ | apply State.homeGo_keeps | apply State.modSlice_keeps | apply ite_keeps)
    | (with_reducible first | apply foldl_keeps)
    | split
    | dsimp only
    | with_reducible apply keeps_upd

theorem State.drainDone_keeps {s : State} (h : s.keeps m q) : ∀ a1, (@State.drainDone s a1).keeps m q := by
  intro a1
  unfold State.drainDone
  try dsimp only
  repeat' first
    | (with_reducible first | assumption | intro _ | apply State.drainLine_keeps | apply State.setSlice_keeps)
    | (with_reducible first | apply State.set_keeps | apply ite_keeps | apply foldl_keeps)
    | split
    | dsimp only
    | with_reducible apply keeps_upd

end Sys2Proof.Machine
end

