-- ==== Sys2Proof/Laws/KeepHub.lean ====
section
/-! SUPPORT. Every operation of Machine/Hub.lean keeps the byte memories canonical and the queue as it stands. -/

namespace Sys2Proof.Machine

variable {m : Prop} {q : List Instr}

theorem State.pkWake_keeps {s : State} (h : s.keeps m q) : (@State.pkWake s).keeps m q := by
  unfold State.pkWake
  try dsimp only
  repeat' first
    | (with_reducible first | assumption | intro _ | apply State.set_keeps | apply ite_keeps | apply foldl_keeps)
    | split
    | dsimp only
    | with_reducible apply keeps_upd

theorem State.hubsResume_keeps {s : State} (h : s.keeps m q) : (@State.hubsResume s).keeps m q := by
  unfold State.hubsResume
  try dsimp only
  repeat' first
    | (with_reducible first | assumption | intro _ | apply State.modHub_keeps | apply ite_keeps | apply foldl_keeps)
    | split
    | dsimp only
    | with_reducible apply keeps_upd

theorem State.pkEdge_keeps {s : State} (h : s.keeps m q) : ∀ a1, (@State.pkEdge s a1).keeps m q := by
  intro a1
  unfold State.pkEdge
  try dsimp only
  repeat' first
    | (with_reducible first | assumption | intro _ | apply State.set_keeps | apply State.satInc_keeps)
    | (with_reducible first | apply State.hubsResume_keeps | apply State.pkWake_keeps | apply ite_keeps | apply foldl_keeps)
    | split
    | dsimp only
    | with_reducible apply keeps_upd

theorem State.notTaken_keeps {s : State} (h : s.keeps m q) : ∀ a1, (@State.notTaken s a1).keeps m q := by
  intro a1
  unfold State.notTaken
  try dsimp only
  repeat' first
    | (with_reducible first | assumption | intro _ | apply State.pkEdge_keeps | apply ite_keeps | apply foldl_keeps)
    | split
    | dsimp only
    | with_reducible apply keeps_upd

theorem State.hubEvent_keeps {s : State} (h : s.keeps m q) : ∀ a1 a2 a3, (@State.hubEvent s a1 a2 a3).keeps m q := by
  intro a1 a2 a3
  unfold State.hubEvent
  try dsimp only
  repeat' first
    | (with_reducible first | assumption | intro _ | apply State.pmuEvent_keeps | apply ite_keeps | apply foldl_keeps)
    | split
    | dsimp only
    | with_reducible apply keeps_upd

theorem State.hubId_keeps {s : State} (h : s.keeps m q) : ∀ a1, (@State.hubId s a1).2.keeps m q := by
  intro a1
  unfold State.hubId
  try dsimp only
  repeat' first
    | (with_reducible first | assumption | intro _ | apply State.modHub_keeps | apply ite_keeps | apply foldl_keeps)
    | (with_reducible first | apply ite_fst_keeps | refine fst_keeps (by assumption) ?_ | refine snd_keeps (by assumption) ?_)
    | split
    | dsimp only
    | with_reducible apply keeps_upd

theorem State.onLink_keeps {s : State} (h : s.keeps m q) : ∀ a1, (@State.onLink s a1).keeps m q := by
  intro a1
  unfold State.onLink
  try dsimp only
  repeat' first
    | (with_reducible first | assumption | intro _ | apply State.modNi_keeps | apply ite_keeps | apply foldl_keeps)
    | split
    | dsimp only
    | with_reducible apply keeps_upd

theorem State.memErr_keeps {s : State} (h : s.keeps m q) : ∀ a1 a2 a3 a4, (@State.memErr s a1 a2 a3 a4).keeps m q := by
  intro a1 a2 a3 a4
  unfold State.memErr
  try dsimp only
  repeat' first
    | (with_reducible first | assumption | intro _ | apply State.set_keeps | apply ite_keeps | apply foldl_keeps)
    | split
    | dsimp only
    | with_reducible apply keeps_upd

theorem State.hubLost_keeps {s : State} (h : s.keeps m q) : ∀ a1 a2, (@State.hubLost s a1 a2).keeps m q := by
  intro a1 a2
  unfold State.hubLost
  try dsimp only
  repeat' first
    | (with_reducible first | assumption | intro _ | apply State.served_keeps | apply State.replyData_keeps)
    | (with_reducible first | apply State.replyAck_keeps | apply State.freeLine_keeps | apply ite_keeps | apply foldl_keeps)
    | (with_reducible first | apply ite_fst_keeps | refine fst_keeps (by assumption) ?_ | refine snd_keeps (by assumption) ?_)
    | split
    | dsimp only
    | with_reducible apply keeps_upd

theorem State.m2sLost_keeps {s : State} (h : s.keeps m q) : ∀ a1 a2, (@State.m2sLost s a1 a2).keeps m q := by
  intro a1 a2
  unfold State.m2sLost
  try dsimp only
  repeat' first
    | (with_reducible first | assumption | intro _ | apply State.replyData_keeps | apply State.served_keeps)
    | (with_reducible first | apply State.hubLost_keeps | apply ite_keeps | apply foldl_keeps)
    | split
    | dsimp only
    | with_reducible apply keeps_upd

theorem State.extHas_keeps {s : State} (h : s.keeps m q) : ∀ a1 a2 a3, (@State.extHas s a1 a2 a3).1.keeps m q := by
  intro a1 a2 a3
  unfold State.extHas
  try dsimp only
  repeat' first
    | (with_reducible first | assumption | intro _ | apply State.modHub_keeps | apply ite_keeps | apply foldl_keeps)
    | (with_reducible first | apply ite_fst_keeps | refine fst_keeps (by assumption) ?_ | refine snd_keeps (by assumption) ?_)
    | split
    | dsimp only
    | with_reducible apply keeps_upd

theorem State.extCommit_keeps {s : State} (h : s.keeps m q) : ∀ a1, (@State.extCommit s a1).keeps m q := by
  intro a1
  unfold State.extCommit
  try dsimp only
  repeat' first
    | (with_reducible first | assumption | intro _ | apply State.modHub_keeps | apply State.set_keeps | apply ite_keeps)
    | (with_reducible first | apply foldl_keeps)
    | split
    | dsimp only
    | with_reducible apply keeps_upd

theorem State.extSwitched_keeps {s : State} (h : s.keeps m q) : ∀ a1, (@State.extSwitched s a1).keeps m q := by
  intro a1
  unfold State.extSwitched
  try dsimp only
  repeat' first
    | (with_reducible first | assumption | intro _ | apply State.set_keeps | apply State.modHub_keeps | apply ite_keeps)
    | (with_reducible first | apply foldl_keeps)
    | split
    | dsimp only
    | with_reducible apply keeps_upd

theorem State.hubMem_keeps {s : State} (h : s.keeps m q) : ∀ a1 a2, (@State.hubMem s a1 a2).keeps m q := by
  intro a1 a2
  unfold State.hubMem
  try dsimp only
  repeat' first
    | (with_reducible first | assumption | intro _ | apply State.replyAck_keeps | apply State.served_keeps)
    | (with_reducible first | apply State.memErr_keeps | apply State.classErr_keeps | apply State.hubLost_keeps)
    | (with_reducible first | apply State.tx_keeps | apply State.hubEvent_keeps | apply State.onLink_keeps)
    | (with_reducible first | apply State.modHub_keeps | apply State.extHas_keeps | apply State.hubId_keeps | apply ite_keeps)
    | (with_reducible first | apply foldl_keeps | apply ite_fst_keeps | refine fst_keeps (by assumption) ?_)
    | (with_reducible first | refine snd_keeps (by assumption) ?_)
    | split
    | dsimp only
    | with_reducible apply keeps_upd

theorem State.bisnpGo_keeps {s : State} (h : s.keeps m q) : ∀ a1 a2 a3 a4, (@State.bisnpGo s a1 a2 a3 a4).keeps m q := by
  intro a1 a2 a3 a4
  unfold State.bisnpGo
  try dsimp only
  repeat' first
    | (with_reducible first | assumption | intro _ | apply State.tx_keeps | apply State.send_keeps | apply State.modHub_keeps)
    | (with_reducible first | apply State.hubId_keeps | apply ite_keeps | apply foldl_keeps | apply ite_fst_keeps)
    | (with_reducible first | refine fst_keeps (by assumption) ?_ | refine snd_keeps (by assumption) ?_)
    | split
    | dsimp only
    | with_reducible apply keeps_upd

theorem State.m2sFree_keeps {s : State} (h : s.keeps m q) : ∀ a1 a2, (@State.m2sFree s a1 a2).keeps m q := by
  intro a1 a2
  unfold State.m2sFree
  try dsimp only
  repeat' first
    | (with_reducible first | assumption | intro _ | apply State.modHub_keeps | apply State.bisnpGo_keeps | apply ite_keeps)
    | (with_reducible first | apply foldl_keeps)
    | split
    | dsimp only
    | with_reducible apply keeps_upd

theorem State.s2m_keeps {s : State} (h : s.keeps m q) : ∀ a1 a2 a3, (@State.s2m s a1 a2 a3).keeps m q := by
  intro a1 a2 a3
  unfold State.s2m
  try dsimp only
  repeat' first
    | (with_reducible first | assumption | intro _ | apply State.satInc_keeps | apply State.hubEvent_keeps)
    | (with_reducible first | apply State.memErr_keeps | apply State.m2sFree_keeps | apply State.replyData_keeps)
    | (with_reducible first | apply State.served_keeps | apply State.replyAck_keeps | apply State.tx_keeps)
    | (with_reducible first | apply State.modHub_keeps | apply State.freeLine_keeps | apply ite_keeps | apply foldl_keeps)
    | (with_reducible first | apply ite_fst_keeps | refine fst_keeps (by assumption) ?_ | refine snd_keeps (by assumption) ?_)
    | split
    | dsimp only
    | with_reducible apply keeps_upd

theorem State.m2sTimeout_keeps {s : State} (h : s.keeps m q) : ∀ a1 a2, (@State.m2sTimeout s a1 a2).keeps m q := by
  intro a1 a2
  unfold State.m2sTimeout
  try dsimp only
  repeat' first
    | (with_reducible first | assumption | intro _ | apply State.m2sFree_keeps | apply State.memErr_keeps)
    | (with_reducible first | apply State.m2sLost_keeps | apply ite_keeps | apply foldl_keeps)
    | split
    | dsimp only
    | with_reducible apply keeps_upd

theorem State.bisnpRecv_keeps {s : State} (h : s.keeps m q) : ∀ a1 a2 a3 a4, (@State.bisnpRecv s a1 a2 a3 a4).keeps m q := by
  intro a1 a2 a3 a4
  unfold State.bisnpRecv
  try dsimp only
  repeat' first
    | (with_reducible first | assumption | intro _ | apply State.notTaken_keeps | apply State.hubEvent_keeps)
    | (with_reducible first | apply State.modHub_keeps | apply State.tx_keeps | apply State.bisnpGo_keeps | apply ite_keeps)
    | (with_reducible first | apply foldl_keeps)
    | split
    | dsimp only
    | with_reducible apply keeps_upd

theorem State.biAck_keeps {s : State} (h : s.keeps m q) : ∀ a1 a2, (@State.biAck s a1 a2).keeps m q := by
  intro a1 a2
  unfold State.biAck
  try dsimp only
  repeat' first
    | (with_reducible first | assumption | intro _ | apply State.modHub_keeps | apply State.tx_keeps | apply ite_keeps)
    | (with_reducible first | apply foldl_keeps)
    | split
    | dsimp only
    | with_reducible apply keeps_upd

theorem State.bisnpRsp_keeps {s : State} (h : s.keeps m q) : ∀ a1 a2 a3, (@State.bisnpRsp s a1 a2 a3).keeps m q := by
  intro a1 a2 a3
  unfold State.bisnpRsp
  try dsimp only
  repeat' first
    | (with_reducible first | assumption | intro _ | apply State.tx_keeps | apply State.modHub_keeps | apply ite_keeps)
    | (with_reducible first | apply foldl_keeps)
    | split
    | dsimp only
    | with_reducible apply keeps_upd

theorem State.hubSnoop_keeps {s : State} (h : s.keeps m q) : ∀ a1 a2, (@State.hubSnoop s a1 a2).keeps m q := by
  intro a1 a2
  unfold State.hubSnoop
  try dsimp only
  repeat' first
    | (with_reducible first | assumption | intro _ | apply State.replyAck_keeps | apply State.served_keeps | apply State.tx_keeps)
    | (with_reducible first | apply State.modHub_keeps | apply State.hubId_keeps | apply ite_keeps | apply foldl_keeps)
    | (with_reducible first | apply ite_fst_keeps | refine fst_keeps (by assumption) ?_ | refine snd_keeps (by assumption) ?_)
    | split
    | dsimp only
    | with_reducible apply keeps_upd

theorem State.h2dAnswer_keeps {s : State} (h : s.keeps m q) : ∀ a1 a2 a3, (@State.h2dAnswer s a1 a2 a3).keeps m q := by
  intro a1 a2 a3
  unfold State.h2dAnswer
  try dsimp only
  repeat' first
    | (with_reducible first | assumption | intro _ | apply State.served_keeps | apply State.modHub_keeps)
    | (with_reducible first | apply State.niOffer_keeps | apply ite_keeps | apply foldl_keeps)
    | split
    | dsimp only
    | with_reducible apply keeps_upd

theorem State.h2dTimeout_keeps {s : State} (h : s.keeps m q) : ∀ a1 a2, (@State.h2dTimeout s a1 a2).keeps m q := by
  intro a1 a2
  unfold State.h2dTimeout
  try dsimp only
  repeat' first
    | (with_reducible first | assumption | intro _ | apply State.served_keeps | apply State.modHub_keeps)
    | (with_reducible first | apply State.replyAck_keeps | apply State.poisonHome_keeps | apply State.set_keeps)
    | (with_reducible first | apply State.memErr_keeps | apply ite_keeps | apply foldl_keeps)
    | split
    | dsimp only
    | with_reducible apply keeps_upd

theorem State.d2hRefuse_keeps {s : State} (h : s.keeps m q) : ∀ a1 a2 a3 a4 a5, (@State.d2hRefuse s a1 a2 a3 a4 a5).keeps m q := by
  intro a1 a2 a3 a4 a5
  unfold State.d2hRefuse
  try dsimp only
  repeat' first
    | (with_reducible first | assumption | intro _ | apply State.memErr_keeps | apply State.tx_keeps | apply State.freeLine_keeps)
    | (with_reducible first | apply ite_keeps | apply foldl_keeps | apply ite_fst_keeps | refine fst_keeps (by assumption) ?_)
    | (with_reducible first | refine snd_keeps (by assumption) ?_)
    | split
    | dsimp only
    | with_reducible apply keeps_upd

theorem State.d2h_keeps {s : State} (h : s.keeps m q) : ∀ a1 a2 a3, (@State.d2h s a1 a2 a3).keeps m q := by
  intro a1 a2 a3
  unfold State.d2h
  try dsimp only
  repeat' first
    | (with_reducible first | assumption | intro _ | apply State.notTaken_keeps | apply State.d2hRefuse_keeps)
    | (with_reducible first | apply State.send_keeps | apply State.modHub_keeps | apply State.hubId_keeps | apply ite_keeps)
    | (with_reducible first | apply foldl_keeps | apply ite_fst_keeps | refine fst_keeps (by assumption) ?_)
    | (with_reducible first | refine snd_keeps (by assumption) ?_)
    | split
    | dsimp only
    | with_reducible apply keeps_upd

theorem State.d2hRsp_keeps {s : State} (h : s.keeps m q) : ∀ a1 a2 a3 a4 a5, (@State.d2hRsp s a1 a2 a3 a4 a5).keeps m q := by
  intro a1 a2 a3 a4 a5
  unfold State.d2hRsp
  try dsimp only
  repeat' first
    | (with_reducible first | assumption | intro _ | apply State.modHub_keeps | apply State.d2hRefuse_keeps)
    | (with_reducible first | apply State.tx_keeps | apply ite_keeps | apply foldl_keeps)
    | split
    | dsimp only
    | with_reducible apply keeps_upd

theorem State.cxlDown_keeps {s : State} (h : s.keeps m q) : ∀ a1 a2 a3, (@State.cxlDown s a1 a2 a3).keeps m q := by
  intro a1 a2 a3
  unfold State.cxlDown
  try dsimp only
  repeat' first
    | (with_reducible first | assumption | intro _ | apply State.modHub_keeps | apply State.m2sLost_keeps)
    | (with_reducible first | apply State.classErr_keeps | apply State.memErr_keeps | apply ite_keeps | apply foldl_keeps)
    | split
    | dsimp only
    | with_reducible apply keeps_upd

theorem State.cachememFail_keeps {s : State} (h : s.keeps m q) : ∀ a1 a2, (@State.cachememFail s a1 a2).keeps m q := by
  intro a1 a2
  unfold State.cachememFail
  try dsimp only
  repeat' first
    | (with_reducible first | assumption | intro _ | apply State.set_keeps | apply State.sensorFire_keeps)
    | (with_reducible first | apply State.cxlDown_keeps | apply ite_keeps | apply foldl_keeps)
    | split
    | dsimp only
    | with_reducible apply keeps_upd

theorem State.hdmPost_keeps {s : State} (h : s.keeps m q) {s1 : State} (h1 : s1.keeps m q) : ∀ a2 a3, (@State.hdmPost s s1 a2 a3).keeps m q := by
  intro a2 a3
  unfold State.hdmPost
  try dsimp only
  repeat' first
    | (with_reducible first | assumption | intro _ | apply State.tblCopy_keeps | apply State.set_keeps | apply State.modHub_keeps)
    | (with_reducible first | apply ite_keeps | apply foldl_keeps)
    | split
    | dsimp only
    | with_reducible apply keeps_upd

end Sys2Proof.Machine
end

