-- ==== Sys2Proof/Laws/KeepPorts.lean ====
section
/-! SUPPORT. Every operation of Machine/Ports.lean keeps the byte memories canonical and the queue as it stands. -/

namespace Sys2Proof.Machine

variable {m : Prop} {q : List Instr}

theorem State.portErr_keeps {s : State} (h : s.keeps m q) : ∀ a1 a2 a3 a4 a5, (@State.portErr s a1 a2 a3 a4 a5).keeps m q := by
  intro a1 a2 a3 a4 a5
  unfold State.portErr
  try dsimp only
  repeat' first
    | (with_reducible first | assumption | intro _ | apply State.set_keeps | apply ite_keeps | apply foldl_keeps)
    | split
    | dsimp only
    | with_reducible apply keeps_upd

theorem State.outBad_keeps {s : State} (h : s.keeps m q) : ∀ a1 a2 a3 a4, (@State.outBad s a1 a2 a3 a4).keeps m q := by
  intro a1 a2 a3 a4
  unfold State.outBad
  try dsimp only
  repeat' first
    | (with_reducible first | assumption | intro _ | apply State.served_keeps | apply State.portErr_keeps)
    | (with_reducible first | apply State.replyData_keeps | apply State.replyAck_keeps | apply ite_keeps | apply foldl_keeps)
    | split
    | dsimp only
    | with_reducible apply keeps_upd

theorem State.hubMmio_keeps {s : State} (h : s.keeps m q) : ∀ a1 a2, (@State.hubMmio s a1 a2).keeps m q := by
  intro a1 a2
  unfold State.hubMmio
  try dsimp only
  repeat' first
    | (with_reducible first | assumption | intro _ | apply State.replyAck_keeps | apply State.served_keeps)
    | (with_reducible first | apply State.outBad_keeps | apply State.onLink_keeps | apply State.modHub_keeps)
    | (with_reducible first | apply State.tx_keeps | apply State.hubId_keeps | apply ite_keeps | apply foldl_keeps)
    | (with_reducible first | apply ite_fst_keeps | refine fst_keeps (by assumption) ?_ | refine snd_keeps (by assumption) ?_)
    | split
    | dsimp only
    | with_reducible apply keeps_upd

theorem State.dmaDone_keeps {s : State} (h : s.keeps m q) : ∀ a1 a2 a3, (@State.dmaDone s a1 a2 a3).keeps m q := by
  intro a1 a2 a3
  unfold State.dmaDone
  try dsimp only
  repeat' first
    | (with_reducible first | assumption | intro _ | apply ite_keeps | apply foldl_keeps)
    | split
    | dsimp only
    | with_reducible apply keeps_upd

theorem State.dmaEnd_keeps {s : State} (h : s.keeps m q) : ∀ a1, (@State.dmaEnd s a1).keeps m q := by
  intro a1
  unfold State.dmaEnd
  try dsimp only
  repeat' first
    | (with_reducible first | assumption | intro _ | apply ite_keeps | apply foldl_keeps)
    | split
    | dsimp only
    | with_reducible apply keeps_upd

theorem State.tlpTake_keeps {s : State} (h : s.keeps m q) : ∀ a1 a2 a3 a4, (@State.tlpTake s a1 a2 a3 a4).keeps m q := by
  intro a1 a2 a3 a4
  unfold State.tlpTake
  try dsimp only
  repeat' first
    | (with_reducible first | assumption | intro _ | apply State.dmaDone_keeps | apply State.tx_keeps | apply State.modHub_keeps)
    | (with_reducible first | apply State.portErr_keeps | apply State.served_keeps | apply State.replyAck_keeps)
    | (with_reducible first | apply State.replyData_keeps | apply State.outBad_keeps | apply ite_keeps | apply foldl_keeps)
    | split
    | dsimp only
    | with_reducible apply keeps_upd

theorem State.tlpDone_keeps {s : State} (h : s.keeps m q) : ∀ a1 a2 a3 a4, (@State.tlpDone s a1 a2 a3 a4).keeps m q := by
  intro a1 a2 a3 a4
  unfold State.tlpDone
  try dsimp only
  repeat' first
    | (with_reducible first | assumption | intro _ | apply State.tlpTake_keeps | apply State.modHub_keeps | apply ite_keeps)
    | (with_reducible first | apply foldl_keeps)
    | split
    | dsimp only
    | with_reducible apply keeps_upd

theorem State.cplPump_keeps {s : State} (h : s.keeps m q) : ∀ a1, (@State.cplPump s a1).keeps m q := by
  intro a1
  unfold State.cplPump
  try dsimp only
  repeat' first
    | (with_reducible first | assumption | intro _ | apply State.tlpTake_keeps | apply State.modHub_keeps | apply ite_keeps)
    | (with_reducible first | apply foldl_keeps)
    | split
    | dsimp only
    | with_reducible apply keeps_upd

theorem State.outTimeout_keeps {s : State} (h : s.keeps m q) : ∀ a1 a2 a3, (@State.outTimeout s a1 a2 a3).keeps m q := by
  intro a1 a2 a3
  unfold State.outTimeout
  try dsimp only
  repeat' first
    | (with_reducible first | assumption | intro _ | apply State.dmaDone_keeps | apply State.outBad_keeps)
    | (with_reducible first | apply State.modHub_keeps | apply ite_keeps | apply foldl_keeps)
    | split
    | dsimp only
    | with_reducible apply keeps_upd

theorem State.inbRefuse_keeps {s : State} (h : s.keeps m q) : ∀ a1 a2 a3 a4, (@State.inbRefuse s a1 a2 a3 a4).keeps m q := by
  intro a1 a2 a3 a4
  unfold State.inbRefuse
  try dsimp only
  repeat' first
    | (with_reducible first | assumption | intro _ | apply State.hubEvent_keeps | apply State.portErr_keeps)
    | (with_reducible first | apply State.tx_keeps | apply ite_keeps | apply foldl_keeps)
    | split
    | dsimp only
    | with_reducible apply keeps_upd

theorem State.inPump_keeps {s : State} (h : s.keeps m q) : ∀ a1, (@State.inPump s a1).keeps m q := by
  intro a1
  unfold State.inPump
  try dsimp only
  repeat' first
    | (with_reducible first | assumption | intro _ | apply State.modHub_keeps | apply State.send_keeps | apply ite_keeps)
    | (with_reducible first | apply foldl_keeps)
    | split
    | dsimp only
    | with_reducible apply keeps_upd

theorem State.inTake_keeps {s : State} (h : s.keeps m q) : ∀ a1 a2 a3 a4 a5 a6, (@State.inTake s a1 a2 a3 a4 a5 a6).keeps m q := by
  intro a1 a2 a3 a4 a5 a6
  unfold State.inTake
  try dsimp only
  repeat' first
    | (with_reducible first | assumption | intro _ | apply State.inPump_keeps | apply State.modHub_keeps)
    | (with_reducible first | apply State.hubId_keeps | apply ite_keeps | apply foldl_keeps | apply ite_fst_keeps)
    | (with_reducible first | refine fst_keeps (by assumption) ?_ | refine snd_keeps (by assumption) ?_)
    | split
    | dsimp only
    | with_reducible apply keeps_upd

theorem State.inAnswer_keeps {s : State} (h : s.keeps m q) : ∀ a1 a2 a3, (@State.inAnswer s a1 a2 a3).keeps m q := by
  intro a1 a2 a3
  unfold State.inAnswer
  try dsimp only
  repeat' first
    | (with_reducible first | assumption | intro _ | apply State.hubEvent_keeps | apply State.portErr_keeps)
    | (with_reducible first | apply State.tx_keeps | apply ite_keeps | apply foldl_keeps)
    | split
    | dsimp only
    | with_reducible apply keeps_upd

theorem State.msiDrop_keeps {s : State} (h : s.keeps m q) : ∀ a1 a2 a3 a4, (@State.msiDrop s a1 a2 a3 a4).keeps m q := by
  intro a1 a2 a3 a4
  unfold State.msiDrop
  try dsimp only
  repeat' first
    | (with_reducible first | assumption | intro _ | apply State.portErr_keeps | apply ite_keeps | apply foldl_keeps)
    | split
    | dsimp only
    | with_reducible apply keeps_upd

theorem State.msiPump_keeps {s : State} (h : s.keeps m q) : ∀ a1, (@State.msiPump s a1).keeps m q := by
  intro a1
  unfold State.msiPump
  try dsimp only
  repeat' first
    | (with_reducible first | assumption | intro _ | apply State.modHub_keeps | apply State.send_keeps | apply ite_keeps)
    | (with_reducible first | apply foldl_keeps)
    | split
    | dsimp only
    | with_reducible apply keeps_upd

theorem State.msiQueue_keeps {s : State} (h : s.keeps m q) : ∀ a1 a2 a3 a4, (@State.msiQueue s a1 a2 a3 a4).keeps m q := by
  intro a1 a2 a3 a4
  unfold State.msiQueue
  try dsimp only
  repeat' first
    | (with_reducible first | assumption | intro _ | apply State.msiPump_keeps | apply State.modHub_keeps)
    | (with_reducible first | apply State.hubId_keeps | apply ite_keeps | apply foldl_keeps | apply ite_fst_keeps)
    | (with_reducible first | refine fst_keeps (by assumption) ?_ | refine snd_keeps (by assumption) ?_)
    | split
    | dsimp only
    | with_reducible apply keeps_upd

theorem State.msi_keeps {s : State} (h : s.keeps m q) : ∀ a1 a2 a3 a4 a5, (@State.msi s a1 a2 a3 a4 a5).keeps m q := by
  intro a1 a2 a3 a4 a5
  unfold State.msi
  try dsimp only
  repeat' first
    | (with_reducible first | assumption | intro _ | apply State.notTaken_keeps | apply State.hubEvent_keeps)
    | (with_reducible first | apply State.portErr_keeps | apply State.msiDrop_keeps | apply State.set_keeps)
    | (with_reducible first | apply State.msiQueue_keeps | apply ite_keeps | apply foldl_keeps)
    | split
    | dsimp only
    | with_reducible apply keeps_upd

theorem State.irtUnmask_keeps {s : State} (h : s.keeps m q) {s1 : State} (h1 : s1.keeps m q) : ∀ a2 a3 a4, (@State.irtUnmask s s1 a2 a3 a4).keeps m q := by
  intro a2 a3 a4
  unfold State.irtUnmask
  try dsimp only
  repeat' first
    | (with_reducible first | assumption | intro _ | apply State.set_keeps | apply State.msiQueue_keeps)
    | (with_reducible first | apply State.msiDrop_keeps | apply ite_keeps | apply foldl_keeps)
    | split
    | dsimp only
    | with_reducible apply keeps_upd

theorem State.msiRsp_keeps {s : State} (h : s.keeps m q) : ∀ a1 a2 a3, (@State.msiRsp s a1 a2 a3).keeps m q := by
  intro a1 a2 a3
  unfold State.msiRsp
  try dsimp only
  repeat' first
    | (with_reducible first | assumption | intro _ | apply State.modHub_keeps | apply State.msiDrop_keeps | apply ite_keeps)
    | (with_reducible first | apply foldl_keeps)
    | split
    | dsimp only
    | with_reducible apply keeps_upd

theorem State.msiRetry_keeps {s : State} (h : s.keeps m q) : ∀ a1 a2 a3, (@State.msiRetry s a1 a2 a3).keeps m q := by
  intro a1 a2 a3
  unfold State.msiRetry
  try dsimp only
  repeat' first
    | (with_reducible first | assumption | intro _ | apply State.modHub_keeps | apply State.send_keeps | apply ite_keeps)
    | (with_reducible first | apply foldl_keeps)
    | split
    | dsimp only
    | with_reducible apply keeps_upd

theorem State.inEnd_keeps {s : State} (h : s.keeps m q) : ∀ a1 a2, (@State.inEnd s a1 a2).keeps m q := by
  intro a1 a2
  unfold State.inEnd
  try dsimp only
  repeat' first
    | (with_reducible first | assumption | intro _ | apply State.modHub_keeps | apply State.cplPump_keeps)
    | (with_reducible first | apply State.msiPump_keeps | apply State.inPump_keeps | apply State.inAnswer_keeps | apply ite_keeps)
    | (with_reducible first | apply foldl_keeps)
    | split
    | dsimp only
    | with_reducible apply keeps_upd

theorem State.inRsp_keeps {s : State} (h : s.keeps m q) : ∀ a1 a2 a3 a4 a5 a6, (@State.inRsp s a1 a2 a3 a4 a5 a6).keeps m q := by
  intro a1 a2 a3 a4 a5 a6
  unfold State.inRsp
  try dsimp only
  repeat' first
    | (with_reducible first | assumption | intro _ | apply State.modHub_keeps | apply State.inEnd_keeps | apply ite_keeps)
    | (with_reducible first | apply foldl_keeps)
    | split
    | dsimp only
    | with_reducible apply keeps_upd

theorem State.inbound_keeps {s : State} (h : s.keeps m q) : ∀ a1 a2 a3, (@State.inbound s a1 a2 a3).keeps m q := by
  intro a1 a2 a3
  unfold State.inbound
  try dsimp only
  repeat' first
    | (with_reducible first | assumption | intro _ | apply State.notTaken_keeps | apply State.hubEvent_keeps)
    | (with_reducible first | apply State.inbRefuse_keeps | apply State.msi_keeps | apply State.inTake_keeps | apply ite_keeps)
    | (with_reducible first | apply foldl_keeps)
    | split
    | dsimp only
    | with_reducible apply keeps_upd

theorem State.setSlot_keeps {s : State} (h : s.keeps m q) : ∀ a1 a2 a3, (@State.setSlot s a1 a2 a3).keeps m q := by
  intro a1 a2 a3
  unfold State.setSlot
  try dsimp only
  repeat' first
    | (with_reducible first | assumption | intro _ | apply State.modHub_keeps | apply ite_keeps | apply foldl_keeps)
    | split
    | dsimp only
    | with_reducible apply keeps_upd

theorem State.slotBit_keeps {s : State} (h : s.keeps m q) : ∀ a1 a2 a3, (@State.slotBit s a1 a2 a3).keeps m q := by
  intro a1 a2 a3
  unfold State.slotBit
  try dsimp only
  repeat' first
    | (with_reducible first | assumption | intro _ | apply State.setSlot_keeps | apply State.pageEvent_keeps | apply ite_keeps)
    | (with_reducible first | apply foldl_keeps)
    | split
    | dsimp only
    | with_reducible apply keeps_upd

theorem State.slotFrame_keeps {s : State} (h : s.keeps m q) : ∀ a1 a2 a3, (@State.slotFrame s a1 a2 a3).keeps m q := by
  intro a1 a2 a3
  unfold State.slotFrame
  try dsimp only
  repeat' first
    | (with_reducible first | assumption | intro _ | apply State.slotBit_keeps | apply State.setSlot_keeps | apply ite_keeps)
    | (with_reducible first | apply foldl_keeps)
    | split
    | dsimp only
    | with_reducible apply keeps_upd

theorem State.sscFrame_keeps {s : State} (h : s.keeps m q) : ∀ a1 a2, (@State.sscFrame s a1 a2).keeps m q := by
  intro a1 a2
  unfold State.sscFrame
  try dsimp only
  repeat' first
    | (with_reducible first | assumption | intro _ | apply State.slotFrame_keeps | apply State.inc_keeps)
    | (with_reducible first | apply State.modHub_keeps | apply ite_keeps | apply foldl_keeps)
    | split
    | dsimp only
    | with_reducible apply keeps_upd

theorem State.slotControl_keeps {s : State} (h : s.keeps m q) : ∀ a1 a2 a3, (@State.slotControl s a1 a2 a3).keeps m q := by
  intro a1 a2 a3
  unfold State.slotControl
  try dsimp only
  repeat' first
    | (with_reducible first | assumption | intro _ | apply State.setSlot_keeps | apply ite_keeps | apply foldl_keeps)
    | split
    | dsimp only
    | with_reducible apply keeps_upd

theorem State.pgoodTimeout_keeps {s : State} (h : s.keeps m q) : ∀ a1 a2, (@State.pgoodTimeout s a1 a2).keeps m q := by
  intro a1 a2
  unfold State.pgoodTimeout
  try dsimp only
  repeat' first
    | (with_reducible first | assumption | intro _ | apply State.slotBit_keeps | apply State.setSlot_keeps | apply ite_keeps)
    | (with_reducible first | apply foldl_keeps)
    | split
    | dsimp only
    | with_reducible apply keeps_upd

theorem State.slotPerst_keeps {s : State} (h : s.keeps m q) : ∀ a1 a2, (@State.slotPerst s a1 a2).keeps m q := by
  intro a1 a2
  unfold State.slotPerst
  try dsimp only
  repeat' first
    | (with_reducible first | assumption | intro _ | apply State.setSlot_keeps | apply ite_keeps | apply foldl_keeps)
    | split
    | dsimp only
    | with_reducible apply keeps_upd

theorem State.slotOff_keeps {s : State} (h : s.keeps m q) : ∀ a1 a2, (@State.slotOff s a1 a2).keeps m q := by
  intro a1 a2
  unfold State.slotOff
  try dsimp only
  repeat' first
    | (with_reducible first | assumption | intro _ | apply State.setSlot_keeps | apply ite_keeps | apply foldl_keeps)
    | split
    | dsimp only
    | with_reducible apply keeps_upd

theorem State.linkDrop_keeps {s : State} (h : s.keeps m q) : ∀ a1 a2, (@State.linkDrop s a1 a2).keeps m q := by
  intro a1 a2
  unfold State.linkDrop
  try dsimp only
  repeat' first
    | (with_reducible first | assumption | intro _ | apply State.set_keeps | apply State.modHub_keeps | apply State.outBad_keeps)
    | (with_reducible first | apply State.dmaEnd_keeps | apply State.slotBit_keeps | apply ite_keeps | apply foldl_keeps)
    | split
    | dsimp only
    | with_reducible apply keeps_upd

theorem State.portDown_keeps {s : State} (h : s.keeps m q) : ∀ a1 a2 a3, (@State.portDown s a1 a2 a3).keeps m q := by
  intro a1 a2 a3
  unfold State.portDown
  try dsimp only
  repeat' first
    | (with_reducible first | assumption | intro _ | apply State.linkDrop_keeps | apply State.cxlDown_keeps | apply ite_keeps)
    | (with_reducible first | apply foldl_keeps)
    | split
    | dsimp only
    | with_reducible apply keeps_upd

theorem State.linkTrain_keeps {s : State} (h : s.keeps m q) : ∀ a1 a2 a3 a4 a5, (@State.linkTrain s a1 a2 a3 a4 a5).keeps m q := by
  intro a1 a2 a3 a4 a5
  unfold State.linkTrain
  try dsimp only
  repeat' first
    | (with_reducible first | assumption | intro _ | apply State.set_keeps | apply State.slotBit_keeps | apply ite_keeps)
    | (with_reducible first | apply foldl_keeps)
    | split
    | dsimp only
    | with_reducible apply keeps_upd

theorem State.linkIdeFail_keeps {s : State} (h : s.keeps m q) : ∀ a1 a2, (@State.linkIdeFail s a1 a2).keeps m q := by
  intro a1 a2
  unfold State.linkIdeFail
  try dsimp only
  repeat' first
    | (with_reducible first | assumption | intro _ | apply State.set_keeps | apply State.sensorFire_keeps)
    | (with_reducible first | apply State.portDown_keeps | apply ite_keeps | apply foldl_keeps)
    | split
    | dsimp only
    | with_reducible apply keeps_upd

theorem State.laneSpare_keeps {s : State} (h : s.keeps m q) : ∀ a1 a2 a3, (@State.laneSpare s a1 a2 a3).keeps m q := by
  intro a1 a2 a3
  unfold State.laneSpare
  try dsimp only
  repeat' first
    | (with_reducible first | assumption | intro _ | apply State.rasRecord_keeps | apply State.set_keeps | apply ite_keeps)
    | (with_reducible first | apply foldl_keeps)
    | split
    | dsimp only
    | with_reducible apply keeps_upd

end Sys2Proof.Machine
end

