-- ==== Sys2Proof/Laws/KeepEp.lean ====
section
/-! SUPPORT. Every operation of Machine/Ep.lean keeps the byte memories canonical and the queue as it stands. -/

namespace Sys2Proof.Machine

variable {m : Prop} {q : List Instr}

theorem State.modEp_keeps {s : State} (h : s.keeps m q) : ∀ a1 a2, (@State.modEp s a1 a2).keeps m q := by
  intro a1 a2
  unfold State.modEp
  try dsimp only
  repeat' first
    | (with_reducible first | assumption | intro _ | apply State.modHub_keeps | apply ite_keeps | apply foldl_keeps)
    | split
    | dsimp only
    | with_reducible apply keeps_upd

theorem State.epRing_keeps {s : State} (h : s.keeps m q) : ∀ a1 a2 a3, (@State.epRing s a1 a2 a3).keeps m q := by
  intro a1 a2 a3
  unfold State.epRing
  try dsimp only
  repeat' first
    | (with_reducible first | assumption | intro _ | apply State.set_keeps | apply State.modEp_keeps | apply ite_keeps)
    | (with_reducible first | apply foldl_keeps)
    | split
    | dsimp only
    | with_reducible apply keeps_upd

theorem State.epResult_keeps {s : State} (h : s.keeps m q) : ∀ a1 a2 a3, (@State.epResult s a1 a2 a3).keeps m q := by
  intro a1 a2 a3
  unfold State.epResult
  try dsimp only
  repeat' first
    | (with_reducible first | assumption | intro _ | apply State.msix_keeps | apply State.modEp_keeps | apply State.set_keeps)
    | (with_reducible first | apply ite_keeps | apply foldl_keeps)
    | split
    | dsimp only
    | with_reducible apply keeps_upd

theorem State.epMbxTick_keeps {s : State} (h : s.keeps m q) : ∀ a1, (@State.epMbxTick s a1).keeps m q := by
  intro a1
  unfold State.epMbxTick
  try dsimp only
  repeat' first
    | (with_reducible first | assumption | intro _ | apply State.modEp_keeps | apply State.msix_keeps | apply State.set_keeps)
    | (with_reducible first | apply ite_keeps | apply foldl_keeps)
    | split
    | dsimp only
    | with_reducible apply keeps_upd

theorem State.conIn_keeps {s : State} (h : s.keeps m q) : ∀ a1 a2, (@State.conIn s a1 a2).keeps m q := by
  intro a1 a2
  unfold State.conIn
  try dsimp only
  repeat' first
    | (with_reducible first | assumption | intro _ | apply State.set_keeps | apply ite_keeps | apply foldl_keeps)
    | split
    | dsimp only
    | with_reducible apply keeps_upd

theorem State.conInRead_keeps {s : State} (h : s.keeps m q) : ∀ a1, (@State.conInRead s a1).keeps m q := by
  intro a1
  unfold State.conInRead
  try dsimp only
  repeat' first
    | (with_reducible first | assumption | intro _ | apply State.msix_keeps | apply State.set_keeps | apply ite_keeps)
    | (with_reducible first | apply foldl_keeps)
    | split
    | dsimp only
    | with_reducible apply keeps_upd

theorem State.conOutWrite_keeps {s : State} (h : s.keeps m q) : ∀ a1 a2, (@State.conOutWrite s a1 a2).keeps m q := by
  intro a1 a2
  unfold State.conOutWrite
  try dsimp only
  repeat' first
    | (with_reducible first | assumption | intro _ | apply State.msix_keeps | apply State.modEp_keeps | apply ite_keeps)
    | (with_reducible first | apply foldl_keeps)
    | split
    | dsimp only
    | with_reducible apply keeps_upd

theorem State.conOutRead_keeps {s : State} (h : s.keeps m q) : ∀ a1, (@State.conOutRead s a1).keeps m q := by
  intro a1
  unfold State.conOutRead
  try dsimp only
  repeat' first
    | (with_reducible first | assumption | intro _ | apply State.answer_keeps | apply State.modEp_keeps | apply ite_keeps)
    | (with_reducible first | apply foldl_keeps)
    | split
    | dsimp only
    | with_reducible apply keeps_upd

theorem State.pf1Evt_keeps {s : State} (h : s.keeps m q) : ∀ a1 a2, (@State.pf1Evt s a1 a2).keeps m q := by
  intro a1 a2
  unfold State.pf1Evt
  try dsimp only
  repeat' first
    | (with_reducible first | assumption | intro _ | apply State.msix_keeps | apply State.modEp_keeps | apply ite_keeps)
    | (with_reducible first | apply foldl_keeps)
    | split
    | dsimp only
    | with_reducible apply keeps_upd

theorem State.winRefuse_keeps {s : State} (h : s.keeps m q) : ∀ a1 a2 a3, (@State.winRefuse s a1 a2 a3).keeps m q := by
  intro a1 a2 a3
  unfold State.winRefuse
  try dsimp only
  repeat' first
    | (with_reducible first | assumption | intro _ | apply State.set_keeps | apply State.pf1Evt_keeps)
    | (with_reducible first | apply State.hubEvent_keeps | apply State.tx_keeps | apply ite_keeps | apply foldl_keeps)
    | split
    | dsimp only
    | with_reducible apply keeps_upd

theorem State.pf1Request_keeps {s : State} (h : s.keeps m q) : ∀ a1 a2, (@State.pf1Request s a1 a2).keeps m q := by
  intro a1 a2
  unfold State.pf1Request
  try dsimp only
  repeat' first
    | (with_reducible first | assumption | intro _ | apply State.hubEvent_keeps | apply State.winRefuse_keeps)
    | (with_reducible first | apply State.inTake_keeps | apply ite_keeps | apply foldl_keeps)
    | split
    | dsimp only
    | with_reducible apply keeps_upd

theorem State.winCommit_keeps {s : State} (h : s.keeps m q) : ∀ a1, (@State.winCommit s a1).keeps m q := by
  intro a1
  unfold State.winCommit
  try dsimp only
  repeat' first
    | (with_reducible first | assumption | intro _ | apply State.set_keeps | apply State.setRaw_keeps | apply State.pf1Evt_keeps)
    | (with_reducible first | apply ite_keeps | apply foldl_keeps)
    | split
    | dsimp only
    | with_reducible apply keeps_upd

theorem State.winCopied_keeps {s : State} (h : s.keeps m q) : ∀ a1, (@State.winCopied s a1).keeps m q := by
  intro a1
  unfold State.winCopied
  try dsimp only
  repeat' first
    | (with_reducible first | assumption | intro _ | apply State.setRaw_keeps | apply State.set_keeps | apply ite_keeps)
    | (with_reducible first | apply foldl_keeps)
    | split
    | dsimp only
    | with_reducible apply keeps_upd

theorem State.pf1EvtRead_keeps {s : State} (h : s.keeps m q) : ∀ a1, (@State.pf1EvtRead s a1).keeps m q := by
  intro a1
  unfold State.pf1EvtRead
  try dsimp only
  repeat' first
    | (with_reducible first | assumption | intro _ | apply State.answer_keeps | apply State.modEp_keeps | apply ite_keeps)
    | (with_reducible first | apply foldl_keeps)
    | split
    | dsimp only
    | with_reducible apply keeps_upd

theorem State.winReset_keeps {s : State} (h : s.keeps m q) : ∀ a1, (@State.winReset s a1).keeps m q := by
  intro a1
  unfold State.winReset
  try dsimp only
  repeat' first
    | (with_reducible first | assumption | intro _ | apply State.setRaw_keeps | apply State.set_keeps | apply ite_keeps)
    | (with_reducible first | apply foldl_keeps)
    | split
    | dsimp only
    | with_reducible apply keeps_upd

theorem State.flr_keeps {s : State} (h : s.keeps m q) : ∀ a1 a2, (@State.flr s a1 a2).keeps m q := by
  intro a1 a2
  unfold State.flr
  try dsimp only
  repeat' first
    | (with_reducible first | assumption | intro _ | apply State.set_keeps | apply State.modEp_keeps | apply State.dmaEnd_keeps)
    | (with_reducible first | apply State.winReset_keeps | apply State.modHub_keeps | apply ite_keeps | apply foldl_keeps)
    | split
    | dsimp only
    | with_reducible apply keeps_upd

theorem State.flrDone_keeps {s : State} (h : s.keeps m q) : ∀ a1 a2, (@State.flrDone s a1 a2).keeps m q := by
  intro a1 a2
  unfold State.flrDone
  try dsimp only
  repeat' first
    | (with_reducible first | assumption | intro _ | apply State.pageEvent_keeps | apply State.set_keeps | apply ite_keeps)
    | (with_reducible first | apply foldl_keeps)
    | split
    | dsimp only
    | with_reducible apply keeps_upd

end Sys2Proof.Machine
end

