-- ==== Sys2Proof/Laws/KeepGates.lean ====
section
/-! SUPPORT. Every operation of Machine/Gates.lean keeps the byte memories canonical and the queue as it stands. -/

namespace Sys2Proof.Machine

variable {m : Prop} {q : List Instr}

theorem State.setGate_keeps {s : State} (h : s.keeps m q) : ∀ a1 a2 a3, (@State.setGate s a1 a2 a3).keeps m q := by
  intro a1 a2 a3
  unfold State.setGate
  try dsimp only
  repeat' first
    | (with_reducible first | assumption | intro _ | apply State.modNi_keeps | apply ite_keeps | apply foldl_keeps)
    | split
    | dsimp only
    | with_reducible apply keeps_upd

theorem State.closeGate_keeps {s : State} (h : s.keeps m q) : ∀ a1 a2, (@State.closeGate s a1 a2).keeps m q := by
  intro a1 a2
  unfold State.closeGate
  try dsimp only
  repeat' first
    | (with_reducible first | assumption | intro _ | apply State.modNi_keeps | apply State.setGate_keeps)
    | (with_reducible first | apply State.replyTkt_keeps | apply ite_keeps | apply foldl_keeps)
    | split
    | dsimp only
    | with_reducible apply keeps_upd

theorem State.gateClosed_keeps {s : State} (h : s.keeps m q) : ∀ a1 a2, (@State.gateClosed s a1 a2).keeps m q := by
  intro a1 a2
  unfold State.gateClosed
  try dsimp only
  repeat' first
    | (with_reducible first | assumption | intro _ | apply State.closeGate_keeps | apply ite_keeps | apply foldl_keeps)
    | split
    | dsimp only
    | with_reducible apply keeps_upd

theorem State.niClosePost_keeps {s : State} (h : s.keeps m q) : ∀ a1 a2, (@State.niClosePost s a1 a2).keeps m q := by
  intro a1 a2
  unfold State.niClosePost
  try dsimp only
  repeat' first
    | (with_reducible first | assumption | intro _ | apply State.setGate_keeps | apply ite_keeps | apply foldl_keeps)
    | split
    | dsimp only
    | with_reducible apply keeps_upd

end Sys2Proof.Machine
end

