-- ==== Sys2Proof/Laws/KeepNear.lean ====
section
/-! SUPPORT. Every operation of Machine/Near.lean keeps the byte memories canonical and the queue as it stands. -/

namespace Sys2Proof.Machine

variable {m : Prop} {q : List Instr}

theorem State.nmcEvent_keeps {s : State} (h : s.keeps m q) : ∀ a1 a2 a3, (@State.nmcEvent s a1 a2 a3).keeps m q := by
  intro a1 a2 a3
  unfold State.nmcEvent
  try dsimp only
  repeat' first
    | (with_reducible first | assumption | intro _ | apply State.pmuEvent_keeps | apply ite_keeps | apply foldl_keeps)
    | split
    | dsimp only
    | with_reducible apply keeps_upd

theorem State.nearReq_keeps {s : State} (h : s.keeps m q) : ∀ a1 a2, (@State.nearReq s a1 a2).keeps m q := by
  intro a1 a2
  unfold State.nearReq
  try dsimp only
  repeat' first
    | (with_reducible first | assumption | intro _ | apply State.replyAck_keeps | apply State.served_keeps)
    | (with_reducible first | apply State.raiseErr_keeps | apply State.modChan_keeps | apply ite_keeps | apply foldl_keeps)
    | split
    | dsimp only
    | with_reducible apply keeps_upd

theorem State.chanToHub_keeps {s : State} (h : s.keeps m q) : ∀ a1 a2 a3 a4 a5 a6 a7 a8, (@State.chanToHub s a1 a2 a3 a4 a5 a6 a7 a8).keeps m q := by
  intro a1 a2 a3 a4 a5 a6 a7 a8
  unfold State.chanToHub
  try dsimp only
  repeat' first
    | (with_reducible first | assumption | intro _ | apply State.send_keeps | apply ite_keeps | apply foldl_keeps)
    | split
    | dsimp only
    | with_reducible apply keeps_upd

theorem State.frameOut_keeps {s : State} (h : s.keeps m q) : ∀ a1 a2 a3, (@State.frameOut s a1 a2 a3).keeps m q := by
  intro a1 a2 a3
  unfold State.frameOut
  try dsimp only
  repeat' first
    | (with_reducible first | assumption | intro _ | apply State.modChan_keeps | apply State.chanToHub_keeps | apply ite_keeps)
    | (with_reducible first | apply foldl_keeps)
    | split
    | dsimp only
    | with_reducible apply keeps_upd

theorem State.nearAns_keeps {s : State} (h : s.keeps m q) : ∀ a1 a2 a3 a4, (@State.nearAns s a1 a2 a3 a4).keeps m q := by
  intro a1 a2 a3 a4
  unfold State.nearAns
  try dsimp only
  repeat' first
    | (with_reducible first | assumption | intro _ | apply State.served_keeps | apply State.replyData_keeps)
    | (with_reducible first | apply State.replyAck_keeps | apply ite_keeps | apply foldl_keeps)
    | split
    | dsimp only
    | with_reducible apply keeps_upd

theorem State.flatPerform_keeps {s : State} (h : s.keeps m q) : ∀ a1 a2, (@State.flatPerform s a1 a2).keeps m q := by
  intro a1 a2
  unfold State.flatPerform
  try dsimp only
  repeat' first
    | (with_reducible first | assumption | intro _ | apply State.nearAns_keeps | apply State.nearWrite_keeps | apply ite_keeps)
    | (with_reducible first | apply foldl_keeps)
    | split
    | dsimp only
    | with_reducible apply keeps_upd

theorem State.cachePerform_keeps {s : State} (h : s.keeps m q) : ∀ a1 a2, (@State.cachePerform s a1 a2).keeps m q := by
  intro a1 a2
  unfold State.cachePerform
  try dsimp only
  repeat' first
    | (with_reducible first | assumption | intro _ | apply State.chanToHub_keeps | apply State.modChan_keeps)
    | (with_reducible first | apply State.setNearMeta_keeps | apply State.satInc_keeps | apply State.nmcEvent_keeps)
    | (with_reducible first | apply State.nearAns_keeps | apply State.frameOut_keeps | apply State.nearWrite_keeps)
    | (with_reducible first | apply ite_keeps | apply foldl_keeps)
    | split
    | dsimp only
    | with_reducible apply keeps_upd

theorem State.openRow_keeps {s : State} (h : s.keeps m q) : ∀ a1 a2, (@State.openRow s a1 a2).keeps m q := by
  intro a1 a2
  unfold State.openRow
  try dsimp only
  repeat' first
    | (with_reducible first | assumption | intro _ | apply State.nmcEvent_keeps | apply State.modChan_keeps)
    | (with_reducible first | apply State.free_keeps | apply ite_keeps | apply foldl_keeps | apply ite_fst_keeps)
    | (with_reducible first | refine fst_keeps (by assumption) ?_ | refine snd_keeps (by assumption) ?_)
    | split
    | dsimp only
    | with_reducible apply keeps_upd

theorem State.nearIssue_keeps {s : State} (h : s.keeps m q) : ∀ a1 a2, (@State.nearIssue s a1 a2).keeps m q := by
  intro a1 a2
  unfold State.nearIssue
  try dsimp only
  repeat' first
    | (with_reducible first | assumption | intro _ | apply State.modChan_keeps | apply State.openRow_keeps)
    | (with_reducible first | apply State.cachePerform_keeps | apply State.flatPerform_keeps | apply ite_keeps)
    | (with_reducible first | apply foldl_keeps)
    | split
    | dsimp only
    | with_reducible apply keeps_upd

theorem State.nmcIssue_keeps {s : State} (h : s.keeps m q) : ∀ a1, (@State.nmcIssue s a1).keeps m q := by
  intro a1
  unfold State.nmcIssue
  try dsimp only
  repeat' first
    | (with_reducible first | assumption | intro _ | apply State.modChan_keeps | apply State.nearIssue_keeps)
    | (with_reducible first | apply State.set_keeps | apply State.free_keeps | apply ite_keeps | apply foldl_keeps)
    | (with_reducible first | apply ite_fst_keeps | refine fst_keeps (by assumption) ?_ | refine snd_keeps (by assumption) ?_)
    | split
    | dsimp only
    | with_reducible apply keeps_upd

theorem State.fallback_keeps {s : State} (h : s.keeps m q) : ∀ a1, (@State.fallback s a1).keeps m q := by
  intro a1
  unfold State.fallback
  try dsimp only
  repeat' first
    | (with_reducible first | assumption | intro _ | apply State.set_keeps | apply ite_keeps | apply foldl_keeps)
    | split
    | dsimp only
    | with_reducible apply keeps_upd

theorem State.nearFill_keeps {s : State} (h : s.keeps m q) : ∀ a1 a2 a3 a4 a5, (@State.nearFill s a1 a2 a3 a4 a5).keeps m q := by
  intro a1 a2 a3 a4 a5
  unfold State.nearFill
  try dsimp only
  repeat' first
    | (with_reducible first | assumption | intro _ | apply State.modChan_keeps | apply State.nearAns_keeps)
    | (with_reducible first | apply State.setNearMeta_keeps | apply State.nearWrite_keeps | apply ite_keeps | apply foldl_keeps)
    | split
    | dsimp only
    | with_reducible apply keeps_upd

theorem State.frameCleaned_keeps {s : State} (h : s.keeps m q) : ∀ a1 a2, (@State.frameCleaned s a1 a2).keeps m q := by
  intro a1 a2
  unfold State.frameCleaned
  try dsimp only
  repeat' first
    | (with_reducible first | assumption | intro _ | apply State.setNearMeta_keeps | apply ite_keeps | apply foldl_keeps)
    | split
    | dsimp only
    | with_reducible apply keeps_upd

theorem State.nearPassRsp_keeps {s : State} (h : s.keeps m q) : ∀ a1 a2 a3 a4 a5 a6, (@State.nearPassRsp s a1 a2 a3 a4 a5 a6).keeps m q := by
  intro a1 a2 a3 a4 a5 a6
  unfold State.nearPassRsp
  try dsimp only
  repeat' first
    | (with_reducible first | assumption | intro _ | apply State.modChan_keeps | apply State.frameCleaned_keeps)
    | (with_reducible first | apply State.nearAns_keeps | apply ite_keeps | apply foldl_keeps)
    | split
    | dsimp only
    | with_reducible apply keeps_upd

theorem State.closeRow_keeps {s : State} (h : s.keeps m q) : ∀ a1 a2, (@State.closeRow s a1 a2).keeps m q := by
  intro a1 a2
  unfold State.closeRow
  try dsimp only
  repeat' first
    | (with_reducible first | assumption | intro _ | apply State.modChan_keeps | apply ite_keeps | apply foldl_keeps)
    | split
    | dsimp only
    | with_reducible apply keeps_upd

theorem State.idlePrecharge_keeps {s : State} (h : s.keeps m q) : ∀ a1 a2, (@State.idlePrecharge s a1 a2).keeps m q := by
  intro a1 a2
  unfold State.idlePrecharge
  try dsimp only
  repeat' first
    | (with_reducible first | assumption | intro _ | apply State.closeRow_keeps | apply ite_keeps | apply foldl_keeps)
    | split
    | dsimp only
    | with_reducible apply keeps_upd

theorem State.bankRefresh_keeps {s : State} (h : s.keeps m q) : ∀ a1 a2, (@State.bankRefresh s a1 a2).keeps m q := by
  intro a1 a2
  unfold State.bankRefresh
  try dsimp only
  repeat' first
    | (with_reducible first | assumption | intro _ | apply State.modChan_keeps | apply State.nmcEvent_keeps)
    | (with_reducible first | apply State.closeRow_keeps | apply ite_keeps | apply foldl_keeps)
    | split
    | dsimp only
    | with_reducible apply keeps_upd

theorem State.allRefresh_keeps {s : State} (h : s.keeps m q) : ∀ a1, (@State.allRefresh s a1).keeps m q := by
  intro a1
  unfold State.allRefresh
  try dsimp only
  repeat' first
    | (with_reducible first | assumption | intro _ | apply State.nmcEvent_keeps | apply State.modChan_keeps | apply ite_keeps)
    | (with_reducible first | apply foldl_keeps)
    | split
    | dsimp only
    | with_reducible apply keeps_upd

theorem State.rfmIssue_keeps {s : State} (h : s.keeps m q) : ∀ a1 a2, (@State.rfmIssue s a1 a2).keeps m q := by
  intro a1 a2
  unfold State.rfmIssue
  try dsimp only
  repeat' first
    | (with_reducible first | assumption | intro _ | apply State.modChan_keeps | apply State.nmcEvent_keeps)
    | (with_reducible first | apply State.closeRow_keeps | apply ite_keeps | apply foldl_keeps)
    | split
    | dsimp only
    | with_reducible apply keeps_upd

theorem State.rfmDemand_keeps {s : State} (h : s.keeps m q) : ∀ a1 a2, (@State.rfmDemand s a1 a2).keeps m q := by
  intro a1 a2
  unfold State.rfmDemand
  try dsimp only
  repeat' first
    | (with_reducible first | assumption | intro _ | apply State.modChan_keeps | apply ite_keeps | apply foldl_keeps)
    | split
    | dsimp only
    | with_reducible apply keeps_upd

theorem State.chanErrlog_keeps {s : State} (h : s.keeps m q) : ∀ a1 a2 a3 a4, (@State.chanErrlog s a1 a2 a3 a4).keeps m q := by
  intro a1 a2 a3 a4
  unfold State.chanErrlog
  try dsimp only
  repeat' first
    | (with_reducible first | assumption | intro _ | apply State.lineErr_keeps | apply State.set_keeps | apply ite_keeps)
    | (with_reducible first | apply foldl_keeps)
    | split
    | dsimp only
    | with_reducible apply keeps_upd

theorem State.nmcSweep_keeps {s : State} (h : s.keeps m q) : ∀ a1 a2, (@State.nmcSweep s a1 a2).keeps m q := by
  intro a1 a2
  unfold State.nmcSweep
  try dsimp only
  repeat' first
    | (with_reducible first | assumption | intro _ | apply State.modChan_keeps | apply State.classErr_keeps)
    | (with_reducible first | apply State.chanErrlog_keeps | apply State.setNearMeta_keeps | apply ite_keeps | apply foldl_keeps)
    | split
    | dsimp only
    | with_reducible apply keeps_upd

theorem State.nearEcc_keeps {s : State} (h : s.keeps m q) : ∀ a1 a2 a3, (@State.nearEcc s a1 a2 a3).keeps m q := by
  intro a1 a2 a3
  unfold State.nearEcc
  try dsimp only
  repeat' first
    | (with_reducible first | assumption | intro _ | apply State.setNearMeta_keeps | apply State.chanErrlog_keeps)
    | (with_reducible first | apply State.free_keeps | apply ite_keeps | apply foldl_keeps | apply ite_fst_keeps)
    | (with_reducible first | refine fst_keeps (by assumption) ?_ | refine snd_keeps (by assumption) ?_)
    | split
    | dsimp only
    | with_reducible apply keeps_upd

theorem State.segZeroed_keeps {s : State} (h : s.keeps m q) : ∀ a1, (@State.segZeroed s a1).keeps m q := by
  intro a1
  unfold State.segZeroed
  try dsimp only
  repeat' first
    | (with_reducible first | assumption | intro _ | apply State.set_keeps | apply State.modChan_keeps | apply ite_keeps)
    | (with_reducible first | apply foldl_keeps | apply Mem.wf_wrs | apply Mem.wf_foldl_wr | apply Mem.wf_clear)
    | (with_reducible first | refine State.keeps.pads (m := m) (q := q) ?_ (by assumption))
    | (with_reducible first | refine State.keeps.sram (m := m) (q := q) ?_ (by assumption))
    | (with_reducible first | refine State.keeps.near (m := m) (q := q) ?_ (by assumption))
    | (with_reducible first | refine State.keeps.tuck (m := m) (q := q) ?_ (by assumption))
    | (with_reducible first | refine State.keeps.pending (m := m) (q := q) ?_ | apply And.intro)
    | split
    | dsimp only
    | simp only [keeps_mk]

theorem State.trainGo_keeps {s : State} (h : s.keeps m q) : ∀ a1, (@State.trainGo s a1).keeps m q := by
  intro a1
  unfold State.trainGo
  try dsimp only
  repeat' first
    | (with_reducible first | assumption | intro _ | apply State.set_keeps | apply ite_keeps | apply foldl_keeps)
    | split
    | dsimp only
    | with_reducible apply keeps_upd

theorem State.trainDone_keeps {s : State} (h : s.keeps m q) : ∀ a1 a2, (@State.trainDone s a1 a2).keeps m q := by
  intro a1 a2
  unfold State.trainDone
  try dsimp only
  repeat' first
    | (with_reducible first | assumption | intro _ | apply State.set_keeps | apply ite_keeps | apply foldl_keeps)
    | split
    | dsimp only
    | with_reducible apply keeps_upd

theorem State.calRefuse_keeps {s : State} (h : s.keeps m q) : ∀ a1, (@State.calRefuse s a1).keeps m q := by
  intro a1
  unfold State.calRefuse
  try dsimp only
  repeat' first
    | (with_reducible first | assumption | intro _ | apply State.modChan_keeps | apply State.nearAns_keeps | apply ite_keeps)
    | (with_reducible first | apply foldl_keeps)
    | split
    | dsimp only
    | with_reducible apply keeps_upd

theorem State.calActivate_keeps {s : State} (h : s.keeps m q) : ∀ a1, (@State.calActivate s a1).keeps m q := by
  intro a1
  unfold State.calActivate
  try dsimp only
  repeat' first
    | (with_reducible first | assumption | intro _ | apply State.modChan_keeps | apply State.set_keeps)
    | (with_reducible first | apply State.calRefuse_keeps | apply ite_keeps | apply foldl_keeps)
    | split
    | dsimp only
    | with_reducible apply keeps_upd

theorem State.calServe_keeps {s : State} (h : s.keeps m q) (c : Nat) (p : NearReq → Bool) (n : Nat) : (s.calServe c p n).keeps m q := by
  induction n generalizing s with
  | zero => exact h
  | succ n ih =>
    unfold State.calServe
    split
    · exact h
    · exact ih (State.modChan_keeps (State.nearIssue_keeps h _ _) _ _)

theorem State.calSlotRun_keeps {s : State} (h : s.keeps m q) : ∀ a1, (@State.calSlotRun s a1).keeps m q := by
  intro a1
  unfold State.calSlotRun
  try dsimp only
  repeat' first
    | (with_reducible first | assumption | intro _ | apply State.calServe_keeps | apply State.modChan_keeps)
    | (with_reducible first | apply State.nmcEvent_keeps | apply State.rfmIssue_keeps | apply State.inc_keeps | apply ite_keeps)
    | (with_reducible first | apply foldl_keeps)
    | split
    | dsimp only
    | with_reducible apply keeps_upd

theorem State.cacheFlush_keeps {s : State} (h : s.keeps m q) : ∀ a1, (@State.cacheFlush s a1).keeps m q := by
  intro a1
  unfold State.cacheFlush
  try dsimp only
  repeat' first
    | (with_reducible first | assumption | intro _ | apply State.frameOut_keeps | apply State.setNearMeta_keeps | apply ite_keeps)
    | (with_reducible first | apply foldl_keeps)
    | split
    | dsimp only
    | with_reducible apply keeps_upd

theorem State.selfRefresh_keeps {s : State} (h : s.keeps m q) : ∀ a1, (@State.selfRefresh s a1).keeps m q := by
  intro a1
  unfold State.selfRefresh
  try dsimp only
  repeat' first
    | (with_reducible first | assumption | intro _ | apply State.set_keeps | apply State.modChan_keeps | apply ite_keeps)
    | (with_reducible first | apply foldl_keeps)
    | split
    | dsimp only
    | with_reducible apply keeps_upd

theorem State.selfRefreshExit_keeps {s : State} (h : s.keeps m q) : ∀ a1, (@State.selfRefreshExit s a1).keeps m q := by
  intro a1
  unfold State.selfRefreshExit
  try dsimp only
  repeat' first
    | (with_reducible first | assumption | intro _ | apply State.set_keeps | apply State.modChan_keeps)
    | (with_reducible first | apply State.setNearMeta_keeps | apply State.free_keeps | apply ite_keeps | apply foldl_keeps)
    | (with_reducible first | apply Mem.wf_wrs | apply Mem.wf_foldl_wr | apply Mem.wf_clear)
    | (with_reducible first | refine State.keeps.pads (m := m) (q := q) ?_ (by assumption))
    | (with_reducible first | refine State.keeps.sram (m := m) (q := q) ?_ (by assumption))
    | (with_reducible first | refine State.keeps.near (m := m) (q := q) ?_ (by assumption))
    | (with_reducible first | refine State.keeps.tuck (m := m) (q := q) ?_ (by assumption) | apply ite_fst_keeps)
    | (with_reducible first | refine fst_keeps (by assumption) ?_ | refine snd_keeps (by assumption) ?_)
    | (with_reducible first | refine State.keeps.pending (m := m) (q := q) ?_ | apply And.intro)
    | split
    | dsimp only
    | simp only [keeps_mk]

end Sys2Proof.Machine
end

