-- ==== Sys2Proof/Laws/KeepIssue.lean ====
section
/-! SUPPORT. Every operation of Machine/Issue.lean keeps the byte memories canonical and the queue as it stands. -/

namespace Sys2Proof.Machine

variable {m : Prop} {q : List Instr}

theorem State.untimed_keeps {s : State} (h : s.keeps m q) : ∀ a1, (@State.untimed s a1).keeps m q := by
  intro a1
  unfold State.untimed
  try dsimp only
  repeat' first
    | (with_reducible first | assumption | intro _ | apply State.coreEvent_keeps | apply State.satInc_keeps | apply ite_keeps)
    | (with_reducible first | apply foldl_keeps)
    | split
    | dsimp only
    | with_reducible apply keeps_upd

theorem State.missWalk_keeps {s : State} (h : s.keeps m q) : ∀ a1 a2 a3 a4 a5 a6 a7, (@State.missWalk s a1 a2 a3 a4 a5 a6 a7).keeps m q := by
  intro a1 a2 a3 a4 a5 a6 a7
  unfold State.missWalk
  try dsimp only
  repeat' first
    | (with_reducible first | assumption | intro _ | apply State.coreEvent_keeps | apply State.untimed_keeps)
    | (with_reducible first | apply State.setCore_keeps | apply ite_keeps | apply foldl_keeps)
    | split
    | dsimp only
    | with_reducible apply keeps_upd

theorem State.tlbRefill_keeps {s : State} (h : s.keeps m q) : ∀ a1 a2 a3, (@State.tlbRefill s a1 a2 a3).keeps m q := by
  intro a1 a2 a3
  unfold State.tlbRefill
  try dsimp only
  repeat' first
    | (with_reducible first | assumption | intro _ | apply State.coreEvent_keeps | apply State.untimed_keeps)
    | (with_reducible first | apply State.modCore_keeps | apply ite_keeps | apply foldl_keeps)
    | split
    | dsimp only
    | with_reducible apply keeps_upd

theorem State.untimedParts_keeps {s : State} (h : s.keeps m q) : ∀ a1 a2, (@State.untimedParts s a1 a2).keeps m q := by
  intro a1 a2
  unfold State.untimedParts
  try dsimp only
  repeat' first
    | (with_reducible first | assumption | intro _ | apply State.tlbRefill_keeps | apply State.untimed_keeps | apply ite_keeps)
    | (with_reducible first | apply foldl_keeps)
    | split
    | dsimp only
    | with_reducible apply keeps_upd

theorem State.squash_keeps {s : State} (h : s.keeps m q) : ∀ a1 a2 a3 a4, (@State.squash s a1 a2 a3 a4).keeps m q := by
  intro a1 a2 a3 a4
  unfold State.squash
  try dsimp only
  repeat' first
    | (with_reducible first | assumption | intro _ | apply State.tdUnpend_keeps | apply State.tdAdd_keeps)
    | (with_reducible first | apply State.coreEvent_keeps | apply State.modCore_keeps | apply ite_keeps | apply foldl_keeps)
    | split
    | dsimp only
    | with_reducible apply keeps_upd

theorem State.squashYounger_keeps {s : State} (h : s.keeps m q) : ∀ a1 a2 a3 a4, (@State.squashYounger s a1 a2 a3 a4).keeps m q := by
  intro a1 a2 a3 a4
  unfold State.squashYounger
  try dsimp only
  repeat' first
    | (with_reducible first | assumption | intro _ | apply State.squash_keeps | apply ite_keeps | apply foldl_keeps)
    | split
    | dsimp only
    | with_reducible apply keeps_upd

theorem State.idleTrack_keeps {s : State} (h : s.keeps m q) : ∀ a1 a2 a3, (@State.idleTrack s a1 a2 a3).keeps m q := by
  intro a1 a2 a3
  unfold State.idleTrack
  try dsimp only
  repeat' first
    | (with_reducible first | assumption | intro _ | apply State.tdAdd_keeps | apply State.coreOcc_keeps | apply ite_keeps)
    | (with_reducible first | apply foldl_keeps)
    | split
    | dsimp only
    | with_reducible apply keeps_upd

theorem State.coreCycles_keeps {s : State} (h : s.keeps m q) : ∀ a1 a2, (@State.coreCycles s a1 a2).keeps m q := by
  intro a1 a2
  unfold State.coreCycles
  try dsimp only
  repeat' first
    | (with_reducible first | assumption | intro _ | apply State.modCore_keeps | apply State.pmuFix_keeps)
    | (with_reducible first | apply State.coreOcc_keeps | apply ite_keeps | apply foldl_keeps)
    | split
    | dsimp only
    | with_reducible apply keeps_upd

theorem State.idleCycles_keeps {s : State} (h : s.keeps m q) : ∀ a1 a2, (@State.idleCycles s a1 a2).keeps m q := by
  intro a1 a2
  unfold State.idleCycles
  try dsimp only
  repeat' first
    | (with_reducible first | assumption | intro _ | apply State.idleTrack_keeps | apply State.coreCycles_keeps | apply ite_keeps)
    | (with_reducible first | apply foldl_keeps)
    | split
    | dsimp only
    | with_reducible apply keeps_upd

theorem State.chargeStride_keeps {s : State} (h : s.keeps m q) : ∀ a1 a2 a3 a4, (@State.chargeStride s a1 a2 a3 a4).keeps m q := by
  intro a1 a2 a3 a4
  unfold State.chargeStride
  try dsimp only
  repeat' first
    | (with_reducible first | assumption | intro _ | apply State.idleTrack_keeps | apply State.coreCycles_keeps)
    | (with_reducible first | apply State.modCore_keeps | apply State.tdPend_keeps | apply ite_keeps | apply foldl_keeps)
    | split
    | dsimp only
    | with_reducible apply keeps_upd

theorem State.strideFault_keeps {s : State} (h : s.keeps m q) : ∀ a1 a2 a3, (@State.strideFault s a1 a2 a3).keeps m q := by
  intro a1 a2 a3
  unfold State.strideFault
  try dsimp only
  repeat' first
    | (with_reducible first | assumption | intro _ | apply State.modCore_keeps | apply State.chargeStride_keeps | apply ite_keeps)
    | (with_reducible first | apply foldl_keeps)
    | split
    | dsimp only
    | with_reducible apply keeps_upd

theorem State.strideHold_keeps {s : State} (h : s.keeps m q) : ∀ a1 a2 a3, (@State.strideHold s a1 a2 a3).keeps m q := by
  intro a1 a2 a3
  unfold State.strideHold
  try dsimp only
  repeat' first
    | (with_reducible first | assumption | intro _ | apply State.modCore_keeps | apply ite_keeps | apply foldl_keeps)
    | split
    | dsimp only
    | with_reducible apply keeps_upd

theorem State.trainPred_keeps {s : State} (h : s.keeps m q) : ∀ a1 a2 a3 a4 a5, (@State.trainPred s a1 a2 a3 a4 a5).keeps m q := by
  intro a1 a2 a3 a4 a5
  unfold State.trainPred
  try dsimp only
  repeat' first
    | (with_reducible first | assumption | intro _ | apply State.modCore_keeps | apply State.free_keeps | apply ite_keeps)
    | (with_reducible first | apply foldl_keeps | apply ite_fst_keeps | refine fst_keeps (by assumption) ?_)
    | (with_reducible first | refine snd_keeps (by assumption) ?_)
    | split
    | dsimp only
    | with_reducible apply keeps_upd

theorem State.resolveExit_keeps {s : State} (h : s.keeps m q) : ∀ a1 a2 a3 a4 a5 a6 a7, (@State.resolveExit s a1 a2 a3 a4 a5 a6 a7).keeps m q := by
  intro a1 a2 a3 a4 a5 a6 a7
  unfold State.resolveExit
  try dsimp only
  repeat' first
    | (with_reducible first | assumption | intro _ | apply State.modCore_keeps | apply State.trainPred_keeps)
    | (with_reducible first | apply State.coreEvent_keeps | apply State.squashYounger_keeps | apply ite_keeps | apply foldl_keeps)
    | split
    | dsimp only
    | with_reducible apply keeps_upd

theorem State.issueExit_keeps {s : State} (h : s.keeps m q) : ∀ a1 a2 a3 a4 a5, (@State.issueExit s a1 a2 a3 a4 a5).keeps m q := by
  intro a1 a2 a3 a4 a5
  unfold State.issueExit
  try dsimp only
  repeat' first
    | (with_reducible first | assumption | intro _ | apply State.modCore_keeps | apply State.resolveExit_keeps | apply ite_keeps)
    | (with_reducible first | apply foldl_keeps)
    | split
    | dsimp only
    | with_reducible apply keeps_upd

theorem State.doLoad_keeps {s : State} (h : s.keeps m q) : ∀ a1 a2 a3 a4 a5 a6 a7 a8, (@State.doLoad s a1 a2 a3 a4 a5 a6 a7 a8).keeps m q := by
  intro a1 a2 a3 a4 a5 a6 a7 a8
  unfold State.doLoad
  try dsimp only
  repeat' first
    | (with_reducible first | assumption | intro _ | apply State.modCore_keeps | apply State.untimedParts_keeps)
    | (with_reducible first | apply State.loadPiece_keeps | apply ite_keeps | apply foldl_keeps)
    | split
    | dsimp only
    | with_reducible apply keeps_upd

theorem State.doStore_keeps {s : State} (h : s.keeps m q) : ∀ a1 a2 a3 a4 a5, (@State.doStore s a1 a2 a3 a4 a5).keeps m q := by
  intro a1 a2 a3 a4 a5
  unfold State.doStore
  try dsimp only
  repeat' first
    | (with_reducible first | assumption | intro _ | apply State.modCore_keeps | apply State.untimedParts_keeps)
    | (with_reducible first | apply State.coreEvent_keeps | apply State.squash_keeps | apply ite_keeps | apply foldl_keeps)
    | split
    | dsimp only
    | with_reducible apply keeps_upd

theorem State.doPref_keeps {s : State} (h : s.keeps m q) : ∀ a1 a2 a3 a4, (@State.doPref s a1 a2 a3 a4).keeps m q := by
  intro a1 a2 a3 a4
  unfold State.doPref
  try dsimp only
  repeat' first
    | (with_reducible first | assumption | intro _ | apply State.untimedParts_keeps | apply State.intoL1_keeps)
    | (with_reducible first | apply State.askLine_keeps | apply State.send_keeps | apply ite_keeps | apply foldl_keeps)
    | split
    | dsimp only
    | with_reducible apply keeps_upd

theorem State.doMaint_keeps {s : State} (h : s.keeps m q) : ∀ a1 a2 a3 a4 a5, (@State.doMaint s a1 a2 a3 a4 a5).keeps m q := by
  intro a1 a2 a3 a4 a5
  unfold State.doMaint
  try dsimp only
  repeat' first
    | (with_reducible first | assumption | intro _ | apply State.tlbRefill_keeps | apply State.modCore_keeps | apply ite_keeps)
    | (with_reducible first | apply foldl_keeps)
    | split
    | dsimp only
    | with_reducible apply keeps_upd

theorem State.issueOp_keeps {s : State} (h : s.keeps m q) : ∀ a1 a2 a3 a4 a5 a6, (@State.issueOp s a1 a2 a3 a4 a5 a6).keeps m q := by
  intro a1 a2 a3 a4 a5 a6
  unfold State.issueOp
  try dsimp only
  repeat' first
    | (with_reducible first | assumption | intro _ | apply State.issueExit_keeps | apply State.modCore_keeps)
    | (with_reducible first | apply State.doLoad_keeps | apply State.doStore_keeps | apply State.doPref_keeps)
    | (with_reducible first | apply State.doMaint_keeps | apply ite_keeps | apply foldl_keeps)
    | split
    | dsimp only
    | with_reducible apply keeps_upd

theorem State.advance_keeps {s : State} (h : s.keeps m q) : ∀ a1 a2, (@State.advance s a1 a2).keeps m q := by
  intro a1 a2
  unfold State.advance
  try dsimp only
  repeat' first
    | (with_reducible first | assumption | intro _ | apply State.modCore_keeps | apply State.resolveExit_keeps | apply ite_keeps)
    | (with_reducible first | apply foldl_keeps)
    | split
    | dsimp only
    | with_reducible apply keeps_upd

theorem State.issueOps_keeps {s : State} (h : s.keeps m q) : ∀ a1 a2 a3, (@State.issueOps s a1 a2 a3).keeps m q := by
  intro a1 a2 a3
  unfold State.issueOps
  try dsimp only
  repeat' first
    | (with_reducible first | assumption | intro _ | apply State.modCore_keeps | apply State.strideHold_keeps)
    | (with_reducible first | apply State.strideFault_keeps | apply State.untimed_keeps | apply State.missWalk_keeps)
    | (with_reducible first | apply State.wcFlush_keeps | apply State.doStore_keeps | apply State.doLoad_keeps)
    | (with_reducible first | apply State.chargeStride_keeps | apply State.advance_keeps | apply State.issueOp_keeps)
    | (with_reducible first | apply ite_keeps | apply foldl_keeps)
    | split
    | dsimp only
    | with_reducible apply keeps_upd

theorem State.issueStride_keeps {s : State} (h : s.keeps m q) : ∀ a1 a2 a3, (@State.issueStride s a1 a2 a3).keeps m q := by
  intro a1 a2 a3
  unfold State.issueStride
  try dsimp only
  repeat' first
    | (with_reducible first | assumption | intro _ | apply State.modCore_keeps | apply State.advance_keeps)
    | (with_reducible first | apply State.chargeStride_keeps | apply State.issueOps_keeps | apply ite_keeps | apply foldl_keeps)
    | split
    | dsimp only
    | with_reducible apply keeps_upd

theorem State.strideIssue_keeps {s : State} (h : s.keeps m q) : ∀ a1 a2, (@State.strideIssue s a1 a2).keeps m q := by
  intro a1 a2
  unfold State.strideIssue
  try dsimp only
  repeat' first
    | (with_reducible first | assumption | intro _ | apply State.issueStride_keeps | apply ite_keeps | apply foldl_keeps)
    | split
    | dsimp only
    | with_reducible apply keeps_upd

theorem State.issueRow_keeps {s : State} (h : s.keeps m q) : ∀ a1 a2 a3 a4 a5 a6, (@State.issueRow s a1 a2 a3 a4 a5 a6).keeps m q := by
  intro a1 a2 a3 a4 a5 a6
  unfold State.issueRow
  try dsimp only
  repeat' first
    | (with_reducible first | assumption | intro _ | apply State.issueStride_keeps | apply ite_keeps | apply foldl_keeps)
    | split
    | dsimp only
    | with_reducible apply keeps_upd

theorem State.issueExitRow_keeps {s : State} (h : s.keeps m q) : ∀ a1 a2 a3 a4 a5, (@State.issueExitRow s a1 a2 a3 a4 a5).keeps m q := by
  intro a1 a2 a3 a4 a5
  unfold State.issueExitRow
  try dsimp only
  repeat' first
    | (with_reducible first | assumption | intro _ | apply State.issueRow_keeps | apply ite_keeps | apply foldl_keeps)
    | split
    | dsimp only
    | with_reducible apply keeps_upd

theorem State.issueImx_keeps {s : State} (h : s.keeps m q) : ∀ a1 a2 a3 a4, (@State.issueImx s a1 a2 a3 a4).keeps m q := by
  intro a1 a2 a3 a4
  unfold State.issueImx
  try dsimp only
  repeat' first
    | (with_reducible first | assumption | intro _ | apply State.issueStride_keeps | apply ite_keeps | apply foldl_keeps)
    | split
    | dsimp only
    | with_reducible apply keeps_upd

end Sys2Proof.Machine
end

