-- ==== Sys2Proof/Laws/KeepTraps.lean ====
section
/-! SUPPORT. Every operation of Machine/Traps.lean keeps the byte memories canonical and the queue as it stands. -/

namespace Sys2Proof.Machine

variable {m : Prop} {q : List Instr}

theorem State.putReg_keeps {s : State} (h : s.keeps m q) : ∀ a1 a2 a3, (@State.putReg s a1 a2 a3).keeps m q := by
  intro a1 a2 a3
  unfold State.putReg
  try dsimp only
  repeat' first
    | (with_reducible first | assumption | intro _ | apply State.padWrWord_keeps | apply ite_keeps | apply foldl_keeps)
    | split
    | dsimp only
    | with_reducible apply keeps_upd

theorem State.putFrame_keeps {s : State} (h : s.keeps m q) : ∀ a1 a2 a3 a4 a5 a6 a7 a8, (@State.putFrame s a1 a2 a3 a4 a5 a6 a7 a8).keeps m q := by
  intro a1 a2 a3 a4 a5 a6 a7 a8
  unfold State.putFrame
  try dsimp only
  repeat' first
    | (with_reducible first | assumption | intro _ | apply State.padWrWord_keeps | apply State.padGrant_keeps)
    | (with_reducible first | apply State.putReg_keeps | apply ite_keeps | apply foldl_keeps)
    | split
    | dsimp only
    | with_reducible apply keeps_upd

theorem State.trapOverflow_keeps {s : State} (h : s.keeps m q) : ∀ a1, (@State.trapOverflow s a1).keeps m q := by
  intro a1
  unfold State.trapOverflow
  try dsimp only
  repeat' first
    | (with_reducible first | assumption | intro _ | apply State.modCore_keeps | apply State.set_keeps)
    | (with_reducible first | apply State.rasRecord_keeps | apply State.raiseErr_keeps | apply ite_keeps | apply foldl_keeps)
    | split
    | dsimp only
    | with_reducible apply keeps_upd

theorem State.putRecord_keeps {s : State} (h : s.keeps m q) : ∀ a1 a2 a3 a4, (@State.putRecord s a1 a2 a3 a4).keeps m q := by
  intro a1 a2 a3 a4
  unfold State.putRecord
  try dsimp only
  repeat' first
    | (with_reducible first | assumption | intro _ | apply State.padWrWord_keeps | apply State.padGrant_keeps)
    | (with_reducible first | apply State.putReg_keeps | apply ite_keeps | apply foldl_keeps)
    | split
    | dsimp only
    | with_reducible apply keeps_upd

theorem State.faultEntry_keeps {s : State} (h : s.keeps m q) : ∀ a1 a2 a3, (@State.faultEntry s a1 a2 a3).keeps m q := by
  intro a1 a2 a3
  unfold State.faultEntry
  try dsimp only
  repeat' first
    | (with_reducible first | assumption | intro _ | apply State.trapOverflow_keeps | apply State.putRecord_keeps)
    | (with_reducible first | apply State.putFrame_keeps | apply State.coreEvent_keeps | apply State.modCore_keeps)
    | (with_reducible first | apply ite_keeps | apply foldl_keeps)
    | split
    | dsimp only
    | with_reducible apply keeps_upd

theorem State.callEntry_keeps {s : State} (h : s.keeps m q) : ∀ a1 a2 a3, (@State.callEntry s a1 a2 a3).keeps m q := by
  intro a1 a2 a3
  unfold State.callEntry
  try dsimp only
  repeat' first
    | (with_reducible first | assumption | intro _ | apply State.trapOverflow_keeps | apply State.putFrame_keeps)
    | (with_reducible first | apply State.coreEvent_keeps | apply State.modCore_keeps | apply ite_keeps | apply foldl_keeps)
    | split
    | dsimp only
    | with_reducible apply keeps_upd

theorem State.plainEntry_keeps {s : State} (h : s.keeps m q) : ∀ a1 a2 a3, (@State.plainEntry s a1 a2 a3).keeps m q := by
  intro a1 a2 a3
  unfold State.plainEntry
  try dsimp only
  repeat' first
    | (with_reducible first | assumption | intro _ | apply State.trapOverflow_keeps | apply State.putFrame_keeps)
    | (with_reducible first | apply State.coreEvent_keeps | apply State.modCore_keeps | apply ite_keeps | apply foldl_keeps)
    | split
    | dsimp only
    | with_reducible apply keeps_upd

theorem State.interruptEntry_keeps {s : State} (h : s.keeps m q) : ∀ a1 a2 a3, (@State.interruptEntry s a1 a2 a3).keeps m q := by
  intro a1 a2 a3
  unfold State.interruptEntry
  try dsimp only
  repeat' first
    | (with_reducible first | assumption | intro _ | apply State.wcFlushAll_keeps | apply State.squash_keeps)
    | (with_reducible first | apply State.putFrame_keeps | apply State.coreEvent_keeps | apply State.modCore_keeps)
    | (with_reducible first | apply ite_keeps | apply foldl_keeps)
    | split
    | dsimp only
    | with_reducible apply keeps_upd

theorem State.interruptAccept_keeps {s : State} (h : s.keeps m q) : ∀ a1, (@State.interruptAccept s a1).keeps m q := by
  intro a1
  unfold State.interruptAccept
  try dsimp only
  repeat' first
    | (with_reducible first | assumption | intro _ | apply State.interruptEntry_keeps | apply ite_keeps | apply foldl_keeps)
    | split
    | dsimp only
    | with_reducible apply keeps_upd

theorem State.trapReturn_keeps {s : State} (h : s.keeps m q) : ∀ a1, (@State.trapReturn s a1).keeps m q := by
  intro a1
  unfold State.trapReturn
  try dsimp only
  repeat' first
    | (with_reducible first | assumption | intro _ | apply State.padGrant_keeps | apply State.padWrWord_keeps)
    | (with_reducible first | apply State.modCore_keeps | apply ite_keeps | apply foldl_keeps)
    | split
    | dsimp only
    | with_reducible apply keeps_upd

end Sys2Proof.Machine
end

