-- ==== Sys2Proof/Laws/KeepFetch.lean ====
section
/-! SUPPORT. Every operation of Machine/Fetch.lean keeps the byte memories canonical and the queue as it stands. -/

namespace Sys2Proof.Machine

variable {m : Prop} {q : List Instr}

theorem State.fetchLine_keeps {s : State} (h : s.keeps m q) : ∀ a1 a2 a3 a4, (@State.fetchLine s a1 a2 a3 a4).1.keeps m q := by
  intro a1 a2 a3 a4
  unfold State.fetchLine
  try dsimp only
  repeat' first
    | (with_reducible first | assumption | intro _ | apply State.modCore_keeps | apply State.send_keeps)
    | (with_reducible first | apply State.fillCc_keeps | apply State.coreEvent_keeps | apply State.askLine_keeps)
    | (with_reducible first | apply ite_keeps | apply foldl_keeps | apply ite_fst_keeps | refine fst_keeps (by assumption) ?_)
    | (with_reducible first | refine snd_keeps (by assumption) ?_)
    | split
    | dsimp only
    | with_reducible apply keeps_upd

theorem State.fetchLines_keeps {s : State} (h : s.keeps m q) : ∀ a1 a2 a3, (@State.fetchLines s a1 a2 a3).1.keeps m q := by
  intro a1 a2 a3
  induction a3 generalizing s a1 a2 with
  | zero => exact h
  | succ n ih =>
  unfold State.fetchLines
  try dsimp only
  repeat' first
    | (with_reducible first | assumption | intro _ | apply ih | apply State.missWalk_keeps | apply State.tlbRefill_keeps)
    | (with_reducible first | apply State.fetchLine_keeps | apply ite_keeps | apply foldl_keeps | apply ite_fst_keeps)
    | (with_reducible first | refine fst_keeps (by assumption) ?_ | refine snd_keeps (by assumption) ?_)
    | split
    | dsimp only
    | with_reducible apply keeps_upd

theorem State.fetchDone_keeps {s : State} (h : s.keeps m q) : ∀ a1 a2 a3 a4 a5 a6 a7 a8 a9, (@State.fetchDone s a1 a2 a3 a4 a5 a6 a7 a8 a9).keeps m q := by
  intro a1 a2 a3 a4 a5 a6 a7 a8 a9
  unfold State.fetchDone
  try dsimp only
  repeat' first
    | (with_reducible first | assumption | intro _ | apply State.untimed_keeps | apply State.modCore_keeps | apply ite_keeps)
    | (with_reducible first | apply foldl_keeps)
    | split
    | dsimp only
    | with_reducible apply keeps_upd

theorem State.rinkCopy_keeps {s : State} (h : s.keeps m q) : ∀ a1 a2, (@State.rinkCopy s a1 a2).keeps m q := by
  intro a1 a2
  unfold State.rinkCopy
  try dsimp only
  repeat' first
    | (with_reducible first | assumption | intro _ | apply State.coreEvent_keeps | apply State.modCore_keeps | apply ite_keeps)
    | (with_reducible first | apply foldl_keeps)
    | split
    | dsimp only
    | with_reducible apply keeps_upd

theorem State.fetchAt_keeps {s : State} (h : s.keeps m q) : ∀ a1 a2, (@State.fetchAt s a1 a2).keeps m q := by
  intro a1 a2
  unfold State.fetchAt
  try dsimp only
  repeat' first
    | (with_reducible first | assumption | intro _ | apply State.fetchDone_keeps | apply State.rinkCopy_keeps)
    | (with_reducible first | apply State.fetchLines_keeps | apply ite_keeps | apply foldl_keeps | apply ite_fst_keeps)
    | (with_reducible first | refine fst_keeps (by assumption) ?_ | refine snd_keeps (by assumption) ?_)
    | split
    | dsimp only
    | with_reducible apply keeps_upd

theorem State.carveFetch_keeps {s : State} (h : s.keeps m q) : ∀ a1, (@State.carveFetch s a1).keeps m q := by
  intro a1
  unfold State.carveFetch
  try dsimp only
  repeat' first
    | (with_reducible first | assumption | intro _ | apply State.fetchAt_keeps | apply State.modCore_keeps)
    | (with_reducible first | apply State.fetchDone_keeps | apply ite_keeps | apply foldl_keeps)
    | split
    | dsimp only
    | with_reducible apply keeps_upd

theorem State.rename_keeps {s : State} (h : s.keeps m q) : ∀ a1, (@State.rename s a1).keeps m q := by
  intro a1
  unfold State.rename
  try dsimp only
  repeat' first
    | (with_reducible first | assumption | intro _ | apply State.modCore_keeps | apply ite_keeps | apply foldl_keeps)
    | split
    | dsimp only
    | with_reducible apply keeps_upd

theorem State.unlodge_keeps {s : State} (h : s.keeps m q) : ∀ a1, (@State.unlodge s a1).keeps m q := by
  intro a1
  unfold State.unlodge
  try dsimp only
  repeat' first
    | (with_reducible first | assumption | intro _ | apply State.modCore_keeps | apply ite_keeps | apply foldl_keeps)
    | split
    | dsimp only
    | with_reducible apply keeps_upd

theorem State.dispatch_keeps {s : State} (h : s.keeps m q) : ∀ a1, (@State.dispatch s a1).keeps m q := by
  intro a1
  unfold State.dispatch
  try dsimp only
  repeat' first
    | (with_reducible first | assumption | intro _ | apply State.modCore_keeps | apply State.unlodge_keeps | apply ite_keeps)
    | (with_reducible first | apply foldl_keeps)
    | split
    | dsimp only
    | with_reducible apply keeps_upd

theorem State.lodge_keeps {s : State} (h : s.keeps m q) : ∀ a1 a2, (@State.lodge s a1 a2).keeps m q := by
  intro a1 a2
  unfold State.lodge
  try dsimp only
  repeat' first
    | (with_reducible first | assumption | intro _ | apply State.coreEvent_keeps | apply State.modCore_keeps | apply ite_keeps)
    | (with_reducible first | apply foldl_keeps)
    | split
    | dsimp only
    | with_reducible apply keeps_upd

theorem State.resultLand_keeps {s : State} (h : s.keeps m q) : ∀ a1 a2 a3, (@State.resultLand s a1 a2 a3).keeps m q := by
  intro a1 a2 a3
  unfold State.resultLand
  try dsimp only
  repeat' first
    | (with_reducible first | assumption | intro _ | apply State.modCore_keeps | apply State.unlodge_keeps | apply ite_keeps)
    | (with_reducible first | apply foldl_keeps)
    | split
    | dsimp only
    | with_reducible apply keeps_upd

end Sys2Proof.Machine
end

