-- ==== Sys2Proof/Laws/KeepCommit.lean ====
section
/-! SUPPORT. Every operation of Machine/Commit.lean keeps the byte memories canonical and the queue as it stands. -/

namespace Sys2Proof.Machine

variable {m : Prop} {q : List Instr}

theorem State.commitAct_keeps {s : State} (h : s.keeps m q) : ∀ a1 a2, (@State.commitAct s a1 a2).keeps m q := by
  intro a1 a2
  unfold State.commitAct
  try dsimp only
  repeat' first
    | (with_reducible first | assumption | intro _ | apply State.modCore_keeps | apply State.set_keeps)
    | (with_reducible first | apply State.wcFlushAll_keeps | apply State.modCache_keeps | apply ite_keeps | apply foldl_keeps)
    | split
    | dsimp only
    | with_reducible apply keeps_upd

theorem State.commitTrap_keeps {s : State} (h : s.keeps m q) : ∀ a1 a2 a3, (@State.commitTrap s a1 a2 a3).keeps m q := by
  intro a1 a2 a3
  unfold State.commitTrap
  try dsimp only
  repeat' first
    | (with_reducible first | assumption | intro _ | apply State.callEntry_keeps | apply State.trapReturn_keeps | apply ite_keeps)
    | (with_reducible first | apply foldl_keeps)
    | split
    | dsimp only
    | with_reducible apply keeps_upd

theorem State.applyCtl_keeps {s : State} (h : s.keeps m q) : ∀ a1, (@State.applyCtl s a1).keeps m q := by
  intro a1
  unfold State.applyCtl
  try dsimp only
  repeat' first
    | (with_reducible first | assumption | intro _ | apply State.set_keeps | apply State.modCache_keeps)
    | (with_reducible first | apply State.modCore_keeps | apply ite_keeps | apply foldl_keeps)
    | split
    | dsimp only
    | with_reducible apply keeps_upd

theorem State.rinkCommit_keeps {s : State} (h : s.keeps m q) : ∀ a1 a2, (@State.rinkCommit s a1 a2).keeps m q := by
  intro a1 a2
  unfold State.rinkCommit
  try dsimp only
  repeat' first
    | (with_reducible first | assumption | intro _ | apply State.modCore_keeps | apply ite_keeps | apply foldl_keeps)
    | split
    | dsimp only
    | with_reducible apply keeps_upd

theorem State.countCommit_keeps {s : State} (h : s.keeps m q) : ∀ a1 a2, (@State.countCommit s a1 a2).keeps m q := by
  intro a1 a2
  unfold State.countCommit
  try dsimp only
  repeat' first
    | (with_reducible first | assumption | intro _ | apply State.pmuCount_keeps | apply State.pmuFix_keeps)
    | (with_reducible first | apply State.tdAdd_keeps | apply State.tdUnpend_keeps | apply ite_keeps | apply foldl_keeps)
    | split
    | dsimp only
    | with_reducible apply keeps_upd

theorem State.orderSquash_keeps {s : State} (h : s.keeps m q) : ∀ a1 a2, (@State.orderSquash s a1 a2).keeps m q := by
  intro a1 a2
  unfold State.orderSquash
  try dsimp only
  repeat' first
    | (with_reducible first | assumption | intro _ | apply State.coreEvent_keeps | apply State.squash_keeps | apply ite_keeps)
    | (with_reducible first | apply foldl_keeps)
    | split
    | dsimp only
    | with_reducible apply keeps_upd

theorem State.commitState_keeps {s : State} (h : s.keeps m q) : ∀ a1 a2 a3 a4, (@State.commitState s a1 a2 a3 a4).keeps m q := by
  intro a1 a2 a3 a4
  unfold State.commitState
  try dsimp only
  repeat' first
    | (with_reducible first | assumption | intro _ | apply State.countCommit_keeps | apply State.orderSquash_keeps)
    | (with_reducible first | apply State.modCore_keeps | apply State.rinkCommit_keeps | apply State.squash_keeps)
    | (with_reducible first | apply State.commitAct_keeps | apply State.applyCtl_keeps | apply ite_keeps | apply foldl_keeps)
    | split
    | dsimp only
    | with_reducible apply keeps_upd

theorem State.carveCommit_keeps {s : State} (h : s.keeps m q) : ∀ a1, (@State.carveCommit s a1).keeps m q := by
  intro a1
  unfold State.carveCommit
  try dsimp only
  repeat' first
    | (with_reducible first | assumption | intro _ | apply State.modCore_keeps | apply State.commitState_keeps)
    | (with_reducible first | apply State.commitTrap_keeps | apply ite_keeps | apply foldl_keeps)
    | split
    | dsimp only
    | with_reducible apply keeps_upd

theorem State.faultRaise_keeps {s : State} (h : s.keeps m q) : ∀ a1, (@State.faultRaise s a1).keeps m q := by
  intro a1
  unfold State.faultRaise
  try dsimp only
  repeat' first
    | (with_reducible first | assumption | intro _ | apply State.faultEntry_keeps | apply State.commitState_keeps)
    | (with_reducible first | apply ite_keeps | apply foldl_keeps)
    | split
    | dsimp only
    | with_reducible apply keeps_upd

theorem State.stuckStride_keeps {s : State} (h : s.keeps m q) : ∀ a1 a2, (@State.stuckStride s a1 a2).keeps m q := by
  intro a1 a2
  unfold State.stuckStride
  try dsimp only
  repeat' first
    | (with_reducible first | assumption | intro _ | apply State.plainEntry_keeps | apply State.squash_keeps | apply ite_keeps)
    | (with_reducible first | apply foldl_keeps)
    | split
    | dsimp only
    | with_reducible apply keeps_upd

theorem State.oldestQueueSquash_keeps {s : State} (h : s.keeps m q) : ∀ a1, (@State.oldestQueueSquash s a1).keeps m q := by
  intro a1
  unfold State.oldestQueueSquash
  try dsimp only
  repeat' first
    | (with_reducible first | assumption | intro _ | apply State.squashYounger_keeps | apply ite_keeps | apply foldl_keeps)
    | split
    | dsimp only
    | with_reducible apply keeps_upd

theorem State.specReissue_keeps {s : State} (h : s.keeps m q) : ∀ a1 a2, (@State.specReissue s a1 a2).keeps m q := by
  intro a1 a2
  unfold State.specReissue
  try dsimp only
  repeat' first
    | (with_reducible first | assumption | intro _ | apply State.modCore_keeps | apply State.loadPiece_keeps | apply ite_keeps)
    | (with_reducible first | apply foldl_keeps)
    | split
    | dsimp only
    | with_reducible apply keeps_upd

theorem State.atomicFar_keeps {s : State} (h : s.keeps m q) : ∀ a1 a2 a3, (@State.atomicFar s a1 a2 a3).keeps m q := by
  intro a1 a2 a3
  unfold State.atomicFar
  try dsimp only
  repeat' first
    | (with_reducible first | assumption | intro _ | apply State.modCore_keeps | apply State.send_keeps | apply ite_keeps)
    | (with_reducible first | apply foldl_keeps)
    | split
    | dsimp only
    | with_reducible apply keeps_upd

theorem State.atomicPerform_keeps {s : State} (h : s.keeps m q) : ∀ a1 a2, (@State.atomicPerform s a1 a2).keeps m q := by
  intro a1 a2
  unfold State.atomicPerform
  try dsimp only
  repeat' first
    | (with_reducible first | assumption | intro _ | apply State.wcFlushAll_keeps | apply State.modCore_keeps)
    | (with_reducible first | apply State.padGrant_keeps | apply State.padWr_keeps | apply State.writeOwned_keeps)
    | (with_reducible first | apply State.atomicFar_keeps | apply ite_keeps | apply foldl_keeps)
    | split
    | dsimp only
    | with_reducible apply keeps_upd

end Sys2Proof.Machine
end

