-- ==== Sys2Proof/Laws/KeepTile.lean ====
section
/-! SUPPORT. Every operation of Machine/Tile.lean keeps the byte memories canonical and the queue as it stands. -/

namespace Sys2Proof.Machine

variable {m : Prop} {q : List Instr}

theorem State.storeErr_keeps {s : State} (h : s.keeps m q) : ∀ a1 a2 a3 a4 a5 a6 a7, (@State.storeErr s a1 a2 a3 a4 a5 a6 a7).keeps m q := by
  intro a1 a2 a3 a4 a5 a6 a7
  unfold State.storeErr
  try dsimp only
  repeat' first
    | (with_reducible first | assumption | intro _ | apply State.set_keeps | apply State.lecEvent_keeps | apply ite_keeps)
    | (with_reducible first | apply foldl_keeps)
    | split
    | dsimp only
    | with_reducible apply keeps_upd

theorem State.sqDrop_keeps {s : State} (h : s.keeps m q) : ∀ a1 a2, (@State.sqDrop s a1 a2).keeps m q := by
  intro a1 a2
  unfold State.sqDrop
  try dsimp only
  repeat' first
    | (with_reducible first | assumption | intro _ | apply State.modCore_keeps | apply ite_keeps | apply foldl_keeps)
    | split
    | dsimp only
    | with_reducible apply keeps_upd

theorem State.sqRefuse_keeps {s : State} (h : s.keeps m q) : ∀ a1 a2 a3, (@State.sqRefuse s a1 a2 a3).keeps m q := by
  intro a1 a2 a3
  unfold State.sqRefuse
  try dsimp only
  repeat' first
    | (with_reducible first | assumption | intro _ | apply State.sqDrop_keeps | apply State.storeErr_keeps)
    | (with_reducible first | apply State.modCore_keeps | apply ite_keeps | apply foldl_keeps)
    | split
    | dsimp only
    | with_reducible apply keeps_upd

theorem State.selfMod_keeps {s : State} (h : s.keeps m q) : ∀ a1 a2, (@State.selfMod s a1 a2).keeps m q := by
  intro a1 a2
  unfold State.selfMod
  try dsimp only
  repeat' first
    | (with_reducible first | assumption | intro _ | apply State.modCache_keeps | apply State.modCore_keeps)
    | (with_reducible first | apply State.coreEvent_keeps | apply State.squash_keeps | apply ite_keeps | apply foldl_keeps)
    | split
    | dsimp only
    | with_reducible apply keeps_upd

theorem State.wcStore_keeps {s : State} (h : s.keeps m q) : ∀ a1 a2, (@State.wcStore s a1 a2).keeps m q := by
  intro a1 a2
  unfold State.wcStore
  try dsimp only
  repeat' first
    | (with_reducible first | assumption | intro _ | apply State.wcFlush_keeps | apply State.modCore_keeps | apply ite_keeps)
    | (with_reducible first | apply foldl_keeps)
    | split
    | dsimp only
    | with_reducible apply keeps_upd

theorem State.sqSent_keeps {s : State} (h : s.keeps m q) : ∀ a1 a2, (@State.sqSent s a1 a2).keeps m q := by
  intro a1 a2
  unfold State.sqSent
  try dsimp only
  repeat' first
    | (with_reducible first | assumption | intro _ | apply State.modCore_keeps | apply ite_keeps | apply foldl_keeps)
    | split
    | dsimp only
    | with_reducible apply keeps_upd

theorem State.l2Maint_keeps {s : State} (h : s.keeps m q) : ∀ a1 a2 a3 a4, (@State.l2Maint s a1 a2 a3 a4).1.keeps m q := by
  intro a1 a2 a3 a4
  unfold State.l2Maint
  try dsimp only
  repeat' first
    | (with_reducible first | assumption | intro _ | apply State.setCache_keeps | apply State.send_keeps | apply ite_keeps)
    | (with_reducible first | apply foldl_keeps | apply ite_fst_keeps | refine fst_keeps (by assumption) ?_)
    | (with_reducible first | refine snd_keeps (by assumption) ?_)
    | split
    | dsimp only
    | with_reducible apply keeps_upd

theorem State.l2Cleaned_keeps {s : State} (h : s.keeps m q) : ∀ a1 a2 a3 a4, (@State.l2Cleaned s a1 a2 a3 a4).keeps m q := by
  intro a1 a2 a3 a4
  unfold State.l2Cleaned
  try dsimp only
  repeat' first
    | (with_reducible first | assumption | intro _ | apply State.modCache_keeps | apply State.send_keeps)
    | (with_reducible first | apply State.setCache_keeps | apply ite_keeps | apply foldl_keeps)
    | split
    | dsimp only
    | with_reducible apply keeps_upd

theorem State.maintL2_keeps {s : State} (h : s.keeps m q) : ∀ a1 a2 a3 a4, (@State.maintL2 s a1 a2 a3 a4).keeps m q := by
  intro a1 a2 a3 a4
  unfold State.maintL2
  try dsimp only
  repeat' first
    | (with_reducible first | assumption | intro _ | apply State.sqSent_keeps | apply State.sqDrop_keeps)
    | (with_reducible first | apply State.l2Maint_keeps | apply ite_keeps | apply foldl_keeps | apply ite_fst_keeps)
    | (with_reducible first | refine fst_keeps (by assumption) ?_ | refine snd_keeps (by assumption) ?_)
    | split
    | dsimp only
    | with_reducible apply keeps_upd

theorem State.lockFill_keeps {s : State} (h : s.keeps m q) : ∀ a1 a2 a3 a4, (@State.lockFill s a1 a2 a3 a4).keeps m q := by
  intro a1 a2 a3 a4
  unfold State.lockFill
  try dsimp only
  repeat' first
    | (with_reducible first | assumption | intro _ | apply State.sqDrop_keeps | apply State.sqSent_keeps | apply State.send_keeps)
    | (with_reducible first | apply State.setCache_keeps | apply State.set_keeps | apply State.askLine_keeps | apply ite_keeps)
    | (with_reducible first | apply foldl_keeps)
    | split
    | dsimp only
    | with_reducible apply keeps_upd

theorem State.maintDrain_keeps {s : State} (h : s.keeps m q) : ∀ a1 a2 a3 a4, (@State.maintDrain s a1 a2 a3 a4).keeps m q := by
  intro a1 a2 a3 a4
  unfold State.maintDrain
  try dsimp only
  repeat' first
    | (with_reducible first | assumption | intro _ | apply State.sqDrop_keeps | apply State.maintL2_keeps)
    | (with_reducible first | apply State.modCache_keeps | apply State.lockFill_keeps | apply State.sqSent_keeps)
    | (with_reducible first | apply State.send_keeps | apply ite_keeps | apply foldl_keeps)
    | split
    | dsimp only
    | with_reducible apply keeps_upd

theorem State.storeDrain_keeps {s : State} (h : s.keeps m q) : ∀ a1 a2, (@State.storeDrain s a1 a2).keeps m q := by
  intro a1 a2
  unfold State.storeDrain
  try dsimp only
  repeat' first
    | (with_reducible first | assumption | intro _ | apply State.wcFlushAll_keeps | apply State.maintDrain_keeps)
    | (with_reducible first | apply State.askLine_keeps | apply State.coreEvent_keeps | apply State.selfMod_keeps)
    | (with_reducible first | apply State.sqDrop_keeps | apply State.padWr_keeps | apply State.padGrant_keeps)
    | (with_reducible first | apply State.writeOwned_keeps | apply State.wcStore_keeps | apply State.send_keeps)
    | (with_reducible first | apply State.sqSent_keeps | apply ite_keeps | apply foldl_keeps)
    | split
    | dsimp only
    | with_reducible apply keeps_upd

theorem State.wcTimeout_keeps {s : State} (h : s.keeps m q) : ∀ a1 a2, (@State.wcTimeout s a1 a2).keeps m q := by
  intro a1 a2
  unfold State.wcTimeout
  try dsimp only
  repeat' first
    | (with_reducible first | assumption | intro _ | apply State.wcFlush_keeps | apply ite_keeps | apply foldl_keeps)
    | split
    | dsimp only
    | with_reducible apply keeps_upd

theorem State.devSAck_keeps {s : State} (h : s.keeps m q) : ∀ a1 a2, (@State.devSAck s a1 a2).keeps m q := by
  intro a1 a2
  unfold State.devSAck
  try dsimp only
  repeat' first
    | (with_reducible first | assumption | intro _ | apply State.sqDrop_keeps | apply ite_keeps | apply foldl_keeps)
    | split
    | dsimp only
    | with_reducible apply keeps_upd

theorem State.storeRefusal_keeps {s : State} (h : s.keeps m q) : ∀ a1 a2 a3, (@State.storeRefusal s a1 a2 a3).keeps m q := by
  intro a1 a2 a3
  unfold State.storeRefusal
  try dsimp only
  repeat' first
    | (with_reducible first | assumption | intro _ | apply State.sqRefuse_keeps | apply ite_keeps | apply foldl_keeps)
    | split
    | dsimp only
    | with_reducible apply keeps_upd

theorem State.storeRsp_keeps {s : State} (h : s.keeps m q) : ∀ a1 a2 a3, (@State.storeRsp s a1 a2 a3).keeps m q := by
  intro a1 a2 a3
  unfold State.storeRsp
  try dsimp only
  repeat' first
    | (with_reducible first | assumption | intro _ | apply State.sqDrop_keeps | apply State.modCore_keeps | apply ite_keeps)
    | (with_reducible first | apply foldl_keeps)
    | split
    | dsimp only
    | with_reducible apply keeps_upd

theorem State.wcRsp_keeps {s : State} (h : s.keeps m q) : ∀ a1 a2 a3, (@State.wcRsp s a1 a2 a3).keeps m q := by
  intro a1 a2 a3
  unfold State.wcRsp
  try dsimp only
  repeat' first
    | (with_reducible first | assumption | intro _ | apply State.modCore_keeps | apply State.storeErr_keeps | apply ite_keeps)
    | (with_reducible first | apply foldl_keeps)
    | split
    | dsimp only
    | with_reducible apply keeps_upd

theorem State.loadRsp_keeps {s : State} (h : s.keeps m q) : ∀ a1 a2 a3 a4 a5 a6 a7, (@State.loadRsp s a1 a2 a3 a4 a5 a6 a7).keeps m q := by
  intro a1 a2 a3 a4 a5 a6 a7
  unfold State.loadRsp
  try dsimp only
  repeat' first
    | (with_reducible first | assumption | intro _ | apply State.modCore_keeps | apply ite_keeps | apply foldl_keeps)
    | split
    | dsimp only
    | with_reducible apply keeps_upd

theorem State.fillRsp_keeps {s : State} (h : s.keeps m q) : ∀ a1 a2 a3 a4 a5 a6, (@State.fillRsp s a1 a2 a3 a4 a5 a6).keeps m q := by
  intro a1 a2 a3 a4 a5 a6
  unfold State.fillRsp
  try dsimp only
  repeat' first
    | (with_reducible first | assumption | intro _ | apply State.modCache_keeps | apply State.fillLocked_keeps)
    | (with_reducible first | apply State.set_keeps | apply State.fillL2_keeps | apply State.intoL1_keeps)
    | (with_reducible first | apply State.modCore_keeps | apply State.sqDrop_keeps | apply State.coreEvent_keeps)
    | (with_reducible first | apply State.sqRefuse_keeps | apply ite_keeps | apply foldl_keeps)
    | split
    | dsimp only
    | with_reducible apply keeps_upd

theorem State.fillUnsent_keeps {s : State} (h : s.keeps m q) : ∀ a1 a2 a3, (@State.fillUnsent s a1 a2 a3).keeps m q := by
  intro a1 a2 a3
  unfold State.fillUnsent
  try dsimp only
  repeat' first
    | (with_reducible first | assumption | intro _ | apply State.modCache_keeps | apply State.modCore_keeps)
    | (with_reducible first | apply State.askLine_keeps | apply ite_keeps | apply foldl_keeps)
    | split
    | dsimp only
    | with_reducible apply keeps_upd

theorem State.fetchNcRsp_keeps {s : State} (h : s.keeps m q) : ∀ a1 a2 a3 a4 a5 a6, (@State.fetchNcRsp s a1 a2 a3 a4 a5 a6).keeps m q := by
  intro a1 a2 a3 a4 a5 a6
  unfold State.fetchNcRsp
  try dsimp only
  repeat' first
    | (with_reducible first | assumption | intro _ | apply State.modCore_keeps | apply ite_keeps | apply foldl_keeps)
    | split
    | dsimp only
    | with_reducible apply keeps_upd

theorem State.atomRsp_keeps {s : State} (h : s.keeps m q) : ∀ a1 a2 a3 a4 a5, (@State.atomRsp s a1 a2 a3 a4 a5).keeps m q := by
  intro a1 a2 a3 a4 a5
  unfold State.atomRsp
  try dsimp only
  repeat' first
    | (with_reducible first | assumption | intro _ | apply State.modCore_keeps | apply ite_keeps | apply foldl_keeps)
    | split
    | dsimp only
    | with_reducible apply keeps_upd

theorem State.maintRsp_keeps {s : State} (h : s.keeps m q) : ∀ a1 a2 a3 a4, (@State.maintRsp s a1 a2 a3 a4).keeps m q := by
  intro a1 a2 a3 a4
  unfold State.maintRsp
  try dsimp only
  repeat' first
    | (with_reducible first | assumption | intro _ | apply State.sqRefuse_keeps | apply State.sqDrop_keeps)
    | (with_reducible first | apply State.l2Cleaned_keeps | apply ite_keeps | apply foldl_keeps)
    | split
    | dsimp only
    | with_reducible apply keeps_upd

theorem State.walkError_keeps {s : State} (h : s.keeps m q) : ∀ a1 a2 a3 a4 a5, (@State.walkError s a1 a2 a3 a4 a5).keeps m q := by
  intro a1 a2 a3 a4 a5
  unfold State.walkError
  try dsimp only
  repeat' first
    | (with_reducible first | assumption | intro _ | apply State.rasRecord_keeps | apply State.raiseErr_keeps)
    | (with_reducible first | apply State.modCore_keeps | apply ite_keeps | apply foldl_keeps)
    | split
    | dsimp only
    | with_reducible apply keeps_upd

theorem State.adRsp_keeps {s : State} (h : s.keeps m q) : ∀ a1 a2 a3 a4, (@State.adRsp s a1 a2 a3 a4).keeps m q := by
  intro a1 a2 a3 a4
  unfold State.adRsp
  try dsimp only
  repeat' first
    | (with_reducible first | assumption | intro _ | apply State.modCore_keeps | apply State.walkError_keeps | apply ite_keeps)
    | (with_reducible first | apply foldl_keeps)
    | split
    | dsimp only
    | with_reducible apply keeps_upd

theorem State.pageWalk_keeps {s : State} (h : s.keeps m q) : ∀ a1 a2, (@State.pageWalk s a1 a2).keeps m q := by
  intro a1 a2
  unfold State.pageWalk
  try dsimp only
  repeat' first
    | (with_reducible first | assumption | intro _ | apply State.coreEvent_keeps | apply State.modCore_keeps)
    | (with_reducible first | apply State.askLine_keeps | apply State.walkError_keeps | apply ite_keeps | apply foldl_keeps)
    | split
    | dsimp only
    | with_reducible apply keeps_upd

theorem State.adUpdate_keeps {s : State} (h : s.keeps m q) : ∀ a1 a2, (@State.adUpdate s a1 a2).keeps m q := by
  intro a1 a2
  unfold State.adUpdate
  try dsimp only
  repeat' first
    | (with_reducible first | assumption | intro _ | apply State.modCore_keeps | apply State.send_keeps | apply ite_keeps)
    | (with_reducible first | apply foldl_keeps)
    | split
    | dsimp only
    | with_reducible apply keeps_upd

theorem State.xinvSend_keeps {s : State} (h : s.keeps m q) : ∀ a1, (@State.xinvSend s a1).keeps m q := by
  intro a1
  unfold State.xinvSend
  try dsimp only
  repeat' first
    | (with_reducible first | assumption | intro _ | apply State.send_keeps | apply State.modCore_keeps | apply ite_keeps)
    | (with_reducible first | apply foldl_keeps)
    | split
    | dsimp only
    | with_reducible apply keeps_upd

theorem State.xinvRsp_keeps {s : State} (h : s.keeps m q) : ∀ a1 a2, (@State.xinvRsp s a1 a2).keeps m q := by
  intro a1 a2
  unfold State.xinvRsp
  try dsimp only
  repeat' first
    | (with_reducible first | assumption | intro _ | apply State.modCore_keeps | apply ite_keeps | apply foldl_keeps)
    | split
    | dsimp only
    | with_reducible apply keeps_upd

theorem State.xinvSquash_keeps {s : State} (h : s.keeps m q) : ∀ a1, (@State.xinvSquash s a1).keeps m q := by
  intro a1
  unfold State.xinvSquash
  try dsimp only
  repeat' first
    | (with_reducible first | assumption | intro _ | apply State.modCore_keeps | apply State.squash_keeps | apply ite_keeps)
    | (with_reducible first | apply foldl_keeps)
    | split
    | dsimp only
    | with_reducible apply keeps_upd

theorem State.xinvRecv_keeps {s : State} (h : s.keeps m q) : ∀ a1 a2, (@State.xinvRecv s a1 a2).keeps m q := by
  intro a1 a2
  unfold State.xinvRecv
  try dsimp only
  repeat' first
    | (with_reducible first | assumption | intro _ | apply State.served_keeps | apply State.replyAck_keeps)
    | (with_reducible first | apply State.modCore_keeps | apply State.coreEvent_keeps | apply State.xinvSquash_keeps)
    | (with_reducible first | apply ite_keeps | apply foldl_keeps)
    | split
    | dsimp only
    | with_reducible apply keeps_upd

theorem State.xinvAck_keeps {s : State} (h : s.keeps m q) : ∀ a1, (@State.xinvAck s a1).keeps m q := by
  intro a1
  unfold State.xinvAck
  try dsimp only
  repeat' first
    | (with_reducible first | assumption | intro _ | apply State.xinvSquash_keeps | apply State.replyAck_keeps)
    | (with_reducible first | apply State.modCore_keeps | apply ite_keeps | apply foldl_keeps)
    | split
    | dsimp only
    | with_reducible apply keeps_upd

theorem State.tlbFlush_keeps {s : State} (h : s.keeps m q) : ∀ a1, (@State.tlbFlush s a1).keeps m q := by
  intro a1
  unfold State.tlbFlush
  try dsimp only
  repeat' first
    | (with_reducible first | assumption | intro _ | apply State.modCore_keeps | apply ite_keeps | apply foldl_keeps)
    | split
    | dsimp only
    | with_reducible apply keeps_upd

theorem State.snoopReply_keeps {s : State} (h : s.keeps m q) : ∀ a1 a2 a3 a4, (@State.snoopReply s a1 a2 a3 a4).keeps m q := by
  intro a1 a2 a3 a4
  unfold State.snoopReply
  try dsimp only
  repeat' first
    | (with_reducible first | assumption | intro _ | apply State.niOffer_keeps | apply State.replyAck_keeps | apply ite_keeps)
    | (with_reducible first | apply foldl_keeps)
    | split
    | dsimp only
    | with_reducible apply keeps_upd

theorem State.snpInv_keeps {s : State} (h : s.keeps m q) : ∀ a1 a2, (@State.snpInv s a1 a2).keeps m q := by
  intro a1 a2
  unfold State.snpInv
  try dsimp only
  repeat' first
    | (with_reducible first | assumption | intro _ | apply State.served_keeps | apply State.snoopReply_keeps)
    | (with_reducible first | apply State.setCache_keeps | apply ite_keeps | apply foldl_keeps)
    | split
    | dsimp only
    | with_reducible apply keeps_upd

theorem State.snpSh_keeps {s : State} (h : s.keeps m q) : ∀ a1 a2, (@State.snpSh s a1 a2).keeps m q := by
  intro a1 a2
  unfold State.snpSh
  try dsimp only
  repeat' first
    | (with_reducible first | assumption | intro _ | apply State.served_keeps | apply State.snoopReply_keeps)
    | (with_reducible first | apply State.setCache_keeps | apply ite_keeps | apply foldl_keeps)
    | split
    | dsimp only
    | with_reducible apply keeps_upd

theorem State.ringSent_keeps {s : State} (h : s.keeps m q) : ∀ a1 a2 a3, (@State.ringSent s a1 a2 a3).keeps m q := by
  intro a1 a2 a3
  unfold State.ringSent
  try dsimp only
  repeat' first
    | (with_reducible first | assumption | intro _ | apply ite_keeps | apply foldl_keeps)
    | split
    | dsimp only
    | with_reducible apply keeps_upd

theorem State.pmbRing_keeps {s : State} (h : s.keeps m q) : ∀ a1, (@State.pmbRing s a1).keeps m q := by
  intro a1
  unfold State.pmbRing
  try dsimp only
  repeat' first
    | (with_reducible first | assumption | intro _ | apply State.setCore_keeps | apply State.ringSent_keeps | apply ite_keeps)
    | (with_reducible first | apply foldl_keeps)
    | split
    | dsimp only
    | with_reducible apply keeps_upd

theorem State.pmbComplete_keeps {s : State} (h : s.keeps m q) : ∀ a1 a2 a3 a4, (@State.pmbComplete s a1 a2 a3 a4).keeps m q := by
  intro a1 a2 a3 a4
  unfold State.pmbComplete
  try dsimp only
  repeat' first
    | (with_reducible first | assumption | intro _ | apply State.padGrant_keeps | apply State.padWrWord_keeps)
    | (with_reducible first | apply State.lecEvent_keeps | apply State.modCore_keeps | apply ite_keeps | apply foldl_keeps)
    | split
    | dsimp only
    | with_reducible apply keeps_upd

theorem State.pmbTimeout_keeps {s : State} (h : s.keeps m q) : ∀ a1, (@State.pmbTimeout s a1).keeps m q := by
  intro a1
  unfold State.pmbTimeout
  try dsimp only
  repeat' first
    | (with_reducible first | assumption | intro _ | apply State.lecEvent_keeps | apply State.modCore_keeps | apply ite_keeps)
    | (with_reducible first | apply foldl_keeps)
    | split
    | dsimp only
    | with_reducible apply keeps_upd

end Sys2Proof.Machine
end

