-- ==== Sys2Proof/Laws/KeepLift.lean ====
section
/-! SUPPORT. Every operation of Machine/Lift.lean keeps the byte memories canonical and the queue as it stands. -/

namespace Sys2Proof.Machine

variable {m : Prop} {q : List Instr}

theorem State.psDecide_keeps {s : State} (h : s.keeps m q) : ∀ a1, (@State.psDecide s a1).keeps m q := by
  intro a1
  unfold State.psDecide
  try dsimp only
  repeat' first
    | (with_reducible first | assumption | intro _ | apply State.set_keeps | apply ite_keeps | apply foldl_keeps)
    | split
    | dsimp only
    | with_reducible apply keeps_upd

theorem State.psAll_keeps {s : State} (h : s.keeps m q) : (@State.psAll s).keeps m q := by
  unfold State.psAll
  try dsimp only
  repeat' first
    | (with_reducible first | assumption | intro _ | apply State.psDecide_keeps | apply ite_keeps | apply foldl_keeps)
    | split
    | dsimp only
    | with_reducible apply keeps_upd

theorem State.psMove_keeps {s : State} (h : s.keeps m q) : ∀ a1, (@State.psMove s a1).keeps m q := by
  intro a1
  unfold State.psMove
  try dsimp only
  repeat' first
    | (with_reducible first | assumption | intro _ | apply State.psAll_keeps | apply State.set_keeps | apply ite_keeps)
    | (with_reducible first | apply foldl_keeps)
    | split
    | dsimp only
    | with_reducible apply keeps_upd

theorem State.energyAdd_keeps {s : State} (h : s.keeps m q) : (@State.energyAdd s).keeps m q := by
  unfold State.energyAdd
  try dsimp only
  repeat' first
    | (with_reducible first | assumption | intro _ | apply State.inc_keeps | apply ite_keeps | apply foldl_keeps)
    | split
    | dsimp only
    | with_reducible apply keeps_upd

theorem State.powerEstimate_keeps {s : State} (h : s.keeps m q) : ∀ a1 a2, (@State.powerEstimate s a1 a2).keeps m q := by
  intro a1 a2
  unfold State.powerEstimate
  try dsimp only
  repeat' first
    | (with_reducible first | assumption | intro _ | apply State.energyAdd_keeps | apply State.psAll_keeps)
    | (with_reducible first | apply State.set_keeps | apply ite_keeps | apply foldl_keeps)
    | split
    | dsimp only
    | with_reducible apply keeps_upd

theorem State.coreHalt_keeps {s : State} (h : s.keeps m q) : ∀ a1 a2, (@State.coreHalt s a1 a2).keeps m q := by
  intro a1 a2
  unfold State.coreHalt
  try dsimp only
  repeat' first
    | (with_reducible first | assumption | intro _ | apply State.modCore_keeps | apply State.squash_keeps | apply ite_keeps)
    | (with_reducible first | apply foldl_keeps)
    | split
    | dsimp only
    | with_reducible apply keeps_upd

theorem State.cachesOut_keeps {s : State} (h : s.keeps m q) : ∀ a1 a2, (@State.cachesOut s a1 a2).keeps m q := by
  intro a1 a2
  unfold State.cachesOut
  try dsimp only
  repeat' first
    | (with_reducible first | assumption | intro _ | apply State.modCache_keeps | apply State.evictL2_keeps | apply ite_keeps)
    | (with_reducible first | apply foldl_keeps)
    | split
    | dsimp only
    | with_reducible apply keeps_upd

theorem State.powerLost_keeps {s : State} (h : s.keeps m q) : ∀ a1 a2, (@State.powerLost s a1 a2).keeps m q := by
  intro a1 a2
  unfold State.powerLost
  try dsimp only
  repeat' first
    | (with_reducible first | assumption | intro _ | apply State.modCore_keeps | apply State.clearBlock_keeps)
    | (with_reducible first | apply State.setCache_keeps | apply State.modCache_keeps | apply ite_keeps | apply foldl_keeps)
    | split
    | dsimp only
    | with_reducible apply keeps_upd

theorem State.tileEntry_keeps {s : State} (h : s.keeps m q) : ∀ a1, (@State.tileEntry s a1).keeps m q := by
  intro a1
  unfold State.tileEntry
  try dsimp only
  repeat' first
    | (with_reducible first | assumption | intro _ | apply State.set_keeps | apply State.modCore_keeps)
    | (with_reducible first | apply State.coreHalt_keeps | apply State.setGate_keeps | apply State.cachesOut_keeps)
    | (with_reducible first | apply State.wcFlushAll_keeps | apply State.closeGate_keeps | apply State.lecWake_keeps)
    | (with_reducible first | apply State.psAll_keeps | apply State.powerLost_keeps | apply ite_keeps | apply foldl_keeps)
    | split
    | dsimp only
    | with_reducible apply keeps_upd

theorem State.coreRestart_keeps {s : State} (h : s.keeps m q) : ∀ a1, (@State.coreRestart s a1).keeps m q := by
  intro a1
  unfold State.coreRestart
  try dsimp only
  repeat' first
    | (with_reducible first | assumption | intro _ | apply State.modCore_keeps | apply State.set_keeps | apply ite_keeps)
    | (with_reducible first | apply foldl_keeps)
    | split
    | dsimp only
    | with_reducible apply keeps_upd

theorem State.powerUp_keeps {s : State} (h : s.keeps m q) : ∀ a1, (@State.powerUp s a1).keeps m q := by
  intro a1
  unfold State.powerUp
  try dsimp only
  repeat' first
    | (with_reducible first | assumption | intro _ | apply State.setGate_keeps | apply State.set_keeps)
    | (with_reducible first | apply State.coreRestart_keeps | apply State.modCore_keeps | apply State.psDecide_keeps)
    | (with_reducible first | apply ite_keeps | apply foldl_keeps)
    | split
    | dsimp only
    | with_reducible apply keeps_upd

theorem State.tileWake_keeps {s : State} (h : s.keeps m q) : ∀ a1, (@State.tileWake s a1).keeps m q := by
  intro a1
  unfold State.tileWake
  try dsimp only
  repeat' first
    | (with_reducible first | assumption | intro _ | apply State.psDecide_keeps | apply State.modCore_keeps)
    | (with_reducible first | apply State.set_keeps | apply State.powerUp_keeps | apply ite_keeps | apply foldl_keeps)
    | split
    | dsimp only
    | with_reducible apply keeps_upd

theorem State.tokenGrant_keeps {s : State} (h : s.keeps m q) : (@State.tokenGrant s).keeps m q := by
  unfold State.tokenGrant
  try dsimp only
  repeat' first
    | (with_reducible first | assumption | intro _ | apply State.set_keeps | apply ite_keeps | apply foldl_keeps)
    | split
    | dsimp only
    | with_reducible apply keeps_upd

theorem State.tokenReturn_keeps {s : State} (h : s.keeps m q) : (@State.tokenReturn s).keeps m q := by
  unfold State.tokenReturn
  try dsimp only
  repeat' first
    | (with_reducible first | assumption | intro _ | apply ite_keeps | apply foldl_keeps)
    | split
    | dsimp only
    | with_reducible apply keeps_upd

theorem State.wakeEvent_keeps {s : State} (h : s.keeps m q) : ∀ a1, (@State.wakeEvent s a1).keeps m q := by
  intro a1
  unfold State.wakeEvent
  try dsimp only
  repeat' first
    | (with_reducible first | assumption | intro _ | apply State.lecWake_keeps | apply State.pkWake_keeps)
    | (with_reducible first | apply State.pkEdge_keeps | apply ite_keeps | apply foldl_keeps)
    | split
    | dsimp only
    | with_reducible apply keeps_upd

theorem State.wakeTmr_keeps {s : State} (h : s.keeps m q) : (@State.wakeTmr s).keeps m q := by
  unfold State.wakeTmr
  try dsimp only
  repeat' first
    | (with_reducible first | assumption | intro _ | apply State.pkWake_keeps | apply ite_keeps | apply foldl_keeps)
    | split
    | dsimp only
    | with_reducible apply keeps_upd

theorem State.tmrPost_keeps {s : State} (h : s.keeps m q) : (@State.tmrPost s).keeps m q := by
  unfold State.tmrPost
  try dsimp only
  repeat' first
    | (with_reducible first | assumption | intro _ | apply ite_keeps | apply foldl_keeps)
    | split
    | dsimp only
    | with_reducible apply keeps_upd

theorem State.pkAbort_keeps {s : State} (h : s.keeps m q) : ∀ a1 a2 a3 a4, (@State.pkAbort s a1 a2 a3 a4).keeps m q := by
  intro a1 a2 a3 a4
  unfold State.pkAbort
  try dsimp only
  repeat' first
    | (with_reducible first | assumption | intro _ | apply State.set_keeps | apply State.satInc_keeps)
    | (with_reducible first | apply State.raiseErr_keeps | apply ite_keeps | apply foldl_keeps)
    | split
    | dsimp only
    | with_reducible apply keeps_upd

theorem State.pk1Entry_keeps {s : State} (h : s.keeps m q) : ∀ a1, (@State.pk1Entry s a1).keeps m q := by
  intro a1
  unfold State.pk1Entry
  try dsimp only
  repeat' first
    | (with_reducible first | assumption | intro _ | apply State.set_keeps | apply State.pkWake_keeps)
    | (with_reducible first | apply State.hubsResume_keeps | apply State.pkAbort_keeps | apply State.modHub_keeps)
    | (with_reducible first | apply State.cacheFlush_keeps | apply State.selfRefresh_keeps | apply ite_keeps | apply foldl_keeps)
    | split
    | dsimp only
    | with_reducible apply keeps_upd

theorem State.reloadCycles_keeps {s : State} (h : s.keeps m q) : (@State.reloadCycles s).keeps m q := by
  unfold State.reloadCycles
  try dsimp only
  repeat' first
    | (with_reducible first | assumption | intro _ | apply ite_keeps | apply foldl_keeps)
    | split
    | dsimp only
    | with_reducible apply keeps_upd

theorem State.pk1Exit_keeps {s : State} (h : s.keeps m q) : (@State.pk1Exit s).keeps m q := by
  unfold State.pk1Exit
  try dsimp only
  repeat' first
    | (with_reducible first | assumption | intro _ | apply State.selfRefreshExit_keeps | apply State.hubsResume_keeps)
    | (with_reducible first | apply State.reloadCycles_keeps | apply State.set_keeps | apply ite_keeps | apply foldl_keeps)
    | split
    | dsimp only
    | with_reducible apply keeps_upd

end Sys2Proof.Machine
end

