-- ==== Sys2Proof/Laws/KeepLec.lean ====
section
/-! SUPPORT. Every operation of Machine/Lec.lean keeps the byte memories canonical and the queue as it stands. -/

namespace Sys2Proof.Machine

variable {m : Prop} {q : List Instr}

theorem State.lecClaim_keeps {s : State} (h : s.keeps m q) : ∀ a1 a2, (@State.lecClaim s a1 a2).1.keeps m q := by
  intro a1 a2
  unfold State.lecClaim
  try dsimp only
  repeat' first
    | (with_reducible first | assumption | intro _ | apply State.claimLec_keeps | apply ite_keeps | apply foldl_keeps)
    | (with_reducible first | apply ite_fst_keeps | refine fst_keeps (by assumption) ?_ | refine snd_keeps (by assumption) ?_)
    | split
    | dsimp only
    | with_reducible apply keeps_upd

theorem State.lecStray_keeps {s : State} (h : s.keeps m q) : ∀ a1, (@State.lecStray s a1).keeps m q := by
  intro a1
  unfold State.lecStray
  try dsimp only
  repeat' first
    | (with_reducible first | assumption | intro _ | apply State.satInc_keeps | apply ite_keeps | apply foldl_keeps)
    | split
    | dsimp only
    | with_reducible apply keeps_upd

theorem State.lecComplete_keeps {s : State} (h : s.keeps m q) : ∀ a1 a2 a3, (@State.lecComplete s a1 a2 a3).keeps m q := by
  intro a1 a2 a3
  unfold State.lecComplete
  try dsimp only
  repeat' first
    | (with_reducible first | assumption | intro _ | apply State.lecStray_keeps | apply State.notice_keeps)
    | (with_reducible first | apply State.rasRecord_keeps | apply State.set_keeps | apply State.lecWake_keeps)
    | (with_reducible first | apply State.setLec_keeps | apply ite_keeps | apply foldl_keeps)
    | split
    | dsimp only
    | with_reducible apply keeps_upd

theorem State.lecDoorbell_keeps {s : State} (h : s.keeps m q) : ∀ a1 a2, (@State.lecDoorbell s a1 a2).keeps m q := by
  intro a1 a2
  unfold State.lecDoorbell
  try dsimp only
  repeat' first
    | (with_reducible first | assumption | intro _ | apply State.set_keeps | apply State.lecEvent_keeps | apply ite_keeps)
    | (with_reducible first | apply foldl_keeps)
    | split
    | dsimp only
    | with_reducible apply keeps_upd

theorem State.lecPendWrite_keeps {s : State} (h : s.keeps m q) : ∀ a1 a2 a3, (@State.lecPendWrite s a1 a2 a3).keeps m q := by
  intro a1 a2 a3
  unfold State.lecPendWrite
  try dsimp only
  repeat' first
    | (with_reducible first | assumption | intro _ | apply State.lecWake_keeps | apply State.set_keeps | apply ite_keeps)
    | (with_reducible first | apply foldl_keeps)
    | split
    | dsimp only
    | with_reducible apply keeps_upd

theorem State.lecKick_keeps {s : State} (h : s.keeps m q) : ∀ a1, (@State.lecKick s a1).keeps m q := by
  intro a1
  unfold State.lecKick
  try dsimp only
  repeat' first
    | (with_reducible first | assumption | intro _ | apply State.setLec_keeps | apply ite_keeps | apply foldl_keeps)
    | split
    | dsimp only
    | with_reducible apply keeps_upd

theorem State.wdogTick_keeps {s : State} (h : s.keeps m q) : ∀ a1, (@State.wdogTick s a1).keeps m q := by
  intro a1
  unfold State.wdogTick
  try dsimp only
  repeat' first
    | (with_reducible first | assumption | intro _ | apply State.setLec_keeps | apply ite_keeps | apply foldl_keeps)
    | split
    | dsimp only
    | with_reducible apply keeps_upd

theorem State.wdogFirst_keeps {s : State} (h : s.keeps m q) : ∀ a1, (@State.wdogFirst s a1).keeps m q := by
  intro a1
  unfold State.wdogFirst
  try dsimp only
  repeat' first
    | (with_reducible first | assumption | intro _ | apply State.lecWake_keeps | apply ite_keeps | apply foldl_keeps)
    | split
    | dsimp only
    | with_reducible apply keeps_upd

theorem State.wdogExpire_keeps {s : State} (h : s.keeps m q) : ∀ a1, (@State.wdogExpire s a1).keeps m q := by
  intro a1
  unfold State.wdogExpire
  try dsimp only
  repeat' first
    | (with_reducible first | assumption | intro _ | apply State.notice_keeps | apply State.rasRecord_keeps)
    | (with_reducible first | apply State.setLec_keeps | apply State.set_keeps | apply ite_keeps | apply foldl_keeps)
    | split
    | dsimp only
    | with_reducible apply keeps_upd

theorem State.evtArrive_keeps {s : State} (h : s.keeps m q) : ∀ a1 a2, (@State.evtArrive s a1 a2).keeps m q := by
  intro a1 a2
  unfold State.evtArrive
  try dsimp only
  repeat' first
    | (with_reducible first | assumption | intro _ | apply State.lecEvent_keeps | apply ite_keeps | apply foldl_keeps)
    | split
    | dsimp only
    | with_reducible apply keeps_upd

theorem State.lecPost_keeps {s : State} (h : s.keeps m q) {s1 : State} (h1 : s1.keeps m q) : ∀ a2 a3 a4 a5, (@State.lecPost s s1 a2 a3 a4 a5).keeps m q := by
  intro a2 a3 a4 a5
  unfold State.lecPost
  try dsimp only
  repeat' first
    | (with_reducible first | assumption | intro _ | apply State.lecComplete_keeps | apply State.lecDoorbell_keeps)
    | (with_reducible first | apply State.lecPendWrite_keeps | apply State.lecKick_keeps | apply State.lecWake_keeps)
    | (with_reducible first | apply ite_keeps | apply foldl_keeps)
    | split
    | dsimp only
    | with_reducible apply keeps_upd

end Sys2Proof.Machine
end

