-- ==== Sys2Proof/Laws/KeepArrays.lean ====
section
/-! SUPPORT. Every operation of Machine/Arrays.lean keeps the byte memories canonical and the queue as it stands. -/

namespace Sys2Proof.Machine

variable {m : Prop} {q : List Instr}

theorem State.rangeAct_keeps {s : State} (h : s.keeps m q) : ∀ a1 a2 a3, (@State.rangeAct s a1 a2 a3).keeps m q := by
  intro a1 a2 a3
  unfold State.rangeAct
  try dsimp only
  repeat' first
    | (with_reducible first | assumption | intro _ | apply State.modCache_keeps | apply State.l2Maint_keeps | apply ite_keeps)
    | (with_reducible first | apply foldl_keeps | apply ite_fst_keeps | refine fst_keeps (by assumption) ?_)
    | (with_reducible first | refine snd_keeps (by assumption) ?_)
    | split
    | dsimp only
    | with_reducible apply keeps_upd

theorem State.rangePump_keeps {s : State} (h : s.keeps m q) : ∀ a1, (@State.rangePump s a1).keeps m q := by
  intro a1
  unfold State.rangePump
  try dsimp only
  repeat' first
    | (with_reducible first | assumption | intro _ | apply State.send_keeps | apply State.modCache_keeps | apply ite_keeps)
    | (with_reducible first | apply foldl_keeps)
    | split
    | dsimp only
    | with_reducible apply keeps_upd

theorem State.rangeEnd_keeps {s : State} (h : s.keeps m q) : ∀ a1 a2, (@State.rangeEnd s a1 a2).keeps m q := by
  intro a1 a2
  unfold State.rangeEnd
  try dsimp only
  repeat' first
    | (with_reducible first | assumption | intro _ | apply State.modCache_keeps | apply State.set_keeps)
    | (with_reducible first | apply State.lecEvent_keeps | apply ite_keeps | apply foldl_keeps)
    | split
    | dsimp only
    | with_reducible apply keeps_upd

theorem State.rangeGo_keeps {s : State} (h : s.keeps m q) : ∀ a1, (@State.rangeGo s a1).keeps m q := by
  intro a1
  unfold State.rangeGo
  try dsimp only
  repeat' first
    | (with_reducible first | assumption | intro _ | apply State.set_keeps | apply State.modCache_keeps)
    | (with_reducible first | apply State.rangeEnd_keeps | apply State.rangePump_keeps | apply ite_keeps | apply foldl_keeps)
    | split
    | dsimp only
    | with_reducible apply keeps_upd

theorem State.rangeAbort_keeps {s : State} (h : s.keeps m q) : ∀ a1, (@State.rangeAbort s a1).keeps m q := by
  intro a1
  unfold State.rangeAbort
  try dsimp only
  repeat' first
    | (with_reducible first | assumption | intro _ | apply State.modCache_keeps | apply ite_keeps | apply foldl_keeps)
    | split
    | dsimp only
    | with_reducible apply keeps_upd

theorem State.rangeRsp_keeps {s : State} (h : s.keeps m q) : ∀ a1 a2 a3 a4, (@State.rangeRsp s a1 a2 a3 a4).keeps m q := by
  intro a1 a2 a3 a4
  unfold State.rangeRsp
  try dsimp only
  repeat' first
    | (with_reducible first | assumption | intro _ | apply State.l2Cleaned_keeps | apply State.modCache_keeps)
    | (with_reducible first | apply State.rangePump_keeps | apply State.set_keeps | apply ite_keeps | apply foldl_keeps)
    | split
    | dsimp only
    | with_reducible apply keeps_upd

theorem State.rangeDone_keeps {s : State} (h : s.keeps m q) : ∀ a1, (@State.rangeDone s a1).keeps m q := by
  intro a1
  unfold State.rangeDone
  try dsimp only
  repeat' first
    | (with_reducible first | assumption | intro _ | apply State.modCache_keeps | apply State.set_keeps)
    | (with_reducible first | apply State.rangeAct_keeps | apply State.rangeEnd_keeps | apply ite_keeps | apply foldl_keeps)
    | split
    | dsimp only
    | with_reducible apply keeps_upd

theorem State.lockWays_keeps {s : State} (h : s.keeps m q) : ∀ a1 a2 a3, (@State.lockWays s a1 a2 a3).keeps m q := by
  intro a1 a2 a3
  unfold State.lockWays
  try dsimp only
  repeat' first
    | (with_reducible first | assumption | intro _ | apply State.modCache_keeps | apply State.set_keeps | apply ite_keeps)
    | (with_reducible first | apply foldl_keeps)
    | split
    | dsimp only
    | with_reducible apply keeps_upd

theorem State.lockEmptied_keeps {s : State} (h : s.keeps m q) : ∀ a1, (@State.lockEmptied s a1).keeps m q := by
  intro a1
  unfold State.lockEmptied
  try dsimp only
  repeat' first
    | (with_reducible first | assumption | intro _ | apply State.set_keeps | apply State.modCache_keeps)
    | (with_reducible first | apply State.evictL2_keeps | apply ite_keeps | apply foldl_keeps)
    | split
    | dsimp only
    | with_reducible apply keeps_upd

theorem State.l2Sweep_keeps {s : State} (h : s.keeps m q) : ∀ a1 a2 a3 a4, (@State.l2Sweep s a1 a2 a3 a4).keeps m q := by
  intro a1 a2 a3 a4
  unfold State.l2Sweep
  try dsimp only
  repeat' first
    | (with_reducible first | assumption | intro _ | apply State.modCache_keeps | apply State.classErr_keeps)
    | (with_reducible first | apply State.evictL2_keeps | apply ite_keeps | apply foldl_keeps)
    | split
    | dsimp only
    | with_reducible apply keeps_upd

theorem State.sliceSweep_keeps {s : State} (h : s.keeps m q) : ∀ a1 a2 a3 a4, (@State.sliceSweep s a1 a2 a3 a4).keeps m q := by
  intro a1 a2 a3 a4
  unfold State.sliceSweep
  try dsimp only
  repeat' first
    | (with_reducible first | assumption | intro _ | apply State.setSlice_keeps | apply State.classErr_keeps)
    | (with_reducible first | apply State.llcDrop_keeps | apply ite_keeps | apply foldl_keeps)
    | split
    | dsimp only
    | with_reducible apply keeps_upd

theorem State.padClear_keeps {s : State} (h : s.keeps m q) : ∀ a1, (@State.padClear s a1).keeps m q := by
  intro a1
  unfold State.padClear
  try dsimp only
  repeat' first
    | (with_reducible first | assumption | intro _ | apply State.padGrant_keeps | apply ite_keeps | apply foldl_keeps)
    | (with_reducible first | apply Mem.wf_wrs | apply Mem.wf_foldl_wr | apply Mem.wf_clear)
    | (with_reducible first | refine State.keeps.pads (m := m) (q := q) ?_ (by assumption))
    | (with_reducible first | refine State.keeps.sram (m := m) (q := q) ?_ (by assumption))
    | (with_reducible first | refine State.keeps.near (m := m) (q := q) ?_ (by assumption))
    | (with_reducible first | refine State.keeps.tuck (m := m) (q := q) ?_ (by assumption))
    | (with_reducible first | refine State.keeps.pending (m := m) (q := q) ?_ | apply And.intro)
    | split
    | dsimp only
    | simp only [keeps_mk]

theorem State.padZeroed_keeps {s : State} (h : s.keeps m q) : ∀ a1, (@State.padZeroed s a1).keeps m q := by
  intro a1
  unfold State.padZeroed
  try dsimp only
  repeat' first
    | (with_reducible first | assumption | intro _ | apply State.set_keeps | apply State.padClear_keeps | apply ite_keeps)
    | (with_reducible first | apply foldl_keeps)
    | split
    | dsimp only
    | with_reducible apply keeps_upd

theorem State.padCopyGo_keeps {s : State} (h : s.keeps m q) : ∀ a1, (@State.padCopyGo s a1).keeps m q := by
  intro a1
  unfold State.padCopyGo
  try dsimp only
  repeat' first
    | (with_reducible first | assumption | intro _ | apply State.set_keeps | apply ite_keeps | apply foldl_keeps)
    | split
    | dsimp only
    | with_reducible apply keeps_upd

theorem State.padCopy_keeps {s : State} (h : s.keeps m q) : ∀ a1 a2, (@State.padCopy s a1 a2).keeps m q := by
  intro a1 a2
  unfold State.padCopy
  try dsimp only
  repeat' first
    | (with_reducible first | assumption | intro _ | apply State.padGrant_keeps | apply ite_keeps | apply foldl_keeps)
    | (with_reducible first | apply Mem.wf_wrs | apply Mem.wf_foldl_wr | apply Mem.wf_clear)
    | (with_reducible first | refine State.keeps.pads (m := m) (q := q) ?_ (by assumption))
    | (with_reducible first | refine State.keeps.sram (m := m) (q := q) ?_ (by assumption))
    | (with_reducible first | refine State.keeps.near (m := m) (q := q) ?_ (by assumption))
    | (with_reducible first | refine State.keeps.tuck (m := m) (q := q) ?_ (by assumption))
    | (with_reducible first | refine State.keeps.pending (m := m) (q := q) ?_ | apply And.intro)
    | split
    | dsimp only
    | simp only [keeps_mk]

theorem State.padCopyDone_keeps {s : State} (h : s.keeps m q) : ∀ a1, (@State.padCopyDone s a1).keeps m q := by
  intro a1
  unfold State.padCopyDone
  try dsimp only
  repeat' first
    | (with_reducible first | assumption | intro _ | apply State.set_keeps | apply State.padClear_keeps)
    | (with_reducible first | apply State.padCopy_keeps | apply ite_keeps | apply foldl_keeps)
    | split
    | dsimp only
    | with_reducible apply keeps_upd

theorem State.padColumn_keeps {s : State} (h : s.keeps m q) : ∀ a1 a2 a3 a4, (@State.padColumn s a1 a2 a3 a4).keeps m q := by
  intro a1 a2 a3 a4
  unfold State.padColumn
  try dsimp only
  repeat' first
    | (with_reducible first | assumption | intro _ | apply State.lineErr_keeps | apply ite_keeps | apply foldl_keeps)
    | split
    | dsimp only
    | with_reducible apply keeps_upd

theorem State.padErrlog_keeps {s : State} (h : s.keeps m q) : ∀ a1 a2 a3 a4, (@State.padErrlog s a1 a2 a3 a4).keeps m q := by
  intro a1 a2 a3 a4
  unfold State.padErrlog
  try dsimp only
  repeat' first
    | (with_reducible first | assumption | intro _ | apply State.padColumn_keeps | apply State.set_keeps | apply State.free_keeps)
    | (with_reducible first | apply ite_keeps | apply foldl_keeps | apply ite_fst_keeps | refine fst_keeps (by assumption) ?_)
    | (with_reducible first | refine snd_keeps (by assumption) ?_)
    | split
    | dsimp only
    | with_reducible apply keeps_upd

theorem State.eccEffect_keeps {s : State} (h : s.keeps m q) : ∀ a1 a2 a3, (@State.eccEffect s a1 a2 a3).keeps m q := by
  intro a1 a2 a3
  unfold State.eccEffect
  try dsimp only
  repeat' first
    | (with_reducible first | assumption | intro _ | apply State.modCache_keeps | apply State.evictL2_keeps)
    | (with_reducible first | apply State.modSlice_keeps | apply State.llcDrop_keeps | apply State.padErrlog_keeps)
    | (with_reducible first | apply State.free_keeps | apply ite_keeps | apply foldl_keeps | apply ite_fst_keeps)
    | (with_reducible first | refine fst_keeps (by assumption) ?_ | refine snd_keeps (by assumption) ?_)
    | split
    | dsimp only
    | with_reducible apply keeps_upd

theorem State.padSweep_keeps {s : State} (h : s.keeps m q) : ∀ a1 a2, (@State.padSweep s a1 a2).keeps m q := by
  intro a1 a2
  unfold State.padSweep
  try dsimp only
  repeat' first
    | (with_reducible first | assumption | intro _ | apply State.padGrant_keeps | apply State.classErr_keeps)
    | (with_reducible first | apply State.padErrlog_keeps | apply State.free_keeps | apply ite_keeps | apply foldl_keeps)
    | (with_reducible first | apply ite_fst_keeps | refine fst_keeps (by assumption) ?_ | refine snd_keeps (by assumption) ?_)
    | split
    | dsimp only
    | with_reducible apply keeps_upd

end Sys2Proof.Machine
end

