-- ==== Sys2Proof/Laws/KeepRas.lean ====
section
/-! SUPPORT. Every operation of Machine/Ras.lean keeps the byte memories canonical and the queue as it stands. -/

namespace Sys2Proof.Machine

variable {m : Prop} {q : List Instr}

theorem State.blockStops_keeps {s : State} (h : s.keeps m q) : ∀ a1, (@State.blockStops s a1).keeps m q := by
  intro a1
  unfold State.blockStops
  try dsimp only
  repeat' first
    | (with_reducible first | assumption | intro _ | apply State.modCore_keeps | apply State.modCache_keeps)
    | (with_reducible first | apply State.setSlice_keeps | apply ite_keeps | apply foldl_keeps)
    | split
    | dsimp only
    | with_reducible apply keeps_upd

theorem State.rasReport_keeps {s : State} (h : s.keeps m q) : ∀ a1 a2 a3, (@State.rasReport s a1 a2 a3).keeps m q := by
  intro a1 a2 a3
  unfold State.rasReport
  try dsimp only
  repeat' first
    | (with_reducible first | assumption | intro _ | apply State.classErr_keeps | apply State.nearEcc_keeps)
    | (with_reducible first | apply State.eccEffect_keeps | apply State.blockStops_keeps | apply ite_keeps | apply foldl_keeps)
    | split
    | dsimp only
    | with_reducible apply keeps_upd

theorem State.noticeTile_keeps {s : State} (h : s.keeps m q) : ∀ a1 a2, (@State.noticeTile s a1 a2).keeps m q := by
  intro a1 a2
  unfold State.noticeTile
  try dsimp only
  repeat' first
    | (with_reducible first | assumption | intro _ | apply State.sendEvt_keeps | apply ite_keeps | apply foldl_keeps)
    | split
    | dsimp only
    | with_reducible apply keeps_upd

theorem State.claimWatchdog_keeps {s : State} (h : s.keeps m q) : ∀ a1 a2, (@State.claimWatchdog s a1 a2).keeps m q := by
  intro a1 a2
  unfold State.claimWatchdog
  try dsimp only
  repeat' first
    | (with_reducible first | assumption | intro _ | apply State.rasRecord_keeps | apply State.setLec_keeps)
    | (with_reducible first | apply State.lecWake_keeps | apply State.noticeTile_keeps | apply ite_keeps | apply foldl_keeps)
    | split
    | dsimp only
    | with_reducible apply keeps_upd

theorem State.patrolWatchdog_keeps {s : State} (h : s.keeps m q) : (@State.patrolWatchdog s).keeps m q := by
  unfold State.patrolWatchdog
  try dsimp only
  repeat' first
    | (with_reducible first | assumption | intro _ | apply State.rasRecord_keeps | apply ite_keeps | apply foldl_keeps)
    | split
    | dsimp only
    | with_reducible apply keeps_upd

theorem State.agingRead_keeps {s : State} (h : s.keeps m q) : ∀ a1, (@State.agingRead s a1).keeps m q := by
  intro a1
  unfold State.agingRead
  try dsimp only
  repeat' first
    | (with_reducible first | assumption | intro _ | apply State.rasRecord_keeps | apply State.rasAsk_keeps | apply ite_keeps)
    | (with_reducible first | apply foldl_keeps)
    | split
    | dsimp only
    | with_reducible apply keeps_upd

theorem State.rasEnd_keeps {s : State} (h : s.keeps m q) : ∀ a1, (@State.rasEnd s a1).keeps m q := by
  intro a1
  unfold State.rasEnd
  try dsimp only
  repeat' first
    | (with_reducible first | assumption | intro _ | apply State.set_keeps | apply ite_keeps | apply foldl_keeps)
    | split
    | dsimp only
    | with_reducible apply keeps_upd

theorem State.rasStep_keeps {s : State} (h : s.keeps m q) : ∀ a1 a2 a3, (@State.rasStep s a1 a2 a3).keeps m q := by
  intro a1 a2 a3
  unfold State.rasStep
  try dsimp only
  repeat' first
    | (with_reducible first | assumption | intro _ | apply State.set_keeps | apply ite_keeps | apply foldl_keeps)
    | split
    | dsimp only
    | with_reducible apply keeps_upd

theorem State.rasStart_keeps {s : State} (h : s.keeps m q) : ∀ a1 a2 a3, (@State.rasStart s a1 a2 a3).keeps m q := by
  intro a1 a2 a3
  unfold State.rasStart
  try dsimp only
  repeat' first
    | (with_reducible first | assumption | intro _ | apply State.set_keeps | apply State.rasStep_keeps | apply State.rasEnd_keeps)
    | (with_reducible first | apply State.padClear_keeps | apply State.setCache_keeps | apply State.setCore_keeps)
    | (with_reducible first | apply State.setGate_keeps | apply ite_keeps | apply foldl_keeps)
    | split
    | dsimp only
    | with_reducible apply keeps_upd

theorem State.rasGo_keeps {s : State} (h : s.keeps m q) : ∀ a1 a2 a3, (@State.rasGo s a1 a2 a3).keeps m q := by
  intro a1 a2 a3
  unfold State.rasGo
  try dsimp only
  repeat' first
    | (with_reducible first | assumption | intro _ | apply State.set_keeps | apply State.rasStart_keeps | apply ite_keeps)
    | (with_reducible first | apply foldl_keeps)
    | split
    | dsimp only
    | with_reducible apply keeps_upd

theorem State.movePage_keeps {s : State} (h : s.keeps m q) : ∀ a1 a2, (@State.movePage s a1 a2).keeps m q := by
  intro a1 a2
  unfold State.movePage
  try dsimp only
  repeat' first
    | (with_reducible first | assumption | intro _ | apply State.set_keeps | apply ite_keeps | apply foldl_keeps)
    | split
    | dsimp only
    | with_reducible apply keeps_upd

theorem State.moveState_keeps {s : State} (h : s.keeps m q) : ∀ a1 a2 a3, (@State.moveState s a1 a2 a3).keeps m q := by
  intro a1 a2 a3
  unfold State.moveState
  try dsimp only
  repeat' first
    | (with_reducible first | assumption | intro _ | apply State.movePage_keeps | apply State.set_keeps)
    | (with_reducible first | apply State.setLec_keeps | apply State.setCore_keeps | apply ite_keeps | apply foldl_keeps)
    | split
    | dsimp only
    | with_reducible apply keeps_upd

theorem State.swapMap_keeps {s : State} (h : s.keeps m q) : ∀ a1, (@State.swapMap s a1).keeps m q := by
  intro a1
  unfold State.swapMap
  try dsimp only
  repeat' first
    | (with_reducible first | assumption | intro _ | apply State.tmapWrite_keeps | apply ite_keeps | apply foldl_keeps)
    | split
    | dsimp only
    | with_reducible apply keeps_upd

theorem State.epochSwitch_keeps {s : State} (h : s.keeps m q) : (@State.epochSwitch s).keeps m q := by
  unfold State.epochSwitch
  try dsimp only
  repeat' first
    | (with_reducible first | assumption | intro _ | apply State.set_keeps | apply State.tblSend_keeps | apply ite_keeps)
    | (with_reducible first | apply foldl_keeps)
    | split
    | dsimp only
    | with_reducible apply keeps_upd

theorem State.ownedPoison_keeps {s : State} (h : s.keeps m q) : ∀ a1, (@State.ownedPoison s a1).keeps m q := by
  intro a1
  unfold State.ownedPoison
  try dsimp only
  repeat' first
    | (with_reducible first | assumption | intro _ | apply State.poisonHome_keeps | apply State.dirDrop_keeps | apply ite_keeps)
    | (with_reducible first | apply foldl_keeps)
    | split
    | dsimp only
    | with_reducible apply keeps_upd

theorem State.snoopsOff_keeps {s : State} (h : s.keeps m q) : ∀ a1, (@State.snoopsOff s a1).keeps m q := by
  intro a1
  unfold State.snoopsOff
  try dsimp only
  repeat' first
    | (with_reducible first | assumption | intro _ | apply State.replyAck_keeps | apply State.served_keeps | apply ite_keeps)
    | (with_reducible first | apply foldl_keeps)
    | split
    | dsimp only
    | with_reducible apply keeps_upd

theorem State.stopOff_keeps {s : State} (h : s.keeps m q) : ∀ a1, (@State.stopOff s a1).keeps m q := by
  intro a1
  unfold State.stopOff
  try dsimp only
  repeat' first
    | (with_reducible first | assumption | intro _ | apply State.padClear_keeps | apply State.setCache_keeps)
    | (with_reducible first | apply State.setCore_keeps | apply State.powerLost_keeps | apply State.set_keeps | apply ite_keeps)
    | (with_reducible first | apply foldl_keeps)
    | split
    | dsimp only
    | with_reducible apply keeps_upd

theorem State.swapRelease_keeps {s : State} (h : s.keeps m q) : ∀ a1, (@State.swapRelease s a1).keeps m q := by
  intro a1
  unfold State.swapRelease
  try dsimp only
  repeat' first
    | (with_reducible first | assumption | intro _ | apply State.setGate_keeps | apply State.set_keeps)
    | (with_reducible first | apply State.coreRestart_keeps | apply State.modCore_keeps | apply State.stopOff_keeps)
    | (with_reducible first | apply State.psDecide_keeps | apply State.satInc_keeps | apply State.sendEvt_keeps)
    | (with_reducible first | apply State.lecWake_keeps | apply State.rasEnd_keeps | apply State.repairEntry_keeps)
    | (with_reducible first | apply State.rasRecord_keeps | apply ite_keeps | apply foldl_keeps)
    | split
    | dsimp only
    | with_reducible apply keeps_upd

theorem State.swapGo_keeps {s : State} (h : s.keeps m q) : ∀ a1, (@State.swapGo s a1).keeps m q := by
  intro a1
  unfold State.swapGo
  try dsimp only
  repeat' first
    | (with_reducible first | assumption | intro _ | apply State.snoopsOff_keeps | apply State.modCore_keeps)
    | (with_reducible first | apply State.ownedPoison_keeps | apply State.closeGate_keeps | apply State.padCopy_keeps)
    | (with_reducible first | apply State.rasStep_keeps | apply State.moveState_keeps | apply State.wcFlushAll_keeps)
    | (with_reducible first | apply State.coreHalt_keeps | apply State.rangeEnd_keeps | apply State.rangeAbort_keeps)
    | (with_reducible first | apply State.setGate_keeps | apply State.cachesOut_keeps | apply State.epochSwitch_keeps)
    | (with_reducible first | apply State.swapMap_keeps | apply State.swapRelease_keeps | apply ite_keeps | apply foldl_keeps)
    | split
    | dsimp only
    | with_reducible apply keeps_upd

theorem State.bremapSet_keeps {s : State} (h : s.keeps m q) (bs : List Nat) (f : State → Nat → State)
    (hf : ∀ s b, s.keeps m q → (f s b).keeps m q) : (s.bremapSet bs f).keeps m q :=
  foldl_keeps (fun _ b hs => State.tblCopy_keeps hs (hf _ b hs) _ _ _) _ h

theorem State.lanesMove_keeps {s : State} (h : s.keeps m q) : ∀ a1 a2, (@State.lanesMove s a1 a2).keeps m q := by
  intro a1 a2
  unfold State.lanesMove
  try dsimp only
  repeat' first
    | (with_reducible first | assumption | intro _ | apply State.set_keeps | apply State.tblSend_keeps | apply ite_keeps)
    | (with_reducible first | apply foldl_keeps)
    | split
    | dsimp only
    | with_reducible apply keeps_upd

theorem State.scanOut_keeps {s : State} (h : s.keeps m q) : ∀ a1, (@State.scanOut s a1).keeps m q := by
  intro a1
  unfold State.scanOut
  try dsimp only
  repeat' first
    | (with_reducible first | assumption | intro _ | apply State.modCache_keeps | apply State.sliceWriteMem_keeps)
    | (with_reducible first | apply State.setSlice_keeps | apply State.sendEvt_keeps | apply State.free_keeps | apply ite_keeps)
    | (with_reducible first | apply foldl_keeps | apply ite_fst_keeps | refine fst_keeps (by assumption) ?_)
    | (with_reducible first | refine snd_keeps (by assumption) ?_)
    | split
    | dsimp only
    | with_reducible apply keeps_upd

theorem State.retireGo_keeps {s : State} (h : s.keeps m q) : ∀ a1, (@State.retireGo s a1).keeps m q := by
  intro a1
  unfold State.retireGo
  try dsimp only
  repeat' first
    | (with_reducible first | assumption | intro _ | apply State.rasStep_keeps | apply State.bremapSet_keeps)
    | (with_reducible first | apply State.set_keeps | apply State.scanOut_keeps | apply State.drainGo_keeps)
    | (with_reducible first | apply State.drainDone_keeps | apply State.lanesMove_keeps | apply State.setSlice_keeps)
    | (with_reducible first | apply State.rasEnd_keeps | apply State.repairEntry_keeps | apply State.rasRecord_keeps)
    | (with_reducible first | apply ite_keeps | apply foldl_keeps)
    | split
    | dsimp only
    | with_reducible apply keeps_upd

theorem State.rasGoOn_keeps {s : State} (h : s.keeps m q) : (@State.rasGoOn s).keeps m q := by
  unfold State.rasGoOn
  try dsimp only
  repeat' first
    | (with_reducible first | assumption | intro _ | apply State.pkWake_keeps | apply State.rasEnd_keeps)
    | (with_reducible first | apply State.retireGo_keeps | apply State.swapGo_keeps | apply ite_keeps | apply foldl_keeps)
    | split
    | dsimp only
    | with_reducible apply keeps_upd

theorem State.rasAdvance_keeps {s : State} (h : s.keeps m q) : (@State.rasAdvance s).keeps m q := by
  unfold State.rasAdvance
  try dsimp only
  repeat' first
    | (with_reducible first | assumption | intro _ | apply State.rasGoOn_keeps | apply State.rasStart_keeps | apply ite_keeps)
    | (with_reducible first | apply foldl_keeps)
    | split
    | dsimp only
    | with_reducible apply keeps_upd

theorem State.handshakeTimeout_keeps {s : State} (h : s.keeps m q) : ∀ a1 a2 a3, (@State.handshakeTimeout s a1 a2 a3).keeps m q := by
  intro a1 a2 a3
  unfold State.handshakeTimeout
  try dsimp only
  repeat' first
    | (with_reducible first | assumption | intro _ | apply State.rasAsk_keeps | apply State.set_keeps | apply State.pkAbort_keeps)
    | (with_reducible first | apply ite_keeps | apply foldl_keeps)
    | split
    | dsimp only
    | with_reducible apply keeps_upd

theorem State.wireFails_keeps {s : State} (h : s.keeps m q) : ∀ a1 a2, (@State.wireFails s a1 a2).keeps m q := by
  intro a1 a2
  unfold State.wireFails
  try dsimp only
  repeat' first
    | (with_reducible first | assumption | intro _ | apply ite_keeps | apply foldl_keeps)
    | split
    | dsimp only
    | with_reducible apply keeps_upd

theorem State.wireSpare_keeps {s : State} (h : s.keeps m q) : ∀ a1 a2, (@State.wireSpare s a1 a2).keeps m q := by
  intro a1 a2
  unfold State.wireSpare
  try dsimp only
  repeat' first
    | (with_reducible first | assumption | intro _ | apply State.rasRecord_keeps | apply State.wireFails_keeps | apply ite_keeps)
    | (with_reducible first | apply foldl_keeps)
    | split
    | dsimp only
    | with_reducible apply keeps_upd

theorem State.linkLoss_keeps {s : State} (h : s.keeps m q) : ∀ a1 a2, (@State.linkLoss s a1 a2).keeps m q := by
  intro a1 a2
  unfold State.linkLoss
  try dsimp only
  repeat' first
    | (with_reducible first | assumption | intro _ | apply State.wireFails_keeps | apply State.rasRecord_keeps | apply ite_keeps)
    | (with_reducible first | apply foldl_keeps)
    | split
    | dsimp only
    | with_reducible apply keeps_upd

end Sys2Proof.Machine
end

