-- ==== Sys2Proof/Laws/KeepSplits.lean ====
section
/-! SUPPORT. Every operation of Machine/Splits.lean keeps the byte memories canonical and the queue as it stands. -/

namespace Sys2Proof.Machine

variable {m : Prop} {q : List Instr}

theorem State.tdClr_keeps {s : State} (h : s.keeps m q) : ∀ a1, (@State.tdClr s a1).keeps m q := by
  intro a1
  unfold State.tdClr
  try dsimp only
  repeat' first
    | (with_reducible first | assumption | intro _ | apply State.set_keeps | apply ite_keeps | apply foldl_keeps)
    | split
    | dsimp only
    | with_reducible apply keeps_upd

theorem State.pmuPost_keeps {s : State} (h : s.keeps m q) {s1 : State} (h1 : s1.keeps m q) : ∀ a2 a3 a4, (@State.pmuPost s s1 a2 a3 a4).keeps m q := by
  intro a2 a3 a4
  unfold State.pmuPost
  try dsimp only
  repeat' first
    | (with_reducible first | assumption | intro _ | apply State.tdClr_keeps | apply State.set_keeps | apply ite_keeps)
    | (with_reducible first | apply foldl_keeps)
    | split
    | dsimp only
    | with_reducible apply keeps_upd

theorem State.splitLatch_keeps {s : State} (h : s.keeps m q) : ∀ a1, (@State.splitLatch s a1).keeps m q := by
  intro a1
  unfold State.splitLatch
  try dsimp only
  repeat' first
    | (with_reducible first | assumption | intro _ | apply State.satInc_keeps | apply State.set_keeps | apply State.send_keeps)
    | (with_reducible first | apply ite_keeps | apply foldl_keeps)
    | split
    | dsimp only
    | with_reducible apply keeps_upd

theorem State.splitLine_keeps {s : State} (h : s.keeps m q) : ∀ a1 a2 a3, (@State.splitLine s a1 a2 a3).keeps m q := by
  intro a1 a2 a3
  unfold State.splitLine
  try dsimp only
  repeat' first
    | (with_reducible first | assumption | intro _ | apply State.send_keeps | apply ite_keeps | apply foldl_keeps)
    | split
    | dsimp only
    | with_reducible apply keeps_upd

theorem State.splitRsp_keeps {s : State} (h : s.keeps m q) : ∀ a1 a2 a3 a4, (@State.splitRsp s a1 a2 a3 a4).keeps m q := by
  intro a1 a2 a3 a4
  unfold State.splitRsp
  try dsimp only
  repeat' first
    | (with_reducible first | assumption | intro _ | apply State.set_keeps | apply State.splitLine_keeps | apply State.inc_keeps)
    | (with_reducible first | apply ite_keeps | apply foldl_keeps)
    | split
    | dsimp only
    | with_reducible apply keeps_upd

end Sys2Proof.Machine
end

