-- ==== Sys2Proof/Laws/KeepView.lean ====
section
/-! SUPPORT. Every operation of Machine/View.lean keeps the byte memories canonical and the queue as it stands. -/

namespace Sys2Proof.Machine

variable {m : Prop} {q : List Instr}

theorem State.pageRead_keeps {s : State} (h : s.keeps m q) : ∀ a1 a2 a3, (@State.pageRead s a1 a2 a3).1.keeps m q := by
  intro a1 a2 a3
  unfold State.pageRead
  try dsimp only
  repeat' first
    | (with_reducible first | assumption | intro _ | apply State.conInRead_keeps | apply State.lecClaim_keeps | apply ite_keeps)
    | (with_reducible first | apply foldl_keeps | apply ite_fst_keeps | refine fst_keeps (by assumption) ?_)
    | (with_reducible first | refine snd_keeps (by assumption) ?_)
    | split
    | dsimp only
    | with_reducible apply keeps_upd

end Sys2Proof.Machine
end

