-- ==== Sys2Proof/Laws/KeepPage.lean ====
section
/-! SUPPORT. Every operation of Machine/Page.lean keeps the byte memories canonical and the queue as it stands. -/

namespace Sys2Proof.Machine

variable {m : Prop} {q : List Instr}

theorem State.fldWrite_keeps {s : State} (h : s.keeps m q) {s1 : State} (h1 : s1.keeps m q) : ∀ a2 a3 a4 a5 a6 a7, (@State.fldWrite s s1 a2 a3 a4 a5 a6 a7).keeps m q := by
  intro a2 a3 a4 a5 a6 a7
  unfold State.fldWrite
  try dsimp only
  repeat' first
    | (with_reducible first | assumption | intro _ | apply State.set_keeps | apply State.raiseErr_keeps | apply ite_keeps)
    | (with_reducible first | apply foldl_keeps)
    | split
    | dsimp only
    | with_reducible apply keeps_upd

theorem State.fldsWrite_keeps {s : State} (h : s.keeps m q) : ∀ a1 a2 a3 a4, (@State.fldsWrite s a1 a2 a3 a4).keeps m q := by
  intro a1 a2 a3 a4
  unfold State.fldsWrite
  try dsimp only
  repeat' first
    | (with_reducible first | assumption | intro _ | apply State.fldWrite_keeps | apply ite_keeps | apply foldl_keeps)
    | split
    | dsimp only
    | with_reducible apply keeps_upd

theorem State.ideEst_keeps {s : State} (h : s.keeps m q) : ∀ a1 a2, (@State.ideEst s a1 a2).keeps m q := by
  intro a1 a2
  unfold State.ideEst
  try dsimp only
  repeat' first
    | (with_reducible first | assumption | intro _ | apply State.set_keeps | apply ite_keeps | apply foldl_keeps)
    | split
    | dsimp only
    | with_reducible apply keeps_upd

theorem State.perstFall_keeps {s : State} (h : s.keeps m q) : ∀ a1, (@State.perstFall s a1).keeps m q := by
  intro a1
  unfold State.perstFall
  try dsimp only
  repeat' first
    | (with_reducible first | assumption | intro _ | apply ite_keeps | apply foldl_keeps)
    | split
    | dsimp only
    | with_reducible apply keeps_upd

theorem State.perstRelease_keeps {s : State} (h : s.keeps m q) : ∀ a1, (@State.perstRelease s a1).keeps m q := by
  intro a1
  unfold State.perstRelease
  try dsimp only
  repeat' first
    | (with_reducible first | assumption | intro _ | apply ite_keeps | apply foldl_keeps)
    | split
    | dsimp only
    | with_reducible apply keeps_upd

theorem State.blockStop_keeps {s : State} (h : s.keeps m q) : ∀ a1, (@State.blockStop s a1).keeps m q := by
  intro a1
  unfold State.blockStop
  try dsimp only
  repeat' first
    | (with_reducible first | assumption | intro _ | apply State.set_keeps | apply State.coreHalt_keeps)
    | (with_reducible first | apply State.cachesOut_keeps | apply State.selfRefresh_keeps | apply State.ideEst_keeps)
    | (with_reducible first | apply State.portDown_keeps | apply ite_keeps | apply foldl_keeps)
    | split
    | dsimp only
    | with_reducible apply keeps_upd

theorem State.blockStart_keeps {s : State} (h : s.keeps m q) : ∀ a1, (@State.blockStart s a1).keeps m q := by
  intro a1
  unfold State.blockStart
  try dsimp only
  repeat' first
    | (with_reducible first | assumption | intro _ | apply State.set_keeps | apply State.modCore_keeps | apply ite_keeps)
    | (with_reducible first | apply foldl_keeps)
    | split
    | dsimp only
    | with_reducible apply keeps_upd

theorem State.enablePost_keeps {s : State} (h : s.keeps m q) {s1 : State} (h1 : s1.keeps m q) : ∀ a2, (@State.enablePost s s1 a2).keeps m q := by
  intro a2
  unfold State.enablePost
  try dsimp only
  repeat' first
    | (with_reducible first | assumption | intro _ | apply State.blockStart_keeps | apply State.blockStop_keeps)
    | (with_reducible first | apply State.set_keeps | apply ite_keeps | apply foldl_keeps)
    | split
    | dsimp only
    | with_reducible apply keeps_upd

theorem State.errInj_keeps {s : State} (h : s.keeps m q) : ∀ a1 a2, (@State.errInj s a1 a2).keeps m q := by
  intro a1 a2
  unfold State.errInj
  try dsimp only
  repeat' first
    | (with_reducible first | assumption | intro _ | apply State.classErr_keeps | apply State.raiseErr_keeps | apply ite_keeps)
    | (with_reducible first | apply foldl_keeps)
    | split
    | dsimp only
    | with_reducible apply keeps_upd

theorem State.norm_keeps {s : State} (h : s.keeps m q) : ∀ a1 a2 a3 a4 a5, (@State.norm s a1 a2 a3 a4 a5).keeps m q := by
  intro a1 a2 a3 a4 a5
  unfold State.norm
  try dsimp only
  repeat' first
    | (with_reducible first | assumption | intro _ | apply State.set_keeps | apply ite_keeps | apply foldl_keeps)
    | split
    | dsimp only
    | with_reducible apply keeps_upd

theorem State.predClear_keeps {s : State} (h : s.keeps m q) : ∀ a1, (@State.predClear s a1).keeps m q := by
  intro a1
  unfold State.predClear
  try dsimp only
  repeat' first
    | (with_reducible first | assumption | intro _ | apply State.modCache_keeps | apply State.modCore_keeps | apply ite_keeps)
    | (with_reducible first | apply foldl_keeps)
    | split
    | dsimp only
    | with_reducible apply keeps_upd

theorem State.corePost_keeps {s : State} (h : s.keeps m q) {s1 : State} (h1 : s1.keeps m q) : ∀ a2 a3 a4, (@State.corePost s s1 a2 a3 a4).keeps m q := by
  intro a2 a3 a4
  unfold State.corePost
  try dsimp only
  repeat' first
    | (with_reducible first | assumption | intro _ | apply State.modCore_keeps | apply State.tlbFlush_keeps | apply ite_keeps)
    | (with_reducible first | apply foldl_keeps)
    | split
    | dsimp only
    | with_reducible apply keeps_upd

theorem State.l2Post_keeps {s : State} (h : s.keeps m q) {s1 : State} (h1 : s1.keeps m q) : ∀ a2 a3 a4, (@State.l2Post s s1 a2 a3 a4).keeps m q := by
  intro a2 a3 a4
  unfold State.l2Post
  try dsimp only
  repeat' first
    | (with_reducible first | assumption | intro _ | apply State.lockWays_keeps | apply State.rangeGo_keeps)
    | (with_reducible first | apply State.rangeAbort_keeps | apply ite_keeps | apply foldl_keeps)
    | split
    | dsimp only
    | with_reducible apply keeps_upd

theorem State.padPost_keeps {s : State} (h : s.keeps m q) : ∀ a1 a2 a3 a4, (@State.padPost s a1 a2 a3 a4).keeps m q := by
  intro a1 a2 a3 a4
  unfold State.padPost
  try dsimp only
  repeat' first
    | (with_reducible first | assumption | intro _ | apply State.padCopyGo_keeps | apply State.set_keeps | apply ite_keeps)
    | (with_reducible first | apply foldl_keeps)
    | split
    | dsimp only
    | with_reducible apply keeps_upd

theorem State.routerPost_keeps {s : State} (h : s.keeps m q) {s1 : State} (h1 : s1.keeps m q) : ∀ a2 a3, (@State.routerPost s s1 a2 a3).keeps m q := by
  intro a2 a3
  unfold State.routerPost
  try dsimp only
  repeat' first
    | (with_reducible first | assumption | intro _ | apply State.set_keeps | apply ite_keeps | apply foldl_keeps)
    | split
    | dsimp only
    | with_reducible apply keeps_upd

theorem State.niPost_keeps {s : State} (h : s.keeps m q) {s1 : State} (h1 : s1.keeps m q) : ∀ a2 a3 a4 a5, (@State.niPost s s1 a2 a3 a4 a5).keeps m q := by
  intro a2 a3 a4 a5
  unfold State.niPost
  try dsimp only
  repeat' first
    | (with_reducible first | assumption | intro _ | apply State.niClosePost_keeps | apply State.predClear_keeps)
    | (with_reducible first | apply State.set_keeps | apply ite_keeps | apply foldl_keeps)
    | split
    | dsimp only
    | with_reducible apply keeps_upd

theorem State.spotPost_keeps {s : State} (h : s.keeps m q) : ∀ a1 a2, (@State.spotPost s a1 a2).keeps m q := by
  intro a1 a2
  unfold State.spotPost
  try dsimp only
  repeat' first
    | (with_reducible first | assumption | intro _ | apply State.set_keeps | apply ite_keeps | apply foldl_keeps)
    | split
    | dsimp only
    | with_reducible apply keeps_upd

theorem State.portPost_keeps {s : State} (h : s.keeps m q) {s1 : State} (h1 : s1.keeps m q) : ∀ a2 a3 a4 a5, (@State.portPost s s1 a2 a3 a4 a5).keeps m q := by
  intro a2 a3 a4 a5
  unfold State.portPost
  try dsimp only
  repeat' first
    | (with_reducible first | assumption | intro _ | apply State.perstFall_keeps | apply State.set_keeps)
    | (with_reducible first | apply State.tblCopy_keeps | apply State.irtUnmask_keeps | apply ite_keeps | apply foldl_keeps)
    | split
    | dsimp only
    | with_reducible apply keeps_upd

theorem State.calPost_keeps {s : State} (h : s.keeps m q) {s1 : State} (h1 : s1.keeps m q) : ∀ a2 a3 a4, (@State.calPost s s1 a2 a3 a4).keeps m q := by
  intro a2 a3 a4
  unfold State.calPost
  try dsimp only
  repeat' first
    | (with_reducible first | assumption | intro _ | apply State.set_keeps | apply ite_keeps | apply foldl_keeps)
    | split
    | dsimp only
    | with_reducible apply keeps_upd

theorem State.epPost_keeps {s : State} (h : s.keeps m q) {s1 : State} (h1 : s1.keeps m q) : ∀ a2 a3 a4 a5, (@State.epPost s s1 a2 a3 a4 a5).keeps m q := by
  intro a2 a3 a4 a5
  unfold State.epPost
  try dsimp only
  repeat' first
    | (with_reducible first | assumption | intro _ | apply State.winCommit_keeps | apply State.set_keeps)
    | (with_reducible first | apply State.epResult_keeps | apply State.conOutWrite_keeps | apply ite_keeps | apply foldl_keeps)
    | split
    | dsimp only
    | with_reducible apply keeps_upd

theorem State.hdmRegPost_keeps {s : State} (h : s.keeps m q) {s1 : State} (h1 : s1.keeps m q) : ∀ a2 a3 a4 a5, (@State.hdmRegPost s s1 a2 a3 a4 a5).keeps m q := by
  intro a2 a3 a4 a5
  unfold State.hdmRegPost
  try dsimp only
  repeat' first
    | (with_reducible first | assumption | intro _ | apply State.set_keeps | apply State.hdmPost_keeps)
    | (with_reducible first | apply State.extCommit_keeps | apply ite_keeps | apply foldl_keeps)
    | split
    | dsimp only
    | with_reducible apply keeps_upd

theorem State.ntmapPost_keeps {s : State} (h : s.keeps m q) {s1 : State} (h1 : s1.keeps m q) : ∀ a2 a3, (@State.ntmapPost s s1 a2 a3).keeps m q := by
  intro a2 a3
  unfold State.ntmapPost
  try dsimp only
  repeat' first
    | (with_reducible first | assumption | intro _ | apply State.set_keeps | apply State.tblCopy_keeps | apply ite_keeps)
    | (with_reducible first | apply foldl_keeps)
    | split
    | dsimp only
    | with_reducible apply keeps_upd

theorem State.pmapPost_keeps {s : State} (h : s.keeps m q) {s1 : State} (h1 : s1.keeps m q) : ∀ a2 a3 a4, (@State.pmapPost s s1 a2 a3 a4).keeps m q := by
  intro a2 a3 a4
  unfold State.pmapPost
  try dsimp only
  repeat' first
    | (with_reducible first | assumption | intro _ | apply State.tblSend_keeps | apply State.set_keeps)
    | (with_reducible first | apply State.tblCopy_keeps | apply ite_keeps | apply foldl_keeps)
    | split
    | dsimp only
    | with_reducible apply keeps_upd

theorem State.rasPost_keeps {s : State} (h : s.keeps m q) : ∀ a1 a2, (@State.rasPost s a1 a2).keeps m q := by
  intro a1 a2
  unfold State.rasPost
  try dsimp only
  repeat' first
    | (with_reducible first | assumption | intro _ | apply State.rasGo_keeps | apply ite_keeps | apply foldl_keeps)
    | split
    | dsimp only
    | with_reducible apply keeps_upd

theorem State.tmapPost_keeps {s : State} (h : s.keeps m q) : ∀ a1 a2 a3, (@State.tmapPost s a1 a2 a3).keeps m q := by
  intro a1 a2 a3
  unfold State.tmapPost
  try dsimp only
  repeat' first
    | (with_reducible first | assumption | intro _ | apply State.tmapWrite_keeps | apply ite_keeps | apply foldl_keeps)
    | split
    | dsimp only
    | with_reducible apply keeps_upd

theorem State.liftPost_keeps {s : State} (h : s.keeps m q) : ∀ a1, (@State.liftPost s a1).keeps m q := by
  intro a1
  unfold State.liftPost
  try dsimp only
  repeat' first
    | (with_reducible first | assumption | intro _ | apply State.psAll_keeps | apply State.norm_keeps | apply State.tmrPost_keeps)
    | (with_reducible first | apply ite_keeps | apply foldl_keeps)
    | split
    | dsimp only
    | with_reducible apply keeps_upd

theorem State.pagePost_keeps {s : State} (h : s.keeps m q) {s1 : State} (h1 : s1.keeps m q) : ∀ a2 a3 a4 a5, (@State.pagePost s s1 a2 a3 a4 a5).keeps m q := by
  intro a2 a3 a4 a5
  unfold State.pagePost
  try dsimp only
  repeat' first
    | (with_reducible first | assumption | intro _ | apply State.enablePost_keeps | apply State.errInj_keeps)
    | (with_reducible first | apply State.corePost_keeps | apply State.l2Post_keeps | apply State.padPost_keeps)
    | (with_reducible first | apply State.drainGo_keeps | apply State.calPost_keeps | apply State.routerPost_keeps)
    | (with_reducible first | apply State.niPost_keeps | apply State.lecPost_keeps | apply State.pmuPost_keeps)
    | (with_reducible first | apply State.psAll_keeps | apply State.spotPost_keeps | apply State.trainGo_keeps)
    | (with_reducible first | apply State.portPost_keeps | apply State.epPost_keeps | apply State.hdmRegPost_keeps)
    | (with_reducible first | apply State.ideEst_keeps | apply State.tmapPost_keeps | apply State.tblCopy_keeps)
    | (with_reducible first | apply State.ntmapPost_keeps | apply State.epochSwitch_keeps | apply State.tblSend_keeps)
    | (with_reducible first | apply State.pmapPost_keeps | apply State.ksGo_keeps | apply State.rasPost_keeps)
    | (with_reducible first | apply State.liftPost_keeps | apply ite_keeps | apply foldl_keeps)
    | split
    | dsimp only
    | with_reducible apply keeps_upd

theorem State.pageWrite_keeps {s : State} (h : s.keeps m q) : ∀ a1 a2 a3 a4, (@State.pageWrite s a1 a2 a3 a4).keeps m q := by
  intro a1 a2 a3 a4
  unfold State.pageWrite
  try dsimp only
  repeat' first
    | (with_reducible first | assumption | intro _ | apply State.pagePost_keeps | apply State.fldsWrite_keeps | apply ite_keeps)
    | (with_reducible first | apply foldl_keeps)
    | split
    | dsimp only
    | with_reducible apply keeps_upd

theorem State.pageAccess_keeps {s : State} (h : s.keeps m q) : ∀ a1 a2 a3 a4 a5 a6, (@State.pageAccess s a1 a2 a3 a4 a5 a6).1.keeps m q := by
  intro a1 a2 a3 a4 a5 a6
  unfold State.pageAccess
  try dsimp only
  repeat' first
    | (with_reducible first | assumption | intro _ | apply State.raiseErr_keeps | apply State.pageWrite_keeps)
    | (with_reducible first | apply State.pageRead_keeps | apply ite_keeps | apply foldl_keeps | apply ite_fst_keeps)
    | (with_reducible first | refine fst_keeps (by assumption) ?_ | refine snd_keeps (by assumption) ?_)
    | split
    | dsimp only
    | with_reducible apply keeps_upd

theorem State.ctlAccess_keeps {s : State} (h : s.keeps m q) : ∀ a1 a2 a3 a4, (@State.ctlAccess s a1 a2 a3 a4).1.keeps m q := by
  intro a1 a2 a3 a4
  unfold State.ctlAccess
  try dsimp only
  repeat' first
    | (with_reducible first | assumption | intro _ | apply State.pageAccess_keeps | apply ite_keeps | apply foldl_keeps)
    | (with_reducible first | apply ite_fst_keeps | refine fst_keeps (by assumption) ?_ | refine snd_keeps (by assumption) ?_)
    | split
    | dsimp only
    | with_reducible apply keeps_upd

theorem State.regWrite_keeps {s : State} (h : s.keeps m q) : ∀ a1 a2 a3 a4, (@State.regWrite s a1 a2 a3 a4).keeps m q := by
  intro a1 a2 a3 a4
  unfold State.regWrite
  try dsimp only
  repeat' first
    | (with_reducible first | assumption | intro _ | apply State.answer_keeps | apply State.pageAccess_keeps | apply ite_keeps)
    | (with_reducible first | apply foldl_keeps | apply ite_fst_keeps | refine fst_keeps (by assumption) ?_)
    | (with_reducible first | refine snd_keeps (by assumption) ?_)
    | split
    | dsimp only
    | with_reducible apply keeps_upd

theorem State.regMod_keeps {s : State} (h : s.keeps m q) : ∀ a1 a2 a3 a4, (@State.regMod s a1 a2 a3 a4).keeps m q := by
  intro a1 a2 a3 a4
  unfold State.regMod
  try dsimp only
  repeat' first
    | (with_reducible first | assumption | intro _ | apply State.regWrite_keeps | apply ite_keeps | apply foldl_keeps)
    | split
    | dsimp only
    | with_reducible apply keeps_upd

end Sys2Proof.Machine
end

