-- ==== Sys2Proof/Laws/KeepDeliver.lean ====
section
/-! SUPPORT. Every operation of Machine/Deliver.lean keeps the byte memories canonical and the queue as it stands. -/

namespace Sys2Proof.Machine

variable {m : Prop} {q : List Instr}

theorem State.evtRefused_keeps {s : State} (h : s.keeps m q) : ∀ a1 a2, (@State.evtRefused s a1 a2).keeps m q := by
  intro a1 a2
  unfold State.evtRefused
  try dsimp only
  repeat' first
    | (with_reducible first | assumption | intro _ | apply State.set_keeps | apply ite_keeps | apply foldl_keeps)
    | split
    | dsimp only
    | with_reducible apply keeps_upd

theorem State.svcRsp_keeps {s : State} (h : s.keeps m q) : ∀ a1 a2, (@State.svcRsp s a1 a2).keeps m q := by
  intro a1 a2
  unfold State.svcRsp
  try dsimp only
  repeat' first
    | (with_reducible first | assumption | intro _ | apply ite_keeps | apply foldl_keeps)
    | split
    | dsimp only
    | with_reducible apply keeps_upd

theorem State.deliver_keeps {s : State} (h : s.keeps m q) : ∀ a1 a2 a3 a4 a5 a6 a7 a8 a9, (@State.deliver s a1 a2 a3 a4 a5 a6 a7 a8 a9).keeps m q := by
  intro a1 a2 a3 a4 a5 a6 a7 a8 a9
  unfold State.deliver
  try dsimp only
  repeat' first
    | (with_reducible first | assumption | intro _ | apply State.fillRsp_keeps | apply State.loadRsp_keeps)
    | (with_reducible first | apply State.storeRsp_keeps | apply State.wcRsp_keeps | apply State.atomRsp_keeps)
    | (with_reducible first | apply State.adRsp_keeps | apply State.maintRsp_keeps | apply State.rangeRsp_keeps)
    | (with_reducible first | apply State.xinvRsp_keeps | apply State.evtRefused_keeps | apply State.snoopAnswer_keeps)
    | (with_reducible first | apply State.homeMemRsp_keeps | apply State.inRsp_keeps | apply State.nearFill_keeps)
    | (with_reducible first | apply State.modChan_keeps | apply State.splitRsp_keeps | apply State.set_keeps)
    | (with_reducible first | apply State.answer_keeps | apply State.fetchNcRsp_keeps | apply State.d2hRsp_keeps)
    | (with_reducible first | apply State.bisnpRsp_keeps | apply State.nearPassRsp_keeps | apply State.msiRsp_keeps)
    | (with_reducible first | apply State.svcRsp_keeps | apply ite_keeps | apply foldl_keeps)
    | split
    | dsimp only
    | with_reducible apply keeps_upd

theorem State.deliverUnsent_keeps {s : State} (h : s.keeps m q) : ∀ a1 a2, (@State.deliverUnsent s a1 a2).keeps m q := by
  intro a1 a2
  unfold State.deliverUnsent
  try dsimp only
  repeat' first
    | (with_reducible first | assumption | intro _ | apply State.fillUnsent_keeps | apply State.deliver_keeps | apply ite_keeps)
    | (with_reducible first | apply foldl_keeps)
    | split
    | dsimp only
    | with_reducible apply keeps_upd

theorem State.niComplete_keeps {s : State} (h : s.keeps m q) : ∀ a1 a2 a3, (@State.niComplete s a1 a2 a3).keeps m q := by
  intro a1 a2 a3
  unfold State.niComplete
  try dsimp only
  repeat' first
    | (with_reducible first | assumption | intro _ | apply State.set_keeps | apply State.xinvRsp_keeps)
    | (with_reducible first | apply State.deliver_keeps | apply State.freeLine_keeps | apply ite_keeps | apply foldl_keeps)
    | (with_reducible first | apply ite_fst_keeps | refine fst_keeps (by assumption) ?_ | refine snd_keeps (by assumption) ?_)
    | split
    | dsimp only
    | with_reducible apply keeps_upd

theorem State.niEvent_keeps {s : State} (h : s.keeps m q) : ∀ a1 a2 a3, (@State.niEvent s a1 a2 a3).keeps m q := by
  intro a1 a2 a3
  unfold State.niEvent
  try dsimp only
  repeat' first
    | (with_reducible first | assumption | intro _ | apply State.meshEvent_keeps | apply ite_keeps | apply foldl_keeps)
    | split
    | dsimp only
    | with_reducible apply keeps_upd

theorem State.tktRet_keeps {s : State} (h : s.keeps m q) : ∀ a1 a2 a3, (@State.tktRet s a1 a2 a3).keeps m q := by
  intro a1 a2 a3
  unfold State.tktRet
  try dsimp only
  repeat' first
    | (with_reducible first | assumption | intro _ | apply State.niOffer_keeps | apply ite_keeps | apply foldl_keeps)
    | split
    | dsimp only
    | with_reducible apply keeps_upd

theorem State.reclaim_keeps {s : State} (h : s.keeps m q) : ∀ a1 a2 a3, (@State.reclaim s a1 a2 a3).keeps m q := by
  intro a1 a2 a3
  unfold State.reclaim
  try dsimp only
  repeat' first
    | (with_reducible first | assumption | intro _ | apply State.niEvent_keeps | apply State.inc_keeps | apply State.modNi_keeps)
    | (with_reducible first | apply State.niOffer_keeps | apply State.tktRet_keeps | apply State.niComplete_keeps)
    | (with_reducible first | apply ite_keeps | apply foldl_keeps)
    | split
    | dsimp only
    | with_reducible apply keeps_upd

theorem State.niTimeout_keeps {s : State} (h : s.keeps m q) : ∀ a1 a2, (@State.niTimeout s a1 a2).keeps m q := by
  intro a1 a2
  unfold State.niTimeout
  try dsimp only
  repeat' first
    | (with_reducible first | assumption | intro _ | apply State.reclaim_keeps | apply State.niEvent_keeps)
    | (with_reducible first | apply State.rasRecord_keeps | apply ite_keeps | apply foldl_keeps)
    | split
    | dsimp only
    | with_reducible apply keeps_upd

theorem State.reclaimLost_keeps {s : State} (h : s.keeps m q) : ∀ a1 a2 a3, (@State.reclaimLost s a1 a2 a3).keeps m q := by
  intro a1 a2 a3
  unfold State.reclaimLost
  try dsimp only
  repeat' first
    | (with_reducible first | assumption | intro _ | apply State.reclaim_keeps | apply ite_keeps | apply foldl_keeps)
    | split
    | dsimp only
    | with_reducible apply keeps_upd

theorem State.tblTake_keeps {s : State} (h : s.keeps m q) : ∀ a1, (@State.tblTake s a1).keeps m q := by
  intro a1
  unfold State.tblTake
  try dsimp only
  repeat' first
    | (with_reducible first | assumption | intro _ | apply State.modNi_keeps | apply State.tblApply_keeps)
    | (with_reducible first | apply State.reclaimLost_keeps | apply ite_keeps | apply foldl_keeps)
    | split
    | dsimp only
    | with_reducible apply keeps_upd

theorem State.drainReport_keeps {s : State} (h : s.keeps m q) : ∀ a1, (@State.drainReport s a1).keeps m q := by
  intro a1
  unfold State.drainReport
  try dsimp only
  repeat' first
    | (with_reducible first | assumption | intro _ | apply State.dec_keeps | apply State.modNi_keeps | apply ite_keeps)
    | (with_reducible first | apply foldl_keeps)
    | split
    | dsimp only
    | with_reducible apply keeps_upd

theorem State.ticketRelease_keeps {s : State} (h : s.keeps m q) : ∀ a1 a2 a3, (@State.ticketRelease s a1 a2 a3).keeps m q := by
  intro a1 a2 a3
  unfold State.ticketRelease
  try dsimp only
  repeat' first
    | (with_reducible first | assumption | intro _ | apply State.tktRet_keeps | apply State.modNi_keeps | apply ite_keeps)
    | (with_reducible first | apply foldl_keeps)
    | split
    | dsimp only
    | with_reducible apply keeps_upd

theorem State.response_keeps {s : State} (h : s.keeps m q) : ∀ a1 a2, (@State.response s a1 a2).keeps m q := by
  intro a1 a2
  unfold State.response
  try dsimp only
  repeat' first
    | (with_reducible first | assumption | intro _ | apply State.takeTicket_keeps | apply State.modNi_keeps)
    | (with_reducible first | apply State.deliver_keeps | apply ite_keeps | apply foldl_keeps)
    | split
    | dsimp only
    | with_reducible apply keeps_upd

theorem State.ticketFlit_keeps {s : State} (h : s.keeps m q) : ∀ a1 a2, (@State.ticketFlit s a1 a2).keeps m q := by
  intro a1 a2
  unfold State.ticketFlit
  try dsimp only
  repeat' first
    | (with_reducible first | assumption | intro _ | apply State.modNi_keeps | apply State.takeTicket_keeps | apply ite_keeps)
    | (with_reducible first | apply foldl_keeps)
    | split
    | dsimp only
    | with_reducible apply keeps_upd

end Sys2Proof.Machine
end

