-- ==== Sys2Proof/Laws/KeepNi.lean ====
section
/-! SUPPORT. Every operation of Machine/Ni.lean keeps the byte memories canonical and the queue as it stands. -/

namespace Sys2Proof.Machine

variable {m : Prop} {q : List Instr}

theorem State.deny_keeps {s : State} (h : s.keeps m q) : ∀ a1 a2 a3, (@State.deny s a1 a2 a3).1.keeps m q := by
  intro a1 a2 a3
  unfold State.deny
  try dsimp only
  repeat' first
    | (with_reducible first | assumption | intro _ | apply State.violation_keeps | apply ite_keeps | apply foldl_keeps)
    | (with_reducible first | apply ite_fst_keeps | refine fst_keeps (by assumption) ?_ | refine snd_keeps (by assumption) ?_)
    | split
    | dsimp only
    | with_reducible apply keeps_upd

theorem State.niCheck_keeps {s : State} (h : s.keeps m q) : ∀ a1 a2, (@State.niCheck s a1 a2).1.keeps m q := by
  intro a1 a2
  unfold State.niCheck
  try dsimp only
  repeat' first
    | (with_reducible first | assumption | intro _ | apply State.classErr_keeps | apply State.set_keeps | apply State.deny_keeps)
    | (with_reducible first | apply State.niLeaf_keeps | apply ite_keeps | apply foldl_keeps | apply ite_fst_keeps)
    | (with_reducible first | refine fst_keeps (by assumption) ?_ | refine snd_keeps (by assumption) ?_)
    | split
    | dsimp only
    | with_reducible apply keeps_upd

theorem State.unreq_keeps {s : State} (h : s.keeps m q) : ∀ a1 a2, (@State.unreq s a1 a2).keeps m q := by
  intro a1 a2
  unfold State.unreq
  try dsimp only
  repeat' first
    | (with_reducible first | assumption | intro _ | apply State.modNi_keeps | apply ite_keeps | apply foldl_keeps)
    | split
    | dsimp only
    | with_reducible apply keeps_upd

theorem State.niGo_keeps {s : State} (h : s.keeps m q) : ∀ a1 a2 a3 a4, (@State.niGo s a1 a2 a3 a4).keeps m q := by
  intro a1 a2 a3 a4
  unfold State.niGo
  try dsimp only
  repeat' first
    | (with_reducible first | assumption | intro _ | apply State.deliver_keeps | apply State.unreq_keeps)
    | (with_reducible first | apply State.modNi_keeps | apply State.niOffer_keeps | apply State.niEvent_keeps | apply ite_keeps)
    | (with_reducible first | apply foldl_keeps)
    | split
    | dsimp only
    | with_reducible apply keeps_upd

theorem State.niSendOne_keeps {s : State} (h : s.keeps m q) : ∀ a1 a2, (@State.niSendOne s a1 a2).keeps m q := by
  intro a1 a2
  unfold State.niSendOne
  try dsimp only
  repeat' first
    | (with_reducible first | assumption | intro _ | apply State.niGo_keeps | apply State.deliver_keeps | apply State.unreq_keeps)
    | (with_reducible first | apply State.deliverUnsent_keeps | apply State.niCheck_keeps | apply ite_keeps | apply foldl_keeps)
    | (with_reducible first | apply ite_fst_keeps | refine fst_keeps (by assumption) ?_ | refine snd_keeps (by assumption) ?_)
    | split
    | dsimp only
    | with_reducible apply keeps_upd

theorem State.niSend_keeps {s : State} (h : s.keeps m q) : ∀ a1, (@State.niSend s a1).keeps m q := by
  intro a1
  unfold State.niSend
  try dsimp only
  repeat' first
    | (with_reducible first | assumption | intro _ | apply State.niSendOne_keeps | apply ite_keeps | apply foldl_keeps)
    | split
    | dsimp only
    | with_reducible apply keeps_upd

theorem State.padReq_keeps {s : State} (h : s.keeps m q) : ∀ a1 a2, (@State.padReq s a1 a2).keeps m q := by
  intro a1 a2
  unfold State.padReq
  try dsimp only
  repeat' first
    | (with_reducible first | assumption | intro _ | apply State.replyAck_keeps | apply State.served_keeps)
    | (with_reducible first | apply State.padGrant_keeps | apply State.replyData_keeps | apply State.padWr_keeps)
    | (with_reducible first | apply ite_keeps | apply foldl_keeps)
    | split
    | dsimp only
    | with_reducible apply keeps_upd

theorem State.patrolWin_keeps {s : State} (h : s.keeps m q) : ∀ a1, (@State.patrolWin s a1).keeps m q := by
  intro a1
  unfold State.patrolWin
  try dsimp only
  repeat' first
    | (with_reducible first | assumption | intro _ | apply State.served_keeps | apply State.replyData_keeps)
    | (with_reducible first | apply State.replyAck_keeps | apply ite_keeps | apply foldl_keeps | apply Mem.wf_wrs)
    | (with_reducible first | apply Mem.wf_foldl_wr | apply Mem.wf_clear)
    | (with_reducible first | refine State.keeps.pads (m := m) (q := q) ?_ (by assumption))
    | (with_reducible first | refine State.keeps.sram (m := m) (q := q) ?_ (by assumption))
    | (with_reducible first | refine State.keeps.near (m := m) (q := q) ?_ (by assumption))
    | (with_reducible first | refine State.keeps.tuck (m := m) (q := q) ?_ (by assumption))
    | (with_reducible first | refine State.keeps.pending (m := m) (q := q) ?_ | apply And.intro)
    | split
    | dsimp only
    | simp only [keeps_mk]

theorem State.perform_keeps {s : State} (h : s.keeps m q) : ∀ a1 a2, (@State.perform s a1 a2).keeps m q := by
  intro a1 a2
  unfold State.perform
  try dsimp only
  repeat' first
    | (with_reducible first | assumption | intro _ | apply State.padReq_keeps | apply State.homeReq_keeps)
    | (with_reducible first | apply State.patrolWin_keeps | apply State.nearReq_keeps | apply State.hubMmio_keeps)
    | (with_reducible first | apply State.hubMem_keeps | apply State.replyAck_keeps | apply State.served_keeps | apply ite_keeps)
    | (with_reducible first | apply foldl_keeps)
    | split
    | dsimp only
    | with_reducible apply keeps_upd

theorem State.inService_keeps {s : State} (h : s.keeps m q) (n : Nat) (f : Flit) (op : Nat) (g : State → State)
    (hg : ∀ s, s.keeps m q → (g s).keeps m q) : (s.inService n f op g).keeps m q :=
  ite_keeps (hg _ h) h

theorem State.snoopAt_keeps {s : State} (h : s.keeps m q) : ∀ a1 a2, (@State.snoopAt s a1 a2).keeps m q := by
  intro a1 a2
  unfold State.snoopAt
  try dsimp only
  repeat' first
    | (with_reducible first | assumption | intro _ | apply State.hubSnoop_keeps | apply State.replyAck_keeps)
    | (with_reducible first | apply State.served_keeps | apply State.snpInv_keeps | apply State.snpSh_keeps | apply ite_keeps)
    | (with_reducible first | apply foldl_keeps)
    | split
    | dsimp only
    | with_reducible apply keeps_upd

theorem State.xinvAt_keeps {s : State} (h : s.keeps m q) : ∀ a1 a2, (@State.xinvAt s a1 a2).keeps m q := by
  intro a1 a2
  unfold State.xinvAt
  try dsimp only
  repeat' first
    | (with_reducible first | assumption | intro _ | apply State.xinvRecv_keeps | apply State.replyAck_keeps)
    | (with_reducible first | apply State.served_keeps | apply ite_keeps | apply foldl_keeps)
    | split
    | dsimp only
    | with_reducible apply keeps_upd

theorem State.evtAt_keeps {s : State} (h : s.keeps m q) : ∀ a1 a2, (@State.evtAt s a1 a2).keeps m q := by
  intro a1 a2
  unfold State.evtAt
  try dsimp only
  repeat' first
    | (with_reducible first | assumption | intro _ | apply State.replyAck_keeps | apply State.served_keeps)
    | (with_reducible first | apply State.evtArrive_keeps | apply ite_keeps | apply foldl_keeps)
    | split
    | dsimp only
    | with_reducible apply keeps_upd

theorem State.pageFlit_keeps {s : State} (h : s.keeps m q) : ∀ a1 a2, (@State.pageFlit s a1 a2).keeps m q := by
  intro a1 a2
  unfold State.pageFlit
  try dsimp only
  repeat' first
    | (with_reducible first | assumption | intro _ | apply State.replyTkt_keeps | apply State.pageAccess_keeps | apply ite_keeps)
    | (with_reducible first | apply foldl_keeps | apply ite_fst_keeps | refine fst_keeps (by assumption) ?_)
    | (with_reducible first | refine snd_keeps (by assumption) ?_)
    | split
    | dsimp only
    | with_reducible apply keeps_upd

theorem State.xinvWake_keeps {s : State} (h : s.keeps m q) : ∀ a1 a2, (@State.xinvWake s a1 a2).keeps m q := by
  intro a1 a2
  unfold State.xinvWake
  try dsimp only
  repeat' first
    | (with_reducible first | assumption | intro _ | apply State.modCore_keeps | apply State.set_keeps | apply ite_keeps)
    | (with_reducible first | apply foldl_keeps)
    | split
    | dsimp only
    | with_reducible apply keeps_upd

theorem State.intoService_keeps {s : State} (h : s.keeps m q) : ∀ a1, (@State.intoService s a1).keeps m q := by
  intro a1
  unfold State.intoService
  try dsimp only
  repeat' first
    | (with_reducible first | assumption | intro _ | apply State.modNi_keeps | apply State.replyTkt_keeps)
    | (with_reducible first | apply State.pageFlit_keeps | apply State.sendTkt_keeps | apply State.xinvWake_keeps)
    | (with_reducible first | apply State.perform_keeps | apply ite_keeps | apply foldl_keeps)
    | split
    | dsimp only
    | with_reducible apply keeps_upd

end Sys2Proof.Machine
end

