-- ==== Sys2Proof/Laws/KeepServices.lean ====
section
/-! SUPPORT. Every operation of Machine/Services.lean keeps the byte memories canonical and the queue as it stands. -/

namespace Sys2Proof.Machine

variable {m : Prop} {q : List Instr}

theorem State.svcEnd_keeps {s : State} (h : s.keeps m q) : ∀ a1 a2 a3, (@State.svcEnd s a1 a2 a3).keeps m q := by
  intro a1 a2 a3
  unfold State.svcEnd
  try dsimp only
  repeat' first
    | (with_reducible first | assumption | intro _ | apply State.pmbComplete_keeps | apply State.set_keeps)
    | (with_reducible first | apply State.epResult_keeps | apply ite_keeps | apply foldl_keeps)
    | split
    | dsimp only
    | with_reducible apply keeps_upd

theorem State.callTaken_keeps {s : State} (h : s.keeps m q) : ∀ a1, (@State.callTaken s a1).keeps m q := by
  intro a1
  unfold State.callTaken
  try dsimp only
  repeat' first
    | (with_reducible first | assumption | intro _ | apply State.padGrant_keeps | apply ite_keeps | apply foldl_keeps)
    | split
    | dsimp only
    | with_reducible apply keeps_upd

theorem State.svc_keeps {s : State} (h : s.keeps m q) (c : Call) (code : Nat) (auth : Bool) (f : State → State)
    (hf : ∀ s, s.keeps m q → (f s).keeps m q) : (s.svc c code auth f).keeps m q :=
  have ht := State.callTaken_keeps h c
  ite_keeps h (ite_keeps (State.svcEnd_keeps ht _ _ _) (ite_keeps h (ite_keeps (hf _ ht) (State.svcEnd_keeps ht _ _ _))))

theorem State.fw_keeps {s : State} (h : s.keeps m q) : ∀ a1 a2 a3, (@State.fw s a1 a2 a3).keeps m q := by
  intro a1 a2 a3
  unfold State.fw
  try dsimp only
  repeat' first
    | (with_reducible first | assumption | intro _ | apply State.pageWrite_keeps | apply ite_keeps | apply foldl_keeps)
    | split
    | dsimp only
    | with_reducible apply keeps_upd

theorem State.svcRun_keeps {s : State} (h : s.keeps m q) : ∀ a1 a2 a3 a4 a5 a6, (@State.svcRun s a1 a2 a3 a4 a5 a6).keeps m q := by
  intro a1 a2 a3 a4 a5 a6
  unfold State.svcRun
  try dsimp only
  repeat' first
    | (with_reducible first | assumption | intro _ | apply ite_keeps | apply foldl_keeps)
    | split
    | dsimp only
    | with_reducible apply keeps_upd

theorem State.svcSet_keeps {s : State} (h : s.keeps m q) : ∀ a1 a2, (@State.svcSet s a1 a2).keeps m q := by
  intro a1 a2
  unfold State.svcSet
  try dsimp only
  repeat' first
    | (with_reducible first | assumption | intro _ | apply ite_keeps | apply foldl_keeps)
    | split
    | dsimp only
    | with_reducible apply keeps_upd

theorem State.svcDone_keeps {s : State} (h : s.keeps m q) : ∀ a1, (@State.svcDone s a1).keeps m q := by
  intro a1
  unfold State.svcDone
  try dsimp only
  repeat' first
    | (with_reducible first | assumption | intro _ | apply State.svcEnd_keeps | apply State.svcSet_keeps | apply ite_keeps)
    | (with_reducible first | apply foldl_keeps)
    | split
    | dsimp only
    | with_reducible apply keeps_upd

theorem State.gateTiles_keeps {s : State} (h : s.keeps m q) : ∀ a1, (@State.gateTiles s a1).keeps m q := by
  intro a1
  unfold State.gateTiles
  try dsimp only
  repeat' first
    | (with_reducible first | assumption | intro _ | apply State.set_keeps | apply ite_keeps | apply foldl_keeps)
    | split
    | dsimp only
    | with_reducible apply keeps_upd

theorem State.tileOwner_keeps {s : State} (h : s.keeps m q) : ∀ a1 a2, (@State.tileOwner s a1 a2).keeps m q := by
  intro a1 a2
  unfold State.tileOwner
  try dsimp only
  repeat' first
    | (with_reducible first | assumption | intro _ | apply State.set_keeps | apply ite_keeps | apply foldl_keeps)
    | split
    | dsimp only
    | with_reducible apply keeps_upd

theorem State.tileMove_keeps {s : State} (h : s.keeps m q) : ∀ a1 a2 a3, (@State.tileMove s a1 a2 a3).keeps m q := by
  intro a1 a2 a3
  unfold State.tileMove
  try dsimp only
  repeat' first
    | (with_reducible first | assumption | intro _ | apply State.tblCopy_keeps | apply State.set_keeps | apply State.fw_keeps)
    | (with_reducible first | apply State.gateTiles_keeps | apply State.tileOwner_keeps | apply ite_keeps | apply foldl_keeps)
    | split
    | dsimp only
    | with_reducible apply keeps_upd

theorem State.imgTake_keeps {s : State} (h : s.keeps m q) : ∀ a1 a2, (@State.imgTake s a1 a2).keeps m q := by
  intro a1 a2
  unfold State.imgTake
  try dsimp only
  repeat' first
    | (with_reducible first | assumption | intro _ | apply State.set_keeps | apply ite_keeps | apply foldl_keeps)
    | (with_reducible first | apply Mem.wf_wrs | apply Mem.wf_foldl_wr | apply Mem.wf_clear)
    | (with_reducible first | refine State.keeps.pads (m := m) (q := q) ?_ (by assumption))
    | (with_reducible first | refine State.keeps.sram (m := m) (q := q) ?_ (by assumption))
    | (with_reducible first | refine State.keeps.near (m := m) (q := q) ?_ (by assumption))
    | (with_reducible first | refine State.keeps.tuck (m := m) (q := q) ?_ (by assumption))
    | (with_reducible first | refine State.keeps.pending (m := m) (q := q) ?_ | apply And.intro)
    | split
    | dsimp only
    | simp only [keeps_mk]

theorem State.bootSource_keeps {s : State} (h : s.keeps m q) : ∀ a1 a2, (@State.bootSource s a1 a2).1.keeps m q := by
  intro a1 a2
  unfold State.bootSource
  try dsimp only
  repeat' first
    | (with_reducible first | assumption | intro _ | apply State.imgTake_keeps | apply State.satInc_keeps | apply ite_keeps)
    | (with_reducible first | apply foldl_keeps | apply ite_fst_keeps | refine fst_keeps (by assumption) ?_)
    | (with_reducible first | refine snd_keeps (by assumption) ?_)
    | split
    | dsimp only
    | with_reducible apply keeps_upd

theorem State.bootDone_keeps {s : State} (h : s.keeps m q) : ∀ a1, (@State.bootDone s a1).keeps m q := by
  intro a1
  unfold State.bootDone
  try dsimp only
  repeat' first
    | (with_reducible first | assumption | intro _ | apply State.ibi_keeps | apply ite_keeps | apply foldl_keeps)
    | split
    | dsimp only
    | with_reducible apply keeps_upd

theorem State.bootFail_keeps {s : State} (h : s.keeps m q) : ∀ a1 a2, (@State.bootFail s a1 a2).keeps m q := by
  intro a1 a2
  unfold State.bootFail
  try dsimp only
  repeat' first
    | (with_reducible first | assumption | intro _ | apply State.ibi_keeps | apply ite_keeps | apply foldl_keeps)
    | split
    | dsimp only
    | with_reducible apply keeps_upd

theorem State.imageGo_keeps {s : State} (h : s.keeps m q) : ∀ a1, (@State.imageGo s a1).keeps m q := by
  intro a1
  unfold State.imageGo
  try dsimp only
  repeat' first
    | (with_reducible first | assumption | intro _ | apply State.svcEnd_keeps | apply State.satInc_keeps)
    | (with_reducible first | apply State.svcSet_keeps | apply State.bootDone_keeps | apply State.bootFail_keeps)
    | (with_reducible first | apply State.bootSource_keeps | apply ite_keeps | apply foldl_keeps | apply ite_fst_keeps)
    | (with_reducible first | refine fst_keeps (by assumption) ?_ | refine snd_keeps (by assumption) ?_)
    | split
    | dsimp only
    | with_reducible apply keeps_upd

theorem State.svcGo_keeps {s : State} (h : s.keeps m q) : ∀ a1, (@State.svcGo s a1).keeps m q := by
  intro a1
  unfold State.svcGo
  try dsimp only
  repeat' first
    | (with_reducible first | assumption | intro _ | apply State.imageGo_keeps | apply State.svcSet_keeps)
    | (with_reducible first | apply State.send_keeps | apply State.svcDone_keeps | apply State.fw_keeps)
    | (with_reducible first | apply State.tileMove_keeps | apply State.notice_keeps | apply ite_keeps | apply foldl_keeps)
    | split
    | dsimp only
    | with_reducible apply keeps_upd

theorem State.svcAdvance_keeps {s : State} (h : s.keeps m q) : (@State.svcAdvance s).keeps m q := by
  unfold State.svcAdvance
  try dsimp only
  repeat' first
    | (with_reducible first | assumption | intro _ | apply State.svcGo_keeps | apply ite_keeps | apply foldl_keeps)
    | split
    | dsimp only
    | with_reducible apply keeps_upd

theorem State.svcVersion_keeps {s : State} (h : s.keeps m q) : ∀ a1, (@State.svcVersion s a1).keeps m q := by
  intro a1
  unfold State.svcVersion
  try dsimp only
  repeat' first
    | (with_reducible first | assumption | intro _ | apply State.svc_keeps | apply State.svcEnd_keeps | apply ite_keeps)
    | (with_reducible first | apply foldl_keeps)
    | split
    | dsimp only
    | with_reducible apply keeps_upd

theorem State.svcNotice_keeps {s : State} (h : s.keeps m q) : ∀ a1, (@State.svcNotice s a1).keeps m q := by
  intro a1
  unfold State.svcNotice
  try dsimp only
  repeat' first
    | (with_reducible first | assumption | intro _ | apply State.svc_keeps | apply State.svcEnd_keeps | apply ite_keeps)
    | (with_reducible first | apply foldl_keeps)
    | split
    | dsimp only
    | with_reducible apply keeps_upd

theorem State.svcIrt_keeps {s : State} (h : s.keeps m q) : ∀ a1, (@State.svcIrt s a1).keeps m q := by
  intro a1
  unfold State.svcIrt
  try dsimp only
  repeat' first
    | (with_reducible first | assumption | intro _ | apply State.svc_keeps | apply State.svcEnd_keeps | apply State.fw_keeps)
    | (with_reducible first | apply ite_keeps | apply foldl_keeps)
    | split
    | dsimp only
    | with_reducible apply keeps_upd

theorem State.handOff_keeps {s : State} (h : s.keeps m q) : ∀ a1 a2, (@State.handOff s a1 a2).keeps m q := by
  intro a1 a2
  unfold State.handOff
  try dsimp only
  repeat' first
    | (with_reducible first | assumption | intro _ | apply State.padWrWord_keeps | apply ite_keeps | apply foldl_keeps)
    | split
    | dsimp only
    | with_reducible apply keeps_upd

theorem State.patrolStart_keeps {s : State} (h : s.keeps m q) : ∀ a1 a2 a3, (@State.patrolStart s a1 a2 a3).keeps m q := by
  intro a1 a2 a3
  unfold State.patrolStart
  try dsimp only
  repeat' first
    | (with_reducible first | assumption | intro _ | apply State.set_keeps | apply State.handOff_keeps)
    | (with_reducible first | apply State.padZeroed_keeps | apply State.powerUp_keeps | apply ite_keeps | apply foldl_keeps)
    | split
    | dsimp only
    | with_reducible apply keeps_upd

theorem State.svcTileStart_keeps {s : State} (h : s.keeps m q) : ∀ a1, (@State.svcTileStart s a1).keeps m q := by
  intro a1
  unfold State.svcTileStart
  try dsimp only
  repeat' first
    | (with_reducible first | assumption | intro _ | apply State.svc_keeps | apply State.svcEnd_keeps)
    | (with_reducible first | apply State.patrolStart_keeps | apply ite_keeps | apply foldl_keeps)
    | split
    | dsimp only
    | with_reducible apply keeps_upd

theorem State.svcKeyGen_keeps {s : State} (h : s.keeps m q) : ∀ a1, (@State.svcKeyGen s a1).keeps m q := by
  intro a1
  unfold State.svcKeyGen
  try dsimp only
  repeat' first
    | (with_reducible first | assumption | intro _ | apply State.svc_keeps | apply State.svcEnd_keeps)
    | (with_reducible first | apply State.ksGenerate_keeps | apply State.set_keeps | apply State.tblCopy_keeps | apply ite_keeps)
    | (with_reducible first | apply foldl_keeps)
    | split
    | dsimp only
    | with_reducible apply keeps_upd

theorem State.svcAttest_keeps {s : State} (h : s.keeps m q) : ∀ a1, (@State.svcAttest s a1).keeps m q := by
  intro a1
  unfold State.svcAttest
  try dsimp only
  repeat' first
    | (with_reducible first | assumption | intro _ | apply State.svc_keeps | apply State.svcEnd_keeps)
    | (with_reducible first | apply State.svcAdvance_keeps | apply State.svcRun_keeps | apply ite_keeps | apply foldl_keeps)
    | split
    | dsimp only
    | with_reducible apply keeps_upd

theorem State.svcExtent_keeps {s : State} (h : s.keeps m q) : ∀ a1, (@State.svcExtent s a1).keeps m q := by
  intro a1
  unfold State.svcExtent
  try dsimp only
  repeat' first
    | (with_reducible first | assumption | intro _ | apply State.svc_keeps | apply State.svcEnd_keeps | apply ite_keeps)
    | (with_reducible first | apply foldl_keeps)
    | split
    | dsimp only
    | with_reducible apply keeps_upd

theorem State.svcRas_keeps {s : State} (h : s.keeps m q) : ∀ a1, (@State.svcRas s a1).keeps m q := by
  intro a1
  unfold State.svcRas
  try dsimp only
  repeat' first
    | (with_reducible first | assumption | intro _ | apply State.svc_keeps | apply State.svcEnd_keeps)
    | (with_reducible first | apply State.svcAdvance_keeps | apply State.svcRun_keeps | apply ite_keeps | apply foldl_keeps)
    | split
    | dsimp only
    | with_reducible apply keeps_upd

theorem State.svcTile_keeps {s : State} (h : s.keeps m q) : ∀ a1, (@State.svcTile s a1).keeps m q := by
  intro a1
  unfold State.svcTile
  try dsimp only
  repeat' first
    | (with_reducible first | assumption | intro _ | apply State.svc_keeps | apply State.svcEnd_keeps)
    | (with_reducible first | apply State.svcAdvance_keeps | apply State.svcRun_keeps | apply State.fw_keeps | apply ite_keeps)
    | (with_reducible first | apply foldl_keeps)
    | split
    | dsimp only
    | with_reducible apply keeps_upd

theorem State.svcMap_keeps {s : State} (h : s.keeps m q) : ∀ a1, (@State.svcMap s a1).keeps m q := by
  intro a1
  unfold State.svcMap
  try dsimp only
  repeat' first
    | (with_reducible first | assumption | intro _ | apply State.svc_keeps | apply State.svcEnd_keeps)
    | (with_reducible first | apply State.svcAdvance_keeps | apply State.svcRun_keeps | apply ite_keeps | apply foldl_keeps)
    | split
    | dsimp only
    | with_reducible apply keeps_upd

theorem State.svcPort_keeps {s : State} (h : s.keeps m q) : ∀ a1, (@State.svcPort s a1).keeps m q := by
  intro a1
  unfold State.svcPort
  try dsimp only
  repeat' first
    | (with_reducible first | assumption | intro _ | apply State.svc_keeps | apply State.svcEnd_keeps | apply State.set_keeps)
    | (with_reducible first | apply State.fw_keeps | apply ite_keeps | apply foldl_keeps)
    | split
    | dsimp only
    | with_reducible apply keeps_upd

theorem State.agentOwner_keeps {s : State} (h : s.keeps m q) : ∀ a1, (@State.agentOwner s a1).keeps m q := by
  intro a1
  unfold State.agentOwner
  try dsimp only
  repeat' first
    | (with_reducible first | assumption | intro _ | apply State.set_keeps | apply ite_keeps | apply foldl_keeps)
    | split
    | dsimp only
    | with_reducible apply keeps_upd

theorem State.rightsApply_keeps {s : State} (h : s.keeps m q) : ∀ a1, (@State.rightsApply s a1).keeps m q := by
  intro a1
  unfold State.rightsApply
  try dsimp only
  repeat' first
    | (with_reducible first | assumption | intro _ | apply State.tileOwner_keeps | apply State.agentOwner_keeps | apply ite_keeps)
    | (with_reducible first | apply foldl_keeps)
    | split
    | dsimp only
    | with_reducible apply keeps_upd

theorem State.svcFlags_keeps {s : State} (h : s.keeps m q) : ∀ a1, (@State.svcFlags s a1).keeps m q := by
  intro a1
  unfold State.svcFlags
  try dsimp only
  repeat' first
    | (with_reducible first | assumption | intro _ | apply State.svc_keeps | apply State.svcEnd_keeps)
    | (with_reducible first | apply State.rightsApply_keeps | apply State.fw_keeps | apply ite_keeps | apply foldl_keeps)
    | split
    | dsimp only
    | with_reducible apply keeps_upd

theorem State.svcGroup_keeps {s : State} (h : s.keeps m q) : ∀ a1, (@State.svcGroup s a1).keeps m q := by
  intro a1
  unfold State.svcGroup
  try dsimp only
  repeat' first
    | (with_reducible first | assumption | intro _ | apply State.svc_keeps | apply State.svcEnd_keeps | apply State.fw_keeps)
    | (with_reducible first | apply State.ksGenerate_keeps | apply ite_keeps | apply foldl_keeps)
    | split
    | dsimp only
    | with_reducible apply keeps_upd

theorem State.svcSeal_keeps {s : State} (h : s.keeps m q) : ∀ a1, (@State.svcSeal s a1).keeps m q := by
  intro a1
  unfold State.svcSeal
  try dsimp only
  repeat' first
    | (with_reducible first | assumption | intro _ | apply State.svc_keeps | apply State.svcEnd_keeps | apply State.fw_keeps)
    | (with_reducible first | apply State.rightsApply_keeps | apply ite_keeps | apply foldl_keeps)
    | split
    | dsimp only
    | with_reducible apply keeps_upd

theorem State.thawPiste_keeps {s : State} (h : s.keeps m q) : ∀ a1, (@State.thawPiste s a1).keeps m q := by
  intro a1
  unfold State.thawPiste
  try dsimp only
  repeat' first
    | (with_reducible first | assumption | intro _ | apply State.set_keeps | apply ite_keeps | apply foldl_keeps)
    | split
    | dsimp only
    | with_reducible apply keeps_upd

theorem State.svcThaw_keeps {s : State} (h : s.keeps m q) : ∀ a1, (@State.svcThaw s a1).keeps m q := by
  intro a1
  unfold State.svcThaw
  try dsimp only
  repeat' first
    | (with_reducible first | assumption | intro _ | apply State.svc_keeps | apply State.svcEnd_keeps | apply State.set_keeps)
    | (with_reducible first | apply State.thawPiste_keeps | apply ite_keeps | apply foldl_keeps)
    | split
    | dsimp only
    | with_reducible apply keeps_upd

theorem State.svcPolicy_keeps {s : State} (h : s.keeps m q) : ∀ a1, (@State.svcPolicy s a1).keeps m q := by
  intro a1
  unfold State.svcPolicy
  try dsimp only
  repeat' first
    | (with_reducible first | assumption | intro _ | apply State.svc_keeps | apply State.svcEnd_keeps | apply State.fw_keeps)
    | (with_reducible first | apply ite_keeps | apply foldl_keeps)
    | split
    | dsimp only
    | with_reducible apply keeps_upd

theorem State.dmaAsk_keeps {s : State} (h : s.keeps m q) (a b c d : Nat) : (s.dmaAsk a b c d).2.keeps m q := by
  unfold State.dmaAsk
  generalize tlpPieces c d = l
  suffices hr : ∀ r : List (Nat × Option (List Byte)) × State, r.2.keeps m q → (l.foldl (fun r e =>
      let (id, s) := r.2.hubId a
      (r.1 ++ [(id, none)], s.tx a b (.memRd id e.1 (beMask (e.1 % 64) e.2.1)))) r).2.keeps m q from hr _ h
  induction l with
  | nil => exact fun r hr => hr
  | cons e t ih => exact fun r hr => ih _ (State.tx_keeps (State.hubId_keeps hr _) _ _ _)

theorem State.svcImage_keeps {s : State} (h : s.keeps m q) : ∀ a1, (@State.svcImage s a1).keeps m q := by
  intro a1
  unfold State.svcImage
  try dsimp only
  repeat' first
    | (with_reducible first | assumption | intro _ | apply State.svc_keeps | apply State.svcEnd_keeps | apply State.dmaAsk_keeps)
    | (with_reducible first | apply ite_keeps | apply foldl_keeps | apply ite_fst_keeps | refine fst_keeps (by assumption) ?_)
    | (with_reducible first | refine snd_keeps (by assumption) ?_)
    | split
    | dsimp only
    | with_reducible apply keeps_upd

theorem State.svcSvn_keeps {s : State} (h : s.keeps m q) : ∀ a1, (@State.svcSvn s a1).keeps m q := by
  intro a1
  unfold State.svcSvn
  try dsimp only
  repeat' first
    | (with_reducible first | assumption | intro _ | apply State.svc_keeps | apply State.svcEnd_keeps | apply ite_keeps)
    | (with_reducible first | apply foldl_keeps)
    | split
    | dsimp only
    | with_reducible apply keeps_upd

theorem State.lockstep_keeps {s : State} (h : s.keeps m q) : ∀ a1, (@State.lockstep s a1).keeps m q := by
  intro a1
  unfold State.lockstep
  try dsimp only
  repeat' first
    | (with_reducible first | assumption | intro _ | apply State.set_keeps | apply State.freeze_keeps | apply ite_keeps)
    | (with_reducible first | apply foldl_keeps)
    | split
    | dsimp only
    | with_reducible apply keeps_upd

theorem State.dbgChallenge_keeps {s : State} (h : s.keeps m q) : ∀ a1, (@State.dbgChallenge s a1).keeps m q := by
  intro a1
  unfold State.dbgChallenge
  try dsimp only
  repeat' first
    | (with_reducible first | assumption | intro _ | apply ite_keeps | apply foldl_keeps)
    | split
    | dsimp only
    | with_reducible apply keeps_upd

theorem State.dbgAccess_keeps {s : State} (h : s.keeps m q) : ∀ a1 a2, (@State.dbgAccess s a1 a2).keeps m q := by
  intro a1 a2
  unfold State.dbgAccess
  try dsimp only
  repeat' first
    | (with_reducible first | assumption | intro _ | apply State.answer_keeps | apply State.strideIssue_keeps)
    | (with_reducible first | apply State.modCore_keeps | apply ite_keeps | apply foldl_keeps)
    | split
    | dsimp only
    | with_reducible apply keeps_upd

end Sys2Proof.Machine
end

