-- ==== Sys2Proof/Laws/KeepPackage.lean ====
section
/-! SUPPORT. Every operation of Machine/Package.lean keeps the byte memories canonical and the queue as it stands. -/

namespace Sys2Proof.Machine

variable {m : Prop} {q : List Instr}

theorem State.tuckSave_keeps {s : State} (h : s.keeps m q) : (@State.tuckSave s).keeps m q := by
  unfold State.tuckSave
  try dsimp only
  repeat' first
    | (with_reducible first | assumption | intro _ | apply State.satInc_keeps | apply State.tuckState_keeps)
    | (with_reducible first | apply State.set_keeps | apply ite_keeps | apply foldl_keeps | apply Mem.wf_wrs)
    | (with_reducible first | apply Mem.wf_foldl_wr | apply Mem.wf_clear)
    | (with_reducible first | refine State.keeps.pads (m := m) (q := q) ?_ (by assumption))
    | (with_reducible first | refine State.keeps.sram (m := m) (q := q) ?_ (by assumption))
    | (with_reducible first | refine State.keeps.near (m := m) (q := q) ?_ (by assumption))
    | (with_reducible first | refine State.keeps.tuck (m := m) (q := q) ?_ (by assumption))
    | (with_reducible first | refine State.keeps.pending (m := m) (q := q) ?_ | apply And.intro)
    | split
    | dsimp only
    | simp only [keeps_mk]

theorem State.tuckRun_keeps {s : State} (h : s.keeps m q) : ∀ a1, (@State.tuckRun s a1).keeps m q := by
  intro a1
  unfold State.tuckRun
  try dsimp only
  repeat' first
    | (with_reducible first | assumption | intro _ | apply State.tuckSave_keeps | apply ite_keeps | apply foldl_keeps)
    | split
    | dsimp only
    | with_reducible apply keeps_upd

theorem State.rise_keeps {s : State} (h : s.keeps m q) : ∀ a1, (@State.rise s a1).keeps m q := by
  intro a1
  unfold State.rise
  try dsimp only
  repeat' first
    | (with_reducible first | assumption | intro _ | apply State.tuckState_keeps | apply State.satInc_keeps)
    | (with_reducible first | apply State.set_keeps | apply State.notice_keeps | apply State.rasRecord_keeps | apply ite_keeps)
    | (with_reducible first | apply foldl_keeps)
    | split
    | dsimp only
    | with_reducible apply keeps_upd

theorem State.pk2Entry_keeps {s : State} (h : s.keeps m q) : ∀ a1, (@State.pk2Entry s a1).keeps m q := by
  intro a1
  unfold State.pk2Entry
  try dsimp only
  repeat' first
    | (with_reducible first | assumption | intro _ | apply State.tuckRun_keeps | apply ite_keeps | apply foldl_keeps)
    | (with_reducible first | apply Mem.wf_wrs | apply Mem.wf_foldl_wr | apply Mem.wf_clear)
    | (with_reducible first | refine State.keeps.pads (m := m) (q := q) ?_ (by assumption))
    | (with_reducible first | refine State.keeps.sram (m := m) (q := q) ?_ (by assumption))
    | (with_reducible first | refine State.keeps.near (m := m) (q := q) ?_ (by assumption))
    | (with_reducible first | refine State.keeps.tuck (m := m) (q := q) ?_ (by assumption))
    | (with_reducible first | refine State.keeps.pending (m := m) (q := q) ?_ | apply And.intro)
    | split
    | dsimp only
    | simp only [keeps_mk]

theorem State.coldReset_keeps {s : State} (h : s.keeps m q) : s.coldReset.keeps m q :=
  ⟨fun hm => ⟨rfl, rfl, h.near hm, h.tuck hm⟩, h.pending⟩

theorem State.coldEntry_keeps {s : State} (h : s.keeps m q) : ∀ a1, (@State.coldEntry s a1).keeps m q := by
  intro a1
  unfold State.coldEntry
  try dsimp only
  repeat' first
    | (with_reducible first | assumption | intro _ | apply State.coldReset_keeps | apply ite_keeps | apply foldl_keeps)
    | split
    | dsimp only
    | with_reducible apply keeps_upd

theorem State.coldExit_keeps {s : State} (h : s.keeps m q) : (@State.coldExit s).keeps m q := by
  unfold State.coldExit
  try dsimp only
  repeat' first
    | (with_reducible first | assumption | intro _ | apply ite_keeps | apply foldl_keeps)
    | split
    | dsimp only
    | with_reducible apply keeps_upd

theorem State.boot1_keeps {s : State} (h : s.keeps m q) : ∀ a1, (@State.boot1 s a1).keeps m q := by
  intro a1
  unfold State.boot1
  try dsimp only
  repeat' first
    | (with_reducible first | assumption | intro _ | apply State.set_keeps | apply State.bootDone_keeps)
    | (with_reducible first | apply State.bootFail_keeps | apply ite_keeps | apply foldl_keeps)
    | split
    | dsimp only
    | with_reducible apply keeps_upd

theorem State.boot23_keeps {s : State} (h : s.keeps m q) : ∀ a1, (@State.boot23 s a1).keeps m q := by
  intro a1
  unfold State.boot23
  try dsimp only
  repeat' first
    | (with_reducible first | assumption | intro _ | apply State.bootDone_keeps | apply State.bootFail_keeps)
    | (with_reducible first | apply State.bootSource_keeps | apply ite_keeps | apply foldl_keeps | apply ite_fst_keeps)
    | (with_reducible first | refine fst_keeps (by assumption) ?_ | refine snd_keeps (by assumption) ?_)
    | split
    | dsimp only
    | with_reducible apply keeps_upd

theorem State.padRepairs_keeps {s : State} (h : s.keeps m q) : (@State.padRepairs s).keeps m q := by
  unfold State.padRepairs
  try dsimp only
  repeat' first
    | (with_reducible first | assumption | intro _ | apply State.set_keeps | apply ite_keeps | apply foldl_keeps)
    | split
    | dsimp only
    | with_reducible apply keeps_upd

theorem State.ringBack_keeps {s : State} (h : s.keeps m q) : ∀ a1, (@State.ringBack s a1).keeps m q := by
  intro a1
  unfold State.ringBack
  try dsimp only
  repeat' first
    | (with_reducible first | assumption | intro _ | apply State.set_keeps | apply ite_keeps | apply foldl_keeps)
    | (with_reducible first | apply Mem.wf_wrs | apply Mem.wf_foldl_wr | apply Mem.wf_clear)
    | (with_reducible first | refine State.keeps.pads (m := m) (q := q) ?_ (by assumption))
    | (with_reducible first | refine State.keeps.sram (m := m) (q := q) ?_ (by assumption))
    | (with_reducible first | refine State.keeps.near (m := m) (q := q) ?_ (by assumption))
    | (with_reducible first | refine State.keeps.tuck (m := m) (q := q) ?_ (by assumption))
    | (with_reducible first | refine State.keeps.pending (m := m) (q := q) ?_ | apply And.intro)
    | split
    | dsimp only
    | simp only [keeps_mk]

theorem State.boot4_keeps {s : State} (h : s.keeps m q) : ∀ a1, (@State.boot4 s a1).keeps m q := by
  intro a1
  unfold State.boot4
  try dsimp only
  repeat' first
    | (with_reducible first | assumption | intro _ | apply State.bootFail_keeps | apply State.set_keeps)
    | (with_reducible first | apply State.ksGenerate_keeps | apply State.padRepairs_keeps | apply State.rasRecord_keeps)
    | (with_reducible first | apply State.ringBack_keeps | apply State.bootDone_keeps | apply ite_keeps | apply foldl_keeps)
    | split
    | dsimp only
    | with_reducible apply keeps_upd

theorem State.rowRepairs_keeps {s : State} (h : s.keeps m q) : (@State.rowRepairs s).keeps m q := by
  unfold State.rowRepairs
  try dsimp only
  repeat' first
    | (with_reducible first | assumption | intro _ | apply State.rasRecord_keeps | apply State.free_keeps | apply ite_keeps)
    | (with_reducible first | apply foldl_keeps | apply ite_fst_keeps | refine fst_keeps (by assumption) ?_)
    | (with_reducible first | refine snd_keeps (by assumption) ?_)
    | split
    | dsimp only
    | with_reducible apply keeps_upd

theorem State.pageOn_keeps {s : State} (h : s.keeps m q) : ∀ a1, (@State.pageOn s a1).keeps m q := by
  intro a1
  unfold State.pageOn
  try dsimp only
  repeat' first
    | (with_reducible first | assumption | intro _ | apply State.blockStart_keeps | apply State.set_keeps | apply ite_keeps)
    | (with_reducible first | apply foldl_keeps)
    | split
    | dsimp only
    | with_reducible apply keeps_upd

theorem State.boot5_keeps {s : State} (h : s.keeps m q) : ∀ a1, (@State.boot5 s a1).keeps m q := by
  intro a1
  unfold State.boot5
  try dsimp only
  repeat' first
    | (with_reducible first | assumption | intro _ | apply State.trainDone_keeps | apply State.trainGo_keeps)
    | (with_reducible first | apply State.pageOn_keeps | apply State.bootFail_keeps | apply State.bootDone_keeps)
    | (with_reducible first | apply State.rowRepairs_keeps | apply ite_keeps | apply foldl_keeps)
    | split
    | dsimp only
    | with_reducible apply keeps_upd

theorem State.mapSet_keeps {s : State} (h : s.keeps m q) : ∀ a1 a2 a3, (@State.mapSet s a1 a2 a3).keeps m q := by
  intro a1 a2 a3
  unfold State.mapSet
  try dsimp only
  repeat' first
    | (with_reducible first | assumption | intro _ | apply State.set_keeps | apply ite_keeps | apply foldl_keeps)
    | split
    | dsimp only
    | with_reducible apply keeps_upd

theorem State.spareSet_keeps {s : State} (h : s.keeps m q) : ∀ a1 a2 a3 a4, (@State.spareSet s a1 a2 a3 a4).keeps m q := by
  intro a1 a2 a3 a4
  unfold State.spareSet
  try dsimp only
  repeat' first
    | (with_reducible first | assumption | intro _ | apply State.set_keeps | apply ite_keeps | apply foldl_keeps)
    | split
    | dsimp only
    | with_reducible apply keeps_upd

theorem State.mapInit_keeps {s : State} (h : s.keeps m q) : (@State.mapInit s).keeps m q := by
  unfold State.mapInit
  try dsimp only
  repeat' first
    | (with_reducible first | assumption | intro _ | apply State.mapSet_keeps | apply State.spareSet_keeps | apply ite_keeps)
    | (with_reducible first | apply foldl_keeps)
    | split
    | dsimp only
    | with_reducible apply keeps_upd

theorem State.mapBack_keeps {s : State} (h : s.keeps m q) : ∀ a1, (@State.mapBack s a1).keeps m q := by
  intro a1
  unfold State.mapBack
  try dsimp only
  repeat' first
    | (with_reducible first | assumption | intro _ | apply State.mapSet_keeps | apply State.spareSet_keeps | apply ite_keeps)
    | (with_reducible first | apply foldl_keeps)
    | split
    | dsimp only
    | with_reducible apply keeps_upd

theorem State.retireStops_keeps {s : State} (h : s.keeps m q) : (@State.retireStops s).keeps m q := by
  unfold State.retireStops
  try dsimp only
  repeat' first
    | (with_reducible first | assumption | intro _ | apply State.spareSet_keeps | apply State.satInc_keeps)
    | (with_reducible first | apply State.mapSet_keeps | apply ite_keeps | apply foldl_keeps)
    | split
    | dsimp only
    | with_reducible apply keeps_upd

theorem State.remapInit_keeps {s : State} (h : s.keeps m q) : (@State.remapInit s).keeps m q := by
  unfold State.remapInit
  try dsimp only
  repeat' first
    | (with_reducible first | assumption | intro _ | apply State.set_keeps | apply ite_keeps | apply foldl_keeps)
    | split
    | dsimp only
    | with_reducible apply keeps_upd

theorem State.boot6_keeps {s : State} (h : s.keeps m q) : ∀ a1, (@State.boot6 s a1).keeps m q := by
  intro a1
  unfold State.boot6
  try dsimp only
  repeat' first
    | (with_reducible first | assumption | intro _ | apply State.bootFail_keeps | apply State.mapBack_keeps)
    | (with_reducible first | apply State.mapInit_keeps | apply State.remapInit_keeps | apply State.retireStops_keeps)
    | (with_reducible first | apply State.setGate_keeps | apply State.set_keeps | apply State.pageOn_keeps)
    | (with_reducible first | apply State.lanesMove_keeps | apply State.gateTiles_keeps | apply State.tileOwner_keeps)
    | (with_reducible first | apply State.bootDone_keeps | apply State.ksUnwrap_keeps | apply ite_keeps | apply foldl_keeps)
    | split
    | dsimp only
    | with_reducible apply keeps_upd

theorem State.boot7_keeps {s : State} (h : s.keeps m q) : ∀ a1, (@State.boot7 s a1).keeps m q := by
  intro a1
  unfold State.boot7
  try dsimp only
  repeat' first
    | (with_reducible first | assumption | intro _ | apply State.pageOn_keeps | apply State.bootFail_keeps)
    | (with_reducible first | apply State.bootDone_keeps | apply ite_keeps | apply foldl_keeps)
    | split
    | dsimp only
    | with_reducible apply keeps_upd

theorem State.boot8_keeps {s : State} (h : s.keeps m q) : ∀ a1, (@State.boot8 s a1).keeps m q := by
  intro a1
  unfold State.boot8
  try dsimp only
  repeat' first
    | (with_reducible first | assumption | intro _ | apply State.patrolStart_keeps | apply State.bootDone_keeps)
    | (with_reducible first | apply State.padWr_keeps | apply ite_keeps | apply foldl_keeps)
    | split
    | dsimp only
    | with_reducible apply keeps_upd

theorem State.bootGo_keeps {s : State} (h : s.keeps m q) : ∀ a1, (@State.bootGo s a1).keeps m q := by
  intro a1
  unfold State.bootGo
  try dsimp only
  repeat' first
    | (with_reducible first | assumption | intro _ | apply State.boot1_keeps | apply State.boot23_keeps | apply State.boot4_keeps)
    | (with_reducible first | apply State.boot5_keeps | apply State.boot6_keeps | apply State.boot7_keeps)
    | (with_reducible first | apply State.boot8_keeps | apply ite_keeps | apply foldl_keeps)
    | split
    | dsimp only
    | with_reducible apply keeps_upd

theorem State.boot_keeps {s : State} (h : s.keeps m q) : ∀ a1, (@State.boot s a1).keeps m q := by
  intro a1
  unfold State.boot
  try dsimp only
  repeat' first
    | (with_reducible first | assumption | intro _ | apply State.bootGo_keeps | apply ite_keeps | apply foldl_keeps)
    | split
    | dsimp only
    | with_reducible apply keeps_upd

theorem State.imageRetry_keeps {s : State} (h : s.keeps m q) : ∀ a1, (@State.imageRetry s a1).keeps m q := by
  intro a1
  unfold State.imageRetry
  try dsimp only
  repeat' first
    | (with_reducible first | assumption | intro _ | apply State.bootGo_keeps | apply ite_keeps | apply foldl_keeps)
    | split
    | dsimp only
    | with_reducible apply keeps_upd

theorem State.thermtrip_keeps {s : State} (h : s.keeps m q) : ∀ a1, (@State.thermtrip s a1).keeps m q := by
  intro a1
  unfold State.thermtrip
  try dsimp only
  repeat' first
    | (with_reducible first | assumption | intro _ | apply State.ibi_keeps | apply ite_keeps | apply foldl_keeps)
    | split
    | dsimp only
    | with_reducible apply keeps_upd

theorem State.i3cIndex_keeps {s : State} (h : s.keeps m q) : ∀ a1, (@State.i3cIndex s a1).keeps m q := by
  intro a1
  unfold State.i3cIndex
  try dsimp only
  repeat' first
    | (with_reducible first | assumption | intro _ | apply State.answer_keeps | apply ite_keeps | apply foldl_keeps)
    | split
    | dsimp only
    | with_reducible apply keeps_upd

theorem State.jtagLoad_keeps {s : State} (h : s.keeps m q) : ∀ a1, (@State.jtagLoad s a1).keeps m q := by
  intro a1
  unfold State.jtagLoad
  try dsimp only
  repeat' first
    | (with_reducible first | assumption | intro _ | apply State.answer_keeps | apply ite_keeps | apply foldl_keeps)
    | split
    | dsimp only
    | with_reducible apply keeps_upd

end Sys2Proof.Machine
end

