-- ==== Sys2Proof/Laws/KeepTick.lean ====
section
/-! SUPPORT. Every operation of Machine/Tick.lean keeps the byte memories canonical and the queue as it stands. -/

namespace Sys2Proof.Machine

variable {m : Prop} {q : List Instr}

theorem State.pageOcc_keeps {s : State} (h : s.keeps m q) : ∀ a1 a2 a3 a4, (@State.pageOcc s a1 a2 a3 a4).keeps m q := by
  intro a1 a2 a3 a4
  unfold State.pageOcc
  try dsimp only
  repeat' first
    | (with_reducible first | assumption | intro _ | apply State.pmuEventPg_keeps | apply ite_keeps | apply foldl_keeps)
    | split
    | dsimp only
    | with_reducible apply keeps_upd

theorem State.tileCycles_keeps {s : State} (h : s.keeps m q) : ∀ a1 a2 a3, (@State.tileCycles s a1 a2 a3).keeps m q := by
  intro a1 a2 a3
  unfold State.tileCycles
  try dsimp only
  repeat' first
    | (with_reducible first | assumption | intro _ | apply State.unlodge_keeps | apply State.idleCycles_keeps)
    | (with_reducible first | apply State.pageOcc_keeps | apply ite_keeps | apply foldl_keeps)
    | split
    | dsimp only
    | with_reducible apply keeps_upd

theorem State.agentCycles_keeps {s : State} (h : s.keeps m q) : ∀ a1 a2 a3, (@State.agentCycles s a1 a2 a3).keeps m q := by
  intro a1 a2 a3
  unfold State.agentCycles
  try dsimp only
  repeat' first
    | (with_reducible first | assumption | intro _ | apply State.pmuFix_keeps | apply State.pageOcc_keeps | apply ite_keeps)
    | (with_reducible first | apply foldl_keeps)
    | split
    | dsimp only
    | with_reducible apply keeps_upd

theorem State.countCycles_keeps {s : State} (h : s.keeps m q) : (@State.countCycles s).keeps m q := by
  unfold State.countCycles
  try dsimp only
  repeat' first
    | (with_reducible first | assumption | intro _ | apply State.tileCycles_keeps | apply State.agentCycles_keeps)
    | (with_reducible first | apply ite_keeps | apply foldl_keeps)
    | split
    | dsimp only
    | with_reducible apply keeps_upd

theorem State.tick_keeps {s : State} (h : s.keeps m q) : (@State.tick s).keeps m q := by
  unfold State.tick
  try dsimp only
  repeat' first
    | (with_reducible first | assumption | intro _ | apply State.inc_keeps | apply State.countCycles_keeps)
    | (with_reducible first | apply State.wdogTick_keeps | apply State.epMbxTick_keeps | apply State.svcAdvance_keeps)
    | (with_reducible first | apply State.rasAdvance_keeps | apply ite_keeps | apply foldl_keeps)
    | split
    | dsimp only
    | with_reducible apply keeps_upd

end Sys2Proof.Machine
end

