-- ==== Sys2Proof/Laws/KeepOut.lean ====
section
/-! SUPPORT. The same for outcomes: a next state is one in which the memories are canonical and the queue stands. -/

namespace Sys2Proof.Machine

variable {m : Prop} {q : List Instr}

theorem onTile_keeps {s : State} (h : s.keeps m q) {st : Stop} {f : State → State}
    (hf : ∀ s, s.keeps m q → (f s).keeps m q) : outKeeps m q (onTile st s f) := by
  unfold onTile
  split
  · exact ite_keeps (hf s h) h
  · trivial

theorem act_keeps {s : State} (h : s.keeps m q) {f : State → State} (hf : ∀ s, s.keeps m q → (f s).keeps m q) :
    outKeeps m q (act s f) := ite_keeps (hf s h) h

theorem next_keeps {s : State} (h : s.keeps m q) : outKeeps m q (.next s) := h

theorem ite_outKeeps {c : Prop} [Decidable c] {x y : Out} (hx : outKeeps m q x) (hy : outKeeps m q y) :
    outKeeps m q (if c then x else y) := by
  split
  · exact hx
  · exact hy

end Sys2Proof.Machine
end

