-- ==== Sys2Proof/Laws/KeepTileRows.lean ====
section
/-! SUPPORT. Every command of Machine/TileRows.lean keeps the byte memories canonical and the queue as it stands. -/

namespace Sys2Proof.Machine

variable {m : Prop} {q : List Instr}

theorem execStoreDrain_keeps {s : State} (h : s.keeps m q) : ∀ a0 a1, outKeeps m q (@execStoreDrain a0 a1 s) := by
  intro a0 a1
  unfold execStoreDrain
  repeat' first
    | (with_reducible first | assumption | intro _ | apply State.storeDrain_keeps | apply onTile_keeps | apply act_keeps)
    | (with_reducible first | apply next_keeps | apply ite_outKeeps | apply ite_keeps | apply foldl_keeps)
    | split
    | dsimp only
    | with_reducible apply keeps_upd

theorem execWcBufferTimeout_keeps {s : State} (h : s.keeps m q) : ∀ a0 a1, outKeeps m q (@execWcBufferTimeout a0 a1 s) := by
  intro a0 a1
  unfold execWcBufferTimeout
  repeat' first
    | (with_reducible first | assumption | intro _ | apply State.wcTimeout_keeps | apply onTile_keeps | apply act_keeps)
    | (with_reducible first | apply next_keeps | apply ite_outKeeps | apply ite_keeps | apply foldl_keeps)
    | split
    | dsimp only
    | with_reducible apply keeps_upd

theorem execDevSAcknowledge_keeps {s : State} (h : s.keeps m q) : ∀ a0 a1, outKeeps m q (@execDevSAcknowledge a0 a1 s) := by
  intro a0 a1
  unfold execDevSAcknowledge
  repeat' first
    | (with_reducible first | assumption | intro _ | apply State.devSAck_keeps | apply onTile_keeps | apply act_keeps)
    | (with_reducible first | apply next_keeps | apply ite_outKeeps | apply ite_keeps | apply foldl_keeps)
    | split
    | dsimp only
    | with_reducible apply keeps_upd

theorem execStoreRefusal_keeps {s : State} (h : s.keeps m q) : ∀ a0 a1 a2, outKeeps m q (@execStoreRefusal a0 a1 a2 s) := by
  intro a0 a1 a2
  unfold execStoreRefusal
  repeat' first
    | (with_reducible first | assumption | intro _ | apply State.storeRefusal_keeps | apply onTile_keeps | apply act_keeps)
    | (with_reducible first | apply next_keeps | apply ite_outKeeps | apply ite_keeps | apply foldl_keeps)
    | split
    | dsimp only
    | with_reducible apply keeps_upd

theorem execPmbRing_keeps {s : State} (h : s.keeps m q) : ∀ a0, outKeeps m q (@execPmbRing a0 s) := by
  intro a0
  unfold execPmbRing
  repeat' first
    | (with_reducible first | assumption | intro _ | apply State.pmbRing_keeps | apply onTile_keeps | apply act_keeps)
    | (with_reducible first | apply next_keeps | apply ite_outKeeps | apply ite_keeps | apply foldl_keeps)
    | split
    | dsimp only
    | with_reducible apply keeps_upd

theorem execPmbCompletion_keeps {s : State} (h : s.keeps m q) : ∀ a0 a1 a2 a3, outKeeps m q (@execPmbCompletion a0 a1 a2 a3 s) := by
  intro a0 a1 a2 a3
  unfold execPmbCompletion
  repeat' first
    | (with_reducible first | assumption | intro _ | apply State.pmbComplete_keeps | apply onTile_keeps | apply act_keeps)
    | (with_reducible first | apply next_keeps | apply ite_outKeeps | apply ite_keeps | apply foldl_keeps)
    | split
    | dsimp only
    | with_reducible apply keeps_upd

theorem execPmbTimeout_keeps {s : State} (h : s.keeps m q) : ∀ a0, outKeeps m q (@execPmbTimeout a0 s) := by
  intro a0
  unfold execPmbTimeout
  repeat' first
    | (with_reducible first | assumption | intro _ | apply State.pmbTimeout_keeps | apply onTile_keeps | apply act_keeps)
    | (with_reducible first | apply next_keeps | apply ite_outKeeps | apply ite_keeps | apply foldl_keeps)
    | split
    | dsimp only
    | with_reducible apply keeps_upd

theorem execPageWalk_keeps {s : State} (h : s.keeps m q) : ∀ a0 a1, outKeeps m q (@execPageWalk a0 a1 s) := by
  intro a0 a1
  unfold execPageWalk
  repeat' first
    | (with_reducible first | assumption | intro _ | apply State.pageWalk_keeps | apply onTile_keeps | apply act_keeps)
    | (with_reducible first | apply next_keeps | apply ite_outKeeps | apply ite_keeps | apply foldl_keeps)
    | split
    | dsimp only
    | with_reducible apply keeps_upd

theorem execAdUpdate_keeps {s : State} (h : s.keeps m q) : ∀ a0 a1, outKeeps m q (@execAdUpdate a0 a1 s) := by
  intro a0 a1
  unfold execAdUpdate
  repeat' first
    | (with_reducible first | assumption | intro _ | apply State.adUpdate_keeps | apply onTile_keeps | apply act_keeps)
    | (with_reducible first | apply next_keeps | apply ite_outKeeps | apply ite_keeps | apply foldl_keeps)
    | split
    | dsimp only
    | with_reducible apply keeps_upd

theorem execPisteInvalidationSend_keeps {s : State} (h : s.keeps m q) : ∀ a0, outKeeps m q (@execPisteInvalidationSend a0 s) := by
  intro a0
  unfold execPisteInvalidationSend
  repeat' first
    | (with_reducible first | assumption | intro _ | apply State.xinvSend_keeps | apply onTile_keeps | apply act_keeps)
    | (with_reducible first | apply next_keeps | apply ite_outKeeps | apply ite_keeps | apply foldl_keeps)
    | split
    | dsimp only
    | with_reducible apply keeps_upd

theorem execInvalidationAck_keeps {s : State} (h : s.keeps m q) : ∀ a0, outKeeps m q (@execInvalidationAck a0 s) := by
  intro a0
  unfold execInvalidationAck
  repeat' first
    | (with_reducible first | assumption | intro _ | apply State.xinvAck_keeps | apply onTile_keeps | apply act_keeps)
    | (with_reducible first | apply next_keeps | apply ite_outKeeps | apply ite_keeps | apply foldl_keeps)
    | split
    | dsimp only
    | with_reducible apply keeps_upd

theorem execLecTimer_keeps {s : State} (h : s.keeps m q) : ∀ a0 a1, outKeeps m q (@execLecTimer a0 a1 s) := by
  intro a0 a1
  unfold execLecTimer
  repeat' first
    | (with_reducible first | assumption | intro _ | apply State.lecWake_keeps | apply onTile_keeps | apply act_keeps)
    | (with_reducible first | apply next_keeps | apply ite_outKeeps | apply ite_keeps | apply foldl_keeps)
    | split
    | dsimp only
    | with_reducible apply keeps_upd

end Sys2Proof.Machine
end

