-- ==== Sys2Proof/Laws/KeepArrayRows.lean ====
section
/-! SUPPORT. Every command of Machine/ArrayRows.lean keeps the byte memories canonical and the queue as it stands. -/

namespace Sys2Proof.Machine

variable {m : Prop} {q : List Instr}

theorem execRangeEngineDone_keeps {s : State} (h : s.keeps m q) : ∀ a0, outKeeps m q (@execRangeEngineDone a0 s) := by
  intro a0
  unfold execRangeEngineDone
  repeat' first
    | (with_reducible first | assumption | intro _ | apply State.rangeDone_keeps | apply onTile_keeps | apply act_keeps)
    | (with_reducible first | apply next_keeps | apply ite_outKeeps | apply ite_keeps | apply foldl_keeps)
    | split
    | dsimp only
    | with_reducible apply keeps_upd

theorem execLockEmptyingDone_keeps {s : State} (h : s.keeps m q) : ∀ a0, outKeeps m q (@execLockEmptyingDone a0 s) := by
  intro a0
  unfold execLockEmptyingDone
  repeat' first
    | (with_reducible first | assumption | intro _ | apply State.lockEmptied_keeps | apply onTile_keeps | apply act_keeps)
    | (with_reducible first | apply next_keeps | apply ite_outKeeps | apply ite_keeps | apply foldl_keeps)
    | split
    | dsimp only
    | with_reducible apply keeps_upd

theorem execCacheSweepRead_keeps {s : State} (h : s.keeps m q) : ∀ a0 a1 a2 a3 a4, outKeeps m q (@execCacheSweepRead a0 a1 a2 a3 a4 s) := by
  intro a0 a1 a2 a3 a4
  unfold execCacheSweepRead
  repeat' first
    | (with_reducible first | assumption | intro _ | apply State.sliceSweep_keeps | apply State.l2Sweep_keeps)
    | (with_reducible first | apply onTile_keeps | apply act_keeps | apply next_keeps | apply ite_outKeeps | apply ite_keeps)
    | (with_reducible first | apply foldl_keeps)
    | split
    | dsimp only
    | with_reducible apply keeps_upd

theorem execSliceDrainDone_keeps {s : State} (h : s.keeps m q) : ∀ a0, outKeeps m q (@execSliceDrainDone a0 s) := by
  intro a0
  unfold execSliceDrainDone
  repeat' first
    | (with_reducible first | assumption | intro _ | apply State.drainDone_keeps | apply onTile_keeps | apply act_keeps)
    | (with_reducible first | apply next_keeps | apply ite_outKeeps | apply ite_keeps | apply foldl_keeps)
    | split
    | dsimp only
    | with_reducible apply keeps_upd

theorem execPadZeroingDone_keeps {s : State} (h : s.keeps m q) : ∀ a0, outKeeps m q (@execPadZeroingDone a0 s) := by
  intro a0
  unfold execPadZeroingDone
  repeat' first
    | (with_reducible first | assumption | intro _ | apply State.padZeroed_keeps | apply onTile_keeps | apply act_keeps)
    | (with_reducible first | apply next_keeps | apply ite_outKeeps | apply ite_keeps | apply foldl_keeps)
    | split
    | dsimp only
    | with_reducible apply keeps_upd

theorem execPadCopyDone_keeps {s : State} (h : s.keeps m q) : ∀ a0, outKeeps m q (@execPadCopyDone a0 s) := by
  intro a0
  unfold execPadCopyDone
  repeat' first
    | (with_reducible first | assumption | intro _ | apply State.padCopyDone_keeps | apply onTile_keeps | apply act_keeps)
    | (with_reducible first | apply next_keeps | apply ite_outKeeps | apply ite_keeps | apply foldl_keeps)
    | split
    | dsimp only
    | with_reducible apply keeps_upd

theorem execPadSweepRead_keeps {s : State} (h : s.keeps m q) : ∀ a0 a1, outKeeps m q (@execPadSweepRead a0 a1 s) := by
  intro a0 a1
  unfold execPadSweepRead
  repeat' first
    | (with_reducible first | assumption | intro _ | apply State.padSweep_keeps | apply onTile_keeps | apply act_keeps)
    | (with_reducible first | apply next_keeps | apply ite_outKeeps | apply ite_keeps | apply foldl_keeps)
    | split
    | dsimp only
    | with_reducible apply keeps_upd

theorem execNmcRequestIssue_keeps {s : State} (h : s.keeps m q) : ∀ a0, outKeeps m q (@execNmcRequestIssue a0 s) := by
  intro a0
  unfold execNmcRequestIssue
  repeat' first
    | (with_reducible first | assumption | intro _ | apply State.nmcIssue_keeps | apply onTile_keeps | apply act_keeps)
    | (with_reducible first | apply next_keeps | apply ite_outKeeps | apply ite_keeps | apply foldl_keeps)
    | split
    | dsimp only
    | with_reducible apply keeps_upd

theorem execFallbackScheduling_keeps {s : State} (h : s.keeps m q) : ∀ a0, outKeeps m q (@execFallbackScheduling a0 s) := by
  intro a0
  unfold execFallbackScheduling
  repeat' first
    | (with_reducible first | assumption | intro _ | apply State.fallback_keeps | apply onTile_keeps | apply act_keeps)
    | (with_reducible first | apply next_keeps | apply ite_outKeeps | apply ite_keeps | apply foldl_keeps)
    | split
    | dsimp only
    | with_reducible apply keeps_upd

theorem execPageIdlePrecharge_keeps {s : State} (h : s.keeps m q) : ∀ a0 a1, outKeeps m q (@execPageIdlePrecharge a0 a1 s) := by
  intro a0 a1
  unfold execPageIdlePrecharge
  repeat' first
    | (with_reducible first | assumption | intro _ | apply State.idlePrecharge_keeps | apply onTile_keeps | apply act_keeps)
    | (with_reducible first | apply next_keeps | apply ite_outKeeps | apply ite_keeps | apply foldl_keeps)
    | split
    | dsimp only
    | with_reducible apply keeps_upd

theorem execPerBankRefresh_keeps {s : State} (h : s.keeps m q) : ∀ a0 a1, outKeeps m q (@execPerBankRefresh a0 a1 s) := by
  intro a0 a1
  unfold execPerBankRefresh
  repeat' first
    | (with_reducible first | assumption | intro _ | apply State.bankRefresh_keeps | apply onTile_keeps | apply act_keeps)
    | (with_reducible first | apply next_keeps | apply ite_outKeeps | apply ite_keeps | apply foldl_keeps)
    | split
    | dsimp only
    | with_reducible apply keeps_upd

theorem execAllBankRefresh_keeps {s : State} (h : s.keeps m q) : ∀ a0, outKeeps m q (@execAllBankRefresh a0 s) := by
  intro a0
  unfold execAllBankRefresh
  repeat' first
    | (with_reducible first | assumption | intro _ | apply State.allRefresh_keeps | apply onTile_keeps | apply act_keeps)
    | (with_reducible first | apply next_keeps | apply ite_outKeeps | apply ite_keeps | apply foldl_keeps)
    | split
    | dsimp only
    | with_reducible apply keeps_upd

theorem execRfm_keeps {s : State} (h : s.keeps m q) : ∀ a0 a1, outKeeps m q (@execRfm a0 a1 s) := by
  intro a0 a1
  unfold execRfm
  repeat' first
    | (with_reducible first | assumption | intro _ | apply State.rfmIssue_keeps | apply onTile_keeps | apply act_keeps)
    | (with_reducible first | apply next_keeps | apply ite_outKeeps | apply ite_keeps | apply foldl_keeps)
    | split
    | dsimp only
    | with_reducible apply keeps_upd

theorem execDeviceRfmDemand_keeps {s : State} (h : s.keeps m q) : ∀ a0 a1, outKeeps m q (@execDeviceRfmDemand a0 a1 s) := by
  intro a0 a1
  unfold execDeviceRfmDemand
  repeat' first
    | (with_reducible first | assumption | intro _ | apply State.rfmDemand_keeps | apply onTile_keeps | apply act_keeps)
    | (with_reducible first | apply next_keeps | apply ite_outKeeps | apply ite_keeps | apply foldl_keeps)
    | split
    | dsimp only
    | with_reducible apply keeps_upd

theorem execTrainingDone_keeps {s : State} (h : s.keeps m q) : ∀ a0 a1, outKeeps m q (@execTrainingDone a0 a1 s) := by
  intro a0 a1
  unfold execTrainingDone
  repeat' first
    | (with_reducible first | assumption | intro _ | apply State.trainDone_keeps | apply onTile_keeps | apply act_keeps)
    | (with_reducible first | apply next_keeps | apply ite_outKeeps | apply ite_keeps | apply foldl_keeps)
    | split
    | dsimp only
    | with_reducible apply keeps_upd

theorem execDqsOscillator_keeps {s : State} (h : s.keeps m q) : ∀ a0, outKeeps m q (@execDqsOscillator a0 s) := by
  intro a0
  unfold execDqsOscillator
  repeat' first
    | (with_reducible first | assumption | intro _ | apply onTile_keeps | apply act_keeps | apply next_keeps | apply ite_outKeeps)
    | (with_reducible first | apply ite_keeps | apply foldl_keeps)
    | split
    | dsimp only
    | with_reducible apply keeps_upd

theorem execNmcSweepRead_keeps {s : State} (h : s.keeps m q) : ∀ a0 a1, outKeeps m q (@execNmcSweepRead a0 a1 s) := by
  intro a0 a1
  unfold execNmcSweepRead
  repeat' first
    | (with_reducible first | assumption | intro _ | apply State.nmcSweep_keeps | apply onTile_keeps | apply act_keeps)
    | (with_reducible first | apply next_keeps | apply ite_outKeeps | apply ite_keeps | apply foldl_keeps)
    | split
    | dsimp only
    | with_reducible apply keeps_upd

theorem execNearCacheFill_keeps {s : State} (h : s.keeps m q) : ∀ a0 a1 a2 a3, outKeeps m q (@execNearCacheFill a0 a1 a2 a3 s) := by
  intro a0 a1 a2 a3
  unfold execNearCacheFill
  repeat' first
    | (with_reducible first | assumption | intro _ | apply State.nearFill_keeps | apply onTile_keeps | apply act_keeps)
    | (with_reducible first | apply next_keeps | apply ite_outKeeps | apply ite_keeps | apply foldl_keeps)
    | split
    | dsimp only
    | with_reducible apply keeps_upd

theorem execSegmentZeroingDone_keeps {s : State} (h : s.keeps m q) : ∀ a0, outKeeps m q (@execSegmentZeroingDone a0 s) := by
  intro a0
  unfold execSegmentZeroingDone
  repeat' first
    | (with_reducible first | assumption | intro _ | apply State.segZeroed_keeps | apply onTile_keeps | apply act_keeps)
    | (with_reducible first | apply next_keeps | apply ite_outKeeps | apply ite_keeps | apply foldl_keeps)
    | split
    | dsimp only
    | with_reducible apply keeps_upd

theorem execCalendarActivate_keeps {s : State} (h : s.keeps m q) : ∀ a0, outKeeps m q (@execCalendarActivate a0 s) := by
  intro a0
  unfold execCalendarActivate
  repeat' first
    | (with_reducible first | assumption | intro _ | apply State.calActivate_keeps | apply onTile_keeps | apply act_keeps)
    | (with_reducible first | apply next_keeps | apply ite_outKeeps | apply ite_keeps | apply foldl_keeps)
    | split
    | dsimp only
    | with_reducible apply keeps_upd

theorem execNmcCalSlot_keeps {s : State} (h : s.keeps m q) : ∀ a0, outKeeps m q (@execNmcCalSlot a0 s) := by
  intro a0
  unfold execNmcCalSlot
  repeat' first
    | (with_reducible first | assumption | intro _ | apply State.calSlotRun_keeps | apply onTile_keeps | apply act_keeps)
    | (with_reducible first | apply next_keeps | apply ite_outKeeps | apply ite_keeps | apply foldl_keeps)
    | split
    | dsimp only
    | with_reducible apply keeps_upd

theorem execSplitLatch_keeps {s : State} (h : s.keeps m q) : ∀ a0, outKeeps m q (@execSplitLatch a0 s) := by
  intro a0
  unfold execSplitLatch
  repeat' first
    | (with_reducible first | assumption | intro _ | apply State.splitLatch_keeps | apply onTile_keeps | apply act_keeps)
    | (with_reducible first | apply next_keeps | apply ite_outKeeps | apply ite_keeps | apply foldl_keeps)
    | split
    | dsimp only
    | with_reducible apply keeps_upd

end Sys2Proof.Machine
end

