-- ==== Sys2Proof/Laws/KeepCarveRows.lean ====
section
/-! SUPPORT. Every command of Machine/CarveRows.lean keeps the byte memories canonical and the queue as it stands. -/

namespace Sys2Proof.Machine

variable {m : Prop} {q : List Instr}

theorem execCarveFetch_keeps {s : State} (h : s.keeps m q) : ∀ a0, outKeeps m q (@execCarveFetch a0 s) := by
  intro a0
  unfold execCarveFetch
  repeat' first
    | (with_reducible first | assumption | intro _ | apply State.carveFetch_keeps | apply onTile_keeps | apply act_keeps)
    | (with_reducible first | apply next_keeps | apply ite_outKeeps | apply ite_keeps | apply foldl_keeps)
    | split
    | dsimp only
    | with_reducible apply keeps_upd

theorem execRename_keeps {s : State} (h : s.keeps m q) : ∀ a0, outKeeps m q (@execRename a0 s) := by
  intro a0
  unfold execRename
  repeat' first
    | (with_reducible first | assumption | intro _ | apply State.rename_keeps | apply onTile_keeps | apply act_keeps)
    | (with_reducible first | apply next_keeps | apply ite_outKeeps | apply ite_keeps | apply foldl_keeps)
    | split
    | dsimp only
    | with_reducible apply keeps_upd

theorem execDispatch_keeps {s : State} (h : s.keeps m q) : ∀ a0, outKeeps m q (@execDispatch a0 s) := by
  intro a0
  unfold execDispatch
  repeat' first
    | (with_reducible first | assumption | intro _ | apply State.dispatch_keeps | apply onTile_keeps | apply act_keeps)
    | (with_reducible first | apply next_keeps | apply ite_outKeeps | apply ite_keeps | apply foldl_keeps)
    | split
    | dsimp only
    | with_reducible apply keeps_upd

theorem execStrideIssue_keeps {s : State} (h : s.keeps m q) : ∀ a0 a1, outKeeps m q (@execStrideIssue a0 a1 s) := by
  intro a0 a1
  unfold execStrideIssue
  repeat' first
    | (with_reducible first | assumption | intro _ | apply State.strideIssue_keeps | apply onTile_keeps | apply act_keeps)
    | (with_reducible first | apply next_keeps | apply ite_outKeeps | apply ite_keeps | apply foldl_keeps)
    | split
    | dsimp only
    | with_reducible apply keeps_upd

theorem execLodge_keeps {s : State} (h : s.keeps m q) : ∀ a0 a1, outKeeps m q (@execLodge a0 a1 s) := by
  intro a0 a1
  unfold execLodge
  repeat' first
    | (with_reducible first | assumption | intro _ | apply State.lodge_keeps | apply onTile_keeps | apply act_keeps)
    | (with_reducible first | apply next_keeps | apply ite_outKeeps | apply ite_keeps | apply foldl_keeps)
    | split
    | dsimp only
    | with_reducible apply keeps_upd

theorem execResultLand_keeps {s : State} (h : s.keeps m q) : ∀ a0 a1 a2, outKeeps m q (@execResultLand a0 a1 a2 s) := by
  intro a0 a1 a2
  unfold execResultLand
  repeat' first
    | (with_reducible first | assumption | intro _ | apply State.resultLand_keeps | apply onTile_keeps | apply act_keeps)
    | (with_reducible first | apply next_keeps | apply ite_outKeeps | apply ite_keeps | apply foldl_keeps)
    | split
    | dsimp only
    | with_reducible apply keeps_upd

theorem execCarveCommit_keeps {s : State} (h : s.keeps m q) : ∀ a0, outKeeps m q (@execCarveCommit a0 s) := by
  intro a0
  unfold execCarveCommit
  repeat' first
    | (with_reducible first | assumption | intro _ | apply State.carveCommit_keeps | apply onTile_keeps | apply act_keeps)
    | (with_reducible first | apply next_keeps | apply ite_outKeeps | apply ite_keeps | apply foldl_keeps)
    | split
    | dsimp only
    | with_reducible apply keeps_upd

theorem execOldestQueueSquash_keeps {s : State} (h : s.keeps m q) : ∀ a0, outKeeps m q (@execOldestQueueSquash a0 s) := by
  intro a0
  unfold execOldestQueueSquash
  repeat' first
    | (with_reducible first | assumption | intro _ | apply State.oldestQueueSquash_keeps | apply onTile_keeps | apply act_keeps)
    | (with_reducible first | apply next_keeps | apply ite_outKeeps | apply ite_keeps | apply foldl_keeps)
    | split
    | dsimp only
    | with_reducible apply keeps_upd

theorem execFaultRaise_keeps {s : State} (h : s.keeps m q) : ∀ a0, outKeeps m q (@execFaultRaise a0 s) := by
  intro a0
  unfold execFaultRaise
  repeat' first
    | (with_reducible first | assumption | intro _ | apply State.faultRaise_keeps | apply onTile_keeps | apply act_keeps)
    | (with_reducible first | apply next_keeps | apply ite_outKeeps | apply ite_keeps | apply foldl_keeps)
    | split
    | dsimp only
    | with_reducible apply keeps_upd

theorem execSpeculativeReissue_keeps {s : State} (h : s.keeps m q) : ∀ a0 a1, outKeeps m q (@execSpeculativeReissue a0 a1 s) := by
  intro a0 a1
  unfold execSpeculativeReissue
  repeat' first
    | (with_reducible first | assumption | intro _ | apply State.specReissue_keeps | apply onTile_keeps | apply act_keeps)
    | (with_reducible first | apply next_keeps | apply ite_outKeeps | apply ite_keeps | apply foldl_keeps)
    | split
    | dsimp only
    | with_reducible apply keeps_upd

theorem execStuckStrideTimeout_keeps {s : State} (h : s.keeps m q) : ∀ a0 a1, outKeeps m q (@execStuckStrideTimeout a0 a1 s) := by
  intro a0 a1
  unfold execStuckStrideTimeout
  repeat' first
    | (with_reducible first | assumption | intro _ | apply State.stuckStride_keeps | apply onTile_keeps | apply act_keeps)
    | (with_reducible first | apply next_keeps | apply ite_outKeeps | apply ite_keeps | apply foldl_keeps)
    | split
    | dsimp only
    | with_reducible apply keeps_upd

theorem execInterruptAccept_keeps {s : State} (h : s.keeps m q) : ∀ a0, outKeeps m q (@execInterruptAccept a0 s) := by
  intro a0
  unfold execInterruptAccept
  repeat' first
    | (with_reducible first | assumption | intro _ | apply State.interruptAccept_keeps | apply onTile_keeps | apply act_keeps)
    | (with_reducible first | apply next_keeps | apply ite_outKeeps | apply ite_keeps | apply foldl_keeps)
    | split
    | dsimp only
    | with_reducible apply keeps_upd

theorem execAtomicPerform_keeps {s : State} (h : s.keeps m q) : ∀ a0 a1, outKeeps m q (@execAtomicPerform a0 a1 s) := by
  intro a0 a1
  unfold execAtomicPerform
  repeat' first
    | (with_reducible first | assumption | intro _ | apply State.atomicPerform_keeps | apply onTile_keeps | apply act_keeps)
    | (with_reducible first | apply next_keeps | apply ite_outKeeps | apply ite_keeps | apply foldl_keeps)
    | split
    | dsimp only
    | with_reducible apply keeps_upd

end Sys2Proof.Machine
end

