-- ==== Sys2Proof/Laws/KeepExitRows.lean ====
section
/-! SUPPORT. Every command of Machine/ExitRows.lean keeps the byte memories canonical and the queue as it stands. -/

namespace Sys2Proof.Machine

variable {m : Prop} {q : List Instr}

theorem execExitR_keeps {s : State} (h : s.keeps m q) : ∀ a0 a1 a2 a3, outKeeps m q (@execExitR a0 a1 a2 a3 s) := by
  intro a0 a1 a2 a3
  unfold execExitR
  repeat' first
    | (with_reducible first | assumption | intro _ | apply State.issueExitRow_keeps | apply onTile_keeps | apply act_keeps)
    | (with_reducible first | apply next_keeps | apply ite_outKeeps | apply ite_keeps | apply foldl_keeps)
    | split
    | dsimp only
    | with_reducible apply keeps_upd

theorem execCallR_keeps {s : State} (h : s.keeps m q) : ∀ a0 a1 a2 a3, outKeeps m q (@execCallR a0 a1 a2 a3 s) := by
  intro a0 a1 a2 a3
  unfold execCallR
  repeat' first
    | (with_reducible first | assumption | intro _ | apply State.issueExitRow_keeps | apply onTile_keeps | apply act_keeps)
    | (with_reducible first | apply next_keeps | apply ite_outKeeps | apply ite_keeps | apply foldl_keeps)
    | split
    | dsimp only
    | with_reducible apply keeps_upd

theorem execExitX_keeps {s : State} (h : s.keeps m q) : ∀ a0 a1 a2 a3, outKeeps m q (@execExitX a0 a1 a2 a3 s) := by
  intro a0 a1 a2 a3
  unfold execExitX
  repeat' first
    | (with_reducible first | assumption | intro _ | apply State.issueExitRow_keeps | apply onTile_keeps | apply act_keeps)
    | (with_reducible first | apply next_keeps | apply ite_outKeeps | apply ite_keeps | apply foldl_keeps)
    | split
    | dsimp only
    | with_reducible apply keeps_upd

theorem execCallX_keeps {s : State} (h : s.keeps m q) : ∀ a0 a1 a2 a3, outKeeps m q (@execCallX a0 a1 a2 a3 s) := by
  intro a0 a1 a2 a3
  unfold execCallX
  repeat' first
    | (with_reducible first | assumption | intro _ | apply State.issueExitRow_keeps | apply onTile_keeps | apply act_keeps)
    | (with_reducible first | apply next_keeps | apply ite_outKeeps | apply ite_keeps | apply foldl_keeps)
    | split
    | dsimp only
    | with_reducible apply keeps_upd

theorem execRet_keeps {s : State} (h : s.keeps m q) : ∀ a0 a1 a2 a3, outKeeps m q (@execRet a0 a1 a2 a3 s) := by
  intro a0 a1 a2 a3
  unfold execRet
  repeat' first
    | (with_reducible first | assumption | intro _ | apply State.issueExitRow_keeps | apply onTile_keeps | apply act_keeps)
    | (with_reducible first | apply next_keeps | apply ite_outKeeps | apply ite_keeps | apply foldl_keeps)
    | split
    | dsimp only
    | with_reducible apply keeps_upd

end Sys2Proof.Machine
end

