-- ==== Sys2Proof/Laws/KeepHubRows.lean ====
section
/-! SUPPORT. Every command of Machine/HubRows.lean keeps the byte memories canonical and the queue as it stands. -/

namespace Sys2Proof.Machine

variable {m : Prop} {q : List Instr}

theorem execMsi_keeps {s : State} (h : s.keeps m q) : ∀ a0 a1 a2 a3 a4, outKeeps m q (@execMsi a0 a1 a2 a3 a4 s) := by
  intro a0 a1 a2 a3 a4
  unfold execMsi
  repeat' first
    | (with_reducible first | assumption | intro _ | apply State.msi_keeps | apply onTile_keeps | apply act_keeps)
    | (with_reducible first | apply next_keeps | apply ite_outKeeps | apply ite_keeps | apply foldl_keeps)
    | split
    | dsimp only
    | with_reducible apply keeps_upd

theorem execMsiRetry_keeps {s : State} (h : s.keeps m q) : ∀ a0 a1 a2, outKeeps m q (@execMsiRetry a0 a1 a2 s) := by
  intro a0 a1 a2
  unfold execMsiRetry
  repeat' first
    | (with_reducible first | assumption | intro _ | apply State.msiRetry_keeps | apply onTile_keeps | apply act_keeps)
    | (with_reducible first | apply next_keeps | apply ite_outKeeps | apply ite_keeps | apply foldl_keeps)
    | split
    | dsimp only
    | with_reducible apply keeps_upd

theorem execBisnp_keeps {s : State} (h : s.keeps m q) : ∀ a0 a1 a2 a3, outKeeps m q (@execBisnp a0 a1 a2 a3 s) := by
  intro a0 a1 a2 a3
  unfold execBisnp
  repeat' first
    | (with_reducible first | assumption | intro _ | apply State.bisnpRecv_keeps | apply onTile_keeps | apply act_keeps)
    | (with_reducible first | apply next_keeps | apply ite_outKeeps | apply ite_keeps | apply foldl_keeps)
    | split
    | dsimp only
    | with_reducible apply keeps_upd

theorem execD2hRequest_keeps {s : State} (h : s.keeps m q) : ∀ a0 a1 a2, outKeeps m q (@execD2hRequest a0 a1 a2 s) := by
  intro a0 a1 a2
  unfold execD2hRequest
  repeat' first
    | (with_reducible first | assumption | intro _ | apply State.d2h_keeps | apply onTile_keeps | apply act_keeps)
    | (with_reducible first | apply next_keeps | apply ite_outKeeps | apply ite_keeps | apply foldl_keeps)
    | split
    | dsimp only
    | with_reducible apply keeps_upd

theorem execH2dSnoopTimeout_keeps {s : State} (h : s.keeps m q) : ∀ a0 a1, outKeeps m q (@execH2dSnoopTimeout a0 a1 s) := by
  intro a0 a1
  unfold execH2dSnoopTimeout
  repeat' first
    | (with_reducible first | assumption | intro _ | apply State.h2dTimeout_keeps | apply onTile_keeps | apply act_keeps)
    | (with_reducible first | apply next_keeps | apply ite_outKeeps | apply ite_keeps | apply foldl_keeps)
    | split
    | dsimp only
    | with_reducible apply keeps_upd

theorem execH2dSnoopResponse_keeps {s : State} (h : s.keeps m q) : ∀ a0 a1 a2, outKeeps m q (@execH2dSnoopResponse a0 a1 a2 s) := by
  intro a0 a1 a2
  unfold execH2dSnoopResponse
  repeat' first
    | (with_reducible first | assumption | intro _ | apply State.h2dAnswer_keeps | apply onTile_keeps | apply act_keeps)
    | (with_reducible first | apply next_keeps | apply ite_outKeeps | apply ite_keeps | apply foldl_keeps)
    | split
    | dsimp only
    | with_reducible apply keeps_upd

theorem execBiconflictack_keeps {s : State} (h : s.keeps m q) : ∀ a0 a1, outKeeps m q (@execBiconflictack a0 a1 s) := by
  intro a0 a1
  unfold execBiconflictack
  repeat' first
    | (with_reducible first | assumption | intro _ | apply State.biAck_keeps | apply onTile_keeps | apply act_keeps)
    | (with_reducible first | apply next_keeps | apply ite_outKeeps | apply ite_keeps | apply foldl_keeps)
    | split
    | dsimp only
    | with_reducible apply keeps_upd

theorem execExtentSwitched_keeps {s : State} (h : s.keeps m q) : ∀ a0, outKeeps m q (@execExtentSwitched a0 s) := by
  intro a0
  unfold execExtentSwitched
  repeat' first
    | (with_reducible first | assumption | intro _ | apply State.extSwitched_keeps | apply onTile_keeps | apply act_keeps)
    | (with_reducible first | apply next_keeps | apply ite_outKeeps | apply ite_keeps | apply foldl_keeps)
    | split
    | dsimp only
    | with_reducible apply keeps_upd

theorem execCxlLinkDown_keeps {s : State} (h : s.keeps m q) : ∀ a0 a1 a2, outKeeps m q (@execCxlLinkDown a0 a1 a2 s) := by
  intro a0 a1 a2
  unfold execCxlLinkDown
  repeat' first
    | (with_reducible first | assumption | intro _ | apply State.cxlDown_keeps | apply State.ideEst_keeps)
    | (with_reducible first | apply State.portDown_keeps | apply onTile_keeps | apply act_keeps | apply next_keeps)
    | (with_reducible first | apply ite_outKeeps | apply ite_keeps | apply foldl_keeps)
    | split
    | dsimp only
    | with_reducible apply keeps_upd

theorem execS2mResponse_keeps {s : State} (h : s.keeps m q) : ∀ a0 a1 a2, outKeeps m q (@execS2mResponse a0 a1 a2 s) := by
  intro a0 a1 a2
  unfold execS2mResponse
  repeat' first
    | (with_reducible first | assumption | intro _ | apply State.s2m_keeps | apply onTile_keeps | apply act_keeps)
    | (with_reducible first | apply next_keeps | apply ite_outKeeps | apply ite_keeps | apply foldl_keeps)
    | split
    | dsimp only
    | with_reducible apply keeps_upd

theorem execCxlMemTimeout_keeps {s : State} (h : s.keeps m q) : ∀ a0 a1, outKeeps m q (@execCxlMemTimeout a0 a1 s) := by
  intro a0 a1
  unfold execCxlMemTimeout
  repeat' first
    | (with_reducible first | assumption | intro _ | apply State.m2sTimeout_keeps | apply onTile_keeps | apply act_keeps)
    | (with_reducible first | apply next_keeps | apply ite_outKeeps | apply ite_keeps | apply foldl_keeps)
    | split
    | dsimp only
    | with_reducible apply keeps_upd

theorem execCachememIdeFail_keeps {s : State} (h : s.keeps m q) : ∀ a0 a1, outKeeps m q (@execCachememIdeFail a0 a1 s) := by
  intro a0 a1
  unfold execCachememIdeFail
  repeat' first
    | (with_reducible first | assumption | intro _ | apply State.cachememFail_keeps | apply onTile_keeps | apply act_keeps)
    | (with_reducible first | apply next_keeps | apply ite_outKeeps | apply ite_keeps | apply foldl_keeps)
    | split
    | dsimp only
    | with_reducible apply keeps_upd

theorem execInboundRequest_keeps {s : State} (h : s.keeps m q) : ∀ a0 a1 a2, outKeeps m q (@execInboundRequest a0 a1 a2 s) := by
  intro a0 a1 a2
  unfold execInboundRequest
  repeat' first
    | (with_reducible first | assumption | intro _ | apply State.inbound_keeps | apply onTile_keeps | apply act_keeps)
    | (with_reducible first | apply next_keeps | apply ite_outKeeps | apply ite_keeps | apply foldl_keeps)
    | split
    | dsimp only
    | with_reducible apply keeps_upd

theorem execPf1Request_keeps {s : State} (h : s.keeps m q) : ∀ a0 a1, outKeeps m q (@execPf1Request a0 a1 s) := by
  intro a0 a1
  unfold execPf1Request
  repeat' first
    | (with_reducible first | assumption | intro _ | apply State.pf1Request_keeps | apply onTile_keeps | apply act_keeps)
    | (with_reducible first | apply next_keeps | apply ite_outKeeps | apply ite_keeps | apply foldl_keeps)
    | split
    | dsimp only
    | with_reducible apply keeps_upd

theorem execTlpCompletion_keeps {s : State} (h : s.keeps m q) : ∀ a0 a1 a2 a3, outKeeps m q (@execTlpCompletion a0 a1 a2 a3 s) := by
  intro a0 a1 a2 a3
  unfold execTlpCompletion
  repeat' first
    | (with_reducible first | assumption | intro _ | apply State.tlpDone_keeps | apply onTile_keeps | apply act_keeps)
    | (with_reducible first | apply next_keeps | apply ite_outKeeps | apply ite_keeps | apply foldl_keeps)
    | split
    | dsimp only
    | with_reducible apply keeps_upd

theorem execCompletionTimeout_keeps {s : State} (h : s.keeps m q) : ∀ a0 a1 a2, outKeeps m q (@execCompletionTimeout a0 a1 a2 s) := by
  intro a0 a1 a2
  unfold execCompletionTimeout
  repeat' first
    | (with_reducible first | assumption | intro _ | apply State.outTimeout_keeps | apply onTile_keeps | apply act_keeps)
    | (with_reducible first | apply next_keeps | apply ite_outKeeps | apply ite_keeps | apply foldl_keeps)
    | split
    | dsimp only
    | with_reducible apply keeps_upd

theorem execSscFrame_keeps {s : State} (h : s.keeps m q) : ∀ a0 a1, outKeeps m q (@execSscFrame a0 a1 s) := by
  intro a0 a1
  unfold execSscFrame
  repeat' first
    | (with_reducible first | assumption | intro _ | apply State.sscFrame_keeps | apply onTile_keeps | apply act_keeps)
    | (with_reducible first | apply next_keeps | apply ite_outKeeps | apply ite_keeps | apply foldl_keeps)
    | split
    | dsimp only
    | with_reducible apply keeps_upd

theorem execSlotControlWrite_keeps {s : State} (h : s.keeps m q) : ∀ a0 a1 a2 a3, outKeeps m q (@execSlotControlWrite a0 a1 a2 a3 s) := by
  intro a0 a1 a2 a3
  unfold execSlotControlWrite
  repeat' first
    | (with_reducible first | assumption | intro _ | apply State.slotControl_keeps | apply onTile_keeps | apply act_keeps)
    | (with_reducible first | apply next_keeps | apply ite_outKeeps | apply ite_keeps | apply foldl_keeps)
    | split
    | dsimp only
    | with_reducible apply keeps_upd

theorem execPgoodTimeout_keeps {s : State} (h : s.keeps m q) : ∀ a0 a1, outKeeps m q (@execPgoodTimeout a0 a1 s) := by
  intro a0 a1
  unfold execPgoodTimeout
  repeat' first
    | (with_reducible first | assumption | intro _ | apply State.pgoodTimeout_keeps | apply onTile_keeps | apply act_keeps)
    | (with_reducible first | apply next_keeps | apply ite_outKeeps | apply ite_keeps | apply foldl_keeps)
    | split
    | dsimp only
    | with_reducible apply keeps_upd

theorem execSlotPerstRelease_keeps {s : State} (h : s.keeps m q) : ∀ a0 a1, outKeeps m q (@execSlotPerstRelease a0 a1 s) := by
  intro a0 a1
  unfold execSlotPerstRelease
  repeat' first
    | (with_reducible first | assumption | intro _ | apply State.slotPerst_keeps | apply onTile_keeps | apply act_keeps)
    | (with_reducible first | apply next_keeps | apply ite_outKeeps | apply ite_keeps | apply foldl_keeps)
    | split
    | dsimp only
    | with_reducible apply keeps_upd

theorem execSlotPowerOff_keeps {s : State} (h : s.keeps m q) : ∀ a0 a1, outKeeps m q (@execSlotPowerOff a0 a1 s) := by
  intro a0 a1
  unfold execSlotPowerOff
  repeat' first
    | (with_reducible first | assumption | intro _ | apply State.slotOff_keeps | apply onTile_keeps | apply act_keeps)
    | (with_reducible first | apply next_keeps | apply ite_outKeeps | apply ite_keeps | apply foldl_keeps)
    | split
    | dsimp only
    | with_reducible apply keeps_upd

theorem execLinkDown_keeps {s : State} (h : s.keeps m q) : ∀ a0 a1, outKeeps m q (@execLinkDown a0 a1 s) := by
  intro a0 a1
  unfold execLinkDown
  repeat' first
    | (with_reducible first | assumption | intro _ | apply State.ideEst_keeps | apply State.portDown_keeps | apply onTile_keeps)
    | (with_reducible first | apply act_keeps | apply next_keeps | apply ite_outKeeps | apply ite_keeps | apply foldl_keeps)
    | split
    | dsimp only
    | with_reducible apply keeps_upd

theorem execLinkIdeFail_keeps {s : State} (h : s.keeps m q) : ∀ a0 a1, outKeeps m q (@execLinkIdeFail a0 a1 s) := by
  intro a0 a1
  unfold execLinkIdeFail
  repeat' first
    | (with_reducible first | assumption | intro _ | apply State.ideEst_keeps | apply State.linkIdeFail_keeps)
    | (with_reducible first | apply onTile_keeps | apply act_keeps | apply next_keeps | apply ite_outKeeps | apply ite_keeps)
    | (with_reducible first | apply foldl_keeps)
    | split
    | dsimp only
    | with_reducible apply keeps_upd

theorem execLinkUp_keeps {s : State} (h : s.keeps m q) : ∀ a0 a1 a2 a3 a4, outKeeps m q (@execLinkUp a0 a1 a2 a3 a4 s) := by
  intro a0 a1 a2 a3 a4
  unfold execLinkUp
  repeat' first
    | (with_reducible first | assumption | intro _ | apply State.ideEst_keeps | apply State.linkTrain_keeps | apply onTile_keeps)
    | (with_reducible first | apply act_keeps | apply next_keeps | apply ite_outKeeps | apply ite_keeps | apply foldl_keeps)
    | split
    | dsimp only
    | with_reducible apply keeps_upd

theorem execLaneSpare_keeps {s : State} (h : s.keeps m q) : ∀ a0 a1 a2, outKeeps m q (@execLaneSpare a0 a1 a2 s) := by
  intro a0 a1 a2
  unfold execLaneSpare
  repeat' first
    | (with_reducible first | assumption | intro _ | apply State.laneSpare_keeps | apply onTile_keeps | apply act_keeps)
    | (with_reducible first | apply next_keeps | apply ite_outKeeps | apply ite_keeps | apply foldl_keeps)
    | split
    | dsimp only
    | with_reducible apply keeps_upd

theorem execPerstNRelease_keeps {s : State} (h : s.keeps m q) : ∀ a0, outKeeps m q (@execPerstNRelease a0 s) := by
  intro a0
  unfold execPerstNRelease
  repeat' first
    | (with_reducible first | assumption | intro _ | apply State.perstRelease_keeps | apply onTile_keeps | apply act_keeps)
    | (with_reducible first | apply next_keeps | apply ite_outKeeps | apply ite_keeps | apply foldl_keeps)
    | split
    | dsimp only
    | with_reducible apply keeps_upd

theorem execEpMailboxRing_keeps {s : State} (h : s.keeps m q) : ∀ a0 a1 a2, outKeeps m q (@execEpMailboxRing a0 a1 a2 s) := by
  intro a0 a1 a2
  unfold execEpMailboxRing
  repeat' first
    | (with_reducible first | assumption | intro _ | apply State.pkEdge_keeps | apply State.epRing_keeps | apply onTile_keeps)
    | (with_reducible first | apply act_keeps | apply next_keeps | apply ite_outKeeps | apply ite_keeps | apply foldl_keeps)
    | split
    | dsimp only
    | with_reducible apply keeps_upd

theorem execConsoleInWrite_keeps {s : State} (h : s.keeps m q) : ∀ a0 a1, outKeeps m q (@execConsoleInWrite a0 a1 s) := by
  intro a0 a1
  unfold execConsoleInWrite
  repeat' first
    | (with_reducible first | assumption | intro _ | apply State.conIn_keeps | apply onTile_keeps | apply act_keeps)
    | (with_reducible first | apply next_keeps | apply ite_outKeeps | apply ite_keeps | apply foldl_keeps)
    | split
    | dsimp only
    | with_reducible apply keeps_upd

theorem execConsoleOutRead_keeps {s : State} (h : s.keeps m q) : ∀ a0, outKeeps m q (@execConsoleOutRead a0 s) := by
  intro a0
  unfold execConsoleOutRead
  repeat' first
    | (with_reducible first | assumption | intro _ | apply State.conOutRead_keeps | apply onTile_keeps | apply act_keeps)
    | (with_reducible first | apply next_keeps | apply ite_outKeeps | apply ite_keeps | apply foldl_keeps)
    | split
    | dsimp only
    | with_reducible apply keeps_upd

theorem execPf0BmeClear_keeps {s : State} (h : s.keeps m q) : ∀ a0 a1 a2, outKeeps m q (@execPf0BmeClear a0 a1 a2 s) := by
  intro a0 a1 a2
  unfold execPf0BmeClear
  repeat' first
    | (with_reducible first | assumption | intro _ | apply State.epBme_keeps | apply onTile_keeps | apply act_keeps)
    | (with_reducible first | apply next_keeps | apply ite_outKeeps | apply ite_keeps | apply foldl_keeps)
    | split
    | dsimp only
    | with_reducible apply keeps_upd

theorem execWindowCopyDone_keeps {s : State} (h : s.keeps m q) : ∀ a0, outKeeps m q (@execWindowCopyDone a0 s) := by
  intro a0
  unfold execWindowCopyDone
  repeat' first
    | (with_reducible first | assumption | intro _ | apply State.winCopied_keeps | apply onTile_keeps | apply act_keeps)
    | (with_reducible first | apply next_keeps | apply ite_outKeeps | apply ite_keeps | apply foldl_keeps)
    | split
    | dsimp only
    | with_reducible apply keeps_upd

theorem execPf1EvtRead_keeps {s : State} (h : s.keeps m q) : ∀ a0, outKeeps m q (@execPf1EvtRead a0 s) := by
  intro a0
  unfold execPf1EvtRead
  repeat' first
    | (with_reducible first | assumption | intro _ | apply State.pf1EvtRead_keeps | apply onTile_keeps | apply act_keeps)
    | (with_reducible first | apply next_keeps | apply ite_outKeeps | apply ite_keeps | apply foldl_keeps)
    | split
    | dsimp only
    | with_reducible apply keeps_upd

theorem execFlr_keeps {s : State} (h : s.keeps m q) : ∀ a0 a1, outKeeps m q (@execFlr a0 a1 s) := by
  intro a0 a1
  unfold execFlr
  repeat' first
    | (with_reducible first | assumption | intro _ | apply State.flr_keeps | apply onTile_keeps | apply act_keeps)
    | (with_reducible first | apply next_keeps | apply ite_outKeeps | apply ite_keeps | apply foldl_keeps)
    | split
    | dsimp only
    | with_reducible apply keeps_upd

theorem execFlrDone_keeps {s : State} (h : s.keeps m q) : ∀ a0 a1, outKeeps m q (@execFlrDone a0 a1 s) := by
  intro a0 a1
  unfold execFlrDone
  repeat' first
    | (with_reducible first | assumption | intro _ | apply State.flrDone_keeps | apply onTile_keeps | apply act_keeps)
    | (with_reducible first | apply next_keeps | apply ite_outKeeps | apply ite_keeps | apply foldl_keeps)
    | split
    | dsimp only
    | with_reducible apply keeps_upd

end Sys2Proof.Machine
end

