-- ==== Sys2Proof/Laws/KeepIntegerRows.lean ====
section
/-! SUPPORT. Every command of Machine/IntegerRows.lean keeps the byte memories canonical and the queue as it stands. -/

namespace Sys2Proof.Machine

variable {m : Prop} {q : List Instr}

theorem execAlu_keeps {s : State} (h : s.keeps m q) : ∀ a0 a1 a2 a3, outKeeps m q (@execAlu a0 a1 a2 a3 s) := by
  intro a0 a1 a2 a3
  unfold execAlu
  repeat' first
    | (with_reducible first | assumption | intro _ | apply State.issueRow_keeps | apply onTile_keeps | apply act_keeps)
    | (with_reducible first | apply next_keeps | apply ite_outKeeps | apply ite_keeps | apply foldl_keeps)
    | split
    | dsimp only
    | with_reducible apply keeps_upd

theorem execShift_keeps {s : State} (h : s.keeps m q) : ∀ a0 a1 a2 a3, outKeeps m q (@execShift a0 a1 a2 a3 s) := by
  intro a0 a1 a2 a3
  unfold execShift
  repeat' first
    | (with_reducible first | assumption | intro _ | apply State.issueRow_keeps | apply onTile_keeps | apply act_keeps)
    | (with_reducible first | apply next_keeps | apply ite_outKeeps | apply ite_keeps | apply foldl_keeps)
    | split
    | dsimp only
    | with_reducible apply keeps_upd

theorem execMul_keeps {s : State} (h : s.keeps m q) : ∀ a0 a1 a2 a3, outKeeps m q (@execMul a0 a1 a2 a3 s) := by
  intro a0 a1 a2 a3
  unfold execMul
  repeat' first
    | (with_reducible first | assumption | intro _ | apply State.issueRow_keeps | apply onTile_keeps | apply act_keeps)
    | (with_reducible first | apply next_keeps | apply ite_outKeeps | apply ite_keeps | apply foldl_keeps)
    | split
    | dsimp only
    | with_reducible apply keeps_upd

theorem execDiv_keeps {s : State} (h : s.keeps m q) : ∀ a0 a1 a2 a3, outKeeps m q (@execDiv a0 a1 a2 a3 s) := by
  intro a0 a1 a2 a3
  unfold execDiv
  repeat' first
    | (with_reducible first | assumption | intro _ | apply State.issueRow_keeps | apply onTile_keeps | apply act_keeps)
    | (with_reducible first | apply next_keeps | apply ite_outKeeps | apply ite_keeps | apply foldl_keeps)
    | split
    | dsimp only
    | with_reducible apply keeps_upd

theorem execAddi_keeps {s : State} (h : s.keeps m q) : ∀ a0 a1 a2 a3, outKeeps m q (@execAddi a0 a1 a2 a3 s) := by
  intro a0 a1 a2 a3
  unfold execAddi
  repeat' first
    | (with_reducible first | assumption | intro _ | apply State.issueRow_keeps | apply onTile_keeps | apply act_keeps)
    | (with_reducible first | apply next_keeps | apply ite_outKeeps | apply ite_keeps | apply foldl_keeps)
    | split
    | dsimp only
    | with_reducible apply keeps_upd

theorem execAndi_keeps {s : State} (h : s.keeps m q) : ∀ a0 a1 a2 a3, outKeeps m q (@execAndi a0 a1 a2 a3 s) := by
  intro a0 a1 a2 a3
  unfold execAndi
  repeat' first
    | (with_reducible first | assumption | intro _ | apply State.issueRow_keeps | apply onTile_keeps | apply act_keeps)
    | (with_reducible first | apply next_keeps | apply ite_outKeeps | apply ite_keeps | apply foldl_keeps)
    | split
    | dsimp only
    | with_reducible apply keeps_upd

theorem execOri_keeps {s : State} (h : s.keeps m q) : ∀ a0 a1 a2 a3, outKeeps m q (@execOri a0 a1 a2 a3 s) := by
  intro a0 a1 a2 a3
  unfold execOri
  repeat' first
    | (with_reducible first | assumption | intro _ | apply State.issueRow_keeps | apply onTile_keeps | apply act_keeps)
    | (with_reducible first | apply next_keeps | apply ite_outKeeps | apply ite_keeps | apply foldl_keeps)
    | split
    | dsimp only
    | with_reducible apply keeps_upd

theorem execXori_keeps {s : State} (h : s.keeps m q) : ∀ a0 a1 a2 a3, outKeeps m q (@execXori a0 a1 a2 a3 s) := by
  intro a0 a1 a2 a3
  unfold execXori
  repeat' first
    | (with_reducible first | assumption | intro _ | apply State.issueRow_keeps | apply onTile_keeps | apply act_keeps)
    | (with_reducible first | apply next_keeps | apply ite_outKeeps | apply ite_keeps | apply foldl_keeps)
    | split
    | dsimp only
    | with_reducible apply keeps_upd

theorem execSlli_keeps {s : State} (h : s.keeps m q) : ∀ a0 a1 a2 a3, outKeeps m q (@execSlli a0 a1 a2 a3 s) := by
  intro a0 a1 a2 a3
  unfold execSlli
  repeat' first
    | (with_reducible first | assumption | intro _ | apply State.issueRow_keeps | apply onTile_keeps | apply act_keeps)
    | (with_reducible first | apply next_keeps | apply ite_outKeeps | apply ite_keeps | apply foldl_keeps)
    | split
    | dsimp only
    | with_reducible apply keeps_upd

theorem execSrli_keeps {s : State} (h : s.keeps m q) : ∀ a0 a1 a2 a3, outKeeps m q (@execSrli a0 a1 a2 a3 s) := by
  intro a0 a1 a2 a3
  unfold execSrli
  repeat' first
    | (with_reducible first | assumption | intro _ | apply State.issueRow_keeps | apply onTile_keeps | apply act_keeps)
    | (with_reducible first | apply next_keeps | apply ite_outKeeps | apply ite_keeps | apply foldl_keeps)
    | split
    | dsimp only
    | with_reducible apply keeps_upd

theorem execSrai_keeps {s : State} (h : s.keeps m q) : ∀ a0 a1 a2 a3, outKeeps m q (@execSrai a0 a1 a2 a3 s) := by
  intro a0 a1 a2 a3
  unfold execSrai
  repeat' first
    | (with_reducible first | assumption | intro _ | apply State.issueRow_keeps | apply onTile_keeps | apply act_keeps)
    | (with_reducible first | apply next_keeps | apply ite_outKeeps | apply ite_keeps | apply foldl_keeps)
    | split
    | dsimp only
    | with_reducible apply keeps_upd

theorem execRori_keeps {s : State} (h : s.keeps m q) : ∀ a0 a1 a2 a3, outKeeps m q (@execRori a0 a1 a2 a3 s) := by
  intro a0 a1 a2 a3
  unfold execRori
  repeat' first
    | (with_reducible first | assumption | intro _ | apply State.issueRow_keeps | apply onTile_keeps | apply act_keeps)
    | (with_reducible first | apply next_keeps | apply ite_outKeeps | apply ite_keeps | apply foldl_keeps)
    | split
    | dsimp only
    | with_reducible apply keeps_upd

theorem execCmp_keeps {s : State} (h : s.keeps m q) : ∀ a0 a1 a2 a3, outKeeps m q (@execCmp a0 a1 a2 a3 s) := by
  intro a0 a1 a2 a3
  unfold execCmp
  repeat' first
    | (with_reducible first | assumption | intro _ | apply State.issueRow_keeps | apply onTile_keeps | apply act_keeps)
    | (with_reducible first | apply next_keeps | apply ite_outKeeps | apply ite_keeps | apply foldl_keeps)
    | split
    | dsimp only
    | with_reducible apply keeps_upd

theorem execCmpeqi_keeps {s : State} (h : s.keeps m q) : ∀ a0 a1 a2 a3, outKeeps m q (@execCmpeqi a0 a1 a2 a3 s) := by
  intro a0 a1 a2 a3
  unfold execCmpeqi
  repeat' first
    | (with_reducible first | assumption | intro _ | apply State.issueRow_keeps | apply onTile_keeps | apply act_keeps)
    | (with_reducible first | apply next_keeps | apply ite_outKeeps | apply ite_keeps | apply foldl_keeps)
    | split
    | dsimp only
    | with_reducible apply keeps_upd

theorem execCmpnei_keeps {s : State} (h : s.keeps m q) : ∀ a0 a1 a2 a3, outKeeps m q (@execCmpnei a0 a1 a2 a3 s) := by
  intro a0 a1 a2 a3
  unfold execCmpnei
  repeat' first
    | (with_reducible first | assumption | intro _ | apply State.issueRow_keeps | apply onTile_keeps | apply act_keeps)
    | (with_reducible first | apply next_keeps | apply ite_outKeeps | apply ite_keeps | apply foldl_keeps)
    | split
    | dsimp only
    | with_reducible apply keeps_upd

theorem execCmplti_keeps {s : State} (h : s.keeps m q) : ∀ a0 a1 a2 a3, outKeeps m q (@execCmplti a0 a1 a2 a3 s) := by
  intro a0 a1 a2 a3
  unfold execCmplti
  repeat' first
    | (with_reducible first | assumption | intro _ | apply State.issueRow_keeps | apply onTile_keeps | apply act_keeps)
    | (with_reducible first | apply next_keeps | apply ite_outKeeps | apply ite_keeps | apply foldl_keeps)
    | split
    | dsimp only
    | with_reducible apply keeps_upd

theorem execCmpgei_keeps {s : State} (h : s.keeps m q) : ∀ a0 a1 a2 a3, outKeeps m q (@execCmpgei a0 a1 a2 a3 s) := by
  intro a0 a1 a2 a3
  unfold execCmpgei
  repeat' first
    | (with_reducible first | assumption | intro _ | apply State.issueRow_keeps | apply onTile_keeps | apply act_keeps)
    | (with_reducible first | apply next_keeps | apply ite_outKeeps | apply ite_keeps | apply foldl_keeps)
    | split
    | dsimp only
    | with_reducible apply keeps_upd

theorem execCmpltui_keeps {s : State} (h : s.keeps m q) : ∀ a0 a1 a2 a3, outKeeps m q (@execCmpltui a0 a1 a2 a3 s) := by
  intro a0 a1 a2 a3
  unfold execCmpltui
  repeat' first
    | (with_reducible first | assumption | intro _ | apply State.issueRow_keeps | apply onTile_keeps | apply act_keeps)
    | (with_reducible first | apply next_keeps | apply ite_outKeeps | apply ite_keeps | apply foldl_keeps)
    | split
    | dsimp only
    | with_reducible apply keeps_upd

theorem execCmpgeui_keeps {s : State} (h : s.keeps m q) : ∀ a0 a1 a2 a3, outKeeps m q (@execCmpgeui a0 a1 a2 a3 s) := by
  intro a0 a1 a2 a3
  unfold execCmpgeui
  repeat' first
    | (with_reducible first | assumption | intro _ | apply State.issueRow_keeps | apply onTile_keeps | apply act_keeps)
    | (with_reducible first | apply next_keeps | apply ite_outKeeps | apply ite_keeps | apply foldl_keeps)
    | split
    | dsimp only
    | with_reducible apply keeps_upd

theorem execPlog_keeps {s : State} (h : s.keeps m q) : ∀ a0 a1 a2 a3, outKeeps m q (@execPlog a0 a1 a2 a3 s) := by
  intro a0 a1 a2 a3
  unfold execPlog
  repeat' first
    | (with_reducible first | assumption | intro _ | apply State.issueRow_keeps | apply onTile_keeps | apply act_keeps)
    | (with_reducible first | apply next_keeps | apply ite_outKeeps | apply ite_keeps | apply foldl_keeps)
    | split
    | dsimp only
    | with_reducible apply keeps_upd

theorem execLi_keeps {s : State} (h : s.keeps m q) : ∀ a0 a1 a2 a3, outKeeps m q (@execLi a0 a1 a2 a3 s) := by
  intro a0 a1 a2 a3
  unfold execLi
  repeat' first
    | (with_reducible first | assumption | intro _ | apply State.issueRow_keeps | apply onTile_keeps | apply act_keeps)
    | (with_reducible first | apply next_keeps | apply ite_outKeeps | apply ite_keeps | apply foldl_keeps)
    | split
    | dsimp only
    | with_reducible apply keeps_upd

theorem execLih_keeps {s : State} (h : s.keeps m q) : ∀ a0 a1 a2 a3, outKeeps m q (@execLih a0 a1 a2 a3 s) := by
  intro a0 a1 a2 a3
  unfold execLih
  repeat' first
    | (with_reducible first | assumption | intro _ | apply State.issueRow_keeps | apply onTile_keeps | apply act_keeps)
    | (with_reducible first | apply next_keeps | apply ite_outKeeps | apply ite_keeps | apply foldl_keeps)
    | split
    | dsimp only
    | with_reducible apply keeps_upd

theorem execCadr_keeps {s : State} (h : s.keeps m q) : ∀ a0 a1 a2 a3, outKeeps m q (@execCadr a0 a1 a2 a3 s) := by
  intro a0 a1 a2 a3
  unfold execCadr
  repeat' first
    | (with_reducible first | assumption | intro _ | apply State.issueRow_keeps | apply onTile_keeps | apply act_keeps)
    | (with_reducible first | apply next_keeps | apply ite_outKeeps | apply ite_keeps | apply foldl_keeps)
    | split
    | dsimp only
    | with_reducible apply keeps_upd

theorem execImx_keeps {s : State} (h : s.keeps m q) : ∀ a0 a1 a2 a3, outKeeps m q (@execImx a0 a1 a2 a3 s) := by
  intro a0 a1 a2 a3
  unfold execImx
  repeat' first
    | (with_reducible first | assumption | intro _ | apply State.issueImx_keeps | apply onTile_keeps | apply act_keeps)
    | (with_reducible first | apply next_keeps | apply ite_outKeeps | apply ite_keeps | apply foldl_keeps)
    | split
    | dsimp only
    | with_reducible apply keeps_upd

end Sys2Proof.Machine
end

