-- ==== Sys2Proof/Laws/KeepLiftRows.lean ====
section
/-! SUPPORT. Every command of Machine/LiftRows.lean keeps the byte memories canonical and the queue as it stands. -/

namespace Sys2Proof.Machine

variable {m : Prop} {q : List Instr}

theorem execWatchdogFirstStage_keeps {s : State} (h : s.keeps m q) : ∀ a0, outKeeps m q (@execWatchdogFirstStage a0 s) := by
  intro a0
  unfold execWatchdogFirstStage
  repeat' first
    | (with_reducible first | assumption | intro _ | apply State.wdogFirst_keeps | apply onTile_keeps | apply act_keeps)
    | (with_reducible first | apply next_keeps | apply ite_outKeeps | apply ite_keeps | apply foldl_keeps)
    | split
    | dsimp only
    | with_reducible apply keeps_upd

theorem execWatchdogExpiry_keeps {s : State} (h : s.keeps m q) : ∀ a0, outKeeps m q (@execWatchdogExpiry a0 s) := by
  intro a0
  unfold execWatchdogExpiry
  repeat' first
    | (with_reducible first | assumption | intro _ | apply State.wdogExpire_keeps | apply onTile_keeps | apply act_keeps)
    | (with_reducible first | apply next_keeps | apply ite_outKeeps | apply ite_keeps | apply foldl_keeps)
    | split
    | dsimp only
    | with_reducible apply keeps_upd

theorem execSensorFire_keeps {s : State} (h : s.keeps m q) : ∀ a0 a1, outKeeps m q (@execSensorFire a0 a1 s) := by
  intro a0 a1
  unfold execSensorFire
  repeat' first
    | (with_reducible first | assumption | intro _ | apply State.sensorFire_keeps | apply onTile_keeps | apply act_keeps)
    | (with_reducible first | apply next_keeps | apply ite_outKeeps | apply ite_keeps | apply foldl_keeps)
    | split
    | dsimp only
    | with_reducible apply keeps_upd

theorem execPstateMove_keeps {s : State} (h : s.keeps m q) : ∀ a0, outKeeps m q (@execPstateMove a0 s) := by
  intro a0
  unfold execPstateMove
  repeat' first
    | (with_reducible first | assumption | intro _ | apply State.psMove_keeps | apply onTile_keeps | apply act_keeps)
    | (with_reducible first | apply next_keeps | apply ite_outKeeps | apply ite_keeps | apply foldl_keeps)
    | split
    | dsimp only
    | with_reducible apply keeps_upd

theorem execPowerEstimate_keeps {s : State} (h : s.keeps m q) : ∀ a0 a1, outKeeps m q (@execPowerEstimate a0 a1 s) := by
  intro a0 a1
  unfold execPowerEstimate
  repeat' first
    | (with_reducible first | assumption | intro _ | apply State.powerEstimate_keeps | apply onTile_keeps | apply act_keeps)
    | (with_reducible first | apply next_keeps | apply ite_outKeeps | apply ite_keeps | apply foldl_keeps)
    | split
    | dsimp only
    | with_reducible apply keeps_upd

theorem execTileStateEntry_keeps {s : State} (h : s.keeps m q) : ∀ a0, outKeeps m q (@execTileStateEntry a0 s) := by
  intro a0
  unfold execTileStateEntry
  repeat' first
    | (with_reducible first | assumption | intro _ | apply State.tileEntry_keeps | apply onTile_keeps | apply act_keeps)
    | (with_reducible first | apply next_keeps | apply ite_outKeeps | apply ite_keeps | apply foldl_keeps)
    | split
    | dsimp only
    | with_reducible apply keeps_upd

theorem execTileWake_keeps {s : State} (h : s.keeps m q) : ∀ a0, outKeeps m q (@execTileWake a0 s) := by
  intro a0
  unfold execTileWake
  repeat' first
    | (with_reducible first | assumption | intro _ | apply State.tileWake_keeps | apply onTile_keeps | apply act_keeps)
    | (with_reducible first | apply next_keeps | apply ite_outKeeps | apply ite_keeps | apply foldl_keeps)
    | split
    | dsimp only
    | with_reducible apply keeps_upd

theorem execWakeEvent_keeps {s : State} (h : s.keeps m q) : ∀ a0, outKeeps m q (@execWakeEvent a0 s) := by
  intro a0
  unfold execWakeEvent
  repeat' first
    | (with_reducible first | assumption | intro _ | apply State.wakeEvent_keeps | apply onTile_keeps | apply act_keeps)
    | (with_reducible first | apply next_keeps | apply ite_outKeeps | apply ite_keeps | apply foldl_keeps)
    | split
    | dsimp only
    | with_reducible apply keeps_upd

theorem execWakeTokenGrant_keeps {s : State} (h : s.keeps m q) : outKeeps m q (@execWakeTokenGrant s) := by
  unfold execWakeTokenGrant
  repeat' first
    | (with_reducible first | assumption | intro _ | apply State.tokenGrant_keeps | apply onTile_keeps | apply act_keeps)
    | (with_reducible first | apply next_keeps | apply ite_outKeeps | apply ite_keeps | apply foldl_keeps)
    | split
    | dsimp only
    | with_reducible apply keeps_upd

theorem execWakeTokenReturn_keeps {s : State} (h : s.keeps m q) : outKeeps m q (@execWakeTokenReturn s) := by
  unfold execWakeTokenReturn
  repeat' first
    | (with_reducible first | assumption | intro _ | apply State.tokenReturn_keeps | apply onTile_keeps | apply act_keeps)
    | (with_reducible first | apply next_keeps | apply ite_outKeeps | apply ite_keeps | apply foldl_keeps)
    | split
    | dsimp only
    | with_reducible apply keeps_upd

theorem execPk1Entry_keeps {s : State} (h : s.keeps m q) : ∀ a0, outKeeps m q (@execPk1Entry a0 s) := by
  intro a0
  unfold execPk1Entry
  repeat' first
    | (with_reducible first | assumption | intro _ | apply State.pk1Entry_keeps | apply onTile_keeps | apply act_keeps)
    | (with_reducible first | apply next_keeps | apply ite_outKeeps | apply ite_keeps | apply foldl_keeps)
    | split
    | dsimp only
    | with_reducible apply keeps_upd

theorem execPk1Exit_keeps {s : State} (h : s.keeps m q) : outKeeps m q (@execPk1Exit s) := by
  unfold execPk1Exit
  repeat' first
    | (with_reducible first | assumption | intro _ | apply State.pk1Exit_keeps | apply onTile_keeps | apply act_keeps)
    | (with_reducible first | apply next_keeps | apply ite_outKeeps | apply ite_keeps | apply foldl_keeps)
    | split
    | dsimp only
    | with_reducible apply keeps_upd

theorem execLiftHandshakeTimeout_keeps {s : State} (h : s.keeps m q) : ∀ a0, outKeeps m q (@execLiftHandshakeTimeout a0 s) := by
  intro a0
  unfold execLiftHandshakeTimeout
  repeat' first
    | (with_reducible first | assumption | intro _ | apply State.rasAdvance_keeps | apply State.handshakeTimeout_keeps)
    | (with_reducible first | apply onTile_keeps | apply act_keeps | apply next_keeps | apply ite_outKeeps | apply ite_keeps)
    | (with_reducible first | apply foldl_keeps)
    | split
    | dsimp only
    | with_reducible apply keeps_upd

theorem execLiftWakeTmr_keeps {s : State} (h : s.keeps m q) : outKeeps m q (@execLiftWakeTmr s) := by
  unfold execLiftWakeTmr
  repeat' first
    | (with_reducible first | assumption | intro _ | apply State.wakeTmr_keeps | apply onTile_keeps | apply act_keeps)
    | (with_reducible first | apply next_keeps | apply ite_outKeeps | apply ite_keeps | apply foldl_keeps)
    | split
    | dsimp only
    | with_reducible apply keeps_upd

theorem execRasReport_keeps {s : State} (h : s.keeps m q) : ∀ a0, outKeeps m q (@execRasReport a0 s) := by
  intro a0
  unfold execRasReport
  repeat' first
    | (with_reducible first | assumption | intro _ | apply State.rasAdvance_keeps | apply State.rasReport_keeps)
    | (with_reducible first | apply onTile_keeps | apply act_keeps | apply next_keeps | apply ite_outKeeps | apply ite_keeps)
    | (with_reducible first | apply foldl_keeps)
    | split
    | dsimp only
    | with_reducible apply keeps_upd

theorem execAgingMonitorRead_keeps {s : State} (h : s.keeps m q) : ∀ a0, outKeeps m q (@execAgingMonitorRead a0 s) := by
  intro a0
  unfold execAgingMonitorRead
  repeat' first
    | (with_reducible first | assumption | intro _ | apply State.rasAdvance_keeps | apply State.agingRead_keeps)
    | (with_reducible first | apply onTile_keeps | apply act_keeps | apply next_keeps | apply ite_outKeeps | apply ite_keeps)
    | (with_reducible first | apply foldl_keeps)
    | split
    | dsimp only
    | with_reducible apply keeps_upd

theorem execClaimWatchdog_keeps {s : State} (h : s.keeps m q) : ∀ a0 a1, outKeeps m q (@execClaimWatchdog a0 a1 s) := by
  intro a0 a1
  unfold execClaimWatchdog
  repeat' first
    | (with_reducible first | assumption | intro _ | apply State.claimWatchdog_keeps | apply onTile_keeps | apply act_keeps)
    | (with_reducible first | apply next_keeps | apply ite_outKeeps | apply ite_keeps | apply foldl_keeps)
    | split
    | dsimp only
    | with_reducible apply keeps_upd

theorem execPatrolWatchdog_keeps {s : State} (h : s.keeps m q) : ∀ a0, outKeeps m q (@execPatrolWatchdog a0 s) := by
  intro a0
  unfold execPatrolWatchdog
  repeat' first
    | (with_reducible first | assumption | intro _ | apply State.patrolWatchdog_keeps | apply onTile_keeps | apply act_keeps)
    | (with_reducible first | apply next_keeps | apply ite_outKeeps | apply ite_keeps | apply foldl_keeps)
    | split
    | dsimp only
    | with_reducible apply keeps_upd

theorem execWireSpare_keeps {s : State} (h : s.keeps m q) : ∀ a0 a1, outKeeps m q (@execWireSpare a0 a1 s) := by
  intro a0 a1
  unfold execWireSpare
  repeat' first
    | (with_reducible first | assumption | intro _ | apply State.wireSpare_keeps | apply onTile_keeps | apply act_keeps)
    | (with_reducible first | apply next_keeps | apply ite_outKeeps | apply ite_keeps | apply foldl_keeps)
    | split
    | dsimp only
    | with_reducible apply keeps_upd

theorem execLinkLoss_keeps {s : State} (h : s.keeps m q) : ∀ a0 a1, outKeeps m q (@execLinkLoss a0 a1 s) := by
  intro a0 a1
  unfold execLinkLoss
  repeat' first
    | (with_reducible first | assumption | intro _ | apply State.linkLoss_keeps | apply onTile_keeps | apply act_keeps)
    | (with_reducible first | apply next_keeps | apply ite_outKeeps | apply ite_keeps | apply foldl_keeps)
    | split
    | dsimp only
    | with_reducible apply keeps_upd

end Sys2Proof.Machine
end

