-- ==== Sys2Proof/Laws/KeepMemoryRows.lean ====
section
/-! SUPPORT. Every command of Machine/MemoryRows.lean keeps the byte memories canonical and the queue as it stands. -/

namespace Sys2Proof.Machine

variable {m : Prop} {q : List Instr}

theorem execLdB_keeps {s : State} (h : s.keeps m q) : ∀ a0 a1 a2 a3, outKeeps m q (@execLdB a0 a1 a2 a3 s) := by
  intro a0 a1 a2 a3
  unfold execLdB
  repeat' first
    | (with_reducible first | assumption | intro _ | apply State.issueRow_keeps | apply onTile_keeps | apply act_keeps)
    | (with_reducible first | apply next_keeps | apply ite_outKeeps | apply ite_keeps | apply foldl_keeps)
    | split
    | dsimp only
    | with_reducible apply keeps_upd

theorem execLdBu_keeps {s : State} (h : s.keeps m q) : ∀ a0 a1 a2 a3, outKeeps m q (@execLdBu a0 a1 a2 a3 s) := by
  intro a0 a1 a2 a3
  unfold execLdBu
  repeat' first
    | (with_reducible first | assumption | intro _ | apply State.issueRow_keeps | apply onTile_keeps | apply act_keeps)
    | (with_reducible first | apply next_keeps | apply ite_outKeeps | apply ite_keeps | apply foldl_keeps)
    | split
    | dsimp only
    | with_reducible apply keeps_upd

theorem execLdH_keeps {s : State} (h : s.keeps m q) : ∀ a0 a1 a2 a3, outKeeps m q (@execLdH a0 a1 a2 a3 s) := by
  intro a0 a1 a2 a3
  unfold execLdH
  repeat' first
    | (with_reducible first | assumption | intro _ | apply State.issueRow_keeps | apply onTile_keeps | apply act_keeps)
    | (with_reducible first | apply next_keeps | apply ite_outKeeps | apply ite_keeps | apply foldl_keeps)
    | split
    | dsimp only
    | with_reducible apply keeps_upd

theorem execLdHu_keeps {s : State} (h : s.keeps m q) : ∀ a0 a1 a2 a3, outKeeps m q (@execLdHu a0 a1 a2 a3 s) := by
  intro a0 a1 a2 a3
  unfold execLdHu
  repeat' first
    | (with_reducible first | assumption | intro _ | apply State.issueRow_keeps | apply onTile_keeps | apply act_keeps)
    | (with_reducible first | apply next_keeps | apply ite_outKeeps | apply ite_keeps | apply foldl_keeps)
    | split
    | dsimp only
    | with_reducible apply keeps_upd

theorem execLdW_keeps {s : State} (h : s.keeps m q) : ∀ a0 a1 a2 a3, outKeeps m q (@execLdW a0 a1 a2 a3 s) := by
  intro a0 a1 a2 a3
  unfold execLdW
  repeat' first
    | (with_reducible first | assumption | intro _ | apply State.issueRow_keeps | apply onTile_keeps | apply act_keeps)
    | (with_reducible first | apply next_keeps | apply ite_outKeeps | apply ite_keeps | apply foldl_keeps)
    | split
    | dsimp only
    | with_reducible apply keeps_upd

theorem execLdWu_keeps {s : State} (h : s.keeps m q) : ∀ a0 a1 a2 a3, outKeeps m q (@execLdWu a0 a1 a2 a3 s) := by
  intro a0 a1 a2 a3
  unfold execLdWu
  repeat' first
    | (with_reducible first | assumption | intro _ | apply State.issueRow_keeps | apply onTile_keeps | apply act_keeps)
    | (with_reducible first | apply next_keeps | apply ite_outKeeps | apply ite_keeps | apply foldl_keeps)
    | split
    | dsimp only
    | with_reducible apply keeps_upd

theorem execLdD_keeps {s : State} (h : s.keeps m q) : ∀ a0 a1 a2 a3, outKeeps m q (@execLdD a0 a1 a2 a3 s) := by
  intro a0 a1 a2 a3
  unfold execLdD
  repeat' first
    | (with_reducible first | assumption | intro _ | apply State.issueRow_keeps | apply onTile_keeps | apply act_keeps)
    | (with_reducible first | apply next_keeps | apply ite_outKeeps | apply ite_keeps | apply foldl_keeps)
    | split
    | dsimp only
    | with_reducible apply keeps_upd

theorem execLdfD_keeps {s : State} (h : s.keeps m q) : ∀ a0 a1 a2 a3, outKeeps m q (@execLdfD a0 a1 a2 a3 s) := by
  intro a0 a1 a2 a3
  unfold execLdfD
  repeat' first
    | (with_reducible first | assumption | intro _ | apply State.issueRow_keeps | apply onTile_keeps | apply act_keeps)
    | (with_reducible first | apply next_keeps | apply ite_outKeeps | apply ite_keeps | apply foldl_keeps)
    | split
    | dsimp only
    | with_reducible apply keeps_upd

theorem execLdfW_keeps {s : State} (h : s.keeps m q) : ∀ a0 a1 a2 a3, outKeeps m q (@execLdfW a0 a1 a2 a3 s) := by
  intro a0 a1 a2 a3
  unfold execLdfW
  repeat' first
    | (with_reducible first | assumption | intro _ | apply State.issueRow_keeps | apply onTile_keeps | apply act_keeps)
    | (with_reducible first | apply next_keeps | apply ite_outKeeps | apply ite_keeps | apply foldl_keeps)
    | split
    | dsimp only
    | with_reducible apply keeps_upd

theorem execLdfH_keeps {s : State} (h : s.keeps m q) : ∀ a0 a1 a2 a3, outKeeps m q (@execLdfH a0 a1 a2 a3 s) := by
  intro a0 a1 a2 a3
  unfold execLdfH
  repeat' first
    | (with_reducible first | assumption | intro _ | apply State.issueRow_keeps | apply onTile_keeps | apply act_keeps)
    | (with_reducible first | apply next_keeps | apply ite_outKeeps | apply ite_keeps | apply foldl_keeps)
    | split
    | dsimp only
    | with_reducible apply keeps_upd

theorem execStB_keeps {s : State} (h : s.keeps m q) : ∀ a0 a1 a2 a3, outKeeps m q (@execStB a0 a1 a2 a3 s) := by
  intro a0 a1 a2 a3
  unfold execStB
  repeat' first
    | (with_reducible first | assumption | intro _ | apply State.issueRow_keeps | apply onTile_keeps | apply act_keeps)
    | (with_reducible first | apply next_keeps | apply ite_outKeeps | apply ite_keeps | apply foldl_keeps)
    | split
    | dsimp only
    | with_reducible apply keeps_upd

theorem execStH_keeps {s : State} (h : s.keeps m q) : ∀ a0 a1 a2 a3, outKeeps m q (@execStH a0 a1 a2 a3 s) := by
  intro a0 a1 a2 a3
  unfold execStH
  repeat' first
    | (with_reducible first | assumption | intro _ | apply State.issueRow_keeps | apply onTile_keeps | apply act_keeps)
    | (with_reducible first | apply next_keeps | apply ite_outKeeps | apply ite_keeps | apply foldl_keeps)
    | split
    | dsimp only
    | with_reducible apply keeps_upd

theorem execStW_keeps {s : State} (h : s.keeps m q) : ∀ a0 a1 a2 a3, outKeeps m q (@execStW a0 a1 a2 a3 s) := by
  intro a0 a1 a2 a3
  unfold execStW
  repeat' first
    | (with_reducible first | assumption | intro _ | apply State.issueRow_keeps | apply onTile_keeps | apply act_keeps)
    | (with_reducible first | apply next_keeps | apply ite_outKeeps | apply ite_keeps | apply foldl_keeps)
    | split
    | dsimp only
    | with_reducible apply keeps_upd

theorem execStD_keeps {s : State} (h : s.keeps m q) : ∀ a0 a1 a2 a3, outKeeps m q (@execStD a0 a1 a2 a3 s) := by
  intro a0 a1 a2 a3
  unfold execStD
  repeat' first
    | (with_reducible first | assumption | intro _ | apply State.issueRow_keeps | apply onTile_keeps | apply act_keeps)
    | (with_reducible first | apply next_keeps | apply ite_outKeeps | apply ite_keeps | apply foldl_keeps)
    | split
    | dsimp only
    | with_reducible apply keeps_upd

theorem execStfD_keeps {s : State} (h : s.keeps m q) : ∀ a0 a1 a2 a3, outKeeps m q (@execStfD a0 a1 a2 a3 s) := by
  intro a0 a1 a2 a3
  unfold execStfD
  repeat' first
    | (with_reducible first | assumption | intro _ | apply State.issueRow_keeps | apply onTile_keeps | apply act_keeps)
    | (with_reducible first | apply next_keeps | apply ite_outKeeps | apply ite_keeps | apply foldl_keeps)
    | split
    | dsimp only
    | with_reducible apply keeps_upd

theorem execStfW_keeps {s : State} (h : s.keeps m q) : ∀ a0 a1 a2 a3, outKeeps m q (@execStfW a0 a1 a2 a3 s) := by
  intro a0 a1 a2 a3
  unfold execStfW
  repeat' first
    | (with_reducible first | assumption | intro _ | apply State.issueRow_keeps | apply onTile_keeps | apply act_keeps)
    | (with_reducible first | apply next_keeps | apply ite_outKeeps | apply ite_keeps | apply foldl_keeps)
    | split
    | dsimp only
    | with_reducible apply keeps_upd

theorem execStfH_keeps {s : State} (h : s.keeps m q) : ∀ a0 a1 a2 a3, outKeeps m q (@execStfH a0 a1 a2 a3 s) := by
  intro a0 a1 a2 a3
  unfold execStfH
  repeat' first
    | (with_reducible first | assumption | intro _ | apply State.issueRow_keeps | apply onTile_keeps | apply act_keeps)
    | (with_reducible first | apply next_keeps | apply ite_outKeeps | apply ite_keeps | apply foldl_keeps)
    | split
    | dsimp only
    | with_reducible apply keeps_upd

theorem execLdx_keeps {s : State} (h : s.keeps m q) : ∀ a0 a1 a2 a3, outKeeps m q (@execLdx a0 a1 a2 a3 s) := by
  intro a0 a1 a2 a3
  unfold execLdx
  repeat' first
    | (with_reducible first | assumption | intro _ | apply State.issueRow_keeps | apply onTile_keeps | apply act_keeps)
    | (with_reducible first | apply next_keeps | apply ite_outKeeps | apply ite_keeps | apply foldl_keeps)
    | split
    | dsimp only
    | with_reducible apply keeps_upd

theorem execStx_keeps {s : State} (h : s.keeps m q) : ∀ a0 a1 a2 a3, outKeeps m q (@execStx a0 a1 a2 a3 s) := by
  intro a0 a1 a2 a3
  unfold execStx
  repeat' first
    | (with_reducible first | assumption | intro _ | apply State.issueRow_keeps | apply onTile_keeps | apply act_keeps)
    | (with_reducible first | apply next_keeps | apply ite_outKeeps | apply ite_keeps | apply foldl_keeps)
    | split
    | dsimp only
    | with_reducible apply keeps_upd

theorem execLdAcq_keeps {s : State} (h : s.keeps m q) : ∀ a0 a1 a2 a3, outKeeps m q (@execLdAcq a0 a1 a2 a3 s) := by
  intro a0 a1 a2 a3
  unfold execLdAcq
  repeat' first
    | (with_reducible first | assumption | intro _ | apply State.issueRow_keeps | apply onTile_keeps | apply act_keeps)
    | (with_reducible first | apply next_keeps | apply ite_outKeeps | apply ite_keeps | apply foldl_keeps)
    | split
    | dsimp only
    | with_reducible apply keeps_upd

theorem execStRel_keeps {s : State} (h : s.keeps m q) : ∀ a0 a1 a2 a3, outKeeps m q (@execStRel a0 a1 a2 a3 s) := by
  intro a0 a1 a2 a3
  unfold execStRel
  repeat' first
    | (with_reducible first | assumption | intro _ | apply State.issueRow_keeps | apply onTile_keeps | apply act_keeps)
    | (with_reducible first | apply next_keeps | apply ite_outKeeps | apply ite_keeps | apply foldl_keeps)
    | split
    | dsimp only
    | with_reducible apply keeps_upd

theorem execAmo_keeps {s : State} (h : s.keeps m q) : ∀ a0 a1 a2 a3, outKeeps m q (@execAmo a0 a1 a2 a3 s) := by
  intro a0 a1 a2 a3
  unfold execAmo
  repeat' first
    | (with_reducible first | assumption | intro _ | apply State.issueRow_keeps | apply onTile_keeps | apply act_keeps)
    | (with_reducible first | apply next_keeps | apply ite_outKeeps | apply ite_keeps | apply foldl_keeps)
    | split
    | dsimp only
    | with_reducible apply keeps_upd

theorem execAmoW_keeps {s : State} (h : s.keeps m q) : ∀ a0 a1 a2 a3, outKeeps m q (@execAmoW a0 a1 a2 a3 s) := by
  intro a0 a1 a2 a3
  unfold execAmoW
  repeat' first
    | (with_reducible first | assumption | intro _ | apply State.issueRow_keeps | apply onTile_keeps | apply act_keeps)
    | (with_reducible first | apply next_keeps | apply ite_outKeeps | apply ite_keeps | apply foldl_keeps)
    | split
    | dsimp only
    | with_reducible apply keeps_upd

theorem execAmoAr_keeps {s : State} (h : s.keeps m q) : ∀ a0 a1 a2 a3, outKeeps m q (@execAmoAr a0 a1 a2 a3 s) := by
  intro a0 a1 a2 a3
  unfold execAmoAr
  repeat' first
    | (with_reducible first | assumption | intro _ | apply State.issueRow_keeps | apply onTile_keeps | apply act_keeps)
    | (with_reducible first | apply next_keeps | apply ite_outKeeps | apply ite_keeps | apply foldl_keeps)
    | split
    | dsimp only
    | with_reducible apply keeps_upd

theorem execAmoWAr_keeps {s : State} (h : s.keeps m q) : ∀ a0 a1 a2 a3, outKeeps m q (@execAmoWAr a0 a1 a2 a3 s) := by
  intro a0 a1 a2 a3
  unfold execAmoWAr
  repeat' first
    | (with_reducible first | assumption | intro _ | apply State.issueRow_keeps | apply onTile_keeps | apply act_keeps)
    | (with_reducible first | apply next_keeps | apply ite_outKeeps | apply ite_keeps | apply foldl_keeps)
    | split
    | dsimp only
    | with_reducible apply keeps_upd

theorem execCas_keeps {s : State} (h : s.keeps m q) : ∀ a0 a1 a2 a3, outKeeps m q (@execCas a0 a1 a2 a3 s) := by
  intro a0 a1 a2 a3
  unfold execCas
  repeat' first
    | (with_reducible first | assumption | intro _ | apply State.issueRow_keeps | apply onTile_keeps | apply act_keeps)
    | (with_reducible first | apply next_keeps | apply ite_outKeeps | apply ite_keeps | apply foldl_keeps)
    | split
    | dsimp only
    | with_reducible apply keeps_upd

theorem execPref_keeps {s : State} (h : s.keeps m q) : ∀ a0 a1 a2 a3, outKeeps m q (@execPref a0 a1 a2 a3 s) := by
  intro a0 a1 a2 a3
  unfold execPref
  repeat' first
    | (with_reducible first | assumption | intro _ | apply State.issueRow_keeps | apply onTile_keeps | apply act_keeps)
    | (with_reducible first | apply next_keeps | apply ite_outKeeps | apply ite_keeps | apply foldl_keeps)
    | split
    | dsimp only
    | with_reducible apply keeps_upd

theorem execClean_keeps {s : State} (h : s.keeps m q) : ∀ a0 a1 a2 a3, outKeeps m q (@execClean a0 a1 a2 a3 s) := by
  intro a0 a1 a2 a3
  unfold execClean
  repeat' first
    | (with_reducible first | assumption | intro _ | apply State.issueRow_keeps | apply onTile_keeps | apply act_keeps)
    | (with_reducible first | apply next_keeps | apply ite_outKeeps | apply ite_keeps | apply foldl_keeps)
    | split
    | dsimp only
    | with_reducible apply keeps_upd

theorem execInval_keeps {s : State} (h : s.keeps m q) : ∀ a0 a1 a2 a3, outKeeps m q (@execInval a0 a1 a2 a3 s) := by
  intro a0 a1 a2 a3
  unfold execInval
  repeat' first
    | (with_reducible first | assumption | intro _ | apply State.issueRow_keeps | apply onTile_keeps | apply act_keeps)
    | (with_reducible first | apply next_keeps | apply ite_outKeeps | apply ite_keeps | apply foldl_keeps)
    | split
    | dsimp only
    | with_reducible apply keeps_upd

theorem execClinv_keeps {s : State} (h : s.keeps m q) : ∀ a0 a1 a2 a3, outKeeps m q (@execClinv a0 a1 a2 a3 s) := by
  intro a0 a1 a2 a3
  unfold execClinv
  repeat' first
    | (with_reducible first | assumption | intro _ | apply State.issueRow_keeps | apply onTile_keeps | apply act_keeps)
    | (with_reducible first | apply next_keeps | apply ite_outKeeps | apply ite_keeps | apply foldl_keeps)
    | split
    | dsimp only
    | with_reducible apply keeps_upd

theorem execLockfill_keeps {s : State} (h : s.keeps m q) : ∀ a0 a1 a2 a3, outKeeps m q (@execLockfill a0 a1 a2 a3 s) := by
  intro a0 a1 a2 a3
  unfold execLockfill
  repeat' first
    | (with_reducible first | assumption | intro _ | apply State.issueRow_keeps | apply onTile_keeps | apply act_keeps)
    | (with_reducible first | apply next_keeps | apply ite_outKeeps | apply ite_keeps | apply foldl_keeps)
    | split
    | dsimp only
    | with_reducible apply keeps_upd

theorem execXinvAd_keeps {s : State} (h : s.keeps m q) : ∀ a0 a1 a2 a3, outKeeps m q (@execXinvAd a0 a1 a2 a3 s) := by
  intro a0 a1 a2 a3
  unfold execXinvAd
  repeat' first
    | (with_reducible first | assumption | intro _ | apply State.issueRow_keeps | apply onTile_keeps | apply act_keeps)
    | (with_reducible first | apply next_keeps | apply ite_outKeeps | apply ite_keeps | apply foldl_keeps)
    | split
    | dsimp only
    | with_reducible apply keeps_upd

theorem execXinvTag_keeps {s : State} (h : s.keeps m q) : ∀ a0 a1 a2 a3, outKeeps m q (@execXinvTag a0 a1 a2 a3 s) := by
  intro a0 a1 a2 a3
  unfold execXinvTag
  repeat' first
    | (with_reducible first | assumption | intro _ | apply State.issueRow_keeps | apply onTile_keeps | apply act_keeps)
    | (with_reducible first | apply next_keeps | apply ite_outKeeps | apply ite_keeps | apply foldl_keeps)
    | split
    | dsimp only
    | with_reducible apply keeps_upd

theorem execXinvAll_keeps {s : State} (h : s.keeps m q) : ∀ a0 a1 a2 a3, outKeeps m q (@execXinvAll a0 a1 a2 a3 s) := by
  intro a0 a1 a2 a3
  unfold execXinvAll
  repeat' first
    | (with_reducible first | assumption | intro _ | apply State.issueRow_keeps | apply onTile_keeps | apply act_keeps)
    | (with_reducible first | apply next_keeps | apply ite_outKeeps | apply ite_keeps | apply foldl_keeps)
    | split
    | dsimp only
    | with_reducible apply keeps_upd

theorem execXwait_keeps {s : State} (h : s.keeps m q) : ∀ a0 a1 a2 a3, outKeeps m q (@execXwait a0 a1 a2 a3 s) := by
  intro a0 a1 a2 a3
  unfold execXwait
  repeat' first
    | (with_reducible first | assumption | intro _ | apply State.issueRow_keeps | apply onTile_keeps | apply act_keeps)
    | (with_reducible first | apply next_keeps | apply ite_outKeeps | apply ite_keeps | apply foldl_keeps)
    | split
    | dsimp only
    | with_reducible apply keeps_upd

end Sys2Proof.Machine
end

