-- ==== Sys2Proof/Laws/KeepMeshRows.lean ====
section
/-! SUPPORT. Every command of Machine/MeshRows.lean keeps the byte memories canonical and the queue as it stands. -/

namespace Sys2Proof.Machine

variable {m : Prop} {q : List Instr}

theorem execRdS_keeps {s : State} (h : s.keeps m q) : ∀ a0 a1, outKeeps m q (@execRdS a0 a1 s) := by
  intro a0 a1
  unfold execRdS
  repeat' first
    | (with_reducible first | assumption | intro _ | apply State.inService_keeps | apply State.perform_keeps | apply onTile_keeps)
    | (with_reducible first | apply act_keeps | apply next_keeps | apply ite_outKeeps | apply ite_keeps | apply foldl_keeps)
    | split
    | dsimp only
    | with_reducible apply keeps_upd

theorem execRdO_keeps {s : State} (h : s.keeps m q) : ∀ a0 a1, outKeeps m q (@execRdO a0 a1 s) := by
  intro a0 a1
  unfold execRdO
  repeat' first
    | (with_reducible first | assumption | intro _ | apply State.inService_keeps | apply State.perform_keeps | apply onTile_keeps)
    | (with_reducible first | apply act_keeps | apply next_keeps | apply ite_outKeeps | apply ite_keeps | apply foldl_keeps)
    | split
    | dsimp only
    | with_reducible apply keeps_upd

theorem execRdNc_keeps {s : State} (h : s.keeps m q) : ∀ a0 a1, outKeeps m q (@execRdNc a0 a1 s) := by
  intro a0 a1
  unfold execRdNc
  repeat' first
    | (with_reducible first | assumption | intro _ | apply State.inService_keeps | apply State.perform_keeps | apply onTile_keeps)
    | (with_reducible first | apply act_keeps | apply next_keeps | apply ite_outKeeps | apply ite_keeps | apply foldl_keeps)
    | split
    | dsimp only
    | with_reducible apply keeps_upd

theorem execWrNc_keeps {s : State} (h : s.keeps m q) : ∀ a0 a1, outKeeps m q (@execWrNc a0 a1 s) := by
  intro a0 a1
  unfold execWrNc
  repeat' first
    | (with_reducible first | assumption | intro _ | apply State.inService_keeps | apply State.perform_keeps | apply onTile_keeps)
    | (with_reducible first | apply act_keeps | apply next_keeps | apply ite_outKeeps | apply ite_keeps | apply foldl_keeps)
    | split
    | dsimp only
    | with_reducible apply keeps_upd

theorem execWb_keeps {s : State} (h : s.keeps m q) : ∀ a0 a1, outKeeps m q (@execWb a0 a1 s) := by
  intro a0 a1
  unfold execWb
  repeat' first
    | (with_reducible first | assumption | intro _ | apply State.inService_keeps | apply State.perform_keeps | apply onTile_keeps)
    | (with_reducible first | apply act_keeps | apply next_keeps | apply ite_outKeeps | apply ite_keeps | apply foldl_keeps)
    | split
    | dsimp only
    | with_reducible apply keeps_upd

theorem execWrLine_keeps {s : State} (h : s.keeps m q) : ∀ a0 a1, outKeeps m q (@execWrLine a0 a1 s) := by
  intro a0 a1
  unfold execWrLine
  repeat' first
    | (with_reducible first | assumption | intro _ | apply State.inService_keeps | apply State.perform_keeps | apply onTile_keeps)
    | (with_reducible first | apply act_keeps | apply next_keeps | apply ite_outKeeps | apply ite_keeps | apply foldl_keeps)
    | split
    | dsimp only
    | with_reducible apply keeps_upd

theorem execAtom_keeps {s : State} (h : s.keeps m q) : ∀ a0 a1, outKeeps m q (@execAtom a0 a1 s) := by
  intro a0 a1
  unfold execAtom
  repeat' first
    | (with_reducible first | assumption | intro _ | apply State.inService_keeps | apply State.perform_keeps | apply onTile_keeps)
    | (with_reducible first | apply act_keeps | apply next_keeps | apply ite_outKeeps | apply ite_keeps | apply foldl_keeps)
    | split
    | dsimp only
    | with_reducible apply keeps_upd

theorem execMaint_keeps {s : State} (h : s.keeps m q) : ∀ a0 a1, outKeeps m q (@execMaint a0 a1 s) := by
  intro a0 a1
  unfold execMaint
  repeat' first
    | (with_reducible first | assumption | intro _ | apply State.inService_keeps | apply State.perform_keeps | apply onTile_keeps)
    | (with_reducible first | apply act_keeps | apply next_keeps | apply ite_outKeeps | apply ite_keeps | apply foldl_keeps)
    | split
    | dsimp only
    | with_reducible apply keeps_upd

theorem execSnpInv_keeps {s : State} (h : s.keeps m q) : ∀ a0 a1, outKeeps m q (@execSnpInv a0 a1 s) := by
  intro a0 a1
  unfold execSnpInv
  repeat' first
    | (with_reducible first | assumption | intro _ | apply State.inService_keeps | apply State.snoopAt_keeps | apply onTile_keeps)
    | (with_reducible first | apply act_keeps | apply next_keeps | apply ite_outKeeps | apply ite_keeps | apply foldl_keeps)
    | split
    | dsimp only
    | with_reducible apply keeps_upd

theorem execSnpSh_keeps {s : State} (h : s.keeps m q) : ∀ a0 a1, outKeeps m q (@execSnpSh a0 a1 s) := by
  intro a0 a1
  unfold execSnpSh
  repeat' first
    | (with_reducible first | assumption | intro _ | apply State.inService_keeps | apply State.snoopAt_keeps | apply onTile_keeps)
    | (with_reducible first | apply act_keeps | apply next_keeps | apply ite_outKeeps | apply ite_keeps | apply foldl_keeps)
    | split
    | dsimp only
    | with_reducible apply keeps_upd

theorem execEvt_keeps {s : State} (h : s.keeps m q) : ∀ a0 a1, outKeeps m q (@execEvt a0 a1 s) := by
  intro a0 a1
  unfold execEvt
  repeat' first
    | (with_reducible first | assumption | intro _ | apply State.inService_keeps | apply State.evtAt_keeps | apply onTile_keeps)
    | (with_reducible first | apply act_keeps | apply next_keeps | apply ite_outKeeps | apply ite_keeps | apply foldl_keeps)
    | split
    | dsimp only
    | with_reducible apply keeps_upd

theorem execXinv_keeps {s : State} (h : s.keeps m q) : ∀ a0 a1, outKeeps m q (@execXinv a0 a1 s) := by
  intro a0 a1
  unfold execXinv
  repeat' first
    | (with_reducible first | assumption | intro _ | apply State.inService_keeps | apply State.xinvAt_keeps | apply onTile_keeps)
    | (with_reducible first | apply act_keeps | apply next_keeps | apply ite_outKeeps | apply ite_keeps | apply foldl_keeps)
    | split
    | dsimp only
    | with_reducible apply keeps_upd

theorem execData_keeps {s : State} (h : s.keeps m q) : ∀ a0 a1, outKeeps m q (@execData a0 a1 s) := by
  intro a0 a1
  unfold execData
  repeat' first
    | (with_reducible first | assumption | intro _ | apply State.response_keeps | apply onTile_keeps | apply act_keeps)
    | (with_reducible first | apply next_keeps | apply ite_outKeeps | apply ite_keeps | apply foldl_keeps)
    | split
    | dsimp only
    | with_reducible apply keeps_upd

theorem execAck_keeps {s : State} (h : s.keeps m q) : ∀ a0 a1, outKeeps m q (@execAck a0 a1 s) := by
  intro a0 a1
  unfold execAck
  repeat' first
    | (with_reducible first | assumption | intro _ | apply State.response_keeps | apply onTile_keeps | apply act_keeps)
    | (with_reducible first | apply next_keeps | apply ite_outKeeps | apply ite_keeps | apply foldl_keeps)
    | split
    | dsimp only
    | with_reducible apply keeps_upd

theorem execTkt_keeps {s : State} (h : s.keeps m q) : ∀ a0 a1, outKeeps m q (@execTkt a0 a1 s) := by
  intro a0 a1
  unfold execTkt
  repeat' first
    | (with_reducible first | assumption | intro _ | apply State.ticketFlit_keeps | apply onTile_keeps | apply act_keeps)
    | (with_reducible first | apply next_keeps | apply ite_outKeeps | apply ite_keeps | apply foldl_keeps)
    | split
    | dsimp only
    | with_reducible apply keeps_upd

theorem execTktRet_keeps {s : State} (h : s.keeps m q) : ∀ a0 a1, outKeeps m q (@execTktRet a0 a1 s) := by
  intro a0 a1
  unfold execTktRet
  repeat' first
    | (with_reducible first | assumption | intro _ | apply State.ticketFlit_keeps | apply onTile_keeps | apply act_keeps)
    | (with_reducible first | apply next_keeps | apply ite_outKeeps | apply ite_keeps | apply foldl_keeps)
    | split
    | dsimp only
    | with_reducible apply keeps_upd

theorem execTbl_keeps {s : State} (h : s.keeps m q) : ∀ a0, outKeeps m q (@execTbl a0 s) := by
  intro a0
  unfold execTbl
  repeat' first
    | (with_reducible first | assumption | intro _ | apply State.tblTake_keeps | apply onTile_keeps | apply act_keeps)
    | (with_reducible first | apply next_keeps | apply ite_outKeeps | apply ite_keeps | apply foldl_keeps)
    | split
    | dsimp only
    | with_reducible apply keeps_upd

theorem execNiRequestSend_keeps {s : State} (h : s.keeps m q) : ∀ a0, outKeeps m q (@execNiRequestSend a0 s) := by
  intro a0
  unfold execNiRequestSend
  repeat' first
    | (with_reducible first | assumption | intro _ | apply State.niSend_keeps | apply onTile_keeps | apply act_keeps)
    | (with_reducible first | apply next_keeps | apply ite_outKeeps | apply ite_keeps | apply foldl_keeps)
    | split
    | dsimp only
    | with_reducible apply keeps_upd

theorem execRequestIntoService_keeps {s : State} (h : s.keeps m q) : ∀ a0, outKeeps m q (@execRequestIntoService a0 s) := by
  intro a0
  unfold execRequestIntoService
  repeat' first
    | (with_reducible first | assumption | intro _ | apply State.intoService_keeps | apply onTile_keeps | apply act_keeps)
    | (with_reducible first | apply next_keeps | apply ite_outKeeps | apply ite_keeps | apply foldl_keeps)
    | split
    | dsimp only
    | with_reducible apply keeps_upd

theorem execSharedTicketRelease_keeps {s : State} (h : s.keeps m q) : ∀ a0 a1 a2, outKeeps m q (@execSharedTicketRelease a0 a1 a2 s) := by
  intro a0 a1 a2
  unfold execSharedTicketRelease
  repeat' first
    | (with_reducible first | assumption | intro _ | apply State.ticketRelease_keeps | apply onTile_keeps | apply act_keeps)
    | (with_reducible first | apply next_keeps | apply ite_outKeeps | apply ite_keeps | apply foldl_keeps)
    | split
    | dsimp only
    | with_reducible apply keeps_upd

theorem execEpochDrainReport_keeps {s : State} (h : s.keeps m q) : ∀ a0, outKeeps m q (@execEpochDrainReport a0 s) := by
  intro a0
  unfold execEpochDrainReport
  repeat' first
    | (with_reducible first | assumption | intro _ | apply State.drainReport_keeps | apply onTile_keeps | apply act_keeps)
    | (with_reducible first | apply next_keeps | apply ite_outKeeps | apply ite_keeps | apply foldl_keeps)
    | split
    | dsimp only
    | with_reducible apply keeps_upd

theorem execRouterForward_keeps {s : State} (h : s.keeps m q) : ∀ a0 a1, outKeeps m q (@execRouterForward a0 a1 s) := by
  intro a0 a1
  unfold execRouterForward
  repeat' first
    | (with_reducible first | assumption | intro _ | apply State.routerForward_keeps | apply onTile_keeps | apply act_keeps)
    | (with_reducible first | apply next_keeps | apply ite_outKeeps | apply ite_keeps | apply foldl_keeps)
    | split
    | dsimp only
    | with_reducible apply keeps_upd

theorem execCreditReturn_keeps {s : State} (h : s.keeps m q) : ∀ a0 a1 a2, outKeeps m q (@execCreditReturn a0 a1 a2 s) := by
  intro a0 a1 a2
  unfold execCreditReturn
  repeat' first
    | (with_reducible first | assumption | intro _ | apply State.creditReturn_keeps | apply onTile_keeps | apply act_keeps)
    | (with_reducible first | apply next_keeps | apply ite_outKeeps | apply ite_keeps | apply foldl_keeps)
    | split
    | dsimp only
    | with_reducible apply keeps_upd

theorem execRouterQuiet_keeps {s : State} (h : s.keeps m q) : ∀ a0, outKeeps m q (@execRouterQuiet a0 s) := by
  intro a0
  unfold execRouterQuiet
  repeat' first
    | (with_reducible first | assumption | intro _ | apply State.set_keeps | apply onTile_keeps | apply act_keeps)
    | (with_reducible first | apply next_keeps | apply ite_outKeeps | apply ite_keeps | apply foldl_keeps)
    | split
    | dsimp only
    | with_reducible apply keeps_upd

theorem execGateClosed_keeps {s : State} (h : s.keeps m q) : ∀ a0 a1, outKeeps m q (@execGateClosed a0 a1 s) := by
  intro a0 a1
  unfold execGateClosed
  repeat' first
    | (with_reducible first | assumption | intro _ | apply State.gateClosed_keeps | apply onTile_keeps | apply act_keeps)
    | (with_reducible first | apply next_keeps | apply ite_outKeeps | apply ite_keeps | apply foldl_keeps)
    | split
    | dsimp only
    | with_reducible apply keeps_upd

theorem execNiTransactionTimeout_keeps {s : State} (h : s.keeps m q) : ∀ a0 a1, outKeeps m q (@execNiTransactionTimeout a0 a1 s) := by
  intro a0 a1
  unfold execNiTransactionTimeout
  repeat' first
    | (with_reducible first | assumption | intro _ | apply State.niTimeout_keeps | apply onTile_keeps | apply act_keeps)
    | (with_reducible first | apply next_keeps | apply ite_outKeeps | apply ite_keeps | apply foldl_keeps)
    | split
    | dsimp only
    | with_reducible apply keeps_upd

theorem execViolationReport_keeps {s : State} (h : s.keeps m q) : ∀ a0, outKeeps m q (@execViolationReport a0 s) := by
  intro a0
  unfold execViolationReport
  repeat' first
    | (with_reducible first | assumption | intro _ | apply State.violation_keeps | apply onTile_keeps | apply act_keeps)
    | (with_reducible first | apply next_keeps | apply ite_outKeeps | apply ite_keeps | apply foldl_keeps)
    | split
    | dsimp only
    | with_reducible apply keeps_upd

end Sys2Proof.Machine
end

