-- ==== Sys2Proof/Laws/KeepPackageRows.lean ====
section
/-! SUPPORT. Every command of Machine/PackageRows.lean keeps the byte memories canonical and the queue as it stands. -/

namespace Sys2Proof.Machine

variable {m : Prop} {q : List Instr}

theorem execTuck_keeps {s : State} (h : s.keeps m q) : ∀ a0, outKeeps m q (@execTuck a0 s) := by
  intro a0
  unfold execTuck
  repeat' first
    | (with_reducible first | assumption | intro _ | apply State.tuckRun_keeps | apply onTile_keeps | apply act_keeps)
    | (with_reducible first | apply next_keeps | apply ite_outKeeps | apply ite_keeps | apply foldl_keeps)
    | split
    | dsimp only
    | with_reducible apply keeps_upd

theorem execRise_keeps {s : State} (h : s.keeps m q) : ∀ a0, outKeeps m q (@execRise a0 s) := by
  intro a0
  unfold execRise
  repeat' first
    | (with_reducible first | assumption | intro _ | apply State.rise_keeps | apply onTile_keeps | apply act_keeps)
    | (with_reducible first | apply next_keeps | apply ite_outKeeps | apply ite_keeps | apply foldl_keeps)
    | split
    | dsimp only
    | with_reducible apply keeps_upd

theorem execPk2Entry_keeps {s : State} (h : s.keeps m q) : ∀ a0, outKeeps m q (@execPk2Entry a0 s) := by
  intro a0
  unfold execPk2Entry
  repeat' first
    | (with_reducible first | assumption | intro _ | apply State.pk2Entry_keeps | apply onTile_keeps | apply act_keeps)
    | (with_reducible first | apply next_keeps | apply ite_outKeeps | apply ite_keeps | apply foldl_keeps)
    | split
    | dsimp only
    | with_reducible apply keeps_upd

theorem execColdResetEntry_keeps {s : State} (h : s.keeps m q) : ∀ a0, outKeeps m q (@execColdResetEntry a0 s) := by
  intro a0
  unfold execColdResetEntry
  repeat' first
    | (with_reducible first | assumption | intro _ | apply State.coldEntry_keeps | apply onTile_keeps | apply act_keeps)
    | (with_reducible first | apply next_keeps | apply ite_outKeeps | apply ite_keeps | apply foldl_keeps)
    | split
    | dsimp only
    | with_reducible apply keeps_upd

theorem execColdResetExit_keeps {s : State} (h : s.keeps m q) : outKeeps m q (@execColdResetExit s) := by
  unfold execColdResetExit
  repeat' first
    | (with_reducible first | assumption | intro _ | apply State.coldExit_keeps | apply onTile_keeps | apply act_keeps)
    | (with_reducible first | apply next_keeps | apply ite_outKeeps | apply ite_keeps | apply foldl_keeps)
    | split
    | dsimp only
    | with_reducible apply keeps_upd

theorem execBoot_keeps {s : State} (h : s.keeps m q) : ∀ a0, outKeeps m q (@execBoot a0 s) := by
  intro a0
  unfold execBoot
  repeat' first
    | (with_reducible first | assumption | intro _ | apply State.boot_keeps | apply onTile_keeps | apply act_keeps)
    | (with_reducible first | apply next_keeps | apply ite_outKeeps | apply ite_keeps | apply foldl_keeps)
    | split
    | dsimp only
    | with_reducible apply keeps_upd

theorem execImageRetry_keeps {s : State} (h : s.keeps m q) : ∀ a0, outKeeps m q (@execImageRetry a0 s) := by
  intro a0
  unfold execImageRetry
  repeat' first
    | (with_reducible first | assumption | intro _ | apply State.imageRetry_keeps | apply onTile_keeps | apply act_keeps)
    | (with_reducible first | apply next_keeps | apply ite_outKeeps | apply ite_keeps | apply foldl_keeps)
    | split
    | dsimp only
    | with_reducible apply keeps_upd

theorem execThermtrip_keeps {s : State} (h : s.keeps m q) : ∀ a0, outKeeps m q (@execThermtrip a0 s) := by
  intro a0
  unfold execThermtrip
  repeat' first
    | (with_reducible first | assumption | intro _ | apply State.thermtrip_keeps | apply onTile_keeps | apply act_keeps)
    | (with_reducible first | apply next_keeps | apply ite_outKeeps | apply ite_keeps | apply foldl_keeps)
    | split
    | dsimp only
    | with_reducible apply keeps_upd

theorem execI3cIndexWrite_keeps {s : State} (h : s.keeps m q) : ∀ a0, outKeeps m q (@execI3cIndexWrite a0 s) := by
  intro a0
  unfold execI3cIndexWrite
  repeat' first
    | (with_reducible first | assumption | intro _ | apply State.i3cIndex_keeps | apply onTile_keeps | apply act_keeps)
    | (with_reducible first | apply next_keeps | apply ite_outKeeps | apply ite_keeps | apply foldl_keeps)
    | split
    | dsimp only
    | with_reducible apply keeps_upd

theorem execI3cDynamicAddressAssignment_keeps {s : State} (h : s.keeps m q) : ∀ a0, outKeeps m q (@execI3cDynamicAddressAssignment a0 s) := by
  intro a0
  unfold execI3cDynamicAddressAssignment
  repeat' first
    | (with_reducible first | assumption | intro _ | apply onTile_keeps | apply act_keeps | apply next_keeps | apply ite_outKeeps)
    | (with_reducible first | apply ite_keeps | apply foldl_keeps)
    | split
    | dsimp only
    | with_reducible apply keeps_upd

theorem execJtagInstruction_keeps {s : State} (h : s.keeps m q) : ∀ a0, outKeeps m q (@execJtagInstruction a0 s) := by
  intro a0
  unfold execJtagInstruction
  repeat' first
    | (with_reducible first | assumption | intro _ | apply State.jtagLoad_keeps | apply onTile_keeps | apply act_keeps)
    | (with_reducible first | apply next_keeps | apply ite_outKeeps | apply ite_keeps | apply foldl_keeps)
    | split
    | dsimp only
    | with_reducible apply keeps_upd

end Sys2Proof.Machine
end

