-- ==== Sys2Proof/Laws/KeepPageRows.lean ====
section
/-! SUPPORT. Every command of Machine/PageRows.lean keeps the byte memories canonical and the queue as it stands. -/

namespace Sys2Proof.Machine

variable {m : Prop} {q : List Instr}

theorem execRegisterWrite_keeps {s : State} (h : s.keeps m q) : ∀ a0 a1 a2 a3, outKeeps m q (@execRegisterWrite a0 a1 a2 a3 s) := by
  intro a0 a1 a2 a3
  unfold execRegisterWrite
  repeat' first
    | (with_reducible first | assumption | intro _ | apply State.ctlAccess_keeps | apply State.answer_keeps | apply onTile_keeps)
    | (with_reducible first | apply act_keeps | apply next_keeps | apply ite_outKeeps | apply ite_keeps | apply foldl_keeps)
    | (with_reducible first | refine fst_keeps (by assumption) ?_ | refine snd_keeps (by assumption) ?_)
    | split
    | dsimp only
    | with_reducible apply keeps_upd

theorem execPageErrInj_keeps {s : State} (h : s.keeps m q) : ∀ a0 a1 a2, outKeeps m q (@execPageErrInj a0 a1 a2 s) := by
  intro a0 a1 a2
  unfold execPageErrInj
  repeat' first
    | (with_reducible first | assumption | intro _ | apply State.regWrite_keeps | apply onTile_keeps | apply act_keeps)
    | (with_reducible first | apply next_keeps | apply ite_outKeeps | apply ite_keeps | apply foldl_keeps)
    | split
    | dsimp only
    | with_reducible apply keeps_upd

theorem execPageEnableSet_keeps {s : State} (h : s.keeps m q) : ∀ a0 a1, outKeeps m q (@execPageEnableSet a0 a1 s) := by
  intro a0 a1
  unfold execPageEnableSet
  repeat' first
    | (with_reducible first | assumption | intro _ | apply State.regMod_keeps | apply onTile_keeps | apply act_keeps)
    | (with_reducible first | apply next_keeps | apply ite_outKeeps | apply ite_keeps | apply foldl_keeps)
    | split
    | dsimp only
    | with_reducible apply keeps_upd

theorem execPageEnableClear_keeps {s : State} (h : s.keeps m q) : ∀ a0 a1, outKeeps m q (@execPageEnableClear a0 a1 s) := by
  intro a0 a1
  unfold execPageEnableClear
  repeat' first
    | (with_reducible first | assumption | intro _ | apply State.regMod_keeps | apply onTile_keeps | apply act_keeps)
    | (with_reducible first | apply next_keeps | apply ite_outKeeps | apply ite_keeps | apply foldl_keeps)
    | split
    | dsimp only
    | with_reducible apply keeps_upd

theorem execBlockStopped_keeps {s : State} (h : s.keeps m q) : ∀ a0, outKeeps m q (@execBlockStopped a0 s) := by
  intro a0
  unfold execBlockStopped
  repeat' first
    | (with_reducible first | assumption | intro _ | apply State.blockStop_keeps | apply onTile_keeps | apply act_keeps)
    | (with_reducible first | apply next_keeps | apply ite_outKeeps | apply ite_keeps | apply foldl_keeps)
    | split
    | dsimp only
    | with_reducible apply keeps_upd

theorem execGroomEn_keeps {s : State} (h : s.keeps m q) : ∀ a0 a1 a2, outKeeps m q (@execGroomEn a0 a1 a2 s) := by
  intro a0 a1 a2
  unfold execGroomEn
  repeat' first
    | (with_reducible first | assumption | intro _ | apply State.regMod_keeps | apply onTile_keeps | apply act_keeps)
    | (with_reducible first | apply next_keeps | apply ite_outKeeps | apply ite_keeps | apply foldl_keeps)
    | split
    | dsimp only
    | with_reducible apply keeps_upd

theorem execCheckEn_keeps {s : State} (h : s.keeps m q) : ∀ a0 a1 a2, outKeeps m q (@execCheckEn a0 a1 a2 s) := by
  intro a0 a1 a2
  unfold execCheckEn
  repeat' first
    | (with_reducible first | assumption | intro _ | apply State.regMod_keeps | apply onTile_keeps | apply act_keeps)
    | (with_reducible first | apply next_keeps | apply ite_outKeeps | apply ite_keeps | apply foldl_keeps)
    | split
    | dsimp only
    | with_reducible apply keeps_upd

theorem execRinkFlush_keeps {s : State} (h : s.keeps m q) : ∀ a0 a1, outKeeps m q (@execRinkFlush a0 a1 s) := by
  intro a0 a1
  unfold execRinkFlush
  repeat' first
    | (with_reducible first | assumption | intro _ | apply State.regMod_keeps | apply onTile_keeps | apply act_keeps)
    | (with_reducible first | apply next_keeps | apply ite_outKeeps | apply ite_keeps | apply foldl_keeps)
    | split
    | dsimp only
    | with_reducible apply keeps_upd

theorem execPredFlush_keeps {s : State} (h : s.keeps m q) : ∀ a0 a1, outKeeps m q (@execPredFlush a0 a1 s) := by
  intro a0 a1
  unfold execPredFlush
  repeat' first
    | (with_reducible first | assumption | intro _ | apply State.regMod_keeps | apply onTile_keeps | apply act_keeps)
    | (with_reducible first | apply next_keeps | apply ite_outKeeps | apply ite_keeps | apply foldl_keeps)
    | split
    | dsimp only
    | with_reducible apply keeps_upd

theorem execTlbFlush_keeps {s : State} (h : s.keeps m q) : ∀ a0 a1, outKeeps m q (@execTlbFlush a0 a1 s) := by
  intro a0 a1
  unfold execTlbFlush
  repeat' first
    | (with_reducible first | assumption | intro _ | apply State.regMod_keeps | apply onTile_keeps | apply act_keeps)
    | (with_reducible first | apply next_keeps | apply ite_outKeeps | apply ite_keeps | apply foldl_keeps)
    | split
    | dsimp only
    | with_reducible apply keeps_upd

theorem execLecClaim_keeps {s : State} (h : s.keeps m q) : ∀ a0 a1, outKeeps m q (@execLecClaim a0 a1 s) := by
  intro a0 a1
  unfold execLecClaim
  repeat' first
    | (with_reducible first | assumption | intro _ | apply State.pageAccess_keeps | apply State.answer_keeps | apply onTile_keeps)
    | (with_reducible first | apply act_keeps | apply next_keeps | apply ite_outKeeps | apply ite_keeps | apply foldl_keeps)
    | (with_reducible first | refine fst_keeps (by assumption) ?_ | refine snd_keeps (by assumption) ?_)
    | split
    | dsimp only
    | with_reducible apply keeps_upd

theorem execLecComplete_keeps {s : State} (h : s.keeps m q) : ∀ a0 a1 a2, outKeeps m q (@execLecComplete a0 a1 a2 s) := by
  intro a0 a1 a2
  unfold execLecComplete
  repeat' first
    | (with_reducible first | assumption | intro _ | apply State.regWrite_keeps | apply onTile_keeps | apply act_keeps)
    | (with_reducible first | apply next_keeps | apply ite_outKeeps | apply ite_keeps | apply foldl_keeps)
    | split
    | dsimp only
    | with_reducible apply keeps_upd

theorem execLecDoorbell_keeps {s : State} (h : s.keeps m q) : ∀ a0 a1 a2, outKeeps m q (@execLecDoorbell a0 a1 a2 s) := by
  intro a0 a1 a2
  unfold execLecDoorbell
  repeat' first
    | (with_reducible first | assumption | intro _ | apply State.regWrite_keeps | apply onTile_keeps | apply act_keeps)
    | (with_reducible first | apply next_keeps | apply ite_outKeeps | apply ite_keeps | apply foldl_keeps)
    | split
    | dsimp only
    | with_reducible apply keeps_upd

theorem execLecPendWrite_keeps {s : State} (h : s.keeps m q) : ∀ a0 a1 a2 a3, outKeeps m q (@execLecPendWrite a0 a1 a2 a3 s) := by
  intro a0 a1 a2 a3
  unfold execLecPendWrite
  repeat' first
    | (with_reducible first | assumption | intro _ | apply State.regWrite_keeps | apply onTile_keeps | apply act_keeps)
    | (with_reducible first | apply next_keeps | apply ite_outKeeps | apply ite_keeps | apply foldl_keeps)
    | split
    | dsimp only
    | with_reducible apply keeps_upd

theorem execLecWdogKick_keeps {s : State} (h : s.keeps m q) : ∀ a0 a1, outKeeps m q (@execLecWdogKick a0 a1 s) := by
  intro a0 a1
  unfold execLecWdogKick
  repeat' first
    | (with_reducible first | assumption | intro _ | apply State.regWrite_keeps | apply onTile_keeps | apply act_keeps)
    | (with_reducible first | apply next_keeps | apply ite_outKeeps | apply ite_keeps | apply foldl_keeps)
    | split
    | dsimp only
    | with_reducible apply keeps_upd

theorem execIrtUnmask_keeps {s : State} (h : s.keeps m q) : ∀ a0 a1 a2 a3, outKeeps m q (@execIrtUnmask a0 a1 a2 a3 s) := by
  intro a0 a1 a2 a3
  unfold execIrtUnmask
  repeat' first
    | (with_reducible first | assumption | intro _ | apply State.regMod_keeps | apply onTile_keeps | apply act_keeps)
    | (with_reducible first | apply next_keeps | apply ite_outKeeps | apply ite_keeps | apply foldl_keeps)
    | split
    | dsimp only
    | with_reducible apply keeps_upd

theorem execL2RangeGo_keeps {s : State} (h : s.keeps m q) : ∀ a0 a1, outKeeps m q (@execL2RangeGo a0 a1 s) := by
  intro a0 a1
  unfold execL2RangeGo
  repeat' first
    | (with_reducible first | assumption | intro _ | apply State.regMod_keeps | apply onTile_keeps | apply act_keeps)
    | (with_reducible first | apply next_keeps | apply ite_outKeeps | apply ite_keeps | apply foldl_keeps)
    | split
    | dsimp only
    | with_reducible apply keeps_upd

theorem execL2RangeAbort_keeps {s : State} (h : s.keeps m q) : ∀ a0 a1, outKeeps m q (@execL2RangeAbort a0 a1 s) := by
  intro a0 a1
  unfold execL2RangeAbort
  repeat' first
    | (with_reducible first | assumption | intro _ | apply State.regMod_keeps | apply onTile_keeps | apply act_keeps)
    | (with_reducible first | apply next_keeps | apply ite_outKeeps | apply ite_keeps | apply foldl_keeps)
    | split
    | dsimp only
    | with_reducible apply keeps_upd

theorem execL2Lock_keeps {s : State} (h : s.keeps m q) : ∀ a0 a1 a2, outKeeps m q (@execL2Lock a0 a1 a2 s) := by
  intro a0 a1 a2
  unfold execL2Lock
  repeat' first
    | (with_reducible first | assumption | intro _ | apply State.regWrite_keeps | apply onTile_keeps | apply act_keeps)
    | (with_reducible first | apply next_keeps | apply ite_outKeeps | apply ite_keeps | apply foldl_keeps)
    | split
    | dsimp only
    | with_reducible apply keeps_upd

theorem execSliceDrain_keeps {s : State} (h : s.keeps m q) : ∀ a0 a1 a2, outKeeps m q (@execSliceDrain a0 a1 a2 s) := by
  intro a0 a1 a2
  unfold execSliceDrain
  repeat' first
    | (with_reducible first | assumption | intro _ | apply State.regWrite_keeps | apply onTile_keeps | apply act_keeps)
    | (with_reducible first | apply next_keeps | apply ite_outKeeps | apply ite_keeps | apply foldl_keeps)
    | split
    | dsimp only
    | with_reducible apply keeps_upd

theorem execBremapEntWrite_keeps {s : State} (h : s.keeps m q) : ∀ a0 a1 a2, outKeeps m q (@execBremapEntWrite a0 a1 a2 s) := by
  intro a0 a1 a2
  unfold execBremapEntWrite
  repeat' first
    | (with_reducible first | assumption | intro _ | apply State.regWrite_keeps | apply onTile_keeps | apply act_keeps)
    | (with_reducible first | apply next_keeps | apply ite_outKeeps | apply ite_keeps | apply foldl_keeps)
    | split
    | dsimp only
    | with_reducible apply keeps_upd

theorem execPadCopyGo_keeps {s : State} (h : s.keeps m q) : ∀ a0 a1 a2, outKeeps m q (@execPadCopyGo a0 a1 a2 s) := by
  intro a0 a1 a2
  unfold execPadCopyGo
  repeat' first
    | (with_reducible first | assumption | intro _ | apply State.regWrite_keeps | apply onTile_keeps | apply act_keeps)
    | (with_reducible first | apply next_keeps | apply ite_outKeeps | apply ite_keeps | apply foldl_keeps)
    | split
    | dsimp only
    | with_reducible apply keeps_upd

theorem execTrainGo_keeps {s : State} (h : s.keeps m q) : ∀ a0 a1, outKeeps m q (@execTrainGo a0 a1 s) := by
  intro a0 a1
  unfold execTrainGo
  repeat' first
    | (with_reducible first | assumption | intro _ | apply State.regMod_keeps | apply onTile_keeps | apply act_keeps)
    | (with_reducible first | apply next_keeps | apply ite_outKeeps | apply ite_keeps | apply foldl_keeps)
    | split
    | dsimp only
    | with_reducible apply keeps_upd

theorem execNmcCalendarEn_keeps {s : State} (h : s.keeps m q) : ∀ a0 a1 a2, outKeeps m q (@execNmcCalendarEn a0 a1 a2 s) := by
  intro a0 a1 a2
  unfold execNmcCalendarEn
  repeat' first
    | (with_reducible first | assumption | intro _ | apply State.regMod_keeps | apply onTile_keeps | apply act_keeps)
    | (with_reducible first | apply next_keeps | apply ite_outKeeps | apply ite_keeps | apply foldl_keeps)
    | split
    | dsimp only
    | with_reducible apply keeps_upd

theorem execNtmapWrite_keeps {s : State} (h : s.keeps m q) : ∀ a0 a1 a2, outKeeps m q (@execNtmapWrite a0 a1 a2 s) := by
  intro a0 a1 a2
  unfold execNtmapWrite
  repeat' first
    | (with_reducible first | assumption | intro _ | apply State.regWrite_keeps | apply onTile_keeps | apply act_keeps)
    | (with_reducible first | apply next_keeps | apply ite_outKeeps | apply ite_keeps | apply foldl_keeps)
    | split
    | dsimp only
    | with_reducible apply keeps_upd

theorem execHdmDecCtlWrite_keeps {s : State} (h : s.keeps m q) : ∀ a0 a1 a2 a3, outKeeps m q (@execHdmDecCtlWrite a0 a1 a2 a3 s) := by
  intro a0 a1 a2 a3
  unfold execHdmDecCtlWrite
  repeat' first
    | (with_reducible first | assumption | intro _ | apply State.regWrite_keeps | apply onTile_keeps | apply act_keeps)
    | (with_reducible first | apply next_keeps | apply ite_outKeeps | apply ite_keeps | apply foldl_keeps)
    | split
    | dsimp only
    | with_reducible apply keeps_upd

theorem execHdmExtNextCommit_keeps {s : State} (h : s.keeps m q) : ∀ a0 a1 a2, outKeeps m q (@execHdmExtNextCommit a0 a1 a2 s) := by
  intro a0 a1 a2
  unfold execHdmExtNextCommit
  repeat' first
    | (with_reducible first | assumption | intro _ | apply State.regWrite_keeps | apply onTile_keeps | apply act_keeps)
    | (with_reducible first | apply next_keeps | apply ite_outKeeps | apply ite_keeps | apply foldl_keeps)
    | split
    | dsimp only
    | with_reducible apply keeps_upd

theorem execNiRouteWrite_keeps {s : State} (h : s.keeps m q) : ∀ a0 a1 a2 a3 a4, outKeeps m q (@execNiRouteWrite a0 a1 a2 a3 a4 s) := by
  intro a0 a1 a2 a3 a4
  unfold execNiRouteWrite
  repeat' first
    | (with_reducible first | assumption | intro _ | apply State.regWrite_keeps | apply onTile_keeps | apply act_keeps)
    | (with_reducible first | apply next_keeps | apply ite_outKeeps | apply ite_keeps | apply foldl_keeps)
    | split
    | dsimp only
    | with_reducible apply keeps_upd

theorem execMeshEpochSwitch_keeps {s : State} (h : s.keeps m q) : ∀ a0, outKeeps m q (@execMeshEpochSwitch a0 s) := by
  intro a0
  unfold execMeshEpochSwitch
  repeat' first
    | (with_reducible first | assumption | intro _ | apply State.regMod_keeps | apply onTile_keeps | apply act_keeps)
    | (with_reducible first | apply next_keeps | apply ite_outKeeps | apply ite_keeps | apply foldl_keeps)
    | split
    | dsimp only
    | with_reducible apply keeps_upd

theorem execRouterDrain_keeps {s : State} (h : s.keeps m q) : ∀ a0 a1 a2, outKeeps m q (@execRouterDrain a0 a1 a2 s) := by
  intro a0 a1 a2
  unfold execRouterDrain
  repeat' first
    | (with_reducible first | assumption | intro _ | apply State.regMod_keeps | apply onTile_keeps | apply act_keeps)
    | (with_reducible first | apply next_keeps | apply ite_outKeeps | apply ite_keeps | apply foldl_keeps)
    | split
    | dsimp only
    | with_reducible apply keeps_upd

theorem execRouterCalEn_keeps {s : State} (h : s.keeps m q) : ∀ a0 a1 a2, outKeeps m q (@execRouterCalEn a0 a1 a2 s) := by
  intro a0 a1 a2
  unfold execRouterCalEn
  repeat' first
    | (with_reducible first | assumption | intro _ | apply State.regMod_keeps | apply onTile_keeps | apply act_keeps)
    | (with_reducible first | apply next_keeps | apply ite_outKeeps | apply ite_keeps | apply foldl_keeps)
    | split
    | dsimp only
    | with_reducible apply keeps_upd

theorem execNiClose_keeps {s : State} (h : s.keeps m q) : ∀ a0 a1 a2, outKeeps m q (@execNiClose a0 a1 a2 s) := by
  intro a0 a1 a2
  unfold execNiClose
  repeat' first
    | (with_reducible first | assumption | intro _ | apply State.regWrite_keeps | apply onTile_keeps | apply act_keeps)
    | (with_reducible first | apply next_keeps | apply ite_outKeeps | apply ite_keeps | apply foldl_keeps)
    | split
    | dsimp only
    | with_reducible apply keeps_upd

theorem execMeshSealedWrite_keeps {s : State} (h : s.keeps m q) : ∀ a0 a1, outKeeps m q (@execMeshSealedWrite a0 a1 s) := by
  intro a0 a1
  unfold execMeshSealedWrite
  repeat' first
    | (with_reducible first | assumption | intro _ | apply State.regWrite_keeps | apply onTile_keeps | apply act_keeps)
    | (with_reducible first | apply next_keeps | apply ite_outKeeps | apply ite_keeps | apply foldl_keeps)
    | split
    | dsimp only
    | with_reducible apply keeps_upd

theorem execMeshLost_keeps {s : State} (h : s.keeps m q) : ∀ a0, outKeeps m q (@execMeshLost a0 s) := by
  intro a0
  unfold execMeshLost
  repeat' first
    | (with_reducible first | assumption | intro _ | apply State.regMod_keeps | apply onTile_keeps | apply act_keeps)
    | (with_reducible first | apply next_keeps | apply ite_outKeeps | apply ite_keeps | apply foldl_keeps)
    | split
    | dsimp only
    | with_reducible apply keeps_upd

theorem execMmioWindowWrite_keeps {s : State} (h : s.keeps m q) : ∀ a0 a1 a2 a3 a4, outKeeps m q (@execMmioWindowWrite a0 a1 a2 a3 a4 s) := by
  intro a0 a1 a2 a3 a4
  unfold execMmioWindowWrite
  repeat' first
    | (with_reducible first | assumption | intro _ | apply State.regWrite_keeps | apply onTile_keeps | apply act_keeps)
    | (with_reducible first | apply next_keeps | apply ite_outKeeps | apply ite_keeps | apply foldl_keeps)
    | split
    | dsimp only
    | with_reducible apply keeps_upd

theorem execBmeClear_keeps {s : State} (h : s.keeps m q) : ∀ a0 a1 a2, outKeeps m q (@execBmeClear a0 a1 a2 s) := by
  intro a0 a1 a2
  unfold execBmeClear
  repeat' first
    | (with_reducible first | assumption | intro _ | apply State.regMod_keeps | apply onTile_keeps | apply act_keeps)
    | (with_reducible first | apply next_keeps | apply ite_outKeeps | apply ite_keeps | apply foldl_keeps)
    | split
    | dsimp only
    | with_reducible apply keeps_upd

theorem execEpMbxResult_keeps {s : State} (h : s.keeps m q) : ∀ a0 a1 a2, outKeeps m q (@execEpMbxResult a0 a1 a2 s) := by
  intro a0 a1 a2
  unfold execEpMbxResult
  repeat' first
    | (with_reducible first | assumption | intro _ | apply State.regWrite_keeps | apply onTile_keeps | apply act_keeps)
    | (with_reducible first | apply next_keeps | apply ite_outKeeps | apply ite_keeps | apply foldl_keeps)
    | split
    | dsimp only
    | with_reducible apply keeps_upd

theorem execEpConInRead_keeps {s : State} (h : s.keeps m q) : ∀ a0 a1, outKeeps m q (@execEpConInRead a0 a1 s) := by
  intro a0 a1
  unfold execEpConInRead
  repeat' first
    | (with_reducible first | assumption | intro _ | apply State.pageAccess_keeps | apply State.answer_keeps | apply onTile_keeps)
    | (with_reducible first | apply act_keeps | apply next_keeps | apply ite_outKeeps | apply ite_keeps | apply foldl_keeps)
    | (with_reducible first | refine fst_keeps (by assumption) ?_ | refine snd_keeps (by assumption) ?_)
    | split
    | dsimp only
    | with_reducible apply keeps_upd

theorem execEpConOutWrite_keeps {s : State} (h : s.keeps m q) : ∀ a0 a1 a2, outKeeps m q (@execEpConOutWrite a0 a1 a2 s) := by
  intro a0 a1 a2
  unfold execEpConOutWrite
  repeat' first
    | (with_reducible first | assumption | intro _ | apply State.regWrite_keeps | apply onTile_keeps | apply act_keeps)
    | (with_reducible first | apply next_keeps | apply ite_outKeeps | apply ite_keeps | apply foldl_keeps)
    | split
    | dsimp only
    | with_reducible apply keeps_upd

theorem execWinCommit_keeps {s : State} (h : s.keeps m q) : ∀ a0 a1, outKeeps m q (@execWinCommit a0 a1 s) := by
  intro a0 a1
  unfold execWinCommit
  repeat' first
    | (with_reducible first | assumption | intro _ | apply State.regMod_keeps | apply onTile_keeps | apply act_keeps)
    | (with_reducible first | apply next_keeps | apply ite_outKeeps | apply ite_keeps | apply foldl_keeps)
    | split
    | dsimp only
    | with_reducible apply keeps_upd

theorem execPmapInv_keeps {s : State} (h : s.keeps m q) : ∀ a0, outKeeps m q (@execPmapInv a0 s) := by
  intro a0
  unfold execPmapInv
  repeat' first
    | (with_reducible first | assumption | intro _ | apply State.regMod_keeps | apply onTile_keeps | apply act_keeps)
    | (with_reducible first | apply next_keeps | apply ite_outKeeps | apply ite_keeps | apply foldl_keeps)
    | split
    | dsimp only
    | with_reducible apply keeps_upd

theorem execPmapCopyWrite_keeps {s : State} (h : s.keeps m q) : ∀ a0 a1 a2, outKeeps m q (@execPmapCopyWrite a0 a1 a2 s) := by
  intro a0 a1 a2
  unfold execPmapCopyWrite
  repeat' first
    | (with_reducible first | assumption | intro _ | apply State.regWrite_keeps | apply onTile_keeps | apply act_keeps)
    | (with_reducible first | apply next_keeps | apply ite_outKeeps | apply ite_keeps | apply foldl_keeps)
    | split
    | dsimp only
    | with_reducible apply keeps_upd

theorem execKsGenerate_keeps {s : State} (h : s.keeps m q) : ∀ a0 a1 a2, outKeeps m q (@execKsGenerate a0 a1 a2 s) := by
  intro a0 a1 a2
  unfold execKsGenerate
  repeat' first
    | (with_reducible first | assumption | intro _ | apply State.regWrite_keeps | apply onTile_keeps | apply act_keeps)
    | (with_reducible first | apply next_keeps | apply ite_outKeeps | apply ite_keeps | apply foldl_keeps)
    | split
    | dsimp only
    | with_reducible apply keeps_upd

theorem execKsClear_keeps {s : State} (h : s.keeps m q) : ∀ a0 a1, outKeeps m q (@execKsClear a0 a1 s) := by
  intro a0 a1
  unfold execKsClear
  repeat' first
    | (with_reducible first | assumption | intro _ | apply State.regMod_keeps | apply onTile_keeps | apply act_keeps)
    | (with_reducible first | apply next_keeps | apply ite_outKeeps | apply ite_keeps | apply foldl_keeps)
    | split
    | dsimp only
    | with_reducible apply keeps_upd

theorem execKsUnwrap_keeps {s : State} (h : s.keeps m q) : ∀ a0 a1, outKeeps m q (@execKsUnwrap a0 a1 s) := by
  intro a0 a1
  unfold execKsUnwrap
  repeat' first
    | (with_reducible first | assumption | intro _ | apply State.regMod_keeps | apply onTile_keeps | apply act_keeps)
    | (with_reducible first | apply next_keeps | apply ite_outKeeps | apply ite_keeps | apply foldl_keeps)
    | split
    | dsimp only
    | with_reducible apply keeps_upd

theorem execTliftPreqWrite_keeps {s : State} (h : s.keeps m q) : ∀ a0 a1 a2, outKeeps m q (@execTliftPreqWrite a0 a1 a2 s) := by
  intro a0 a1 a2
  unfold execTliftPreqWrite
  repeat' first
    | (with_reducible first | assumption | intro _ | apply State.regWrite_keeps | apply onTile_keeps | apply act_keeps)
    | (with_reducible first | apply next_keeps | apply ite_outKeeps | apply ite_keeps | apply foldl_keeps)
    | split
    | dsimp only
    | with_reducible apply keeps_upd

theorem execForceT3_keeps {s : State} (h : s.keeps m q) : ∀ a0 a1 a2, outKeeps m q (@execForceT3 a0 a1 a2 s) := by
  intro a0 a1 a2
  unfold execForceT3
  repeat' first
    | (with_reducible first | assumption | intro _ | apply State.regWrite_keeps | apply onTile_keeps | apply act_keeps)
    | (with_reducible first | apply next_keeps | apply ite_outKeeps | apply ite_keeps | apply foldl_keeps)
    | split
    | dsimp only
    | with_reducible apply keeps_upd

theorem execLiftPstateWrite_keeps {s : State} (h : s.keeps m q) : ∀ a0 a1 a2, outKeeps m q (@execLiftPstateWrite a0 a1 a2 s) := by
  intro a0 a1 a2
  unfold execLiftPstateWrite
  repeat' first
    | (with_reducible first | assumption | intro _ | apply State.regWrite_keeps | apply onTile_keeps | apply act_keeps)
    | (with_reducible first | apply next_keeps | apply ite_outKeeps | apply ite_keeps | apply foldl_keeps)
    | split
    | dsimp only
    | with_reducible apply keeps_upd

theorem execLiftChronoWrite_keeps {s : State} (h : s.keeps m q) : ∀ a0 a1, outKeeps m q (@execLiftChronoWrite a0 a1 s) := by
  intro a0 a1
  unfold execLiftChronoWrite
  repeat' first
    | (with_reducible first | assumption | intro _ | apply State.regWrite_keeps | apply onTile_keeps | apply act_keeps)
    | (with_reducible first | apply next_keeps | apply ite_outKeeps | apply ite_keeps | apply foldl_keeps)
    | split
    | dsimp only
    | with_reducible apply keeps_upd

theorem execSwap_keeps {s : State} (h : s.keeps m q) : ∀ a0 a1 a2, outKeeps m q (@execSwap a0 a1 a2 s) := by
  intro a0 a1 a2
  unfold execSwap
  repeat' first
    | (with_reducible first | assumption | intro _ | apply State.rasAdvance_keeps | apply State.regWrite_keeps)
    | (with_reducible first | apply onTile_keeps | apply act_keeps | apply next_keeps | apply ite_outKeeps | apply ite_keeps)
    | (with_reducible first | apply foldl_keeps)
    | split
    | dsimp only
    | with_reducible apply keeps_upd

theorem execSwapCold_keeps {s : State} (h : s.keeps m q) : ∀ a0 a1 a2, outKeeps m q (@execSwapCold a0 a1 a2 s) := by
  intro a0 a1 a2
  unfold execSwapCold
  repeat' first
    | (with_reducible first | assumption | intro _ | apply State.rasAdvance_keeps | apply State.regWrite_keeps)
    | (with_reducible first | apply onTile_keeps | apply act_keeps | apply next_keeps | apply ite_outKeeps | apply ite_keeps)
    | (with_reducible first | apply foldl_keeps)
    | split
    | dsimp only
    | with_reducible apply keeps_upd

theorem execRetireSlice_keeps {s : State} (h : s.keeps m q) : ∀ a0 a1, outKeeps m q (@execRetireSlice a0 a1 s) := by
  intro a0 a1
  unfold execRetireSlice
  repeat' first
    | (with_reducible first | assumption | intro _ | apply State.rasAdvance_keeps | apply State.regMod_keeps | apply onTile_keeps)
    | (with_reducible first | apply act_keeps | apply next_keeps | apply ite_outKeeps | apply ite_keeps | apply foldl_keeps)
    | split
    | dsimp only
    | with_reducible apply keeps_upd

theorem execTdClr_keeps {s : State} (h : s.keeps m q) : ∀ a0 a1, outKeeps m q (@execTdClr a0 a1 s) := by
  intro a0 a1
  unfold execTdClr
  repeat' first
    | (with_reducible first | assumption | intro _ | apply State.regMod_keeps | apply onTile_keeps | apply act_keeps)
    | (with_reducible first | apply next_keeps | apply ite_outKeeps | apply ite_keeps | apply foldl_keeps)
    | split
    | dsimp only
    | with_reducible apply keeps_upd

end Sys2Proof.Machine
end

