-- ==== Sys2Proof/Laws/KeepServiceRows.lean ====
section
/-! SUPPORT. Every command of Machine/ServiceRows.lean keeps the byte memories canonical and the queue as it stands. -/

namespace Sys2Proof.Machine

variable {m : Prop} {q : List Instr}

theorem execVersion_keeps {s : State} (h : s.keeps m q) : ∀ a0, outKeeps m q (@execVersion a0 s) := by
  intro a0
  unfold execVersion
  repeat' first
    | (with_reducible first | assumption | intro _ | apply State.svcVersion_keeps | apply onTile_keeps | apply act_keeps)
    | (with_reducible first | apply next_keeps | apply ite_outKeeps | apply ite_keeps | apply foldl_keeps)
    | split
    | dsimp only
    | with_reducible apply keeps_upd

theorem execNoticeRead_keeps {s : State} (h : s.keeps m q) : ∀ a0, outKeeps m q (@execNoticeRead a0 s) := by
  intro a0
  unfold execNoticeRead
  repeat' first
    | (with_reducible first | assumption | intro _ | apply State.svcNotice_keeps | apply onTile_keeps | apply act_keeps)
    | (with_reducible first | apply next_keeps | apply ite_outKeeps | apply ite_keeps | apply foldl_keeps)
    | split
    | dsimp only
    | with_reducible apply keeps_upd

theorem execIrtSet_keeps {s : State} (h : s.keeps m q) : ∀ a0, outKeeps m q (@execIrtSet a0 s) := by
  intro a0
  unfold execIrtSet
  repeat' first
    | (with_reducible first | assumption | intro _ | apply State.svcIrt_keeps | apply onTile_keeps | apply act_keeps)
    | (with_reducible first | apply next_keeps | apply ite_outKeeps | apply ite_keeps | apply foldl_keeps)
    | split
    | dsimp only
    | with_reducible apply keeps_upd

theorem execTileStart_keeps {s : State} (h : s.keeps m q) : ∀ a0, outKeeps m q (@execTileStart a0 s) := by
  intro a0
  unfold execTileStart
  repeat' first
    | (with_reducible first | assumption | intro _ | apply State.svcTileStart_keeps | apply onTile_keeps | apply act_keeps)
    | (with_reducible first | apply next_keeps | apply ite_outKeeps | apply ite_keeps | apply foldl_keeps)
    | split
    | dsimp only
    | with_reducible apply keeps_upd

theorem execKeyGen_keeps {s : State} (h : s.keeps m q) : ∀ a0, outKeeps m q (@execKeyGen a0 s) := by
  intro a0
  unfold execKeyGen
  repeat' first
    | (with_reducible first | assumption | intro _ | apply State.svcKeyGen_keeps | apply onTile_keeps | apply act_keeps)
    | (with_reducible first | apply next_keeps | apply ite_outKeeps | apply ite_keeps | apply foldl_keeps)
    | split
    | dsimp only
    | with_reducible apply keeps_upd

theorem execAttest_keeps {s : State} (h : s.keeps m q) : ∀ a0, outKeeps m q (@execAttest a0 s) := by
  intro a0
  unfold execAttest
  repeat' first
    | (with_reducible first | assumption | intro _ | apply State.svcAttest_keeps | apply onTile_keeps | apply act_keeps)
    | (with_reducible first | apply next_keeps | apply ite_outKeeps | apply ite_keeps | apply foldl_keeps)
    | split
    | dsimp only
    | with_reducible apply keeps_upd

theorem execExtentDone_keeps {s : State} (h : s.keeps m q) : ∀ a0, outKeeps m q (@execExtentDone a0 s) := by
  intro a0
  unfold execExtentDone
  repeat' first
    | (with_reducible first | assumption | intro _ | apply State.svcExtent_keeps | apply onTile_keeps | apply act_keeps)
    | (with_reducible first | apply next_keeps | apply ite_outKeeps | apply ite_keeps | apply foldl_keeps)
    | split
    | dsimp only
    | with_reducible apply keeps_upd

theorem execRasRead_keeps {s : State} (h : s.keeps m q) : ∀ a0, outKeeps m q (@execRasRead a0 s) := by
  intro a0
  unfold execRasRead
  repeat' first
    | (with_reducible first | assumption | intro _ | apply State.svcRas_keeps | apply onTile_keeps | apply act_keeps)
    | (with_reducible first | apply next_keeps | apply ite_outKeeps | apply ite_keeps | apply foldl_keeps)
    | split
    | dsimp only
    | with_reducible apply keeps_upd

theorem execPisteTile_keeps {s : State} (h : s.keeps m q) : ∀ a0, outKeeps m q (@execPisteTile a0 s) := by
  intro a0
  unfold execPisteTile
  repeat' first
    | (with_reducible first | assumption | intro _ | apply State.svcTile_keeps | apply onTile_keeps | apply act_keeps)
    | (with_reducible first | apply next_keeps | apply ite_outKeeps | apply ite_keeps | apply foldl_keeps)
    | split
    | dsimp only
    | with_reducible apply keeps_upd

theorem execPisteMap_keeps {s : State} (h : s.keeps m q) : ∀ a0, outKeeps m q (@execPisteMap a0 s) := by
  intro a0
  unfold execPisteMap
  repeat' first
    | (with_reducible first | assumption | intro _ | apply State.svcMap_keeps | apply onTile_keeps | apply act_keeps)
    | (with_reducible first | apply next_keeps | apply ite_outKeeps | apply ite_keeps | apply foldl_keeps)
    | split
    | dsimp only
    | with_reducible apply keeps_upd

theorem execPistePort_keeps {s : State} (h : s.keeps m q) : ∀ a0, outKeeps m q (@execPistePort a0 s) := by
  intro a0
  unfold execPistePort
  repeat' first
    | (with_reducible first | assumption | intro _ | apply State.svcPort_keeps | apply onTile_keeps | apply act_keeps)
    | (with_reducible first | apply next_keeps | apply ite_outKeeps | apply ite_keeps | apply foldl_keeps)
    | split
    | dsimp only
    | with_reducible apply keeps_upd

theorem execPisteFlags_keeps {s : State} (h : s.keeps m q) : ∀ a0, outKeeps m q (@execPisteFlags a0 s) := by
  intro a0
  unfold execPisteFlags
  repeat' first
    | (with_reducible first | assumption | intro _ | apply State.svcFlags_keeps | apply onTile_keeps | apply act_keeps)
    | (with_reducible first | apply next_keeps | apply ite_outKeeps | apply ite_keeps | apply foldl_keeps)
    | split
    | dsimp only
    | with_reducible apply keeps_upd

theorem execGroupSet_keeps {s : State} (h : s.keeps m q) : ∀ a0, outKeeps m q (@execGroupSet a0 s) := by
  intro a0
  unfold execGroupSet
  repeat' first
    | (with_reducible first | assumption | intro _ | apply State.svcGroup_keeps | apply onTile_keeps | apply act_keeps)
    | (with_reducible first | apply next_keeps | apply ite_outKeeps | apply ite_keeps | apply foldl_keeps)
    | split
    | dsimp only
    | with_reducible apply keeps_upd

theorem execPisteSeal_keeps {s : State} (h : s.keeps m q) : ∀ a0, outKeeps m q (@execPisteSeal a0 s) := by
  intro a0
  unfold execPisteSeal
  repeat' first
    | (with_reducible first | assumption | intro _ | apply State.svcSeal_keeps | apply onTile_keeps | apply act_keeps)
    | (with_reducible first | apply next_keeps | apply ite_outKeeps | apply ite_keeps | apply foldl_keeps)
    | split
    | dsimp only
    | with_reducible apply keeps_upd

theorem execThaw_keeps {s : State} (h : s.keeps m q) : ∀ a0, outKeeps m q (@execThaw a0 s) := by
  intro a0
  unfold execThaw
  repeat' first
    | (with_reducible first | assumption | intro _ | apply State.svcThaw_keeps | apply onTile_keeps | apply act_keeps)
    | (with_reducible first | apply next_keeps | apply ite_outKeeps | apply ite_keeps | apply foldl_keeps)
    | split
    | dsimp only
    | with_reducible apply keeps_upd

theorem execPolicy_keeps {s : State} (h : s.keeps m q) : ∀ a0, outKeeps m q (@execPolicy a0 s) := by
  intro a0
  unfold execPolicy
  repeat' first
    | (with_reducible first | assumption | intro _ | apply State.svcPolicy_keeps | apply onTile_keeps | apply act_keeps)
    | (with_reducible first | apply next_keeps | apply ite_outKeeps | apply ite_keeps | apply foldl_keeps)
    | split
    | dsimp only
    | with_reducible apply keeps_upd

theorem execBootImage_keeps {s : State} (h : s.keeps m q) : ∀ a0, outKeeps m q (@execBootImage a0 s) := by
  intro a0
  unfold execBootImage
  repeat' first
    | (with_reducible first | assumption | intro _ | apply State.svcImage_keeps | apply onTile_keeps | apply act_keeps)
    | (with_reducible first | apply next_keeps | apply ite_outKeeps | apply ite_keeps | apply foldl_keeps)
    | split
    | dsimp only
    | with_reducible apply keeps_upd

theorem execSvnCommit_keeps {s : State} (h : s.keeps m q) : ∀ a0, outKeeps m q (@execSvnCommit a0 s) := by
  intro a0
  unfold execSvnCommit
  repeat' first
    | (with_reducible first | assumption | intro _ | apply State.svcSvn_keeps | apply onTile_keeps | apply act_keeps)
    | (with_reducible first | apply next_keeps | apply ite_outKeeps | apply ite_keeps | apply foldl_keeps)
    | split
    | dsimp only
    | with_reducible apply keeps_upd

theorem execLockstepMismatch_keeps {s : State} (h : s.keeps m q) : ∀ a0, outKeeps m q (@execLockstepMismatch a0 s) := by
  intro a0
  unfold execLockstepMismatch
  repeat' first
    | (with_reducible first | assumption | intro _ | apply State.lockstep_keeps | apply onTile_keeps | apply act_keeps)
    | (with_reducible first | apply next_keeps | apply ite_outKeeps | apply ite_keeps | apply foldl_keeps)
    | split
    | dsimp only
    | with_reducible apply keeps_upd

theorem execDebugChallenge_keeps {s : State} (h : s.keeps m q) : ∀ a0 a1, outKeeps m q (@execDebugChallenge a0 a1 s) := by
  intro a0 a1
  unfold execDebugChallenge
  repeat' first
    | (with_reducible first | assumption | intro _ | apply State.dbgChallenge_keeps | apply onTile_keeps | apply act_keeps)
    | (with_reducible first | apply next_keeps | apply ite_outKeeps | apply ite_keeps | apply foldl_keeps)
    | split
    | dsimp only
    | with_reducible apply keeps_upd

theorem execDebugPortAccess_keeps {s : State} (h : s.keeps m q) : ∀ a0 a1, outKeeps m q (@execDebugPortAccess a0 a1 s) := by
  intro a0 a1
  unfold execDebugPortAccess
  repeat' first
    | (with_reducible first | assumption | intro _ | apply State.dbgAccess_keeps | apply onTile_keeps | apply act_keeps)
    | (with_reducible first | apply next_keeps | apply ite_outKeeps | apply ite_keeps | apply foldl_keeps)
    | split
    | dsimp only
    | with_reducible apply keeps_upd

end Sys2Proof.Machine
end

