-- ==== Sys2Proof/Laws/KeepSystemRows.lean ====
section
/-! SUPPORT. Every command of Machine/SystemRows.lean keeps the byte memories canonical and the queue as it stands. -/

namespace Sys2Proof.Machine

variable {m : Prop} {q : List Instr}

theorem execSetvl_keeps {s : State} (h : s.keeps m q) : ∀ a0 a1 a2 a3, outKeeps m q (@execSetvl a0 a1 a2 a3 s) := by
  intro a0 a1 a2 a3
  unfold execSetvl
  repeat' first
    | (with_reducible first | assumption | intro _ | apply State.issueRow_keeps | apply onTile_keeps | apply act_keeps)
    | (with_reducible first | apply next_keeps | apply ite_outKeeps | apply ite_keeps | apply foldl_keeps)
    | split
    | dsimp only
    | with_reducible apply keeps_upd

theorem execVcfgr_keeps {s : State} (h : s.keeps m q) : ∀ a0 a1 a2 a3, outKeeps m q (@execVcfgr a0 a1 a2 a3 s) := by
  intro a0 a1 a2 a3
  unfold execVcfgr
  repeat' first
    | (with_reducible first | assumption | intro _ | apply State.issueRow_keeps | apply onTile_keeps | apply act_keeps)
    | (with_reducible first | apply next_keeps | apply ite_outKeeps | apply ite_keeps | apply foldl_keeps)
    | split
    | dsimp only
    | with_reducible apply keeps_upd

theorem execVcfgw_keeps {s : State} (h : s.keeps m q) : ∀ a0 a1 a2 a3, outKeeps m q (@execVcfgw a0 a1 a2 a3 s) := by
  intro a0 a1 a2 a3
  unfold execVcfgw
  repeat' first
    | (with_reducible first | assumption | intro _ | apply State.issueRow_keeps | apply onTile_keeps | apply act_keeps)
    | (with_reducible first | apply next_keeps | apply ite_outKeeps | apply ite_keeps | apply foldl_keeps)
    | split
    | dsimp only
    | with_reducible apply keeps_upd

theorem execFstatr_keeps {s : State} (h : s.keeps m q) : ∀ a0 a1 a2 a3, outKeeps m q (@execFstatr a0 a1 a2 a3 s) := by
  intro a0 a1 a2 a3
  unfold execFstatr
  repeat' first
    | (with_reducible first | assumption | intro _ | apply State.issueRow_keeps | apply onTile_keeps | apply act_keeps)
    | (with_reducible first | apply next_keeps | apply ite_outKeeps | apply ite_keeps | apply foldl_keeps)
    | split
    | dsimp only
    | with_reducible apply keeps_upd

theorem execFstatw_keeps {s : State} (h : s.keeps m q) : ∀ a0 a1 a2 a3, outKeeps m q (@execFstatw a0 a1 a2 a3 s) := by
  intro a0 a1 a2 a3
  unfold execFstatw
  repeat' first
    | (with_reducible first | assumption | intro _ | apply State.issueRow_keeps | apply onTile_keeps | apply act_keeps)
    | (with_reducible first | apply next_keeps | apply ite_outKeeps | apply ite_keeps | apply foldl_keeps)
    | split
    | dsimp only
    | with_reducible apply keeps_upd

theorem execSrr_keeps {s : State} (h : s.keeps m q) : ∀ a0 a1 a2 a3, outKeeps m q (@execSrr a0 a1 a2 a3 s) := by
  intro a0 a1 a2 a3
  unfold execSrr
  repeat' first
    | (with_reducible first | assumption | intro _ | apply State.issueRow_keeps | apply onTile_keeps | apply act_keeps)
    | (with_reducible first | apply next_keeps | apply ite_outKeeps | apply ite_keeps | apply foldl_keeps)
    | split
    | dsimp only
    | with_reducible apply keeps_upd

theorem execSrw_keeps {s : State} (h : s.keeps m q) : ∀ a0 a1 a2 a3, outKeeps m q (@execSrw a0 a1 a2 a3 s) := by
  intro a0 a1 a2 a3
  unfold execSrw
  repeat' first
    | (with_reducible first | assumption | intro _ | apply State.issueRow_keeps | apply onTile_keeps | apply act_keeps)
    | (with_reducible first | apply next_keeps | apply ite_outKeeps | apply ite_keeps | apply foldl_keeps)
    | split
    | dsimp only
    | with_reducible apply keeps_upd

theorem execSrset_keeps {s : State} (h : s.keeps m q) : ∀ a0 a1 a2 a3, outKeeps m q (@execSrset a0 a1 a2 a3 s) := by
  intro a0 a1 a2 a3
  unfold execSrset
  repeat' first
    | (with_reducible first | assumption | intro _ | apply State.issueRow_keeps | apply onTile_keeps | apply act_keeps)
    | (with_reducible first | apply next_keeps | apply ite_outKeeps | apply ite_keeps | apply foldl_keeps)
    | split
    | dsimp only
    | with_reducible apply keeps_upd

theorem execSrclr_keeps {s : State} (h : s.keeps m q) : ∀ a0 a1 a2 a3, outKeeps m q (@execSrclr a0 a1 a2 a3 s) := by
  intro a0 a1 a2 a3
  unfold execSrclr
  repeat' first
    | (with_reducible first | assumption | intro _ | apply State.issueRow_keeps | apply onTile_keeps | apply act_keeps)
    | (with_reducible first | apply next_keeps | apply ite_outKeeps | apply ite_keeps | apply foldl_keeps)
    | split
    | dsimp only
    | with_reducible apply keeps_upd

theorem execFence_keeps {s : State} (h : s.keeps m q) : ∀ a0 a1 a2 a3, outKeeps m q (@execFence a0 a1 a2 a3 s) := by
  intro a0 a1 a2 a3
  unfold execFence
  repeat' first
    | (with_reducible first | assumption | intro _ | apply State.issueRow_keeps | apply onTile_keeps | apply act_keeps)
    | (with_reducible first | apply next_keeps | apply ite_outKeeps | apply ite_keeps | apply foldl_keeps)
    | split
    | dsimp only
    | with_reducible apply keeps_upd

theorem execSyncC_keeps {s : State} (h : s.keeps m q) : ∀ a0 a1 a2 a3, outKeeps m q (@execSyncC a0 a1 a2 a3 s) := by
  intro a0 a1 a2 a3
  unfold execSyncC
  repeat' first
    | (with_reducible first | assumption | intro _ | apply State.issueRow_keeps | apply onTile_keeps | apply act_keeps)
    | (with_reducible first | apply next_keeps | apply ite_outKeeps | apply ite_keeps | apply foldl_keeps)
    | split
    | dsimp only
    | with_reducible apply keeps_upd

theorem execScall_keeps {s : State} (h : s.keeps m q) : ∀ a0 a1 a2 a3, outKeeps m q (@execScall a0 a1 a2 a3 s) := by
  intro a0 a1 a2 a3
  unfold execScall
  repeat' first
    | (with_reducible first | assumption | intro _ | apply State.issueRow_keeps | apply onTile_keeps | apply act_keeps)
    | (with_reducible first | apply next_keeps | apply ite_outKeeps | apply ite_keeps | apply foldl_keeps)
    | split
    | dsimp only
    | with_reducible apply keeps_upd

theorem execHcall_keeps {s : State} (h : s.keeps m q) : ∀ a0 a1 a2 a3, outKeeps m q (@execHcall a0 a1 a2 a3 s) := by
  intro a0 a1 a2 a3
  unfold execHcall
  repeat' first
    | (with_reducible first | assumption | intro _ | apply State.issueRow_keeps | apply onTile_keeps | apply act_keeps)
    | (with_reducible first | apply next_keeps | apply ite_outKeeps | apply ite_keeps | apply foldl_keeps)
    | split
    | dsimp only
    | with_reducible apply keeps_upd

theorem execBrk_keeps {s : State} (h : s.keeps m q) : ∀ a0 a1 a2 a3, outKeeps m q (@execBrk a0 a1 a2 a3 s) := by
  intro a0 a1 a2 a3
  unfold execBrk
  repeat' first
    | (with_reducible first | assumption | intro _ | apply State.issueRow_keeps | apply onTile_keeps | apply act_keeps)
    | (with_reducible first | apply next_keeps | apply ite_outKeeps | apply ite_keeps | apply foldl_keeps)
    | split
    | dsimp only
    | with_reducible apply keeps_upd

theorem execUdf_keeps {s : State} (h : s.keeps m q) : ∀ a0 a1 a2 a3, outKeeps m q (@execUdf a0 a1 a2 a3 s) := by
  intro a0 a1 a2 a3
  unfold execUdf
  repeat' first
    | (with_reducible first | assumption | intro _ | apply State.issueRow_keeps | apply onTile_keeps | apply act_keeps)
    | (with_reducible first | apply next_keeps | apply ite_outKeeps | apply ite_keeps | apply foldl_keeps)
    | split
    | dsimp only
    | with_reducible apply keeps_upd

theorem execSret_keeps {s : State} (h : s.keeps m q) : ∀ a0 a1 a2 a3, outKeeps m q (@execSret a0 a1 a2 a3 s) := by
  intro a0 a1 a2 a3
  unfold execSret
  repeat' first
    | (with_reducible first | assumption | intro _ | apply State.issueRow_keeps | apply onTile_keeps | apply act_keeps)
    | (with_reducible first | apply next_keeps | apply ite_outKeeps | apply ite_keeps | apply foldl_keeps)
    | split
    | dsimp only
    | with_reducible apply keeps_upd

theorem execHret_keeps {s : State} (h : s.keeps m q) : ∀ a0 a1 a2 a3, outKeeps m q (@execHret a0 a1 a2 a3 s) := by
  intro a0 a1 a2 a3
  unfold execHret
  repeat' first
    | (with_reducible first | assumption | intro _ | apply State.issueRow_keeps | apply onTile_keeps | apply act_keeps)
    | (with_reducible first | apply next_keeps | apply ite_outKeeps | apply ite_keeps | apply foldl_keeps)
    | split
    | dsimp only
    | with_reducible apply keeps_upd

theorem execWfi_keeps {s : State} (h : s.keeps m q) : ∀ a0 a1 a2 a3, outKeeps m q (@execWfi a0 a1 a2 a3 s) := by
  intro a0 a1 a2 a3
  unfold execWfi
  repeat' first
    | (with_reducible first | assumption | intro _ | apply State.issueRow_keeps | apply onTile_keeps | apply act_keeps)
    | (with_reducible first | apply next_keeps | apply ite_outKeeps | apply ite_keeps | apply foldl_keeps)
    | split
    | dsimp only
    | with_reducible apply keeps_upd

theorem execRdcnt_keeps {s : State} (h : s.keeps m q) : ∀ a0 a1 a2 a3, outKeeps m q (@execRdcnt a0 a1 a2 a3 s) := by
  intro a0 a1 a2 a3
  unfold execRdcnt
  repeat' first
    | (with_reducible first | assumption | intro _ | apply State.issueRow_keeps | apply onTile_keeps | apply act_keeps)
    | (with_reducible first | apply next_keeps | apply ite_outKeeps | apply ite_keeps | apply foldl_keeps)
    | split
    | dsimp only
    | with_reducible apply keeps_upd

theorem execRdchrono_keeps {s : State} (h : s.keeps m q) : ∀ a0 a1 a2 a3, outKeeps m q (@execRdchrono a0 a1 a2 a3 s) := by
  intro a0 a1 a2 a3
  unfold execRdchrono
  repeat' first
    | (with_reducible first | assumption | intro _ | apply State.issueRow_keeps | apply onTile_keeps | apply act_keeps)
    | (with_reducible first | apply next_keeps | apply ite_outKeeps | apply ite_keeps | apply foldl_keeps)
    | split
    | dsimp only
    | with_reducible apply keeps_upd

end Sys2Proof.Machine
end

