-- ==== Sys2Proof/Laws/KeepVectorRows.lean ====
section
/-! SUPPORT. Every command of Machine/VectorRows.lean keeps the byte memories canonical and the queue as it stands. -/

namespace Sys2Proof.Machine

variable {m : Prop} {q : List Instr}

theorem execVld_keeps {s : State} (h : s.keeps m q) : ∀ a0 a1 a2 a3, outKeeps m q (@execVld a0 a1 a2 a3 s) := by
  intro a0 a1 a2 a3
  unfold execVld
  repeat' first
    | (with_reducible first | assumption | intro _ | apply State.issueRow_keeps | apply onTile_keeps | apply act_keeps)
    | (with_reducible first | apply next_keeps | apply ite_outKeeps | apply ite_keeps | apply foldl_keeps)
    | split
    | dsimp only
    | with_reducible apply keeps_upd

theorem execVst_keeps {s : State} (h : s.keeps m q) : ∀ a0 a1 a2 a3, outKeeps m q (@execVst a0 a1 a2 a3 s) := by
  intro a0 a1 a2 a3
  unfold execVst
  repeat' first
    | (with_reducible first | assumption | intro _ | apply State.issueRow_keeps | apply onTile_keeps | apply act_keeps)
    | (with_reducible first | apply next_keeps | apply ite_outKeeps | apply ite_keeps | apply foldl_keeps)
    | split
    | dsimp only
    | with_reducible apply keeps_upd

theorem execVlds_keeps {s : State} (h : s.keeps m q) : ∀ a0 a1 a2 a3, outKeeps m q (@execVlds a0 a1 a2 a3 s) := by
  intro a0 a1 a2 a3
  unfold execVlds
  repeat' first
    | (with_reducible first | assumption | intro _ | apply State.issueRow_keeps | apply onTile_keeps | apply act_keeps)
    | (with_reducible first | apply next_keeps | apply ite_outKeeps | apply ite_keeps | apply foldl_keeps)
    | split
    | dsimp only
    | with_reducible apply keeps_upd

theorem execVsts_keeps {s : State} (h : s.keeps m q) : ∀ a0 a1 a2 a3, outKeeps m q (@execVsts a0 a1 a2 a3 s) := by
  intro a0 a1 a2 a3
  unfold execVsts
  repeat' first
    | (with_reducible first | assumption | intro _ | apply State.issueRow_keeps | apply onTile_keeps | apply act_keeps)
    | (with_reducible first | apply next_keeps | apply ite_outKeeps | apply ite_keeps | apply foldl_keeps)
    | split
    | dsimp only
    | with_reducible apply keeps_upd

theorem execVgather_keeps {s : State} (h : s.keeps m q) : ∀ a0 a1 a2 a3, outKeeps m q (@execVgather a0 a1 a2 a3 s) := by
  intro a0 a1 a2 a3
  unfold execVgather
  repeat' first
    | (with_reducible first | assumption | intro _ | apply State.issueRow_keeps | apply onTile_keeps | apply act_keeps)
    | (with_reducible first | apply next_keeps | apply ite_outKeeps | apply ite_keeps | apply foldl_keeps)
    | split
    | dsimp only
    | with_reducible apply keeps_upd

theorem execVscatter_keeps {s : State} (h : s.keeps m q) : ∀ a0 a1 a2 a3, outKeeps m q (@execVscatter a0 a1 a2 a3 s) := by
  intro a0 a1 a2 a3
  unfold execVscatter
  repeat' first
    | (with_reducible first | assumption | intro _ | apply State.issueRow_keeps | apply onTile_keeps | apply act_keeps)
    | (with_reducible first | apply next_keeps | apply ite_outKeeps | apply ite_keeps | apply foldl_keeps)
    | split
    | dsimp only
    | with_reducible apply keeps_upd

theorem execScalarFp64_keeps {s : State} (h : s.keeps m q) : ∀ a0 a1 a2 a3, outKeeps m q (@execScalarFp64 a0 a1 a2 a3 s) := by
  intro a0 a1 a2 a3
  unfold execScalarFp64
  repeat' first
    | (with_reducible first | assumption | intro _ | apply State.issueRow_keeps | apply onTile_keeps | apply act_keeps)
    | (with_reducible first | apply next_keeps | apply ite_outKeeps | apply ite_keeps | apply foldl_keeps)
    | split
    | dsimp only
    | with_reducible apply keeps_upd

theorem execScalarFp32_keeps {s : State} (h : s.keeps m q) : ∀ a0 a1 a2 a3, outKeeps m q (@execScalarFp32 a0 a1 a2 a3 s) := by
  intro a0 a1 a2 a3
  unfold execScalarFp32
  repeat' first
    | (with_reducible first | assumption | intro _ | apply State.issueRow_keeps | apply onTile_keeps | apply act_keeps)
    | (with_reducible first | apply next_keeps | apply ite_outKeeps | apply ite_keeps | apply foldl_keeps)
    | split
    | dsimp only
    | with_reducible apply keeps_upd

theorem execScalarFp16_keeps {s : State} (h : s.keeps m q) : ∀ a0 a1 a2 a3, outKeeps m q (@execScalarFp16 a0 a1 a2 a3 s) := by
  intro a0 a1 a2 a3
  unfold execScalarFp16
  repeat' first
    | (with_reducible first | assumption | intro _ | apply State.issueRow_keeps | apply onTile_keeps | apply act_keeps)
    | (with_reducible first | apply next_keeps | apply ite_outKeeps | apply ite_keeps | apply foldl_keeps)
    | split
    | dsimp only
    | with_reducible apply keeps_upd

theorem execScalarBf16_keeps {s : State} (h : s.keeps m q) : ∀ a0 a1 a2 a3, outKeeps m q (@execScalarBf16 a0 a1 a2 a3 s) := by
  intro a0 a1 a2 a3
  unfold execScalarBf16
  repeat' first
    | (with_reducible first | assumption | intro _ | apply State.issueRow_keeps | apply onTile_keeps | apply act_keeps)
    | (with_reducible first | apply next_keeps | apply ite_outKeeps | apply ite_keeps | apply foldl_keeps)
    | split
    | dsimp only
    | with_reducible apply keeps_upd

theorem execFma_keeps {s : State} (h : s.keeps m q) : ∀ a0 a1 a2 a3, outKeeps m q (@execFma a0 a1 a2 a3 s) := by
  intro a0 a1 a2 a3
  unfold execFma
  repeat' first
    | (with_reducible first | assumption | intro _ | apply State.issueRow_keeps | apply onTile_keeps | apply act_keeps)
    | (with_reducible first | apply next_keeps | apply ite_outKeeps | apply ite_keeps | apply foldl_keeps)
    | split
    | dsimp only
    | with_reducible apply keeps_upd

theorem execFcmp_keeps {s : State} (h : s.keeps m q) : ∀ a0 a1 a2 a3, outKeeps m q (@execFcmp a0 a1 a2 a3 s) := by
  intro a0 a1 a2 a3
  unfold execFcmp
  repeat' first
    | (with_reducible first | assumption | intro _ | apply State.issueRow_keeps | apply onTile_keeps | apply act_keeps)
    | (with_reducible first | apply next_keeps | apply ite_outKeeps | apply ite_keeps | apply foldl_keeps)
    | split
    | dsimp only
    | with_reducible apply keeps_upd

theorem execFcvtFf_keeps {s : State} (h : s.keeps m q) : ∀ a0 a1 a2 a3, outKeeps m q (@execFcvtFf a0 a1 a2 a3 s) := by
  intro a0 a1 a2 a3
  unfold execFcvtFf
  repeat' first
    | (with_reducible first | assumption | intro _ | apply State.issueRow_keeps | apply onTile_keeps | apply act_keeps)
    | (with_reducible first | apply next_keeps | apply ite_outKeeps | apply ite_keeps | apply foldl_keeps)
    | split
    | dsimp only
    | with_reducible apply keeps_upd

theorem execFcvtFi_keeps {s : State} (h : s.keeps m q) : ∀ a0 a1 a2 a3, outKeeps m q (@execFcvtFi a0 a1 a2 a3 s) := by
  intro a0 a1 a2 a3
  unfold execFcvtFi
  repeat' first
    | (with_reducible first | assumption | intro _ | apply State.issueRow_keeps | apply onTile_keeps | apply act_keeps)
    | (with_reducible first | apply next_keeps | apply ite_outKeeps | apply ite_keeps | apply foldl_keeps)
    | split
    | dsimp only
    | with_reducible apply keeps_upd

theorem execFcvtIf_keeps {s : State} (h : s.keeps m q) : ∀ a0 a1 a2 a3, outKeeps m q (@execFcvtIf a0 a1 a2 a3 s) := by
  intro a0 a1 a2 a3
  unfold execFcvtIf
  repeat' first
    | (with_reducible first | assumption | intro _ | apply State.issueRow_keeps | apply onTile_keeps | apply act_keeps)
    | (with_reducible first | apply next_keeps | apply ite_outKeeps | apply ite_keeps | apply foldl_keeps)
    | split
    | dsimp only
    | with_reducible apply keeps_upd

theorem execFbits_keeps {s : State} (h : s.keeps m q) : ∀ a0 a1 a2 a3, outKeeps m q (@execFbits a0 a1 a2 a3 s) := by
  intro a0 a1 a2 a3
  unfold execFbits
  repeat' first
    | (with_reducible first | assumption | intro _ | apply State.issueRow_keeps | apply onTile_keeps | apply act_keeps)
    | (with_reducible first | apply next_keeps | apply ite_outKeeps | apply ite_keeps | apply foldl_keeps)
    | split
    | dsimp only
    | with_reducible apply keeps_upd

theorem execVintVv_keeps {s : State} (h : s.keeps m q) : ∀ a0 a1 a2 a3, outKeeps m q (@execVintVv a0 a1 a2 a3 s) := by
  intro a0 a1 a2 a3
  unfold execVintVv
  repeat' first
    | (with_reducible first | assumption | intro _ | apply State.issueRow_keeps | apply onTile_keeps | apply act_keeps)
    | (with_reducible first | apply next_keeps | apply ite_outKeeps | apply ite_keeps | apply foldl_keeps)
    | split
    | dsimp only
    | with_reducible apply keeps_upd

theorem execVintVx_keeps {s : State} (h : s.keeps m q) : ∀ a0 a1 a2 a3, outKeeps m q (@execVintVx a0 a1 a2 a3 s) := by
  intro a0 a1 a2 a3
  unfold execVintVx
  repeat' first
    | (with_reducible first | assumption | intro _ | apply State.issueRow_keeps | apply onTile_keeps | apply act_keeps)
    | (with_reducible first | apply next_keeps | apply ite_outKeeps | apply ite_keeps | apply foldl_keeps)
    | split
    | dsimp only
    | with_reducible apply keeps_upd

theorem execVmac_keeps {s : State} (h : s.keeps m q) : ∀ a0 a1 a2 a3, outKeeps m q (@execVmac a0 a1 a2 a3 s) := by
  intro a0 a1 a2 a3
  unfold execVmac
  repeat' first
    | (with_reducible first | assumption | intro _ | apply State.issueRow_keeps | apply onTile_keeps | apply act_keeps)
    | (with_reducible first | apply next_keeps | apply ite_outKeeps | apply ite_keeps | apply foldl_keeps)
    | split
    | dsimp only
    | with_reducible apply keeps_upd

theorem execVfpVv_keeps {s : State} (h : s.keeps m q) : ∀ a0 a1 a2 a3, outKeeps m q (@execVfpVv a0 a1 a2 a3 s) := by
  intro a0 a1 a2 a3
  unfold execVfpVv
  repeat' first
    | (with_reducible first | assumption | intro _ | apply State.issueRow_keeps | apply onTile_keeps | apply act_keeps)
    | (with_reducible first | apply next_keeps | apply ite_outKeeps | apply ite_keeps | apply foldl_keeps)
    | split
    | dsimp only
    | with_reducible apply keeps_upd

theorem execVfpVf_keeps {s : State} (h : s.keeps m q) : ∀ a0 a1 a2 a3, outKeeps m q (@execVfpVf a0 a1 a2 a3 s) := by
  intro a0 a1 a2 a3
  unfold execVfpVf
  repeat' first
    | (with_reducible first | assumption | intro _ | apply State.issueRow_keeps | apply onTile_keeps | apply act_keeps)
    | (with_reducible first | apply next_keeps | apply ite_outKeeps | apply ite_keeps | apply foldl_keeps)
    | split
    | dsimp only
    | with_reducible apply keeps_upd

theorem execVfma_keeps {s : State} (h : s.keeps m q) : ∀ a0 a1 a2 a3, outKeeps m q (@execVfma a0 a1 a2 a3 s) := by
  intro a0 a1 a2 a3
  unfold execVfma
  repeat' first
    | (with_reducible first | assumption | intro _ | apply State.issueRow_keeps | apply onTile_keeps | apply act_keeps)
    | (with_reducible first | apply next_keeps | apply ite_outKeeps | apply ite_keeps | apply foldl_keeps)
    | split
    | dsimp only
    | with_reducible apply keeps_upd

theorem execVfds_keeps {s : State} (h : s.keeps m q) : ∀ a0 a1 a2 a3, outKeeps m q (@execVfds a0 a1 a2 a3 s) := by
  intro a0 a1 a2 a3
  unfold execVfds
  repeat' first
    | (with_reducible first | assumption | intro _ | apply State.issueRow_keeps | apply onTile_keeps | apply act_keeps)
    | (with_reducible first | apply next_keeps | apply ite_outKeeps | apply ite_keeps | apply foldl_keeps)
    | split
    | dsimp only
    | with_reducible apply keeps_upd

theorem execVfcvt_keeps {s : State} (h : s.keeps m q) : ∀ a0 a1 a2 a3, outKeeps m q (@execVfcvt a0 a1 a2 a3 s) := by
  intro a0 a1 a2 a3
  unfold execVfcvt
  repeat' first
    | (with_reducible first | assumption | intro _ | apply State.issueRow_keeps | apply onTile_keeps | apply act_keeps)
    | (with_reducible first | apply next_keeps | apply ite_outKeeps | apply ite_keeps | apply foldl_keeps)
    | split
    | dsimp only
    | with_reducible apply keeps_upd

theorem execVfcmp_keeps {s : State} (h : s.keeps m q) : ∀ a0 a1 a2 a3, outKeeps m q (@execVfcmp a0 a1 a2 a3 s) := by
  intro a0 a1 a2 a3
  unfold execVfcmp
  repeat' first
    | (with_reducible first | assumption | intro _ | apply State.issueRow_keeps | apply onTile_keeps | apply act_keeps)
    | (with_reducible first | apply next_keeps | apply ite_outKeeps | apply ite_keeps | apply foldl_keeps)
    | split
    | dsimp only
    | with_reducible apply keeps_upd

theorem execVperm_keeps {s : State} (h : s.keeps m q) : ∀ a0 a1 a2 a3, outKeeps m q (@execVperm a0 a1 a2 a3 s) := by
  intro a0 a1 a2 a3
  unfold execVperm
  repeat' first
    | (with_reducible first | assumption | intro _ | apply State.issueRow_keeps | apply onTile_keeps | apply act_keeps)
    | (with_reducible first | apply next_keeps | apply ite_outKeeps | apply ite_keeps | apply foldl_keeps)
    | split
    | dsimp only
    | with_reducible apply keeps_upd

theorem execVred_keeps {s : State} (h : s.keeps m q) : ∀ a0 a1 a2 a3, outKeeps m q (@execVred a0 a1 a2 a3 s) := by
  intro a0 a1 a2 a3
  unfold execVred
  repeat' first
    | (with_reducible first | assumption | intro _ | apply State.issueRow_keeps | apply onTile_keeps | apply act_keeps)
    | (with_reducible first | apply next_keeps | apply ite_outKeeps | apply ite_keeps | apply foldl_keeps)
    | split
    | dsimp only
    | with_reducible apply keeps_upd

theorem execVfred_keeps {s : State} (h : s.keeps m q) : ∀ a0 a1 a2 a3, outKeeps m q (@execVfred a0 a1 a2 a3 s) := by
  intro a0 a1 a2 a3
  unfold execVfred
  repeat' first
    | (with_reducible first | assumption | intro _ | apply State.issueRow_keeps | apply onTile_keeps | apply act_keeps)
    | (with_reducible first | apply next_keeps | apply ite_outKeeps | apply ite_keeps | apply foldl_keeps)
    | split
    | dsimp only
    | with_reducible apply keeps_upd

end Sys2Proof.Machine
end

