-- ==== Sys2Proof/Tests/Slice0.lean ====
section
/-! SUPPORT. Tests: ill-formed commands that the checks refuse, the spec's worked examples, and for each statement with hypotheses concrete
states and operands that meet them. -/

namespace Sys2Proof.Tests

open Sys2Proof.Machine

set_option Elab.async false

/-! ### States to test on -/

/-- Whether an outcome is a next state that passes a check. -/
def nx (o : Host.Outcome State Fault Refusal) (p : State → Bool) : Bool := match o with | .next t => p t | _ => false

/-- Slot, opcode, function and fields of an operation. -/
abbrev Row := Nat × Nat × Nat × Op

/-- One row for each function. -/
def rows (sl opcode : Nat) (fs : List Nat) (d a b : Nat) : List Row :=
  fs.map fun f => (sl, opcode, f, ⟨0, BitVec.ofNat 6 d, BitVec.ofNat 6 a, BitVec.ofNat 6 b, BitVec.ofNat 4 f, none⟩)

/-- A carve of nine strides, exit at stride 4, that declares every register. -/
def carve0 : Stn := { Stn.empty with
  st := .issuing, addr := 0x1000, size := 128
  hdr := { Hdr.zero with nstr := 8, exitpos := 4, vec := true, ird := 2 ^ 32 - 1, iwr := 2 ^ 32 - 1, vrd := 2 ^ 32 - 1, vwr := 2 ^ 32 - 1 } }

/-- A core that runs that carve on track 0, oldest. -/
def core0 : Core := { Core.reset.setSta 0 carve0 with order := [0], t0 := some 0, running := true, fetch := { Core.reset.fetch with pc := some 0x1080 } }

/-- The device after reset with that core at stop 1. -/
def busy : State := State.reset.setCore 1 core0

/-- The same with the carve changed. -/
def busyX (f : Stn → Stn) : State := busy.modCore 1 fun c => c.modSta 0 f

/-- The same with a vector configuration of four elements. -/
def busyV (scode : Nat) : State := busy.modCore 1 fun c => { c with arch := { c.arch with cfg := ⟨4, scode, 0⟩ } }

/-- The same at its last stride, at a level, inside a handler. -/
def busyL (lvl : Nat) : State := (busyX fun x => { x with ptr := 8 }).modCore 1 fun c => { c with sr := { c.sr with lvl := lvl, depth := 1 } }

/-- The same with general register 4 written. -/
def busyG (v : Word) : State := busy.modCore 1 fun c => { c with arch := { c.arch with g := [(4, ⟨v, none⟩)] } }

/-- `atStride` for stop 1, track 0, station 0, as a computation. -/
def at0 (s : State) : Bool :=
  s.live && decide (s.canIssue 1 0 = some 0) &&
    !(((s.core 1).sta 0).annul && decide (((s.core 1).sta 0).hdr.exitpos < ((s.core 1).sta 0).ptr))

/-- `clearOps` there, as a computation. -/
def clrOps (s : State) (ops : List SlotOp) : Bool :=
  at0 s && decide (((s.landed 1 0).core 1).interlocked 0 ops = none) &&
    (!needsOldest ops || ((s.landed 1 0).core 1).isOldest 0) && decide ((s.landed 1 0).firstFault 1 0 ops ops = none)

/-- `clearAt` for a row. -/
def clr (s : State) (r : Row) : Bool := clrOps s (rowOps r.1 r.2.1 r.2.2.1 r.2.2.2)

theorem atStride_of {s : State} (h : at0 s = true) : s.atStride 1 0 0 := by
  simp only [at0, Bool.and_eq_true, Bool.not_eq_true', Bool.and_eq_false_iff, decide_eq_true_eq, decide_eq_false_iff_not] at h
  obtain ⟨⟨h1, h2⟩, h3⟩ := h
  exact ⟨h1, h2, fun h => h3.elim (fun e => by simp [e] at h) fun e => e h.2⟩

theorem clearOps_of {s : State} {ops : List SlotOp} (h : clrOps s ops = true) : s.clearOps 1 0 0 ops := by
  simp only [clrOps, Bool.and_eq_true, decide_eq_true_eq, Bool.or_eq_true, Bool.not_eq_true'] at h
  obtain ⟨⟨⟨h0, h4⟩, h5⟩, h6⟩ := h
  obtain ⟨h1, h2, h3⟩ := atStride_of h0
  exact ⟨h1, h2, h3, h4, fun hn => h5.elim (fun e => by rw [e] at hn; exact absurd hn (by decide)) id, h6⟩

theorem clear_all {s : State} {l : List Row} (h : l.all (clr s) = true) : ∀ r ∈ l, s.clearAt 1 0 r.1 r.2.1 r.2.2.1 r.2.2.2 0 :=
  fun r hr => clearOps_of (List.all_eq_true.mp h r hr)

/-- What the last pending result of the carve would write, as low 64 bits. -/
def lastRes (s : State) : Option Nat := ((((s.core 1).sta 0).pend.getLast?).bind fun p => p.res.head?).map fun r => r.val.toNat % 2 ^ 64

/-! ### Well-formedness -/

def wfOp : Op := ⟨0, 1, 2, 3, 0, none⟩
def wfCall0 : Call := ⟨some 0, 0, 0, 0, 1, [1]⟩
def flit0 : Flit :=
  { op := 1, cls := 0, src := 5, dst := 6, tag := 0, epoch := false, piste := 0, key := 0, spec := false, poison := 0, status := .ok,
    noalloc := false, pin := false, addr := 0x1000, be := 2 ^ 64 - 1, tkt := false, grant := false, cal := false, dlvc := false,
    route := 0, hop := 0, payload := 0 }

theorem test_wf_ok : ([Instr.alu 1 0 0 wfOp, .rdS 1 flit0, .ntmapWrite Who.isPatrol 0x100 0, .version wfCall0, .perstNRelease 15].all Instr.wf) = true := by
  decide
/-- A tile unit at an agent stop. -/
theorem test_wf_tile : (Instr.alu 0 0 0 wfOp).wfTile = false := by decide
/-- A flit of another operation. -/
theorem test_wf_flit : (Instr.rdO 1 flit0).wfFlit = false ∧ (Instr.rdS 1 { flit0 with addr := 2 ^ 60 }).wfFlit = false := by decide
/-- A register offset that is not aligned, and one past the page's registers. -/
theorem test_wf_offset : (Instr.ntmapWrite Who.isPatrol 0x104 0).wfOffset = false ∧ (Instr.ntmapWrite Who.isPatrol 0x800 0).wfOffset = false := by decide
/-- A call of seventeen words, and one with a number too long. -/
theorem test_wf_call : (Instr.version { wfCall0 with args := List.replicate 17 0 }).wfCall = false ∧
    (Instr.version { wfCall0 with seq := 2 ^ 16 }).wfCall = false := by decide
/-- Numbers past the units there are. -/
theorem test_wf_number : ([Instr.splitLatch 192, .perstNRelease 16, .laneSpare 0 0 3, .linkUp 0 0 7 4 false, .ksClear Who.isPatrol 256,
    .lecComplete Who.isPatrol 1 256].any Instr.number) = false := by decide

/-! ### The spec's worked examples -/

/-- The constant of chapter 04 and the words of chapters 05, 06, 07 and 10, as they are encoded. -/
theorem test_words : (OpW.toWord ⟨0, 0x28, 5, 0, 0x2F, 0⟩, OpW.toWord ⟨0, 0x29, 5, 5, 0x16, 7⟩, imxWord 0x226AF37, imxWord 0x48D1) =
      (0x0A0502F0, 0x0A451567, 0x9FA6AF37, 0x1F8048D1) ∧
    (OpW.toWord ⟨1, 0x3C, 0, 0, 0, 0⟩, OpW.toWord ⟨2, 0x3C, 63, 63, 63, 6⟩, OpW.toWord ⟨0, 0x3E, 0, 1, 0, 2⟩) = (0x2F000000, 0x4F3FFFF6, 0x0F800402) ∧
    (OpW.toWord ⟨0, 0x47, 1, 10, 0, 0⟩, OpW.toWord ⟨0, 0x4E, 4, 13, 0, 0⟩) = (0x11C12800, 0x13843400) ∧
    (OpW.toWord ⟨0, 0x2C, 13, 12, 0, 1⟩, OpW.toWord ⟨0, 0x64, 4, 1, 2, 0⟩) = (0x0B0D3001, 0x19040420) ∧
    (OpW.toWord ⟨0, 0x5C, 0, 7, 8, 4⟩, OpW.toWord ⟨0, 0x5C, 0, 0, 0, 3⟩) = (0x17001C84, 0x17000003) := by decide
/-- IMX and LI give the constant's low 36 bits with their sign; IMX and LIH put the rest above them. -/
theorem test_li : nx (exec (.li 1 0 1 ⟨0, 5, 0, 0x2F, 0, some 0x226AF37⟩) busy) (fun t => lastRes t == some 0xFFFFFFF89ABCDEF0) = true := by
  decide +kernel
theorem test_lih : nx (exec (.lih 1 0 1 ⟨0, 5, 4, 0x16, 7, some 0x48D1⟩) (busyG 0xFFFFFFF89ABCDEF0#64)) (fun t => lastRes t == some 0x123456789ABCDEF0) =
    true := by decide +kernel
/-- SETVL g13 ← g12 with F = 1: VL is 16, and 4 for the last elements. -/
theorem test_setvl : nx (exec (.setvl 1 0 1 ⟨0, 13, 4, 0, 1, none⟩) (busyG 100)) (fun t => lastRes t == some 16) = true ∧
    nx (exec (.setvl 1 0 1 ⟨0, 13, 4, 0, 1, none⟩) (busyG 4)) (fun t => lastRes t == some 4) = true := by decide +kernel
/-- The header of chapter 02's carve. -/
theorem test_header : let h := parseHdr (leBytes 0x44645 8 ++ List.replicate 16 0 ++ leBytes 0x43857 8 ++ List.replicate 32 0)
    (h.fmt, h.nstr, h.exitpos, h.delay, h.vec, h.pmap) = (5, 4, 3, 1, true, 0x43857) ∧ h.present = 9 ∧ h.bytes = 128 ∧ h.bad = false := by
  decide +kernel
/-- On a part whose die 0 spares sit at stops 7, 39, 71 and 87, LT5 is at stop 6 and LT6 at stop 16. -/
theorem test_tiles : let l := State.reset.dieStops 0 false; (l.length, l.take 7) = (40, [1, 2, 3, 4, 5, 6, 16]) ∧ State.reset.dieStops 0 true = [7, 39, 71, 87] := by
  decide +kernel

/-- The tables of chapter 10's walk. -/
def walkTable (leaf : Nat) (a _key : Nat) : TblRd :=
  .val (if a = 0x100007F0 then 0x10001001 else if a = 0x10001600 then 0x10002001 else if a = 0x10002000 then 0x10003001
    else if a = 0x10003088 then leaf else 0)
/-- Its core: at U, MODE 8, ROOT 0x10000, ASTAG 0x42. -/
def walkCore : Core := { Core.reset with sr := { Sr.reset with lvl := 0, sXlat := BitVec.ofNat 64 (8 * 2 ^ 60 + 0x42 * 2 ^ 40 + 0x10000) } }
/-- The store finds D clear and has 0x0010_0000_2345_60D7 written into the level-1 entry; with that entry it ends at its page, key 1. -/
theorem test_walk : (match walkAll State.reset 1 walkCore false (walkTable 0x0010000023456057) 0x7F3000011100 2 0 with
      | .setBits a old new key => (a, old, new, key) == (0x10003088, 0x0010000023456057, 0x00100000234560D7, 0) | _ => false) = true ∧
    (match walkAll State.reset 1 walkCore false (walkTable 0x00100000234560D7) 0x7F3000011100 2 0 with
      | .ent e _ => (e.ppn, e.ps, e.key, e.asTag) == (0x23456, 12, 1, 0x42) | _ => false) = true := by decide +kernel

/-- Chapter 09's preemption: claims of 40 and 2, completions of 2 and 40, and a stray one. -/
def lec9 : State :=
  ((((State.reset.modCore 1 fun c => { c with sr := { c.sr with lvl := 1, hIdeleg := 15 } }).set (pgLec 1) F.LEC_DELEG_DELEG 0 15).set
    (pgLec 1) F.LEC_PEND_PEND 0 (2 ^ 40)).set (pgLec 1) F.PAGE_OWNER_PLOCK 0 0).set (pgLec 1) F.LEC_MASK_MASK 0 0
def who1 : Who := ⟨false, 0, 1, 1⟩
def after (c : Instr) (s : State) : State := match exec c s with | .next t => t | _ => s
def lec9b : State := after (.lecClaim who1 1) lec9
def lec9c : State := after (.lecClaim who1 1) (lec9b.set (pgLec 1) F.LEC_PEND_PEND 0 4)
theorem test_lec_claim : lec9.lecPresent 1 = some (40, 1) ∧ lec9b.respValue = 256 + 40 ∧ (lec9b.lec 1).act = [(40, 1)] ∧ lec9b.lecPresent 1 = none := by
  decide +kernel
theorem test_lec_preempt : (lec9b.set (pgLec 1) F.LEC_PEND_PEND 0 4).lecPresent 1 = some (2, 1) ∧ (lec9c.lec 1).act = [(40, 1), (2, 1)] ∧
    (lec9c.set (pgLec 1) F.LEC_PEND_PEND 0 (2 ^ 33)).lecPresent 1 = none := by decide +kernel
theorem test_lec_complete : let t := after (.lecComplete who1 1 2) (lec9c.set (pgLec 1) F.LEC_PEND_PEND 0 (2 ^ 33))
    (t.lec 1).act = [(40, 1)] ∧ t.lecPresent 1 = none ∧ (after (.lecComplete who1 1 40) t).lecPresent 1 = some (33, 1) ∧
    (after (.lecComplete who1 1 40) (after (.lecComplete who1 1 40) t)).get (pgLec 1) F.LEC_STRAY_COUNT 0 = 1 := by decide +kernel

/-- Chapter 00's locked page: one write changes an RW field and not an RWL field, and LOCKED_WR is set; a write of the RWL field's
current value records nothing. -/
theorem test_locked : let s := State.reset.set (pgCore 1) F.PAGE_CTL_LOCK 0 1
    let t := s.fldsWrite Who.isPatrol (pgCore 1) 0x118 6
    let u := s.fldsWrite Who.isPatrol (pgCore 1) 0x118 2
    (t.flag (pgCore 1) F.CORE_TIME_CTL_CHECK_EN, t.flag (pgCore 1) F.CORE_TIME_CTL_GRM_REQ, t.flag (pgCore 1) F.PAGE_ERR_LOCKED_WR) = (true, false, true) ∧
    (u.flag (pgCore 1) F.CORE_TIME_CTL_CHECK_EN, u.flag (pgCore 1) F.PAGE_ERR_LOCKED_WR) = (true, false) := by decide +kernel

/-! ### Hypotheses met: operations of a stride -/

theorem witness_AluResult : ∀ r ∈ rows 0 0x00 (List.range 14) 8 4 4, busy.clearAt 1 0 r.1 r.2.1 r.2.2.1 r.2.2.2 0 := clear_all (by decide +kernel)
theorem witness_ShiftResult : ∀ r ∈ rows 0 0x01 (List.range 8) 8 4 4 ++ rows 1 0x01 (List.range' 8 8) 8 4 0,
    busy.clearAt 1 0 r.1 r.2.1 r.2.2.1 r.2.2.2 0 := clear_all (by decide +kernel)
theorem witness_MulDivResult : ∀ r ∈ rows 1 0x02 (List.range 5) 8 4 4 ++ rows 1 0x03 (List.range 8) 8 4 4,
    busy.clearAt 1 0 r.1 r.2.1 r.2.2.1 r.2.2.2 0 := clear_all (by decide +kernel)
/-- The greatest and least functions of the immediate forms, and each with an IMX before it. -/
theorem witness_ImmediateResult : ∀ r ∈ ([0x08, 0x09, 0x0A, 0x0B].flatMap fun o => rows 0 o [0, 15] 8 4 63) ++
    ([0x0C, 0x0D, 0x0E, 0x0F].flatMap fun o => rows 1 o [0, 15] 8 4 3) ++ ([0x28, 0x2A].flatMap fun o => rows 0 o [0, 15] 8 0 63) ++
    rows 1 0x29 [0, 15] 8 4 63 ++ [(1, 0x08, 3, ⟨0, 8, 4, 5, 3, some 0x3FFFFFF⟩), (1, 0x28, 0, ⟨0, 8, 0, 5, 0, some 1⟩)],
    busy.clearAt 1 0 r.1 r.2.1 r.2.2.1 r.2.2.2 0 := clear_all (by decide +kernel)
theorem witness_CompareResult : ∀ r ∈ rows 0 0x20 (List.range 8) 1 4 4 ++ ([0x21, 0x22, 0x23, 0x24, 0x25, 0x26].flatMap fun o => rows 0 o [0, 15] 1 4 63) ++
    rows 0 0x27 (List.range 5) 1 4 4 ++ rows 0 0x27 [5, 6] 1 4 0 ++ rows 0 0x27 [7] 8 0 0 ++ rows 0 0x27 [8] 1 4 0,
    busy.clearAt 1 0 r.1 r.2.1 r.2.2.1 r.2.2.2 0 := clear_all (by decide +kernel)
theorem witness_ScalarFpResult : ∀ r ∈ [0x60, 0x61, 0x62, 0x63].flatMap fun o => rows 3 o (List.range 9) 8 4 4 ++ rows 3 o [9, 10, 11] 8 0 0,
    busy.clearAt 1 0 r.1 r.2.1 r.2.2.1 r.2.2.2 0 := clear_all (by decide +kernel)
theorem witness_FpMoveResult : ∀ r ∈ rows 3 0x64 (List.range 16) 8 4 4 ++ rows 3 0x65 (List.range 16) 8 4 4 ++
    rows 3 0x66 [1, 2, 3, 4, 6, 7, 8, 9, 11, 12, 13, 14] 8 0 0 ++ rows 3 0x67 (List.range 16) 8 0 0 ++ rows 3 0x68 (List.range 16) 8 0 0 ++
    rows 3 0x69 [0, 1] 8 0 0, busy.clearAt 1 0 r.1 r.2.1 r.2.2.1 r.2.2.2 0 := clear_all (by decide +kernel)
/-- With VL 0 and with VL 4, for the widest element. -/
theorem witness_VectorIntResult : ∀ s ∈ [busy, busyV 3], ∀ r ∈ rows 3 0x6A (List.range 16) 8 4 4 ++ rows 3 0x6B (List.range 15) 8 4 4 ++ rows 3 0x6C [0, 1] 8 4 4,
    s.clearAt 1 0 r.1 r.2.1 r.2.2.1 r.2.2.2 0 := by
  intro s hs; simp only [List.mem_cons, List.not_mem_nil, or_false] at hs
  rcases hs with rfl | rfl <;> exact clear_all (by decide +kernel)
/-- FP16 and BF16 at 16 bits, FP32 at 32, FP64 at 64. -/
def vfpRows : List Row := ([0x6D, 0x6E, 0x6F, 0x72].flatMap fun o => rows 3 o (List.range 8) 8 4 4) ++ rows 3 0x70 [0, 1] 8 4 4 ++ rows 3 0x70 [2] 8 4 0 ++
  rows 3 0x71 (List.range 5) 8 4 0
theorem witness_VectorFpResult : vfpFmt ⟨4, 3, 0⟩ 0 = some 0 ∧ vfpFmt ⟨4, 2, 0⟩ 0 = some 1 ∧ vfpFmt ⟨4, 1, 0⟩ 0 = some 2 ∧ vfpFmt ⟨4, 1, 0⟩ 8 = some 3 ∧
    (∀ r ∈ vfpRows, (busyV 3).clearAt 1 0 r.1 r.2.1 r.2.2.1 r.2.2.2 0) ∧ (∀ r ∈ vfpRows, (busyV 2).clearAt 1 0 r.1 r.2.1 r.2.2.1 r.2.2.2 0) ∧
    ∀ r ∈ vfpRows ++ ([0x6D, 0x6E, 0x6F, 0x72].flatMap fun o => rows 3 o (List.range' 8 8) 8 4 4) ++ rows 3 0x71 [5, 8, 13] 8 4 0,
      (busyV 1).clearAt 1 0 r.1 r.2.1 r.2.2.1 r.2.2.2 0 :=
  ⟨by decide, by decide, by decide, by decide, clear_all (by decide +kernel), clear_all (by decide +kernel), clear_all (by decide +kernel)⟩
theorem witness_PermuteReduceResult : ∀ r ∈ rows 3 0x73 (List.range 7) 8 4 4 ++ rows 3 0x73 [7] 8 4 0 ++ rows 3 0x73 [8, 9] 8 0 1 ++ rows 3 0x73 [10] 8 4 4 ++
    rows 3 0x74 (List.range 8) 8 4 4 ++ rows 3 0x75 (List.range 4) 8 4 4, (busyV 3).clearAt 1 0 r.1 r.2.1 r.2.2.1 r.2.2.2 0 := clear_all (by decide +kernel)
theorem witness_SystemResult : ∀ r ∈ rows 1 0x2C (List.range 12) 8 4 0 ++ rows 1 0x2D [0, 2] 8 0 0 ++ rows 1 0x2D [1] 0 4 0 ++ rows 1 0x30 [0, 1] 8 0 0 ++
    rows 1 0x32 [1] 8 4 0 ++ rows 1 0x33 [1] 8 4 0 ++ rows 1 0x32 [0] 8 4 16 ++ rows 1 0x39 [0, 3, 8, 15] 8 0 0 ++ rows 1 0x3A [0] 8 0 0,
    busy.clearAt 1 0 r.1 r.2.1 r.2.2.1 r.2.2.2 0 := clear_all (by decide +kernel)
/-- At H, in a handler whose frame is locked to H. -/
def busyH : State := (busyL 2).putFrame 1 0 0 2 0x21 0 0 true
theorem witness_CommitEffectsIssue :
    (∀ r ∈ rows 1 0x31 [1] 0 4 0 ++ rows 1 0x2D [3] 0 4 0 ++ rows 1 0x34 (List.range 6) 0 0 0 ++ rows 1 0x35 [0] 0 0 0 ++ rows 2 0x5C [0, 4, 8, 12] 0 4 4 ++
      rows 2 0x5C [1, 5, 2, 6, 9, 13, 10, 14] 0 0 0, busy.clearAt 1 0 r.1 r.2.1 r.2.2.1 r.2.2.2 0) ∧
    (∀ r ∈ [((1, 0x31, 1, ⟨1, 0, 4, 0, 1, none⟩) : Row), (2, 0x5C, 0, ⟨1, 0, 4, 4, 0, none⟩)], busy.clearAt 1 0 r.1 r.2.1 r.2.2.1 r.2.2.2 0 ∧ busy.opOn 1 0 r.2.2.2 = false) ∧
    (busyL 0).clearAt 1 0 1 0x36 0 ⟨0, 0, 0, 0, 0, none⟩ 0 ∧ (busyL 1).clearAt 1 0 1 0x36 1 ⟨0, 0, 0, 0, 1, none⟩ 0 ∧
    (busyL 1).clearAt 1 0 1 0x37 0 ⟨0, 0, 0, 0, 0, none⟩ 0 ∧ busyH.clearAt 1 0 1 0x37 1 ⟨0, 0, 0, 0, 1, none⟩ 0 := by
  refine ⟨clear_all (by decide +kernel), fun r hr => ⟨clear_all (l := [(1, 0x31, 1, ⟨1, 0, 4, 0, 1, none⟩), (2, 0x5C, 0, ⟨1, 0, 4, 4, 0, none⟩)])
    (by decide +kernel) r hr, ?_⟩, clearOps_of (by decide +kernel), clearOps_of (by decide +kernel), clearOps_of (by decide +kernel), clearOps_of (by decide +kernel)⟩
  revert r; decide +kernel

def busyEvt : State := (busy.set (pgLec 1) F.LEC_PEND_PEND 0 (2 ^ 40)).set (pgLec 1) F.LEC_MASK_MASK 0 0
def busyWc : State := busy.modCore 1 fun c => { c with wc := [⟨64, [], 0⟩] }
theorem witness_WaitsAndTraps :
    (∀ s ∈ [busy, busyEvt], s.clearAt 1 0 1 0x38 0 ⟨0, 0, 0, 0, 0, none⟩ 0) ∧ busy.lecPresent 1 = none ∧ (busyEvt.lecPresent 1).isSome = true ∧
    (∀ s ∈ [busy, busyWc], s.clearAt 1 0 2 0x5C 3 ⟨0, 0, 0, 0, 3, none⟩ 0) ∧ (busy.opCore 1 0).wc = [] ∧ (busyWc.opCore 1 0).wc ≠ [] ∧
    (busy.opCore 1 0).xinvOut = [] ∧ (busy.opCore 1 0).sq.all (fun e => e.stn.isSome) = true ∧ busy.opOn 1 0 ⟨0, 0, 0, 0, 3, none⟩ = true ∧
    (∀ r ∈ [((1, 0x38, 0, ⟨1, 0, 0, 0, 0, none⟩) : Row), (2, 0x5C, 3, ⟨1, 0, 0, 0, 3, none⟩), (1, 0x36, 2, ⟨1, 0, 0, 0, 2, none⟩), (1, 0x36, 3, ⟨1, 0, 0, 0, 3, none⟩)],
      busy.clearAt 1 0 r.1 r.2.1 r.2.2.1 r.2.2.2 0 ∧ busy.opOn 1 0 r.2.2.2 = false) ∧
    (∀ f ∈ [2, 3], (busy.opCore 1 0).interlocked 0 (rowOps 1 0x36 f ⟨0, 0, 0, 0, 0, none⟩) = none) ∧ busy.atStride 1 0 0 := by
  refine ⟨?_, by decide +kernel, by decide +kernel, ?_, by decide +kernel, by decide +kernel, by decide +kernel, by decide +kernel, by decide +kernel,
    fun r hr => ⟨clear_all (l := [(1, 0x38, 0, ⟨1, 0, 0, 0, 0, none⟩), (2, 0x5C, 3, ⟨1, 0, 0, 0, 3, none⟩), (1, 0x36, 2, ⟨1, 0, 0, 0, 2, none⟩),
      (1, 0x36, 3, ⟨1, 0, 0, 0, 3, none⟩)]) (by decide +kernel) r hr, ?_⟩, by decide +kernel, atStride_of (by decide +kernel)⟩
  · intro s hs; simp only [List.mem_cons, List.not_mem_nil, or_false] at hs
    rcases hs with rfl | rfl <;> exact clearOps_of (by decide +kernel)
  · intro s hs; simp only [List.mem_cons, List.not_mem_nil, or_false] at hs
    rcases hs with rfl | rfl <;> exact clearOps_of (by decide +kernel)
  · revert r; decide +kernel

def busyExit : State := busyX fun x => { x with ptr := 4, predNext := some 0x1080 }
theorem witness_ExitIssues : ((busyExit.core 1).sta 0).ptr = ((busyExit.core 1).sta 0).hdr.exitpos ∧ ((busyExit.core 1).sta 0).exit = .pending ∧
    ∀ r ∈ [((0, 0x3C, 15, ⟨0, 63, 63, 63, 15, none⟩) : Row), (0, 0x3D, 1, ⟨0, 0, 0, 0, 1, none⟩), (0, 0x3C, 1, ⟨1, 32, 0, 0, 1, none⟩),
      (0, 0x3E, 0, ⟨0, 32, 4, 0, 0, none⟩), (0, 0x3E, 1, ⟨0, 0, 4, 0, 1, none⟩), (0, 0x3E, 2, ⟨0, 0, 1, 0, 2, none⟩)],
      busyExit.clearAt 1 0 r.1 r.2.1 r.2.2.1 r.2.2.2 0 :=
  ⟨by decide +kernel, by decide +kernel, clear_all (by decide +kernel)⟩
/-- A right prediction of the fall-through address, and a wrong one of a taken exit. -/
theorem witness_ExitResolves : let c := busyExit.core 1
    (c.youngerThan 0).contains 0 = false ∧ (c.sta 0).predNext = some (((c.sta 0).addr + (c.sta 0).size) % 2 ^ 64) ∧
    ((busyExit.resolveExit 1 0 false 0 false false true).core 1).fetch = c.fetch ∧
    ((busyExit.resolveExit 1 0 true 0x4000 false false true).core 1).fetch.pc = some 0x4000 := by decide +kernel

def immCarve (pmap : Nat) (ops : List Nat) : State := busyX fun x => { x with hdr := { x.hdr with pmap := pmap }, ops := ops }
def addi5 : Nat := OpW.toWord ⟨0, 0x08, 8, 4, 1, 5⟩
theorem witness_ImxExtends :
    (let s := immCarve 3 [imxWord 0x226AF37, addi5]; let x := (s.core 1).sta 0
     (x.strideWords x.ptr).filter (fun e => 0 < e.1) = [(1, addi5)] ∧ isImx addi5 = false ∧ (OpW.ofWord addi5).o = 0x08 ∧ addi5 < 2 ^ 32 ∧
     clrOps s (pairOps none [(0, imxWord 0x226AF37), (1, addi5)]) = true) ∧
    (let s := immCarve 1 [imxWord 0x226AF37]; let x := (s.core 1).sta 0
     (x.strideWords x.ptr).filter (fun e => 0 < e.1) = [] ∧ at0 s = true ∧
     nx (exec (.imx 1 0 0 ⟨0, 0, 0, 0, 0, some 0x226AF37⟩) s) (fun t => ((t.core 1).sta 0).flt.any fun f => f.cause == 1) = true) := by decide +kernel
theorem witness_PrivilegeFaultOfStatusRegister : let s := busyL 0
    at0 s = true ∧ (s.opCore 1 0).isOldest 0 = true ∧ s.opOn 1 0 ⟨0, 8, 0, 16, 0, none⟩ = true ∧ (s.opCore 1 0).sr.lvl = 0 ∧
    ([(0x30, (⟨0, 8, 0, 16, 0, none⟩ : Op)), (0x31, ⟨0, 0, 4, 16, 0, none⟩), (0x32, ⟨0, 8, 4, 33, 0, none⟩), (0x33, ⟨0, 8, 4, 33, 0, none⟩)].all fun r =>
      (s.opCore 1 0).interlocked 0 (rowOps 1 r.1 r.2.f.toNat r.2) == none) = true ∧
    nx (exec (.srw 1 0 1 ⟨0, 0, 4, 16, 0, none⟩) s) (fun t => ((t.core 1).sta 0).flt.any fun f => f.cause == 2) = true := by decide +kernel

/-! ### Hypotheses met: memory operations, the stride's flow -/

/-- The running core with an address in g4 and a vector configuration; LT0 is its tile and its pad is enabled. -/
def mem0 (cfg : Vcfg) (a : Word) : State :=
  ((((busy.modCore 1 fun c => { c with arch := { c.arch with g := [(4, ⟨a, none⟩), (5, ⟨8, none⟩)], cfg := cfg } }).set
    pgTmap F.TMAP_ENT_VALID 0 1).set pgTmap F.TMAP_ENT_STOP 0 1).set (pgPad 1) F.PAGE_STAT_ENABLED 0 1).set (pgL2 1) F.PAGE_STAT_ENABLED 0 1

/-- The parts of a row's access where nothing holds it. -/
def goParts (s : State) (r : Row) : List XPart :=
  match (s.landed 1 0).memStep 1 0 (rowOp r.1 r.2.1 r.2.2.1 r.2.2.2) (((s.landed 1 0).core 1).operands 0 (rowX r.2.1 r.2.2.1 r.2.2.2)) with
  | .go ps => ps
  | _ => []

/-- The row is clear, its guard true, and its access has parts. -/
def memClr (s : State) (r : Row) : Bool := clr s r && ((s.landed 1 0).core 1).rdP 0 r.2.2.2.p.toNat && !(goParts s r).isEmpty

theorem memClear_all {s : State} {l : List Row} (h : l.all (memClr s) = true) :
    ∀ r ∈ l, ∃ ps, ps ≠ [] ∧ s.opOn 1 0 r.2.2.2 = true ∧ s.memClear 1 0 r.1 r.2.1 r.2.2.1 r.2.2.2 0 ps := by
  intro r hr
  have h := List.all_eq_true.mp h r hr
  simp only [memClr, Bool.and_eq_true, Bool.not_eq_true', List.isEmpty_eq_false_iff] at h
  obtain ⟨⟨h1, h2⟩, h3⟩ := h
  refine ⟨goParts s r, h3, h2, clearOps_of h1, fun _ => ?_, fun e => by rw [h2] at e; exact absurd e (by decide)⟩
  revert h3
  unfold goParts
  split
  · intro _; assumption
  · intro h; exact absurd rfl h

/-- Loads and atomics: every scalar opcode, an access across a line, an indexed FP load, a wide CAS, vector loads. -/
theorem witness_LoadIssues : (∀ r ∈ ([0x40, 0x41, 0x42, 0x43, 0x44, 0x45, 0x46, 0x47, 0x48, 0x49].flatMap fun o => rows 2 o [0, 13] 8 4 0) ++
      rows 2 0x51 [0, 5, 8, 10] 8 4 5 ++ rows 2 0x53 [0, 6] 8 4 0 ++ ([0x55, 0x56, 0x57, 0x58].flatMap fun o => rows 2 o [0, 8] 8 4 5) ++
      rows 2 0x59 [0, 6] 8 4 5 ++ rows 2 0x59 [1, 7] 8 4 6, ∃ ps, ps ≠ [] ∧ (mem0 ⟨0, 0, 0⟩ 0x1000).opOn 1 0 r.2.2.2 = true ∧
        (mem0 ⟨0, 0, 0⟩ 0x1000).memClear 1 0 r.1 r.2.1 r.2.2.1 r.2.2.2 0 ps) ∧
    (∀ r ∈ rows 2 0x5D [0, 8] 8 4 0 ++ rows 2 0x5F [0] 8 4 5 ++ rows 2 0x5F [2] 8 4 6, ∃ ps, ps ≠ [] ∧ (mem0 ⟨5, 3, 1⟩ 0x1038).opOn 1 0 r.2.2.2 = true ∧
        (mem0 ⟨5, 3, 1⟩ 0x1038).memClear 1 0 r.1 r.2.1 r.2.2.1 r.2.2.2 0 ps) :=
  ⟨memClear_all (by decide +kernel), memClear_all (by decide +kernel)⟩
theorem witness_StoreIssues : (∀ r ∈ ([0x4A, 0x4B, 0x4C, 0x4D, 0x4E, 0x4F, 0x50].flatMap fun o => rows 2 o [0, 13] 5 4 0) ++ rows 2 0x52 [0, 6, 8, 10] 6 4 5 ++
      rows 2 0x54 [0, 6] 6 4 0 ++ rows 2 0x5B [0, 1, 2, 3, 4, 5, 6] 0 4 0 ++ rows 2 0x5A [0] 0 4 0, ∃ ps, ps ≠ [] ∧
        (mem0 ⟨0, 0, 0⟩ 0x1000).opOn 1 0 r.2.2.2 = true ∧ (mem0 ⟨0, 0, 0⟩ 0x1000).memClear 1 0 r.1 r.2.1 r.2.2.1 r.2.2.2 0 ps) ∧
    (∀ r ∈ rows 2 0x5E [0, 8] 8 4 0 ++ rows 2 0x5F [1] 8 4 5 ++ rows 2 0x5F [3] 8 4 6, ∃ ps, ps ≠ [] ∧ (mem0 ⟨5, 3, 1⟩ 0x1038).opOn 1 0 r.2.2.2 = true ∧
        (mem0 ⟨5, 3, 1⟩ 0x1038).memClear 1 0 r.1 r.2.1 r.2.2.1 r.2.2.2 0 ps) :=
  ⟨memClear_all (by decide +kernel), memClear_all (by decide +kernel)⟩
theorem witness_AtomicWaitsInQueue : ((goParts (mem0 ⟨0, 0, 0⟩ 0x4000000000) (2, 0x55, 0, ⟨0, 8, 4, 5, 0, none⟩)).head?.map fun p => (p.pa, p.ty)) =
    some (0x4000000000, 5) ∧ isAtomOp 0x55 = true ∧ isAtomOp 0x59 = true := by decide +kernel

/-- A load-queue entry for eight bytes at 0x1000, and the core whose carve waits for it. -/
def lq0 (op f len : Nat) : Lq :=
  { id := 7, stn := 0, stride := 0, tag := 0, va := 0x1000, size := len, atype := 0, pieces := [⟨0x1000, 0x1000, 0, len⟩], got := [], st := .waiting,
    spec := false, acquire := false, release := false, op := op, f := f, d := 8, cmp := 0, src := 0, cfg := ⟨0, 0, 0⟩, vstart := 0, bad := [],
    key := 0, vector := false, part := false, ents := 1, fwd := none, time := 0 }
def coreLq (e : Lq) : Core :=
  { core0.modSta 0 fun x => { x with pend := [⟨0, [], 0, 2, none, true, false, 0, [iDest 8]⟩], nextTag := 1 } with lq := [e] }
theorem witness_LoadValue : ([(0x40, 0), (0x45, 0), (0x46, 0), (0x48, 0), (0x49, 0), (0x51, 3), (0x53, 2)].all fun r =>
      let e := lq0 r.1 r.2 (kindBytes (kindOf r.1 r.2))
      let c := coreLq e
      isLoadOp e.op e.f && c.lq.find? (fun e => e.id = 7) == some e && (c.ownStores e).isEmpty &&
        ((c.sta e.stn).pend.filter fun q => q.tag = e.tag).length == 1) = true ∧
    (((coreLq (lq0 0x40 0 1)).lqGive 7 0 [0x80#8] none).sta 0).pend.head?.map (fun q => (q.ready, (q.res.head?.map fun r => r.val.toNat))) =
      some (true, some 0xFFFFFFFFFFFFFF80) := by decide +kernel
theorem witness_StoreQueueEntry : ([(0x4A, 0), (0x4D, 0), (0x4F, 0), (0x52, 2), (0x54, 4)].all fun r =>
      let s := mem0 ⟨0, 0, 0⟩ 0x1000
      match goParts s (2, r.1, r.2, ⟨0, 6, 4, if r.1 = 0x52 then 5 else 0, BitVec.ofNat 4 r.2, none⟩) with
      | [p] => isStoreOp r.1 r.2 && p.part.off == 0 && p.part.len == kindBytes (kindOf r.1 r.2) && (s.core 1).lq.isEmpty
      | _ => false) = true := by decide +kernel

/-- A carve with one result due at stride 1, one due at stride 3, and one interlocked. -/
def carveP : Stn := { carve0 with
  ptr := 1
  pend := [⟨0, [⟨.g 8, 5, none, none, none, none⟩], 0, 0, some 1, true, false, 0, [.g 8]⟩, ⟨1, [⟨.g 9, 6, none, none, none, none⟩], 0, 1, some 3, true, false, 0, [.g 9]⟩,
    ⟨2, [⟨.g 10, 7, none, none, none, none⟩], 0, 2, none, true, true, 0, [.g 10]⟩], nextTag := 3 }
theorem witness_ResultsLandAtTheirStride : ((carveP.release 1).pend.map fun p => p.tag) = [1, 2] ∧ tfind (carveP.release 1).gw 8 = some ⟨5, none⟩ ∧
    tfind (carveP.release 1).gw 9 = none := by decide +kernel
theorem witness_PointerAdvances : ((busy.core 1).sta 0).ptr < ((busy.core 1).sta 0).hdr.nstr ∧
    (let s := busyX fun x => { x with ptr := 8, exit := .fell }; let x := (s.core 1).sta 0
     x.hdr.nstr ≤ x.ptr ∧ x.exit ≠ .pending ∧ x.flt = none ∧ (((s.advance 1 0).core 1).sta 0).st = .closed) := by decide +kernel
theorem witness_StrideFrame : nx (exec (.alu 1 0 0 ⟨0, 8, 4, 4, 0, none⟩) busy) (fun t => ((t.core 1).sta 0).pend.length == 1) = true ∧
    nx (exec (.stD 1 0 2 ⟨0, 6, 4, 0, 0, none⟩) (mem0 ⟨0, 0, 0⟩ 0x1000)) (fun t => (t.core 1).sq.length == 1) = true := by decide +kernel

/-- The bytes of a carve of one stride with one operation. -/
def carveBytes : List Byte := leBytes (5 + 2 ^ 18) 8 ++ List.replicate 16 0 ++ leBytes 1 8 ++ List.replicate 32 0
def carveBody : List Byte := leBytes (OpW.toWord ⟨0, 0x08, 8, 4, 1, 5⟩) 4 ++ List.replicate 60 0
/-- A core ready to fetch from its own pad, where a carve stands. -/
def fetcher : State :=
  let s := (mem0 ⟨0, 0, 0⟩ 0).modCore 1 fun c => { Core.reset with running := true, fetch := { c.fetch with pc := some 0x4000004000 } }
  (s.padWr 1 0x4000 (carveBytes ++ carveBody))
def fetchRink : State := (fetcher.modCore 1 fun c => { c with rink := { c.rink with cap := [⟨0x4000004000, 0x4000004080, parseHdr carveBytes, [0], 128, false, []⟩] } }).set
  (pgCore 1) F.CORE_FLOW_CTL_RINK_EN 0 1
theorem witness_CarveFetched : let c := fetcher.core 1
    c.stopped = false ∧ c.running = true ∧ fetcher.sys.pstopped.contains (fetcher.tilePiste 1) = false ∧ c.fetch.buf = none ∧ c.fetch.resume = none ∧
    c.groomed = false ∧ c.fetch.pc = some 0x4000004000 ∧ c.rink.cap = [] ∧ (parseHdr carveBytes).bad = false ∧
    (match fetcher.fetchLines 1 0x4000004000 1 with | (s1, .ok hb _) => hb == carveBytes &&
        (match s1.fetchLines 1 0x4000004040 1 with | (_, .ok b _) => b == carveBody | _ => false) | _ => false) = true ∧
    nx (exec (.carveFetch 1) fetcher) (fun t => (t.core 1).fetch.buf.isSome) = true ∧
    (let r := fetchRink.core 1; r.rink.cap[r.rink.pos]?.map (fun x => x.addr) = r.fetch.pc ∧
      fetchRink.flag (pgCore 1) F.CORE_FLOW_CTL_RINK_EN = true ∧ nx (exec (.carveFetch 1) fetchRink) (fun t => (t.core 1).rink.streaming) = true) := by decide +kernel

/-- A core with a fetched carve, and one whose registers are all in use. -/
def renamer (used : Bool) : State := fetcher.modCore 1 fun c => { c with
  fetch := { c.fetch with buf := some (0x4000004000, { parseHdr carveBytes with iwr := 256 }, [addi5], 128, none) }
  order := if used then List.range 16 else []
  stn := if used then (List.range 16).map fun j => (j, { carve0 with hdr := { carve0.hdr with vrd := 0, vwr := 0 } }) else [] }
/-- A groomed core with a READY carve in station 3. -/
def dispatcher : State := (mem0 ⟨0, 0, 0⟩ 0).modCore 1 fun _ =>
  { Core.reset.setSta 3 { carve0 with st := .ready } with order := [3], running := true, groomed := true }
theorem witness_RenameAndDispatch :
    (let c := (renamer false).core 1
     c.fetch.resume = none ∧ (List.range 16).find? (fun j => !c.order.contains j) = some 0 ∧ c.iregUsed ≤ 288 ∧ c.vregUsed = 0 ∧ c.cfgUsed ≤ 6 ∧
       nx (exec (.rename 1) (renamer false)) (fun t => (t.core 1).order == [0]) = true) ∧
    (let c := (renamer true).core 1; 289 < c.iregUsed + 1 ∧ nx (exec (.rename 1) (renamer true)) (fun t => decide ((t.core 1).order.length = 16)) = true) ∧
    (let c := dispatcher.core 1
     c.running = true ∧ c.stopped = false ∧ c.t0 = none ∧ c.groomed = true ∧ c.order.find? (fun j => (c.sta j).st = .ready || (c.sta j).st = .resumable) = some 3) := by
  decide +kernel

/-- One ALU operation in the carve's own stride; a suppressed delay stride; an interlocked result that is known. -/
def busyOp : State := immCarve 1 [OpW.toWord ⟨0, 0x00, 8, 4, 4, 0⟩]
def busyAnnul : State := busyX fun x => { x with annul := true, ptr := 6, exit := .fell }
def busyPend : State := busyX fun x => { x with pend := [⟨2, [⟨.g 10, 7, none, none, none, none⟩], 0, 2, none, true, true, 0, [.g 10]⟩], nextTag := 3 }
theorem witness_StrideAndLanding :
    (let x := (busyOp.core 1).sta 0
     x.exit = .pending ∧ clrOps busyOp (pairOps none (x.strideWords x.ptr)) = true ∧ (pairOps none (x.strideWords x.ptr)).length = 1 ∧
       nx (exec (.strideIssue 1 0) busyOp) (fun t => ((t.core 1).sta 0).pend.length == 1) = true) ∧
    (busyAnnul.live = true ∧ busyAnnul.canIssue 1 0 = some 0 ∧ ((busyAnnul.core 1).sta 0).annul = true ∧
      ((busyAnnul.core 1).sta 0).hdr.exitpos < ((busyAnnul.core 1).sta 0).ptr) ∧
    (((busyPend.core 1).sta 0).pend.map fun p => (p.tag, p.lat, p.ready, p.on)) = [(2, none, true, true)] ∧
    nx (exec (.resultLand 1 0 2) busyPend) (fun t => tfind ((t.core 1).sta 0).gw 10 == some ⟨7, none⟩) = true := by decide +kernel

/-- A stalled carve on track 0 with a READY one behind it; an oldest carve that wants load-queue entries a younger one holds. -/
def stalled2 : State := (busy.modCore 1 fun c => { (c.modSta 0 fun x => { x with st := .stalled, ilock := true, stall := 300 }).setSta 3
  { carve0 with st := .ready, addr := 0x1080 } with order := [0, 3] }).set (pgCore 1) F.CORE_CARVE_CTL_LODGE_EN 0 1
def lqFull : State := (immCarve 4 [OpW.toWord ⟨0, 0x46, 8, 4, 0, 0⟩]).modCore 1 fun c =>
  { (c.modSta 0 fun x => { x with st := .stalled }).setSta 3 { carve0 with addr := 0x1080 } with
    order := [0, 3], lq := List.replicate 256 { lq0 0x46 0 8 with stn := 3 } }
theorem witness_LodgeAndQueueSquash :
    (let c := stalled2.core 1; let x := c.sta 0
     c.onTrack 0 = some 0 ∧ x.st = .stalled ∧ x.ilock = true ∧ c.groomed = false ∧ c.running = true ∧
       max 4 (stalled2.get (pgCore 1) F.CORE_CARVE_CTL_LODGE_THRESH 0) < x.stall ∧ stalled2.flag (pgCore 1) F.CORE_CARVE_CTL_LODGE_EN = true ∧
       c.order.any (fun j => j ≠ 0 && ((c.sta j).st = .ready || (c.sta j).st = .resumable)) = true ∧
       nx (exec (.lodge 1 0) stalled2) (fun t => (t.core 1).t0 == none) = true) ∧
    (let c := lqFull.core 1; let x := c.sta 0; let ops := pairOps none (x.strideWords x.ptr)
     c.order.head? = some 0 ∧ x.st = .stalled ∧ c.interlocked 0 ops = none ∧
       (match ops.find? (fun o => !isImx o.word && ((0x40 ≤ o.x.o && o.x.o ≤ 0x5B) || isVmemOp o.x.o)) with
        | some o => let n := memEntries o (c.operands 0 o.x) x.vstart
          decide (0 < n.1) && !c.lqRoom 0 n.1
        | none => false) = true ∧ c.lq.any (fun e => e.stn ≠ 0) = true ∧ (c.youngerThan 0).contains 0 = false ∧
       nx (exec (.oldestQueueSquash 1) lqFull) (fun t => (t.core 1).order == [0] && (t.core 1).lq.isEmpty && (t.core 1).fetch.pc == some 0x1080) = true) := by
  decide +kernel

/-! ### Commits, traps and interrupts -/

/-- A core whose oldest carve is closed with actions, at a level and depth, with trap frames in its pad. -/
def closing (acts : List CAct) (lvl depth : Nat) : State := (mem0 ⟨0, 0, 0⟩ 0x77).modCore 1 fun c =>
  { (c.modSta 0 fun x => { x with st := .closed, acts := acts, exit := .fell, gw := [(7, ⟨9, none⟩)] }).setSta 3 { carve0 with addr := 0x1080 } with
    order := [0, 3], sr := { c.sr with lvl := lvl, depth := depth } }
theorem witness_CarveCommits :
    (∀ a ∈ [([] : List CAct), [.sr 0 0x100 5], [.sr 1 0x001 5], [.sr 2 0x210 7], [.syncC], [.fence 0], [.fence 5]], let s := closing a 2 0; let c := s.core 1; let x := c.sta 0
      s.live = true ∧ c.order = [0, 3] ∧ x.st = .closed ∧ c.stopped = false ∧ x.hasDevS = false ∧ c.pctl = PendCtl.none ∧ s.returnBad 1 x = none ∧
      s.padBusy 1 = false ∧ x.acts = a ∧ x.acts.any (fun a => match a with | .xinv .. => true | _ => false) = false) ∧
    ((closing [] 2 0).core 1).loadPassed 0 = none ∧ ((closing [] 2 0).core 1).chronoPassed 0 = none := by decide +kernel

/-- A carve that declared g31 and wrote it, and declared g30 and did not. -/
def committing : Stn := { carve0 with hdr := { carve0.hdr with iwr := 2 ^ 31 + 2 ^ 30, vwr := 2 ^ 15 }, gw := [(31, ⟨9, none⟩)], vw := [(15, VRg.zero)] }
theorem witness_CommittedRegisters : (committing.gw.map Prod.fst).Nodup ∧ (committing.vw.map Prod.fst).Nodup ∧
    bitOf committing.hdr.iwr 31 = true ∧ tfind committing.gw 31 = some ⟨9, none⟩ ∧ bitOf committing.hdr.iwr 30 = true ∧ tfind committing.gw 30 = none ∧
    bitOf committing.hdr.vwr 15 = true ∧ tfind committing.vw 15 = some VRg.zero := by decide +kernel

theorem witness_TrapFrameWritten : 7 < 8 ∧ 2 ^ 64 - 1 < 2 ^ 64 ∧ 255 < 256 ∧ 3 < 4 ∧ isTile 1 = true ∧
    (busy.putFrame 1 7 (2 ^ 64 - 1) (2 ^ 64 - 1) 255 255 3 true).padWord 1 (7 * 0x400) = 2 ^ 64 - 1 := by decide +kernel

/-- The oldest carve holds a fault. -/
def faulted (depth : Nat) : State := (closing [] 1 depth).modCore 1 fun c => c.modSta 0 fun x => { x with st := .faulted, flt := some ⟨8, false, 2, 1, 0x4444, 7, 0⟩ }
theorem witness_FaultRaised : ∀ d ∈ [7, 8], let s := faulted d; let c := s.core 1; let x := c.sta 0
    isTile 1 = true ∧ s.live = true ∧ c.order.head? = some 0 ∧ x.flt = some ⟨8, false, 2, 1, 0x4444, 7, 0⟩ ∧ x.st = .faulted ∧ x.pend = [] ∧ c.stopped = false ∧
    c.xinvFull x = false ∧ s.padBusy 1 = false ∧ ((s.commitState 1 0 x false).core 1).sr.depth = d := by decide +kernel

/-- A core at level H with a source pending. -/
def interrupted (pend depth : Nat) (ie fie : Bool) : State := (((closing [] 2 depth).modCore 1 fun c => { c with sr := { c.sr with ie := ie, fie := fie } }).set
  (pgLec 1) F.LEC_PEND_PEND 0 pend).set (pgLec 1) F.LEC_MASK_MASK 0 0
theorem witness_InterruptAccepted :
    (interrupted 0 0 true true).lecPresent 1 = none ∧
    (∀ p ∈ [(2 ^ 7, 7), (2 ^ 40, 40)], let s := interrupted p.1 7 (8 ≤ p.2) (p.2 < 8); let c := s.core 1
      s.live = true ∧ s.lecPresent 1 = some (p.2, 2) ∧ c.sr.lvl = 2 ∧ (if p.2 < 8 then c.sr.fie else c.sr.ie) = true ∧ c.sr.depth < 8 ∧
      s.coreBound 1 = false ∧ c.stopped = false ∧ c.running = true ∧ s.padBusy 1 = false) ∧
    (let s := interrupted 4 8 true true; s.lecPresent 1 = some (2, 2) ∧ 8 ≤ (s.core 1).sr.depth) ∧
    (let s := interrupted (2 ^ 40) 0 false true; s.lecPresent 1 = some (40, 2) ∧ (s.core 1).sr.lvl = 2 ∧ (s.core 1).sr.ie = false) := by decide +kernel

/-- A return whose frame is in the slot below the depth. -/
def returning (a : CAct) (kind : Nat) : State := (closing [a] 2 1).putFrame 1 0 0x1234C0 0x16 3 0 kind true
/-- A carve stalled on track 0, or waiting off it. -/
def stuck (st : StnSt) : State := (closing [] 1 7).modCore 1 fun c => c.modSta 0 fun x => { x with st := st }
theorem witness_CallsAndReturns :
    (∀ r ∈ [(CAct.scall, 1, 7), (CAct.hcall, 0, 0)], let s := closing [r.1] r.2.1 r.2.2; let c := s.core 1; let x := c.sta 0
      c.order.head? = some 0 ∧ s.padBusy 1 = false ∧ x.st = .closed ∧ c.stopped = false ∧ c.xinvFull x = false ∧ x.acts = [r.1] ∧
      ((s.commitState 1 0 x true).core 1).sr.lvl < 2 ∧ ((s.commitState 1 0 x true).core 1).sr.depth < 8) ∧
    (∀ a ∈ [CAct.sret, .hret], let s := returning a 0; let x := (s.core 1).sta 0
      x.acts = [a] ∧ s.returnBad 1 x = none ∧ (((s.commitState 1 0 x true).modCore 1 fun c => c.refresh).lecPresent 1) = none ∧ x.st = .closed) ∧
    (let s := stuck .stalled; let c := s.core 1; c.order.head? = some 0 ∧ s.padBusy 1 = false ∧ c.onTrack 0 = some 0 ∧ (c.sta 0).st = .stalled ∧
      (c.sta 0).wfiHeld = false ∧ (c.sta 0).bound = false ∧ c.sr.depth < 8) ∧
    (∀ st ∈ [StnSt.lodged, .resumable], (((stuck st).core 1).sta 0).st = st ∧ (((stuck st).core 1).sta 0).bound = false) := by decide +kernel

/-- An atomic of the oldest carve that waits for its own pad, and a load that was refused. -/
def atomWait (op f : Nat) : Lq :=
  { lq0 op f (atomBytes op f) with st := .atomicWait, atype := 5, src := 1, pieces := [⟨0x4000000000 + 2 ^ 18 - 8, 0x4000000000 + 2 ^ 18 - 8, 0, atomBytes op f⟩] }
def atomCore (e : Lq) : State := (mem0 ⟨0, 0, 0⟩ 0).modCore 1 fun c => { c with lq := [e] }
theorem witness_AtomicPerforms :
    (∀ r ∈ [(0x55, 1), (0x56, 8), (0x59, 0)], let e := atomWait r.1 r.2; let s := atomCore e; let c := s.core 1; let off := 2 ^ 18 - 8; let n := atomBytes r.1 r.2
      (c.lq.find? (fun e => e.id = 7 && e.st = .atomicWait)) = some e ∧ e.pieces.length = 1 ∧ e.atype = 5 ∧ c.isOldest e.stn = true ∧
      c.sq.any (fun q => q.stn.isNone) = false ∧ c.wc = [] ∧ c.wcOut = [] ∧ s.padServing 1 = true ∧
      c.lq.all (fun q => q.stn ≠ e.stn || e.stride ≤ q.stride || q.st = .done) = true ∧ s.padPoisoned 1 off n = false ∧ (n = 4 ∨ n = 8) ∧
      off + n ≤ 2 ^ 18 ∧ nx (exec (.atomicPerform 1 7) s) (fun t => ((t.core 1).sta e.stn).bound) = true) ∧
    (let e := { lq0 0x46 0 8 with st := .refused, spec := true }; let s := atomCore e
     (s.core 1).lq.find? (fun e => e.id = 7 && e.st = .refused) = some e ∧ (s.core 1).isOldest e.stn = true) := by decide +kernel

/-! ### Register pages -/

/-- The Patrol, and a requester of piste 3 at another tile. -/
def pat : Who := ⟨true, 0, 193, 2⟩
def who3 : Who := ⟨false, 3, 5, 1⟩
/-- `State.pageOpen` as a test. -/
def open_ (s : State) (w : Who) (pg : Nat) : Bool := s.live && (pageTypeNo pg).isSome && !s.pageClosed w pg && s.pageAdmits w pg true
theorem open_of {s : State} {w : Who} {pg : Nat} (h : open_ s w pg = true) : s.pageOpen w pg := by
  simpa [open_, State.pageOpen, and_assoc] using h
theorem witness_PageWriteRows :
    ([pgLec 1, pgL2 1, pgSlice 1, pgPad 1, pgTlift 1, pgCore 1, pgNtmap, pgPort 7 4, pgPmap, pgMesh, pgLift, pgHdm 7, pgEp 0, pgKeys, pgBremap, pgNi 193,
      pgNmc 7, pgCh 47, pgRouter 191, pgPmu 0, pgRas].all (open_ State.reset pat)) = true ∧ 0x100 % 8 = 0 ∧ isTile 1 = true := by decide +kernel
theorem witness_PageFieldRules : let s := State.reset; let L := s.set (pgCore 1) F.PAGE_CTL_LOCK 0 1
    (F.CORE_TIME_CTL_GROOM_EN, 0) ∈ fieldsAt (pgCore 1) 0x118 ∧ 0 < F.CORE_TIME_CTL_GROOM_EN.rep ∧
    (let f := F.CORE_CARVE_CTL_CHK_REQ; (f, 0) ∈ fieldsAt (pgCore 1) 0x100 ∧ f.ty = .rwl ∧
      s.fldNorm (pgCore 1) f 0 1 ≠ s.fldView (pgCore 1) f 0 ∧ s.fldAct (pgCore 1) f 0 1 (2 ^ f.lo) = .store ∧ s.flag (pgCore 1) F.PAGE_CTL_LOCK = false ∧
      L.flag (pgCore 1) F.PAGE_CTL_LOCK = true ∧ L.fldAct (pgCore 1) f 0 1 (2 ^ f.lo) = .store) ∧
    (let f := F.PAGE_OWNER_PISTE; f.ty = .rwp ∧ (f, 0) ∈ fieldsAt pgTmap 0x48 ∧ s.fldNorm pgTmap f 0 5 ≠ s.fldView pgTmap f 0) := by decide +kernel
/-- An address in a page of stop 192's worth and of a tile, by stop and by logical tile. -/
theorem witness_PageAccessRefusals : let s := (State.reset.set pgTmap F.TMAP_ENT_VALID 159 1).set pgTmap F.TMAP_ENT_STOP 159 1
    s.live = true ∧ inCtlStop 0x5000 = false ∧ inCtlLt 0x5000 = false ∧
    (let pa := 0xFFF8000000000 + 160 * 2 ^ 20; inCtlStop pa = false ∧ inCtlLt pa = true ∧ s.niLtStop 5 160 = none) ∧
    (let pa := 0xFFF0000000000 + 193 * 2 ^ 20; inCtlStop pa = true ∧ 192 ≤ pa / 2 ^ 20 % 256) ∧
    (let pa := 0xFFF0000000000 + 1 * 2 ^ 20; inCtlStop pa = true ∧ pa / 2 ^ 20 % 256 < 192 ∧ isTile (pa / 2 ^ 20 % 256) = true ∧ who3.patrol = false ∧
      (pageType 1 255 = none) ∧ (pageType 1 0).isSome = true ∧ s.pageClosed pat (pageNo 1 0) = false ∧ s.pageAdmits pat (pageNo 1 0) true = true) ∧
    (isTile 32 = false ∧ (pageType 32 0).isSome = true ∧ s.pageClosed who3 (pageNo 32 0) = false ∧ s.pageAdmits who3 (pageNo 32 0) true = false) := by
  decide +kernel
theorem witness_PageEnable :
    (let s := (State.reset.set (pgPad 1) F.PAGE_STAT_BUSY 0 1); s.live = true ∧ s.flag (pgPad 1) F.PAGE_STAT_BUSY = true ∧ State.reset.flag (pgPad 1) F.PAGE_STAT_BUSY = false) ∧
    open_ (State.reset.set pgTmap F.PAGE_OWNER_PLOCK 0 0) ⟨false, 0, 5, 2⟩ pgTmap = true ∧ State.reset.get pgTmap F.PAGE_CTL_ENABLE 0 = 1 ∧
    open_ State.reset pat (pgPad 1) = true ∧ State.reset.flag (pgPad 1) F.PAGE_CTL_LOCK = false ∧ State.reset.get (pgPad 1) F.PAGE_CTL_ENABLE 0 = 0 ∧
    open_ State.reset pat (pgLec 1) = true ∧ State.reset.flag (pgLec 1) F.PAGE_CTL_ENABLE = true ∧
    ((pageTypeNo (pgLec 1)).map PageType.fixedEnable) = some true := by decide +kernel
/-- A carve that closes while every command of the CORE page waits. -/
def pctlWait : State := (closing [] 2 0).modCore 1 fun c => { c with pctl := ⟨some true, some true, none, true, true, none, none, true, none⟩ }
theorem witness_CoreControlWrites : isTile 1 = true ∧ open_ busy pat (pgCore 1) = true ∧ busy.flag (pgCore 1) F.CORE_TIME_CTL_GROOM_EN = false ∧
    (busy.set (pgCore 1) F.CORE_TIME_CTL_CHECK_EN 0 1).flag (pgCore 1) F.CORE_TIME_CTL_CHECK_EN = true ∧ (busy.core 1).running = true ∧
    (let c := pctlWait.core 1; c.order = [0, 3] ∧ (c.sta 0).st = .closed ∧ c.stopped = false ∧ (c.sta 0).acts = [] ∧ (c.sta 0).hasDevS = false ∧
      c.pctl ≠ PendCtl.none) := by decide +kernel
theorem witness_EventControllerPage :
    (∀ p ∈ [(0, 4, 2), (1, 2 ^ 40, 104)], let s := ((busy.set (pgLec 1) F.LEC_MASK_MASK p.1 0).set (pgLec 1) F.LEC_PEND_PEND p.1 p.2.1)
      open_ s pat (pgLec 1) = true ∧ s.lecPresent 1 = some (p.2.2, 2) ∧ p.2.2 < 256) ∧
    busy.lecPresent 1 = none ∧ (who1.patrol = false ∧ who1.ni.val = 1 ∧ open_ (busy.set (pgLec 1) F.PAGE_OWNER_PLOCK 0 0) who1 (pgLec 1) = true) ∧
    (let s := (busy.set (pgLec 1) F.LEC_MASK_MASK 0 0).set (pgLec 1) F.LEC_PEND_PEND 0 4; s.lecPresent 1 = some (2, 2) ∧ who1.lvl < 2) ∧
    (let s := after (.lecClaim pat 1) ((busy.set (pgLec 1) F.LEC_MASK_MASK 0 0).set (pgLec 1) F.LEC_PEND_PEND 0 4)
     (s.lec 1).act = [] ++ [(2, 2)] ∧ (s.lec 1).act.any (fun a => a.1 = 255 % 256) = false) ∧ 16 ≤ 16 % 256 ∧ 15 % 256 < 16 := by decide +kernel
theorem witness_EngineStarts : isTile 1 = true ∧ [pgL2 1, pgSlice 1, pgPad 1, pgNmc 7].all (open_ State.reset pat) = true ∧
    State.reset.flag (pgL2 1) F.L2_RANGE_STAT_BUSY = false ∧ State.reset.get (pgL2 1) F.L2_RANGE_LEN_LINES 0 = 0 ∧
    (State.reset.set (pgL2 1) F.L2_RANGE_LEN_LINES 0 1).get (pgL2 1) F.L2_RANGE_LEN_LINES 0 ≠ 0 ∧
    (State.reset.set (pgL2 1) F.L2_RANGE_STAT_BUSY 0 1).flag (pgL2 1) F.L2_RANGE_STAT_BUSY = true ∧
    (0x0FFF : BitVec 16).toNat ≠ State.reset.get (pgL2 1) F.L2_LOCK_WAYMASK 0 ∧ ¬ 12 < ((List.range 16).filter fun b => (0x0FFF : BitVec 16).getLsbD b).length ∧
    12 < ((List.range 16).filter fun b => (0x1FFF : BitVec 16).getLsbD b).length ∧ State.reset.flag (pgL2 1) F.L2_LOCK_STAT_BUSY = false ∧
    State.reset.flag (pgSlice 1) F.SLICE_DRAIN_STAT_BUSY = false ∧ (State.reset.set (pgSlice 1) F.SLICE_DRAIN_STAT_BUSY 0 1).flag (pgSlice 1) F.SLICE_DRAIN_STAT_BUSY = true ∧
    State.reset.flag (pgPad 1) F.PAD_COPY_STAT_BUSY = false ∧ (State.reset.set (pgPad 1) F.PAD_COPY_STAT_BUSY 0 1).flag (pgPad 1) F.PAD_COPY_STAT_BUSY = true ∧
    (State.reset.set (pgNmc 7) F.PAGE_STAT_ENABLED 0 1).flag (pgNmc 7) F.PAGE_STAT_ENABLED = true := by decide +kernel
theorem witness_CopiedRegisterWrites : pat.patrol = true ∧ [pgBremap, pgNtmap, pgPort 7 4, pgPmap, pgMesh].all (open_ State.reset pat) = true ∧
    State.reset.get pgMesh F.MESH_EPOCH_STAT_SWITCH_PEND 0 = 0 ∧ State.reset.get pgMesh F.MESH_EPOCH_STAT_DRAIN_PEND 0 = 0 ∧
    (State.reset.set pgMesh F.MESH_EPOCH_STAT_SWITCH_PEND 0 1).get pgMesh F.MESH_EPOCH_STAT_SWITCH_PEND 0 ≠ 0 := by decide +kernel
theorem witness_MeshPageWrites : [pgNi 193, pgRouter 191].all (open_ State.reset pat) = true ∧ (2 ^ 63 + 7 : Word).getLsbD 63 = true ∧
    routeOk ((2 ^ 63 + 7 : Word).toNat % 2 ^ 40) = false ∧ routeOk ((2 ^ 63 + 2 ^ 32 + 3 : Word).toNat % 2 ^ 40) = true ∧
    (State.reset.ni 193).gates.length = 4 ∧ State.reset.get (pgRouter 191) F.ROUTER_CTL_DRAIN 0 = 0 ∧ State.reset.get (pgRouter 191) F.ROUTER_CAL_CTL_EN 0 = 0 ∧
    State.reset.calClash (pgRouter 191) = false ∧
    ((State.reset.set (pgRouter 191) F.ROUTER_CAL_SLOT 63 128).set (pgRouter 191) F.ROUTER_CAL_SLOT 127 128).calClash (pgRouter 191) = true := by decide +kernel
theorem witness_PatrolPageWrites : [pgKeys, pgLift, pgEp 7, pgPort 7 4, pgHdm 7, pgPmu 191].all (open_ State.reset pat) = true ∧ 255 < 256 ∧
    State.reset.flag pgKeys F.KS_SLOT_LOCK 255 = false ∧ (State.reset.set pgKeys F.KS_SLOT_LOCK 255 1).flag pgKeys F.KS_SLOT_LOCK 255 = true ∧
    tfind State.reset.sys.wrapped State.reset.tuckNewest = none ∧ State.reset.chrono ≤ (0 : Word).toNat ∧
    (0 : Word).toNat < (State.reset.set pgLift F.LIFT_CHRONO_COUNT 0 1).chrono ∧ (State.reset.hub 7).ep.busy = false ∧
    ((State.reset.modHub 7 fun x => { x with ep := { x.ep with busy := true } }).hub 7).ep.busy = true ∧ 2 ^ 32 - 1 < 2 ^ 32 ∧
    (State.reset.set (pgEp 7) F.EP_CON_IN_VALID 0 1).flag (pgEp 7) F.EP_CON_IN_VALID = true ∧ State.reset.flag (pgEp 7) F.EP_STAT_COMMIT_BUSY = false ∧
    State.reset.oldOut 7 = 0 ∧ State.reset.get (pgEp 7) F.EP_STAT_ACTIVE 0 < 2 ∧
    (State.reset.set (pgEp 7) F.EP_STAT_COMMIT_BUSY 0 1).flag (pgEp 7) F.EP_STAT_COMMIT_BUSY = true ∧ (State.reset.hub 7).switching = false := by decide +kernel

/-! ### Stores, walks, invalidations and the mailbox -/

/-- A store-queue entry after commit, in a core with nothing else. -/
def sqE (id pa : Nat) (data : List Byte) (atype : Nat) (kind : SqKind := .store) (split : Bool := false) : Sq := { id := id, lvl := 0, stn := none, stride := 0, va := pa, pa := pa, data := data, atype := atype, half := false, poison := false, release := false, vector := false, split := split, key := 0, kind := kind, sent := false, rsp := none }
def drain1 (es : List Sq) : State := (mem0 ⟨0, 0, 0⟩ 0).modCore 1 fun c => { c with order := [], t0 := none, sq := es }
def owned1 (s : State) (lines : List Nat) (st : Coh) : State :=
  { s with caches := tset s.caches 1 { s.cache 1 with l2 := lines.map fun l => (l, ⟨st, 5, false, l % 12, false, 0⟩) } Caches.empty }
def eight : List Byte := [1, 2, 3, 4, 5, 6, 7, 8]
def drains_ (s : State) (e : Sq) : Bool := @decide (s.drains 1 7 e) (by unfold State.drains; infer_instance)
theorem drains_of {s : State} {e : Sq} (h : drains_ s e = true) : s.drains 1 7 e := by simpa [drains_] using h
theorem witness_StoreDrains :
    (let e := sqE 7 0x400003FFF8 eight 5; let s := drain1 [e]; drains_ s e = true ∧ e.kind = .store ∧ s.padServing 1 = true ∧
      s.get (pgTlift 1) F.TLIFT_TSTAT_STATE 0 = 0 ∧ (s.core 1).wcOut = []) ∧
    (let e := sqE 7 0x1038 eight 0; let s := owned1 (drain1 [e]) [0x40] .e; drains_ s e = true ∧ inPadWin e.pa = false ∧ s.l2On 1 = true ∧
      (s.cache 1).owns 0x40 = true ∧ e.split = false) ∧
    (let e := sqE 7 0x1010 eight 1; let s := drain1 [e]; drains_ s e = true ∧ s.l2On 1 = true ∧ (s.cache 1).owns 0x40 = false ∧
      ((s.cache 1).fills.any fun f => f.line = 0x40) = false) ∧
    (let e := sqE 7 0x1038 eight 2; let s := drain1 [e]; drains_ s e = true ∧ e.data.length < 64 ∧
      (s.core 1).holds.any (fun h => h.stores && h.wc && h.sqs.contains 7) = false) ∧
    (∀ e ∈ [sqE 7 0xE000000001008 eight 3, sqE 7 0xE000000001008 eight 4, sqE 7 (0x4000000000 + 2 ^ 18 * 5) eight 0], drains_ (drain1 [e]) e = true ∧
      (e.atype = 3 ∨ e.atype = 4 ∨ inPadWin e.pa = true)) ∧
    (∀ a ∈ [0, 2], let e := sqE 7 0x1000 [] 0 (.maint a 1); let s := drain1 [e]; drains_ s e = true ∧ e.kind = .maint a 1 ∧
      ((s.cache 1).fills.any fun f => f.line = 0x40) = false) := by decide +kernel
theorem witness_StoresEnd :
    (let s := (drain1 []).modCore 1 fun c => { c with wc := [⟨0x80, [(3, 7)], 0⟩] }; ((s.core 1).wc.find? fun x => x.line = 0x80).isSome = true) ∧
    (let e := { sqE 7 0xE000000001008 eight 3 with sent := true, rsp := some 0 }
     ((drain1 [e]).core 1).sq.find? (fun x => x.id = 7 && x.stn.isNone && x.sent && x.atype = 3) = some e ∧ e.rsp = some 0) ∧
    (let e := { sqE 7 0x1038 eight 0 with sent := true, rsp := some 3 }; let s := drain1 [e]
     (s.core 1).sq.find? (fun x => x.id = 7 && x.stn.isNone && x.sent) = some e ∧ e.rsp.getD 0 ≠ 0 ∧ s.flag (pgCore 1) F.CORE_MEMERR_VALID = false ∧
       (s.set (pgCore 1) F.CORE_MEMERR_VALID 0 1).flag (pgCore 1) F.CORE_MEMERR_VALID = true) := by decide +kernel
/-- A ring that waits for its store, with the mailbox idle or busy. -/
def ringing (busy : Bool) (es : List Sq) : State := (drain1 es).modCore 1 fun c =>
  { c with rings := [(9, 2, [7])], sr := { c.sr with pmbBusy := busy, pmbSeq := 9 } }
theorem witness_MailboxResult : let s := ringing false []; let b := ringing true []
    s.live = true ∧ (s.core 1).rings = [(9, 2, [7])] ∧ ([7].any fun i => (s.core 1).sq.any fun e => e.id = i) = false ∧ (s.core 1).sr.pmbBusy = false ∧
    s.stopLt 1 = some 0 ∧ (b.core 1).sr.pmbBusy = true ∧ (b.core 1).sr.pmbSeq = 9 ∧ b.padBusy 1 = false ∧ b.frozen = false ∧
    (b.set (pgPad 1) F.PAD_STAT_ZEROING 0 1).padBusy 1 = true := by decide +kernel
/-- A tile in T2 with a source pending, its timers and watchdog on. -/
def timed : State := ((((busy.set (pgTlift 1) F.TLIFT_TSTAT_STATE 0 2).set (pgLec 1) F.LEC_MASK_MASK 0 0).set (pgLec 1) F.LEC_PEND_PEND 0 4).set
  (pgLec 1) F.LEC_TMR_CTL_EN 0 8).set (pgLec 1) F.LEC_WDOG_CTL_EN 0 1
theorem witness_LecTimeouts : let s := timed; let l := timed.setLec 1 { timed.lec 1 with wcount := 2 * timed.wdogPeriod 1, act := [(2, 2)] }
    s.get (pgTlift 1) F.TLIFT_TSTAT_STATE 0 ≠ 0 ∧ (s.lecPresent 1).isSome = true ∧ s.get (pgLec 1) F.LEC_TMR_CTL_EN 0 / 2 ^ 3 % 2 = 1 ∧
    s.get (pgLec 1) F.LEC_TMR_CMP_CMP 3 ≤ s.chrono ∧ s.flag (pgLec 1) F.LEC_WDOG_CTL_EN = true ∧ l.wdogPeriod 1 ≤ (l.lec 1).wcount ∧
    2 * l.wdogPeriod 1 ≤ (l.lec 1).wcount ∧ (l.lec 1).wfired = false ∧ l.frozen = false ∧ 0 < (l.lec 1).act.length ∧
    busy.flag (pgLec 1) F.LEC_WDOG_CTL_EN = false := by decide +kernel
/-- A core with one walk, of which L2 holds the first n table lines. -/
def walk1 : Walk :=
  { va := 0x7F3000011100, acc := 2, lvl := 0, spec := false, pref := false, stn := some 0, res := .running, ad := none, adSent := false, wait := none, bad := none }
def tblL (a : Nat) (v : Nat) : Nat × L2Line := (a / 64, ⟨.e, linePut 0 (a % 64) (leBytes v 8), false, a / 64 % 12, false, 0⟩)
def walking (leaf n : Nat) (w : Walk) : State :=
  let tbl := [tblL 0x100007F0 0x10001001, tblL 0x10001600 0x10002001, tblL 0x10002000 0x10003001, tblL 0x10003088 leaf]
  let s := (mem0 ⟨0, 0, 0⟩ 0).modCore 1 fun c => { c with sr := walkCore.sr, walks := [w], order := [], t0 := none }
  { s with caches := tset s.caches 1 { s.cache 1 with l2 := tbl.take n } Caches.empty }
def walkKind (s : State) (w : Walk) : Nat := match walkAll s 1 (s.core 1) (s.flag (pgCore 1) F.CORE_MMU_CTL_WCACHE_EN) (s.tableRd 1 w) w.va w.acc w.lvl with
  | .ent .. => 1 | .wait .. => 2 | .fault .. => 3 | .setBits .. => 4
theorem witness_WalkResult :
    ((walking 0x0010000023456057 4 walk1).core 1).walks[0]? = some walk1 ∧ (walking 0x0010000023456057 4 walk1).l2On 1 = true ∧
    [(walking 0x00100000234560D7 4 walk1, walk1), (walking 0 2 walk1, walk1), (walking 0 4 walk1, walk1), (walking 0x0010000023456057 4 walk1, walk1)].map
      (fun x => walkKind x.1 x.2) = [1, 2, 3, 4] ∧
    (let w := { walk1 with ad := some (0x10003088, 0x0010000023456057, 0x00100000234560D7, 0) }
     ((walking 0 4 w).core 1).walks[0]? = some w ∧ w.adSent = false) := by decide +kernel
/-- An invalidation to send, and one received. -/
def invalidating : State :=
  let out : XinvOut := { id := 4, kind := 0, va := 0x1000, tag := 3, vmTag := 0, lvl := 1, sent := false, acks := 0, after := [7] }
  let inn : XinvIn := { req := { flit0 with op := 0x23, src := 5, dst := 1 }, squashed := true, after := [] }
  ((drain1 []).modCore 1 fun c => { c with xinvOut := [out], xinvIn := [inn] }).set (pgNi 1) F.NI_GATE_TILES_TILES 0 31
theorem witness_InvalidationsTravel : let s := invalidating; let c := s.core 1
    s.live = true ∧ c.wcDone = true ∧ (c.xinvOut.find? fun z => !z.sent) = c.xinvOut.head? ∧ c.xinvOut.length = 1 ∧
    ([7].any fun i => c.sq.any fun e => e.id = i) = false ∧ c.xinvIn.length = 1 ∧ (∀ z ∈ c.xinvIn, z.squashed = true ∧ z.req.src.val ≠ 1 ∧ z.after = []) := by
  decide +kernel

/-! ### The mesh, the home slice and the arrays -/

def fl (op be addr : Nat) (src : NiId := 5) : Flit := { flit0 with op := op, be := be, addr := addr, src := src, dst := 1, payload := 77, tag := 3 }
/-- A slice with a request in service, an LLC line or a directory entry for it. -/
def home1 (f : Flit) (llc : Tbl Nat LlcLine) (dir : Tbl Nat DirEntry) : State :=
  let s := (State.reset.set (pgSlice 1) F.PAGE_CTL_ENABLE 0 1).set (pgSlice 1) F.PAGE_STAT_ENABLED 0 1
  { s with slices := tset s.slices 1 { Slice.empty with llc := llc, dir := dir } Slice.empty, nis := tset s.nis 1 { Ni.empty with serv := [f] } Ni.empty }
def llc1 : LlcLine := { data := 99, poison := false, dirty := true, way := 2, bucket := 0, lane := 0, key := 0, piste := 0 }
def own5 : DirEntry := { excl := true, sharers := [5], coarse := none, pins := [], way := 1, bucket := 0, lane := 0 }
def homeServes_ (s : State) (f : Flit) : Bool := @decide (s.homeServes 1 f) (by unfold State.homeServes State.homeTakes; infer_instance)
def homeTakes_ (s : State) (f : Flit) : Bool := @decide (s.homeTakes 1 f) (by unfold State.homeTakes; infer_instance)
theorem witness_HomeServes :
    (∀ be ∈ [0, 1], let f := fl 5 be 0x1000; let s := home1 f [] [(0x40, own5)]
      homeTakes_ s f = true ∧ tfind (s.slice 1).dir 0x40 = some own5 ∧ f.noalloc = false ∧ f.pin = false) ∧
    (∀ f ∈ [fl 1 1 0x1000, fl 2 0 0x1000, fl 3 0 0x1000, fl 7 0xFF 0x1000, fl 4 0xF0 0x1000, fl 6 (2 ^ 64 - 1) 0x1000],
      homeServes_ (home1 f [(0x40, llc1)] []) f = true ∧ tfind ((home1 f [(0x40, llc1)] []).slice 1).llc 0x40 = some llc1 ∧ f.noalloc = false) ∧
    (∀ f ∈ [fl 1 0 0x1000, fl 2 0 0x1000, fl 3 0 0x1000, fl 7 0xFF 0x1000, fl 8 2 0x1000],
      homeServes_ (home1 f [] []) f = true ∧ tfind ((home1 f [] []).slice 1).llc 0x40 = none) := by decide +kernel
/-- A tile with a request in service, and a line in its L2. -/
def tile1 (f : Flit) (ts : Nat) : State := let s := (mem0 ⟨0, 0, 0⟩ 0).set (pgTlift 1) F.TLIFT_TSTAT_STATE 0 ts
  { s with caches := tset s.caches 1 { s.cache 1 with l2 := [(0x40, ⟨.m, 123, false, 3, false, 2⟩)] } Caches.empty, nis := tset s.nis 1 { Ni.empty with serv := [f] } Ni.empty }
theorem witness_TileAnswersMesh :
    (∀ f ∈ [fl 0x10 0 0x1000, fl 0x11 0 0x1000, fl 0x22 7 0, fl 0x22 12 0, fl 0x22 255 0, fl 0x23 0 0], let s := tile1 f 0
      s.live = true ∧ isTile 1 = true ∧ f ∈ (s.ni 1).serv ∧ f.src ≠ 1 ∧ s.l2On 1 = true ∧ ((s.cache 1).fills.any fun x => x.line = 0x40 && x.granted) = false ∧
      tfind (s.cache 1).l1 0x40 = none ∧ (tfind (s.cache 1).l2 0x40).isSome = true ∧ s.get (pgTlift 1) F.TLIFT_TSTAT_STATE 0 < 2) ∧
    2 ≤ (tile1 (fl 0x23 0 0) 2).get (pgTlift 1) F.TLIFT_TSTAT_STATE 0 := by decide +kernel
def out1 (tag : Nat) (org : Org) : Outst := ⟨tag, { Req.plain 3 1 0x1008 org with be := 255 }, 5, false, false, false, false, false, false, false⟩
/-- Route entries of stop 1 in both epochs, and an NI with changes. -/
def routed : State := [5, 7, 192 + 5, 192 + 7].foldl (fun (s : State) i => (s.set (pgNi 1) F.NI_ROUTE_VALID i 1).set (pgNi 1) F.NI_ROUTE_ROUTE i (2 ^ 32 + 3)) State.reset
def ni1 (m : Ni → Ni) : State := { routed with nis := tset routed.nis 1 (m Ni.empty) Ni.empty }
theorem witness_ResponsesAndTickets :
    (∀ r ∈ [(0x30, Org.patrol), (0x31, .patrol), (0x31, .store 7)], let f := fl r.1 0 0; let s := (ni1 fun x => { x with rsp := [f], outst := [out1 3 r.2] }).modCore 1 fun c => { c with sq := [sqE 7 0x1000 [1] 4] }
      f ∈ (s.ni 1).rsp ∧ takeFirst (fun x : Outst => x.tag = f.tag && x.epoch = f.epoch) (s.ni 1).outst = some (out1 3 r.2, []) ∧ f.status = .ok ∧
      ((s.core 1).sq.find? fun x => x.id = 7) = some (sqE 7 0x1000 [1] 4)) ∧
    (let f := { fl 0x32 3 0 with tkt := true, grant := true }; let s := ni1 fun x => { x with rsp := [f], spent := [(5, 3)], shared := [(7, 3)], poolOut := [(5, 1)] }
     f ∈ (s.ni 1).rsp ∧ bitOf f.be 2 = false ∧ (f.src, f.be % 4) ∈ (s.ni 1).spent ∧ ((7 : NiId), (3 : Fin 4).val) ∈ (s.ni 1).shared ∧
       s.routeTo 1 (s.ni 1).epoch 7 = some (2 ^ 32 + 3)) ∧
    (let f := fl 0x33 1 0; let s := ni1 fun x => { x with rsp := [f], poolOut := [(5, 1)] }; f ∈ (s.ni 1).rsp ∧ (f.src, f.be % 4) ∈ (s.ni 1).poolOut) := by
  decide +kernel
def fillReq : Req := { Req.plain 1 0 0x1000 (.fill 0x40) with dst := some 7 }
theorem witness_NiMoves :
    (let s := ni1 fun x => { x with reqs := [fillReq] }
     s.live = true ∧ (s.ni 1).reqs = [fillReq] ∧ fillReq.pair = none ∧ (match s.niCheck 1 fillReq with | (s', .go t false) => decide (s' = s) && t == 7 | _ => false) = true ∧
       (s.ticketFor 1 (s.asPage 1 fillReq) 7).isSome = true ∧ (s.ni 1).outst.length < 512 ∧ s.routeTo 1 (s.ni 1).epoch 7 = some (2 ^ 32 + 3)) ∧
    (∀ g ∈ [Gate.open_, .closed], let f := { fl 3 0xFF 0xFFF0000101100 with cls := 1 }; let s := (ni1 fun x => { x with inq := [f], gates := [g, g, g, g] }); f.src ≠ 1 ∧ ¬ (f.cls = 0 ∧ inCtl f.addr = true) ∧
      s.gatePass 1 f = g ∧ (g = .open_ → s.canTake 1 f = true)) ∧
    (∀ a ∈ [TblAct.copy, .pmapInv, .sealed 5, .switch], let s := { ni1 id with tblLog := [⟨[], a, [1, 2], none⟩] }
      (s.tblLog.map fun m => (m.act, m.waiting.contains 1)) = [(a, true)] ∧ (s.ni 1).outst = [] ∧ (s.ni 1).emptied = false) ∧
    (let s := ni1 fun x => { x with outst := [{ out1 3 .patrol with mapped := true }] }; (s.ni 1).outst.any (fun o => o.mapped) = true) ∧
    (let s := ni1 fun x => { x with drainDue := true }; (s.ni 1).drainDue = true ∧ ∀ o ∈ (s.ni 1).outst, o.epoch = (s.ni 1).epoch) ∧
    (let s := ni1 fun x => { x with gates := [.closing, .closing, .closing, .closing] }; ∀ g : Fin 4, s.gate 1 g = .closing ∧ s.gateIdle 1 g = true) ∧
    (let o := { out1 3 .patrol with epoch := false, req := { (out1 3 .patrol).req with op := 1 } }; let s := ni1 fun x => { x with epoch := true, outst := [o] }
     s.frozen = false ∧ ((s.ni 1).outst.find? fun x => x.tag = 3 && !x.onLink) = some o ∧ o.epoch ≠ (s.ni 1).epoch ∧ o.retried = false ∧
       (s.routeTo 1 (s.ni 1).epoch o.tgt).isSome = true) := by decide +kernel
/-- A router with flits at one input. -/
def router1 (p : Nat) (fs : List Flit) (used : Tbl Nat Nat := []) : State := { State.reset with routers := [(1, { Router.empty with inp := [(p, fs)], used := used })] }
def lost (n : Nat) : State := (List.range n).foldl (fun s _ => match execWireSpare 7 1 s with | .next t => t | _ => s) State.reset
theorem witness_RouterMoves :
    (let f := { fl 1 0 0x1000 with hop := 0, route := 2 ^ 32 + 3 }; let s := router1 0 [f]
     (∀ m ∈ nisAt 1, (s.ni m).outq = []) ∧ s.absorbable 1 4 = none ∧ s.pickCal 1 4 (tget (s.router 1).cyc 4 0 % 64) = none) ∧
    (let s := router1 0 [] [(12, 3), (25, 1)]; (s.router (nbr 1 1)).occ 3 0 < tget (s.router 1).used 12 0) ∧
    (let s := (router1 0 []).set (pgRouter 1) F.ROUTER_STAT_STATE 0 1; s.routerState 1 = 1 ∧ (s.router 1).empty? = true) ∧
    dieLink 7 1 = true ∧ State.reset.wiresLost 7 1 < 2 ∧ (lost 2).wiresLost 7 1 = 2 := by decide +kernel
/-- L2 lines under a range run; a slice under a drain. -/
def ranging (r : RangeRun) : State := (owned1 busy [0x40, 0x41] .m).modCache 1 fun c => { c with range := some r }
def draining (llc : Tbl Nat LlcLine) : State := let s := home1 (fl 1 0 0x1000) llc []
  { s with slices := tset s.slices 1 { s.slice 1 with drain := some (0, 0, true) } Slice.empty }
def run0 (abort : Bool) (done : Nat) : RangeRun := { base := 0x40, len := 4, act := 2, depth := 0, done := done, abort := abort, sent := 4, owed := [] }
theorem witness_EnginesEnd :
    (let r := run0 false 0; let s := ranging r; (s.cache 1).range = some r ∧ r.depth = 0 ∧ r.done < r.len ∧
      ((s.cache 1).fills.any fun f => decide (r.base ≤ f.line) && decide (f.line < r.base + r.len)) = false ∧ (tfind (s.cache 1).l2 0x41).isSome = true ∧
      tfind (s.cache 1).l1 0x41 = none) ∧
    (∀ r ∈ [run0 true 0, run0 false 4], ((ranging r).cache 1).range = some r ∧ ¬ (r.depth = 0 ∧ r.abort = false ∧ r.done < r.len) ∧ r.owed = []) ∧
    (State.reset.set (pgL2 1) F.L2_LOCK_STAT_BUSY 0 1).flag (pgL2 1) F.L2_LOCK_STAT_BUSY = true ∧
    (let l := { llc1 with dirty := false }; let s := draining [(0x40, l)]
     (s.slice 1).drain = some (0, 0, true) ∧ (s.slice 1).txs = [] ∧ tfind (s.slice 1).llc 0x40 = some l ∧ drainHit (0, 0, true) l.bucket l.lane = true) ∧
    (let s := draining []; (s.slice 1).llc = [] ∧ (s.slice 1).dir = [] ∧ s.memWbOut 1 = false) ∧
    (State.reset.set (pgPad 1) F.PAD_STAT_ZEROING 0 1).flag (pgPad 1) F.PAD_STAT_ZEROING = true ∧
    (let s := ((((busy.set (pgPad 1) F.PAD_COPY_STAT_BUSY 0 1).set (pgPad 1) F.PAD_COPY_CTL_OP 0 1).set (pgPad 1) F.PAD_COPY_CTL_DEST 0 7).set (pgPad 7) F.PAGE_STAT_ENABLED 0 1).set
        (pgTlift 7) F.TLIFT_TSTAT_STATE 0 0
     s.get (pgPad 1) F.PAD_COPY_CTL_OP 0 ≠ 0 ∧ s.get (pgPad 1) F.PAD_COPY_CTL_DEST 0 = 7 ∧ isTile 7 = true ∧ s.padBusy 7 = false ∧ s.padServing 7 = true ∧
       (s.set (pgPad 7) F.PAD_STAT_ZEROING 0 1).padBusy 7 = true) ∧
    (let s := (busy.set (pgPmu 1) F.PMU_SPLIT_CTL_EN 0 1).set (pgPmu 1) F.PAGE_STAT_ENABLED 0 1
     s.flag (pgPmu 1) F.PMU_SPLIT_CTL_EN = true ∧ tfind s.splits (pgPmu 1) = none ∧ s.sys.tuckFrozen = false ∧ s.gate 1 3 = .open_) := by decide +kernel
/-- Arrays under their sweeps. -/
def sweeping : State := let s := ((((((owned1 (mem0 ⟨0, 0, 0⟩ 0) [0x40] .m).set (pgL2 1) F.L2_SWEEP_EN 0 1).set (pgTlift 1) F.TLIFT_TSTAT_STATE 0 0).set (pgSlice 1) F.SLICE_SWEEP_EN 0 1).set
    (pgSlice 1) F.PAGE_STAT_ENABLED 0 1).set (pgSlice 1) F.PAGE_CTL_ENABLE 0 1).set (pgPad 1) F.PAD_SWEEP_EN 0 1
  { s with slices := tset s.slices 1 { Slice.empty with llc := [(0x40, llc1)], sweep := llcSet 0x40 * 16 + 2 } Slice.empty, caches := tset s.caches 1 { s.cache 1 with sweep := l2Set 0x40 * 16 + 0x40 % 12 } Caches.empty }
def channel (s : State) : State := ((((s.set (pgNmc 7) F.PAGE_STAT_ENABLED 0 1).set (pgCh 47) F.NMC_CH_SWEEP_EN 0 1).set (pgCh 47) F.PAGE_STAT_ENABLED 0 1).set (pgCh 47) F.NMC_CH_CTL_MODE 0 1).set
  (pgCh 47) F.NMC_CH_STAT_READY 0 1
theorem witness_SweepsHandleErrors : let s := channel sweeping
    s.live = true ∧ s.flag (pgL2 1) F.L2_SWEEP_EN = true ∧ s.get (pgTlift 1) F.TLIFT_TSTAT_STATE 0 < 2 ∧ s.l2On 1 = true ∧
    l2Set 0x40 * 16 + 0x40 % 12 = (s.cache 1).sweep ∧ ((s.cache 1).l2.find? fun x => l2Set x.1 = l2Set 0x40 && x.2.way = 0x40 % 12).isSome = true ∧
    tfind (s.cache 1).l1 0x40 = none ∧ s.flag (pgSlice 1) F.SLICE_SWEEP_EN = true ∧ s.sliceOn 1 = true ∧ llcSet 0x40 * 16 + 2 = (s.slice 1).sweep ∧
    ((s.slice 1).llc.find? fun x => llcSet x.1 = llcSet 0x40 && x.2.way = 2) = some (0x40, llc1) ∧ (s.slice 1).txs = [] ∧
    s.flag (pgPad 1) F.PAD_SWEEP_EN = true ∧ s.padServing 1 = true ∧ s.chanServing 47 = true ∧ s.rowsRun 47 = true ∧ s.flag (pgCh 47) F.NMC_CH_SWEEP_EN = true := by decide +kernel
def nreq (op be : Nat) (cache : Bool) : NearReq := { f := { fl op be 0x1000 with key := 1, piste := 2 }, line := 0x40, tag := 3, cache := cache, write := op = 4 }
def channelQ (q w : List NearReq) : State := (channel State.reset).modChan 47 fun x => { x with queue := q, waiting := w }
theorem witness_NearServes :
    (∀ q ∈ [nreq 1 0 false, nreq 4 (2 ^ 64 - 1) false], let s := channelQ [q] []; q.f.src.val ≠ chanStop 47 ∧ s.chanServing 47 = true ∧
      s.flag (pgCh 47) F.NMC_CAL_STAT_ACTIVE = false ∧ s.nearPick 47 = some q ∧ s.get pgKeys F.KS_SLOT_KIND (s.reqSlot (chanStop 47) q.f) ≠ 0 ∧ (s.chan 47).queue ≠ [] ∧
      (let t := s.set pgKeys F.KS_SLOT_KIND (s.reqSlot (chanStop 47) q.f) 0; t.get pgKeys F.KS_SLOT_KIND (t.reqSlot (chanStop 47) q.f) = 0)) ∧
    (let q := nreq 1 0 true; takeFirst (fun x : NearReq => x.line = q.line && x.cache && x.f.op ≤ 3) ((channelQ [] [q]).chan 47).waiting = some (q, [])) := by decide +kernel
theorem witness_NearUpkeep : let s := channelQ [] []; let b := s.modChan 47 fun x => { x with rows := [(15, 7)], rfm := [15], postponed := 1, zero := [1], slot := 63 }
    s.live = true ∧ s.bankBusy 47 15 = false ∧ s.rowsRun 47 = true ∧ (channelQ [nreq 1 0 false] []).rowsRun 47 = true ∧ (b.chan 47).postponed ≠ 0 ∧ 15 ∈ (b.chan 47).rfm ∧
    b.bankBusy 47 15 = false ∧ (s.set (pgNmc 7) F.NMC_STAT_TRAINING 0 1).flag (pgNmc 7) F.NMC_STAT_TRAINING = true ∧
    (let c := s.set (pgCh 47) F.NMC_CAL_CTL_EN 0 1; c.flag (pgCh 47) F.NMC_CAL_CTL_EN ≠ c.flag (pgCh 47) F.NMC_CAL_STAT_ACTIVE) ∧
    (let c := b.set (pgCh 47) F.NMC_CAL_STAT_ACTIVE 0 1; c.flag (pgCh 47) F.NMC_CAL_STAT_ACTIVE = true ∧ c.chanServing 47 = true ∧ (c.chan 47).slot = 63) := by decide +kernel

/-! ### CXL and PCIe -/

/-- Hub 0 with port 0 as a CXL root port (or another mode), its link up. -/
def hub0 (mode : Nat) (m : Hub → Hub) : State :=
  let s := (((State.reset.set (pgHub 0) F.PAGE_CTL_ENABLE 0 1).set (pgHub 0) F.PAGE_STAT_ENABLED 0 1).set (pgPort 0 0) F.PORT_CTL_MODE 0 mode).set (pgPort 0 0) F.PORT_STAT_LINK_UP 0 1
  { s with hubs := tset s.hubs 0 (m Hub.empty) Hub.empty }
def m2s1 (kind op : Nat) : M2s := { id := 4, port := 0, f := { fl op 255 0x1000000001000 with dst := 32 }, line := 0x40000000040, kind := kind, data := 99, poison := false, be := 255, conflict := none }
theorem witness_CxlMemoryRequests :
    (∀ e ∈ [m2s1 0 1, m2s1 1 4, m2s1 2 7, m2s1 3 7], let s := hub0 2 fun x => { x with m2s := [e], switching := true }
      s.live = true ∧ ((s.hub 0).m2s.find? fun x => x.id = 4) = some e ∧ e.conflict = none ∧ e.f.src.val ≠ hubStop 0 ∧ s.portMode 0 0 = 2 ∧ s.linkUp 0 0 = true ∧
      s.flag (pgHdm 0) F.HDM_MEMERR_VALID = false ∧ (s.hub 0).switching = true) ∧
    (let s := hub0 2 id; ((s.hub 0).m2s.find? fun x => x.id = 4) = none ∧ s.get (pgHdm 0) F.HDM_STAT_LATE 0 < 0xFFFFFFFF) := by decide +kernel
def h2d1 (op : Nat) : H2d := { id := 6, port := 0, f := { fl op 0 0x1000000001000 with dst := 32 } }
def cached0 (ms : List M2s) (home : Bool) : State :=
  let s := (((hub0 2 fun x => { x with m2s := ms, h2d := [h2d1 0x11] }).set (pgHdm 0) F.HDM_CACHE_CTL_EN 0 1).set (pgHdm 0) F.HDM_CACHE_CTL_PORT 0 0)
  { s with slices := if home then tset s.slices 5 { Slice.empty with llc := [(0x40000000040, llc1)] } Slice.empty else s.slices }
theorem witness_CxlCoherence : let e := m2s1 0 1
    (let s := cached0 [e] false; s.portMode 0 0 = 2 ∧ s.linkUp 0 0 = true ∧ s.cachememOn 0 0 = true ∧ s.hubOn 0 = true ∧
      ((s.hub 0).m2s.find? fun y => y.line = 0x40000000040 && y.port = 0 && y.conflict.isNone) = some e ∧ s.cachePort 0 = some 0 ∧
      inHdm (0x40000000040 * 64) = true ∧ ((s.hub 0).h2d.find? fun y => y.id = 6) = some (h2d1 0x11) ∧ (h2d1 0x11).f.src.val ≠ hubStop 0) ∧
    (cached0 [] false).bisnpHome (hubStop 0) 0x40000000040 = none ∧ (cached0 [] true).bisnpHome (hubStop 0) 0x40000000040 = some 5 ∧
    (let c := { e with conflict := some 2 }; ((cached0 [c] false).hub 0).m2s.find? (fun y => y.id = 4 && y.conflict.isSome) = some c) := by decide +kernel
def tlp1 (kind : TlpKind) (addr len : Nat) : Tlp := ⟨kind, addr, len, 7, 9, [], false, 0, false, false, false⟩
def inb1 (port : Nat) : InTlp := ⟨1, port, tlp1 .memWr 0x1000 8, 1, [], none, 0, false, true, 0, 0⟩
def outs1 (write cfg : Bool) : OutTlp := { id := 4, port := 0, f := { fl 3 0xF0 0xE000000001000 with dst := 32 }, write := write, cfg := cfg, msg := .cpl 1 2 0 [] false }
/-- A root port with a capture address and an entry of its table, bus mastering or not. -/
def rootPort (bme masked : Nat) (m : Hub → Hub) : State := [(F.PORT_CTL_BME, 0, bme), (F.PORT_MSI_ADDR_PA, 0, 0xFEE00000 / 4), (F.PORT_IRT_VALID, 127, 1), (F.PORT_IRT_TILE, 127, 159),
  (F.PORT_IRT_SOURCE, 127, 32), (F.PORT_IRT_MASKED, 127, masked)].foldl (fun (s : State) r => s.set (pgPort 0 0) r.1 r.2.1 r.2.2) (hub0 1 m)
/-- Hub 0 with its port 0 the boot endpoint, one window active. -/
def endpoint (m : Hub → Hub) : State := ((((hub0 0 m).set (pgHub 0) F.HUB_CTL_EP 0 1).set (pgEp 0) F.EP_WACT_LO_VALUE 31 (2 ^ 63 + 2 ^ 62 + 16 * 2 ^ 46 + 5 * 2 ^ 54 + 0x10 * 2 ^ 12)).set
  (pgEp 0) F.EP_WACT_HI_VALUE 31 (0x40 * 2 ^ 12))
theorem witness_PcieTraffic :
    (∀ e ∈ [outs1 false false, outs1 true false, outs1 false true], let s := rootPort 1 0 fun x => { x with outs := [e] }
      ((s.hub 0).outs.find? fun x => x.id = 4 && x.port = 0) = some e ∧ e.f.src.val ≠ hubStop 0 ∧ e.f.op = 3 ∧ (s.hub 0).inb = [] ∧
      s.flag (pgPort 0 0) F.PORT_ERRLOG_VALID = false) ∧
    (let s := rootPort 1 0 fun x => { x with inb := [inb1 0] }; (((s.hub 0).inb.filter fun y => y.port = 0 && tlpPosted y.t.kind).map fun y => y.id) ≠ []) ∧
    (∀ b ∈ [0, 1], let s := rootPort b 0 id; s.linkUp 0 0 = true ∧ s.hubOn 0 = true ∧ s.portMode 0 0 = 1 ∧ s.flag (pgIde 0) F.IDE_IO_CTL_REQ 0 = false ∧
      inNear 0x3FFFFFFFFF = true ∧ 0x3FFFFFFFFF / 4096 ≠ s.get (pgPort 0 0) F.PORT_MSI_ADDR_PA 0 * 4 / 4096 ∧ b2n (s.flag (pgPort 0 0) F.PORT_CTL_BME) = b ∧
      0xFEE00000 = s.get (pgPort 0 0) F.PORT_MSI_ADDR_PA 0 * 4 ∧ s.irtOk (pgPort 0 0) 127 = true ∧ s.flag (pgPort 0 0) F.PORT_IRT_RID_CHK 127 = false) ∧
    (rootPort 1 1 id).flag (pgPort 0 0) F.PORT_IRT_MASKED 127 = true ∧
    (let s := endpoint id; s.epPort 0 = some 0 ∧ s.pfOn 0 1 = true ∧ s.linkUp 0 0 = true ∧ s.frozen = false ∧ s.flag (pgIde 0) F.IDE_IO_CTL_REQ 0 = false ∧
      s.winMatch 0 0x100 = none ∧ (s.winMatch 0 0x1FFF8).isSome = true ∧ bitOf ((s.winMatch 0 0x1FFF8).getD (0, 0)).1 62 = true ∧ 0x1FFF8 + 8 ≤ 0x10000 + 2 ^ 16) ∧
    (let m : MsiOut := ⟨2, 0, 127, 159, 32, 6, 7, [], false, 1⟩; ((rootPort 1 0 fun x => { x with msis := [m] }).hub 0).msis.find? (fun x => x.port = 0 && x.n = 127 && !x.sent && 0 < x.tries) = some m) := by
  decide +kernel
/-- A slot in a state. -/
def slotted (x : Slot) (hp : Nat) : State := let s := ((((hub0 1 fun h => { h with slots := [(0, x)] }).set (pgPort 0 0) F.PORT_CTL_HP 0 hp).set (pgPort 0 0) F.PORT_STAT_WIDTH 0 16).set (pgHub 0) F.HUB_SSC_CTL_EN 0 1)
  { s with sys := { s.sys with bootStep := 6 } }
theorem witness_SlotsAndLinks :
    (let s := (slotted Slot.reset 0).set (pgPort 0 0) F.PORT_STAT_LINK_UP 0 0; s.mayTrain 0 0 = true ∧ s.portMode 0 0 = 1 ∧ s.linkUp 0 0 = false ∧
      6 ≤ s.get (pgPort 0 0) F.PORT_CTL_MAXGEN 0 ∧ 16 ≤ s.portWidth 0 0) ∧
    (let s := slotted Slot.reset 0; s.linkUp 0 0 = true ∧ 15 < s.get (pgPort 0 0) F.PORT_STAT_WIDTH 0 ∧ 6 ≤ s.sys.bootStep ∧ s.flag (pgHub (0 / 2)) F.PAGE_CTL_ENABLE = true ∧
      s.groupOn 0 = true) ∧
    (∀ n ∈ [2, 3], let s := slotted { Slot.reset with agP := n } 1; s.flag (pgHub 0) F.HUB_SSC_CTL_EN = true ∧ s.flag (pgPort 0 0) F.PORT_CTL_HP = true ∧ (s.slot 0 0).cmd = 0 ∧
      (s.slot 0 0).inp.prsntN ≠ false ∧ (s.slot 0 0).agP = n) ∧
    (let x := (slotted { Slot.reset with pwrEn := true } 1).slot 0 0; x.pwrEn = true ∧ x.inp.pgood = false) ∧
    (let x := (slotted { Slot.reset with pwrEn := true, refclk := true, app := 0, inp := ⟨false, true, true, true, true, false⟩ } 1).slot 0 0
     x.pwrEn = true ∧ x.refclk = true ∧ x.inp.pgood = true ∧ bitOf x.app 10 = false) ∧
    (let x := (slotted Slot.reset 1).slot 0 0; bitOf x.app 10 = true ∧ x.perst = false) := by decide +kernel
theorem witness_EndpointFace :
    (let s := endpoint id; s.live = true ∧ s.pfOn 0 0 = true ∧ s.pfOn 0 1 = true ∧ (s.hub 0).ep.busy = false ∧ s.epPort 0 = some 0) ∧
    ((endpoint fun x => { x with ep := { x.ep with busy := true } }).hub 0).ep.busy = true ∧
    ((endpoint id).set (pgEp 0) F.EP_STAT_COMMIT_BUSY 0 1).flag (pgEp 0) F.EP_STAT_COMMIT_BUSY = true ∧
    (let s := (endpoint id).set (pgEp 0) F.EP_STAT_FLR 0 3; bitOf (s.get (pgEp 0) F.EP_STAT_FLR 0) 1 = true ∧ (s.hub 0).inb = []) := by decide +kernel

/-! ### The Patrol, the Lift and the package -/

/-- A call that waits at its mailbox: logical tile 3 is at stop 7, and hub 0 has the boot endpoint or not. -/
def call1 (lt : Option Nat) (piste : Fin 64) (lvl : Nat) (args : List Nat) : Call :=
  ⟨lt, 0, piste, lvl, 5, (args ++ List.replicate (16 - args.length) 0).map fun n => BitVec.ofNat 64 n⟩
def calling (c : Call) (ep : Nat) (regs : List (Nat × Fld × Nat × Nat)) : State :=
  let all : List (Nat × Fld × Nat × Nat) := [(pgTmap, F.TMAP_ENT_VALID, 3, 1), (pgTmap, F.TMAP_ENT_STOP, 3, 7), (pgTmap, F.TMAP_ENT_VALID, 4, 1), (pgTmap, F.TMAP_ENT_STOP, 4, 9), (pgSec, F.SEC_STAT_PAIR0_OK, 0, 1),
    (pgPmap, F.PMAP_PISTE_VALID, 3, 1), (pgPmap, F.PMAP_TILE_PISTE, 4, 3), (pgTlift 9, F.TLIFT_TSTAT_STATE, 0, 3), (pgPort 0 0, F.PORT_CTL_PISTE, 0, 3), (pgHub 0, F.HUB_CTL_EP, 0, ep)] ++ regs ++
    (List.range 16).map fun i => (pgEp 0, F.EP_MBX_REQ_WORD, i, callW c i)
  let s := all.foldl (fun (s : State) r => s.set r.1 r.2.1 r.2.2.1 r.2.2.2) State.reset
  let s := s.modCore 7 fun k => { k with sr := { k.sr with pmbBusy := true, pmbSeq := 5 } }
  let s := { s with sys := { s.sys with calls := [{ c with args := [] }] }, pads := Mem.wrs s.pads (7 * 2 ^ 18 + 0x3800) ((List.range 16).flatMap fun i => leBytes (callW c i) 8) }
  s.modHub 0 fun x => { x with ep := { x.ep with busy := true, seq := 5, bme0 := true } }
def callOpen_ (s : State) (c : Call) (code : Nat) : Bool :=
  s.live && s.patrolUp && !s.svcBusy && s.heard c && callW c 0 = code && !s.mailWaits c && match c.lt with
    | some lt => decide (s.ltStop lt = some 7 ∧ (s.core 7).sr.pmbBusy = true ∧ (s.core 7).sr.pmbSeq = c.seq)
    | none => (s.hub c.hub.val).ep.busy && (s.hub c.hub.val).ep.seq = c.seq
theorem callOpen_of {s : State} {c : Call} {code : Nat} (h : callOpen_ s c code = true) : s.callOpen c code := by
  simp only [callOpen_, Bool.and_eq_true, Bool.not_eq_true', decide_eq_true_eq] at h
  obtain ⟨⟨⟨⟨⟨⟨h1, h2⟩, h3⟩, h4⟩, h5⟩, h6⟩, h7⟩ := h
  refine ⟨h1, h2, h3, h4, h5, h6, ?_⟩
  rcases c with ⟨_ | lt, hub, p, l, q, a⟩ <;> simp_all
theorem witness_ServicesCheckAuthority :
    (∀ x ∈ [(0x100, 2, 3), (0x109, 2, 3), (0x10, 1, 3), (0x14, 1, 3), (2, 0, 3), (0x15, 0, 3), (3, 2, 3), (1, 0, 3), (2, 1, 3)], let c := call1 (some 3) x.2.2 x.2.1 [x.1]; let s := calling c 1 []
      callOpen_ s c x.1 = true ∧ s.composer c = false) ∧ 3 ∉ svcCodes ∧
    callOpen_ (calling (call1 none 0 0 [0x10]) 1 []) (call1 none 0 0 [0x10]) 0x10 = true := by decide +kernel
/-- One call of tile 3 at H by function code and words. -/
def by3 (code : Nat) (args : List Nat) : Call := call1 (some 3) 3 2 (code :: args)
theorem witness_PisteServices :
    (let c := by3 0x10 [127 * 65536, 4 * 65536 + 32 * 256 + 1]; let s := calling c 1 []; callOpen_ s c 0x10 = true ∧ s.get (pgPort 0 0) F.PORT_CTL_PISTE 0 = c.piste.val ∧
      bitsOf (callW c 2) 16 8 < 160 ∧ s.get pgPmap F.PMAP_TILE_PISTE (bitsOf (callW c 2) 16 8) = c.piste.val ∧ 32 ≤ bitsOf (callW c 2) 8 8 ∧
      s.get (pgPort 0 1) F.PORT_CTL_PISTE 0 ≠ c.piste.val) ∧
    (let c := by3 0x11 [4, 2 ^ 52 - 64]; let s := calling c 1 []; callOpen_ s c 0x11 = true ∧ isTile 9 = true ∧ s.ltStop 4 = some 9 ∧ s.get pgPmap F.PMAP_TILE_PISTE 4 = c.piste.val ∧
      s.get (pgTlift 9) F.TLIFT_TSTAT_STATE 0 = 3 ∧ callW c 2 % 64 = 0 ∧ callW c 2 < 2 ^ 52 ∧
      (calling c 1 [(pgPmap, F.PMAP_TILE_PISTE, 4, 2)]).get pgPmap F.PMAP_TILE_PISTE 4 ≠ c.piste.val) ∧
    (let c := by3 0x12 [3]; callOpen_ (calling c 1 []) c 0x12 = true ∧ (calling c 1 []).freeSlot.isSome = true ∧
      ({ State.reset with regs := (List.range 256).map fun i => (fkey pgKeys F.KS_SLOT_KIND i, 1) } : State).freeSlot = none) ∧
    (let c := by3 0x14 [0x8000000000000]; callOpen_ (calling c 1 []) c 0x14 = true ∧ (match (calling c 1 []).leafMem (callW c 1) with | .inr _ => true | .inl _ => false) = true) ∧
    (let c := by3 0x13 [0x4000000000 + 4 * 2 ^ 18]; let s := calling c 1 [(pgKeys, F.KS_SLOT_KIND, 255, 5)]; callOpen_ s c 0x13 = true ∧ s.sys.svcs = [] ∧ s.bufOk 3 (callW c 1) 512 = true ∧
      s.get pgKeys F.KS_SLOT_KIND 255 = 5 ∧ s.bufOk 3 (callW c 1 - 512) 512 = false) ∧
    (let c := by3 0x15 [0x4000000000 + 4 * 2 ^ 18, 64]; let s := calling c 1 [(pgRas, F.RAS_REC_STAT_HEAD, 0, 1)]; callOpen_ s c 0x15 = true ∧ s.bufOk 3 (callW c 1) 64 = true ∧ s.rasMine 3 = [] ∧
      { s with sram := Mem.wrs s.sram (rasBase + 8) (leBytes (3 * 2 ^ 48) 8) }.rasMine 3 ≠ []) := by decide +kernel
/-- A call of the composer at PF0. -/
def byPf0 (code : Nat) (args : List Nat) : Call := call1 none 0 0 (code :: args)
def opens (code : Nat) (args : List Nat) : Bool := let c := byPf0 code args; callOpen_ (calling c 1 []) c code && (calling c 1 []).composer c
theorem witness_ComposerServices :
    (opens 0x100 [4, 3] && opens 0x100 [4, 63] && opens 0x101 [0, 0x200000, 2 ^ 63] && opens 0x102 [0, 3] && opens 0x103 [63, 0xFF] && opens 0x104 [63, 5, 0xFF] && opens 0x105 [3, 0] &&
      opens 0x106 [0xFF] && opens 0x107 [5, 3] && opens 0x109 []) = true ∧
    (let s := calling (byPf0 0x100 [3, 3]) 1 []; s.ltStop 3 = some 7 ∧ s.pisteIs 3 = true ∧ s.pisteIs 63 = false ∧ s.get (pgTlift 7) F.TLIFT_TSTAT_STATE 0 ≠ 3 ∧ s.sys.svcs = [] ∧
      leafArg (2 ^ 63) = true ∧ s.freeSlot.isSome = true ∧ s.flag pgSec F.SEC_STAT_ERASED = false ∧ (s.set pgSec F.SEC_STAT_ERASED 0 1).flag pgSec F.SEC_STAT_ERASED = true) ∧
    (let c := call1 (some 3) 0 2 [0x109]; (calling c 0 []).composer c = true ∧ callOpen_ (calling c 0 []) c 0x109 = true) := by decide +kernel
def imaging (dma : List (Nat × Option (List Byte))) (bad : Bool) : State := let s := calling (byPf0 0x108 [0x1000, 512]) 1 []
  { s with sys := { s.sys with svcNext := 1, svcs := [⟨0, byPf0 0x108 [0x1000, 512], .image, [], false, bad, false, 0, 0, dma⟩] } }
theorem witness_BootImageReads : let c := byPf0 0x108 [0x1000, 512]
    (let s := calling c 1 []; c.lt = none ∧ s.epPort c.hub.val = some (0 : Fin 5).val ∧ callOpen_ s c 0x108 = true ∧ 512 ≤ callW c 2 ∧ (s.hub 0).ep.bme0 = true) ∧
    (let s := imaging [(1, none)] false; s.sys.svcs.map (fun r => (r.call = c : Bool)) = [true] ∧ (s.hub 0).outs = [] ∧ (s.hub 0).ep.busy = true ∧ (s.hub 0).ep.seq = c.seq) ∧
    (let s := imaging [(1, some [])] true; (s.sys.svcs.all fun r => r.stage = .image && !r.out && r.dma.all (fun e => e.2.isSome) && r.bad) = true ∧ s.imgOk [] = false) := by decide +kernel
theorem witness_SecurityEvents : let s := State.reset; let v := [1, 2, 3].map fun l => s.set pgSec F.SEC_SENSOR_LEVEL 5 l
    s.live = true ∧ s.flag pgPmap F.PMAP_VIOL_VALID = false ∧ (s.set pgPmap F.PMAP_VIOL_VALID 0 1).flag pgPmap F.PMAP_VIOL_VALID = true ∧ s.get pgSec F.SEC_SENSOR_COUNT 5 < 255 ∧
    (v.map fun s => max (s.get pgSec F.SEC_SENSOR_LEVEL 5) (s.get pgSec F.SEC_SENSOR_FLOOR 5)) = [1, 2, 3] ∧ s.frozen = false ∧
    (s.set pgSec F.SEC_STAT_PAIR1_OK 0 0).flag pgSec F.SEC_STAT_PAIR1_OK = false ∧ (s.set pgSec F.SEC_STAT_PAIR1_OK 0 1).flag pgSec F.SEC_STAT_PAIR1_OK = true := by decide +kernel
theorem witness_DebugPort : let s := busy.set pgPmap F.PMAP_PISTE_DBG 0 1; let o := { s with sys := { s.sys with dbgOpen := true, halted := [1] } }
    isTile 1 = true ∧ s.sys.dbgOpen = false ∧ o.sys.dbgOpen = true ∧ o.flag pgPmap F.PMAP_PISTE_DBG (o.tilePiste 1) = true ∧ 1 ∈ o.sys.halted ∧
    (s.set pgSec F.SEC_STAT_PAIR0_OK 0 1).patrolUp = true := by decide +kernel
theorem witness_PerformanceStates : let s := (State.reset.set (pgTlift 1) F.TLIFT_PSTAT_MOVING 0 1).set pgLift F.LIFT_PLIM_WATTS 0 100
    s.flag (pgTlift 1) F.TLIFT_PSTAT_MOVING = true ∧ (s.set (pgTlift 1) F.TLIFT_TSTAT_STATE 0 0).get (pgTlift 1) F.TLIFT_TSTAT_STATE 0 = 0 ∧
    State.reset.flag (pgTlift 1) F.TLIFT_PSTAT_MOVING = false ∧ s.get pgLift F.LIFT_PLIM_WATTS 0 < 101 ∧ 94 * 100 < 95 * s.get pgLift F.LIFT_PLIM_WATTS 0 ∧ s.sys.slowRun % 10 = 0 := by decide +kernel
/-- A tile whose oldest carve holds a WFI, in a phase of its way to a sleep state. -/
def sleeping (cur ph tgt en : Nat) (pend : Bool) : State :=
  let s := [(pgTlift 1, F.TLIFT_TCTL_TARGET, tgt), (pgTlift 1, F.TLIFT_TSTAT_STATE, cur), (pgTlift 1, F.TLIFT_TSTAT_PHASE, ph), (pgLec 1, F.LEC_PEND_PEND, if pend then 4 else 0), (pgLec 1, F.LEC_MASK_MASK, 0)].foldl
    (fun (s : State) r => s.set r.1 r.2.1 0 r.2.2) (busyX fun x => { x with st := .stalled, wfiHeld := true })
  { s with sys := { s.sys with enterTo := [(1, en)] } }
theorem witness_TileStates :
    (∀ tgt ∈ [1, 2, 3], let s := sleeping 0 0 tgt 0 false; s.live = true ∧ isTile 1 = true ∧ s.flag (pgTlift 1) F.TLIFT_TCTL_FORCE_T3 = false ∧
      s.get (pgTlift 1) F.TLIFT_TSTAT_STATE 0 = 0 ∧ s.get (pgTlift 1) F.TLIFT_TSTAT_PHASE 0 = 0 ∧ s.oldestWfi 1 = true ∧ s.lecPresent 1 = none ∧
      s.get (pgTlift 1) F.TLIFT_TCTL_TARGET 0 = tgt) ∧
    (sleeping 0 1 2 2 true).lecPresent 1 = some (2, 2) ∧ (sleeping 0 1 2 2 true).get (pgTlift 1) F.TLIFT_TSTAT_PHASE 0 = 1 ∧
    (let s := sleeping 0 1 2 2 false; tget s.sys.enterTo 1 0 = 2 ∧ (s.core 1).wc = [] ∧ (s.cache 1).l1 = [] ∧ (s.core 1).sq = [] ∧ s.gateIdle 1 0 = true) ∧
    (∀ e ∈ [1, 2, 3], tget (sleeping 0 2 e e false).sys.enterTo 1 0 = e) ∧ (sleeping 1 0 1 1 true).get (pgTlift 1) F.TLIFT_TSTAT_STATE 0 = 1 ∧
    (∀ c ∈ [2, 3], (sleeping c 4 c c true).get (pgTlift 1) F.TLIFT_TSTAT_STATE 0 = c ∧ (sleeping c 4 c c true).get (pgTlift 1) F.TLIFT_TSTAT_PHASE 0 = 4) := by decide +kernel
/-- The Lift in a package state and phase, with nothing enabled. -/
def lifted (pk ph : Nat) : State := [(F.LIFT_PK_STAT_STATE, pk), (F.LIFT_PK_STAT_PHASE, ph), (F.LIFT_WAKE_CFG_EN, 0x83), (F.LIFT_WAKE_CFG_EDGE, 0x80), (F.LIFT_PK_CTL_PK1_EN, 1), (F.LIFT_CHRONO_COUNT, 9)].foldl
  (fun (s : State) r => s.set pgLift r.1 0 r.2) State.reset
theorem witness_WakesAndPackageIdle :
    (let s := sleeping 2 0 2 2 true; s.ltStop 0 = none ∧ (((s.set pgTmap F.TMAP_ENT_VALID 0 1).set pgTmap F.TMAP_ENT_STOP 0 1).ltStop 0) = some 1 ∧ (s.lecPresent 1).isSome = true ∧
      s.get (pgTlift 1) F.TLIFT_TSTAT_STATE 0 ≠ 0) ∧
    (∀ r ∈ [(1, 0), (0, 1), (0, 2), (0, 3), (1, 4)], let s := lifted r.1 r.2; s.get pgLift F.LIFT_PK_STAT_STATE 0 = r.1 ∧ s.get pgLift F.LIFT_PK_STAT_PHASE 0 = r.2 ∧
      bitOf (s.get pgLift F.LIFT_WAKE_CFG_EN 0) 0 = true ∧ bitOf (s.get pgLift F.LIFT_WAKE_CFG_EDGE 0) 0 = false ∧ bitOf (s.get pgLift F.LIFT_WAKE_CFG_EDGE 0) 7 = true ∧
      bitOf (s.get pgLift F.LIFT_WAKE_CFG_EN 0) 2 = false ∧ s.pkRefuser = none ∧ s.nmcWaits = false ∧ s.pkFlushed = [] ∧ s.frozen = false ∧ s.sys.rasRun = none ∧ s.sys.rasWait = []) ∧
    (let s := (lifted 0 0).set pgLift F.LIFT_WAKE_TMR_CMP 0 9; s.get pgLift F.LIFT_WAKE_TMR_CMP 0 ≠ 0 ∧ s.get pgLift F.LIFT_WAKE_TMR_CMP 0 ≤ s.chrono) ∧
    (lifted 0 0).pk1Ready = true ∧ ((lifted 0 0).modHub 7 fun x => { x with m2s := [m2s1 0 1] }).pkRefuser = some (1, 7, 2) ∧
    ((lifted 0 1).modChan 47 fun x => { x with waiting := [nreq 1 0 true] }).nmcWaits = true := by decide +kernel
/-- LT0 at stop 1, one spare, wear watched. -/
def erring : State :=
  let all : List (Nat × Fld × Nat × Nat) := [(pgTmap, F.TMAP_ENT_VALID, 0, 1), (pgTmap, F.TMAP_ENT_STOP, 0, 1), (pgTmap, F.TMAP_SPARE_AVAIL, 15, 1),
    (pgTmap, F.TMAP_SPARE_STOP, 15, 40), (pgRas, F.RAS_WEAR_AGE_PS, 0, 35), (pgRas, F.RAS_CTL_AUTO_SWAP, 0, 1)]
  all.foldl (fun (s : State) r => s.set r.1 r.2.1 r.2.2.1 r.2.2.2) State.reset
theorem witness_ErrorsAreReported : let s := erring
    s.live = true ∧ s.sys.rasRun = none ∧ (∀ e ∈ s.spares, e.2 ≠ 1) ∧ [pgCore 1, pgL2 1, pgSlice 1, pgLift].all (fun pg => (pageTypeNo pg).isSome) = true ∧
    (s.get pgRas F.RAS_REC_STAT_HEAD 0 + 1) % 512 ≠ s.get pgRas F.RAS_REC_STAT_TAIL 0 ∧
    (let f := s.set pgRas F.RAS_REC_STAT_HEAD 0 511; (f.get pgRas F.RAS_REC_STAT_HEAD 0 + 1) % 512 = f.get pgRas F.RAS_REC_STAT_TAIL 0) ∧
    s.stopLt 1 = some 0 ∧ s.sys.rasWait = [] ∧ 34 < s.get pgRas F.RAS_WEAR_AGE_PS 0 ∧ s.flag pgRas F.RAS_CTL_AUTO_SWAP = true ∧ s.frozen = false ∧ s.ltStop 0 = some 1 ∧
    s.chooseSpare 1 = some (15, 40) := by decide +kernel
theorem witness_TuckAndRise : let s := (((State.reset.set pgRas F.TUCK_CTL_EN 0 1).set pgRas F.TUCK_CTL_WARN 0 700).set pgRas F.TUCK_CTL_HYST 0 20).set pgRas F.TUCK_CTL_RESET 0 600
    let f := { s with sys := { s.sys with tuckFrozen := true } }
    s.live = true ∧ s.flag pgRas F.TUCK_CTL_EN = true ∧ 699 < s.get pgRas F.TUCK_CTL_WARN 0 ∧ s.sys.tuckFrozen = false ∧ f.sys.tuckFrozen = true ∧
    f.get pgRas F.TUCK_CTL_WARN 0 + f.get pgRas F.TUCK_CTL_HYST 0 < 721 ∧ 599 < f.get pgRas F.TUCK_CTL_RESET 0 ∧ f.get pgRas F.TUCK_CTL_RESET 0 ≤ 600 := by decide +kernel
theorem witness_ColdResetAndThermtrip : let s := State.reset; let at_ (p : Phase) := { s with sys := { s.sys with phase := p } }
    (s.sys.phase = .thermTrip → ResetCause.railMonitor = .pwrOkLow) ∧ (at_ .thermTrip).sys.phase = .thermTrip ∧ ResetCause.sysResetLong ≠ .pwrOkLow ∧
    (at_ .coldReset).sys.phase = .coldReset ∧ s.live = true := by decide +kernel
/-- A boot step, with a stored image or none. -/
def bootAt (step ep : Nat) : State := let s := (busy.set (pgTlift 1) F.TLIFT_TSTAT_STATE 0 3).set pgTmap F.TMAP_ENT_VALID 0 1
  { (s.set pgTmap F.TMAP_ENT_STOP 0 1) with sys := { s.sys with bootStep := step, bootEp := ep, bootHalted := false } }
theorem witness_BootSteps :
    (∀ n ∈ [0, 1, 7, 8], let s := bootAt n 0; s.live = true ∧ s.sys.bootHalted = false ∧ s.sys.bootStep = n ∧ s.imgOk [] = false ∧ s.ltStop 0 = some 1 ∧
      s.get (pgTlift 1) F.TLIFT_TSTAT_STATE 0 = 3 ∧ s.sys.bootEp = 0) ∧ (bootAt 1 1).sys.bootEp ≠ 0 := by decide +kernel
theorem witness_SidebandPorts : State.reset.live = true ∧ 6 ≤ (255 : Byte).toNat ∧ JtagOp.idcode ≠ .extest ∧
    nx (exec (.i3cIndexWrite 5) (State.reset.set pgLift F.LIFT_CHRONO_COUNT 0 9)) (fun t => t.sys.i3cOut == 9) = true := by decide +kernel

end Sys2Proof.Tests
end

/-! The values of the operations of opcodes 0x00 and 0x01 in the terms of R124 and R125, and what a clear row of either leaves. -/

namespace Sys2Proof.Machine

/-! ### ALU values (R124) -/

theorem aluVal_min_toInt (a b : Word) : (aluVal 8 a b).toInt = min a.toInt b.toInt := by
  simp only [aluVal, BitVec.slt_iff_toInt_lt, apply_ite BitVec.toInt]
  split <;> omega

theorem aluVal_max_toInt (a b : Word) : (aluVal 9 a b).toInt = max a.toInt b.toInt := by
  simp only [aluVal, BitVec.slt_iff_toInt_lt, apply_ite BitVec.toInt]
  split <;> omega

theorem aluVal_minu_toNat (a b : Word) : (aluVal 10 a b).toNat = min a.toNat b.toNat := by
  simp only [aluVal, BitVec.ult_iff_lt, BitVec.lt_def, apply_ite BitVec.toNat]
  split <;> omega

theorem aluVal_maxu_toNat (a b : Word) : (aluVal 11 a b).toNat = max a.toNat b.toNat := by
  simp only [aluVal, BitVec.ult_iff_lt, BitVec.lt_def, apply_ite BitVec.toNat]
  split <;> omega

theorem aluVal_addw (a b : Word) : aluVal 12 a b = (a.setWidth 32 + b.setWidth 32).signExtend 64 := by
  rw [aluVal, sext32, BitVec.setWidth_add _ _ (by decide)]

theorem aluVal_subw (a b : Word) : aluVal 13 a b = (a.setWidth 32 - b.setWidth 32).signExtend 64 := by
  have hsub : (a - b).setWidth 32 = a.setWidth 32 - b.setWidth 32 := by bv_omega
  rw [aluVal, sext32, hsub]

/-! ### Rotates, counts and byte order (R125) -/

theorem shiftVal_rol (a b : Word) :
    shiftVal 3 a b = a <<< (b.toNat % 64) ||| a >>> (64 - b.toNat % 64) :=
  BitVec.rotateLeft_eq_rotateLeftAux_of_lt (Nat.mod_lt _ (by decide))

theorem shiftVal_ror (a b : Word) :
    shiftVal 4 a b = a >>> (b.toNat % 64) ||| a <<< (64 - b.toNat % 64) :=
  BitVec.rotateRight_eq_rotateRightAux_of_lt (Nat.mod_lt _ (by decide))

/-- The leading zeros of an `n`-bit number bound it from above, and from below where it is not zero. -/
theorem clzAux_bounds {v n : Nat} (hv : v < 2 ^ n) :
    clzAux v n ≤ n ∧ v < 2 ^ (n - clzAux v n) ∧ (clzAux v n < n → 2 ^ (n - 1 - clzAux v n) ≤ v) := by
  induction n with
  | zero => exact ⟨Nat.le_refl _, hv, fun h => absurd h (Nat.lt_irrefl _)⟩
  | succ n ih =>
    cases hbit : v.testBit n with
    | true =>
      have hc : clzAux v (n + 1) = 0 := by simp [clzAux, hbit]
      rw [hc]
      exact ⟨Nat.zero_le _, hv, fun _ => Nat.ge_two_pow_of_testBit hbit⟩
    | false =>
      have hc : clzAux v (n + 1) = 1 + clzAux v n := by simp [clzAux, hbit]
      have hlt : v < 2 ^ n := by
        refine Nat.lt_pow_two_of_testBit v fun i hi => ?_
        obtain rfl | hni := Nat.eq_or_lt_of_le hi
        · exact hbit
        · exact Nat.testBit_lt_two_pow (Nat.lt_of_lt_of_le hv (Nat.pow_le_pow_right (by decide) hni))
      obtain ⟨hle, hhi, hlo⟩ := ih hlt
      have hpred : n + 1 - 1 - (1 + clzAux v n) = n - 1 - clzAux v n := by omega
      rw [hc, hpred, Nat.add_comm 1, Nat.add_sub_add_right]
      exact ⟨Nat.add_le_add_right hle 1, hhi, fun h => hlo (Nat.lt_of_succ_lt_succ h)⟩

theorem ctzAux_le (v i n : Nat) : ctzAux v i n ≤ n := by
  induction n generalizing i with
  | zero => exact Nat.le_refl _
  | succ n ih =>
    have := ih (i + 1)
    rw [ctzAux]
    split <;> omega

/-- The bits that `ctzAux` counts are zero. -/
theorem testBit_of_lt_ctzAux {v i n j : Nat} (hj : j < ctzAux v i n) : v.testBit (i + j) = false := by
  induction n generalizing i j with
  | zero => exact absurd hj (Nat.not_lt_zero j)
  | succ n ih =>
    cases hbit : v.testBit i with
    | true => simp [ctzAux, hbit] at hj
    | false =>
      cases j with
      | zero => exact hbit
      | succ j =>
        have hj' : j < ctzAux v (i + 1) n := by simp [ctzAux, hbit] at hj; omega
        rw [← ih hj', Nat.add_right_comm, Nat.add_assoc]

/-- The bit at which `ctzAux` stops is set, where it stops before its last. -/
theorem testBit_ctzAux {v i n : Nat} (hn : ctzAux v i n < n) : v.testBit (i + ctzAux v i n) = true := by
  induction n generalizing i with
  | zero => exact absurd hn (Nat.not_lt_zero _)
  | succ n ih =>
    cases hbit : v.testBit i with
    | true => simp [ctzAux, hbit]
    | false =>
      have hc : ctzAux v i (n + 1) = 1 + ctzAux v (i + 1) n := by simp [ctzAux, hbit]
      rw [hc] at hn ⊢
      rw [← Nat.add_assoc]
      exact ih (by omega)

theorem mod_two_pow_ctzAux (v n : Nat) : v % 2 ^ ctzAux v 0 n = 0 := by
  refine Nat.eq_of_testBit_eq fun j => ?_
  rw [Nat.zero_testBit, Nat.testBit_mod_two_pow, Bool.and_eq_false_iff, decide_eq_false_iff_not]
  by_cases hj : j < ctzAux v 0 n
  · exact .inr (Nat.zero_add j ▸ testBit_of_lt_ctzAux hj)
  · exact .inl hj

theorem popAux_eq_length_filter (v n : Nat) : popAux v n = ((List.range n).filter v.testBit).length := by
  induction n with
  | zero => rfl
  | succ n ih =>
    rw [popAux, ih, List.range_succ, List.filter_append, List.length_append, Nat.add_comm]
    cases hbit : v.testBit n <;> simp [b2n, hbit]

theorem revBytes_lt (v n : Nat) : revBytes v n < 256 ^ n := by
  induction n generalizing v with
  | zero => exact Nat.one_pos
  | succ n ih =>
    have hrest := ih (v / 256)
    have hbyte : v % 256 < 256 := Nat.mod_lt _ (by decide)
    have htop := Nat.mul_le_mul_right (256 ^ n) (Nat.le_of_lt_succ hbyte)
    rw [revBytes, Nat.pow_succ]
    omega

/-- Byte `i` of `n` bytes reversed is byte `n - 1 - i` of the original. -/
theorem byte_revBytes (v : Nat) {n i : Nat} (hi : i < n) :
    revBytes v n / 256 ^ i % 256 = v / 256 ^ (n - 1 - i) % 256 := by
  induction n generalizing v with
  | zero => exact absurd hi (Nat.not_lt_zero i)
  | succ n ih =>
    have hrest := revBytes_lt (v / 256) n
    rw [revBytes]
    obtain rfl | hin := Nat.eq_or_lt_of_le (Nat.le_of_lt_succ hi)
    · rw [Nat.mul_comm, Nat.mul_add_div (Nat.pow_pos (by decide)), Nat.div_eq_of_lt hrest]
      simp
    · have hsplit : 256 ^ n = 256 ^ i * (256 * 256 ^ (n - 1 - i)) := by
        rw [← Nat.pow_succ', ← Nat.pow_add]
        congr 1
        omega
      have hexp : (n - 1 - i).succ = n + 1 - 1 - i := by omega
      calc (v % 256 * 256 ^ n + revBytes (v / 256) n) / 256 ^ i % 256
          = revBytes (v / 256) n / 256 ^ i % 256 := by
            rw [hsplit, Nat.mul_left_comm, Nat.mul_add_div (Nat.pow_pos (by decide)), Nat.mul_left_comm, Nat.mul_add_mod]
        _ = v / 256 / 256 ^ (n - 1 - i) % 256 := ih _ hin
        _ = v / 256 ^ (n + 1 - 1 - i) % 256 := by rw [Nat.div_div_eq_div_mul, ← Nat.pow_succ', hexp]

theorem toNat_wd {n : Nat} (hn : n < 2 ^ 64) : (wd n).toNat = n := by
  rw [wd, BitVec.toNat_ofNat, Nat.mod_eq_of_lt hn]

theorem toNat_shiftVal_clz (a b : Word) : (shiftVal 8 a b).toNat = clzAux a.toNat 64 := by
  obtain ⟨hle, -⟩ := clzAux_bounds a.isLt
  exact toNat_wd (by omega)

theorem toNat_shiftVal_ctz (a b : Word) : (shiftVal 9 a b).toNat = ctzAux a.toNat 0 64 :=
  toNat_wd (Nat.lt_of_le_of_lt (ctzAux_le _ _ _) (by decide))

theorem shiftVal_clz (a b : Word) :
    (shiftVal 8 a b).toNat ≤ 64 ∧ a.toNat < 2 ^ (64 - (shiftVal 8 a b).toNat) ∧
      ((shiftVal 8 a b).toNat < 64 → 2 ^ (63 - (shiftVal 8 a b).toNat) ≤ a.toNat) := by
  rw [toNat_shiftVal_clz]
  exact clzAux_bounds a.isLt

theorem shiftVal_ctz (a b : Word) :
    (shiftVal 9 a b).toNat ≤ 64 ∧ a.toNat % 2 ^ (shiftVal 9 a b).toNat = 0 ∧
      ((shiftVal 9 a b).toNat < 64 → a.getLsbD (shiftVal 9 a b).toNat = true) := by
  rw [toNat_shiftVal_ctz]
  refine ⟨ctzAux_le _ _ _, mod_two_pow_ctzAux _ _, fun h => ?_⟩
  rw [← BitVec.testBit_toNat, ← testBit_ctzAux h, Nat.zero_add]

theorem shiftVal_popc (a b : Word) :
    (shiftVal 10 a b).toNat = ((List.range 64).filter fun i => a.getLsbD i).length := by
  have hlen : popAux a.toNat 64 = ((List.range 64).filter fun i => a.getLsbD i).length :=
    popAux_eq_length_filter a.toNat 64
  have hle := List.length_filter_le (fun i => a.getLsbD i) (List.range 64)
  rw [List.length_range] at hle
  rw [← hlen]
  exact toNat_wd (by omega)

theorem shiftVal_rev8 (a b : Word) {i : Nat} (hi : i < 8) :
    (shiftVal 11 a b).extractLsb' (8 * i) 8 = a.extractLsb' (8 * (7 - i)) 8 := by
  have hv : (shiftVal 11 a b).toNat = revBytes a.toNat 8 := toNat_wd (revBytes_lt _ 8)
  apply BitVec.eq_of_toNat_eq
  rw [BitVec.extractLsb'_toNat, BitVec.extractLsb'_toNat, hv, Nat.shiftRight_eq_div_pow, Nat.shiftRight_eq_div_pow, Nat.pow_mul,
    Nat.pow_mul]
  exact byte_revBytes _ hi

/-! ### Rows with one integer result -/

theorem intRef_eq_iDest (x : Nat) : intRef x = iDest x := rfl

/-- An operation of the integer group leaves nothing for its carve's commit. -/
theorem commitAct_int {opcode : Nat} (ho : opcode < 0x2C) {sl f : Nat} {o : Op} (r : Ops) :
    commitAct (rowOp sl opcode f o) r 0 0 = [] := by
  simp (disch := omega) only [commitAct, rowOp, rowX, if_neg]

/-- A clear row of the integer group whose format writes integer specifier D with a fixed latency leaves that one result. -/
theorem issueRow_int {s : State} {st trk sl opcode k n : Nat} {o : Op} {m : Fmt} {v : Word}
    (hc : s.clearAt st trk sl opcode o.f.toNat o k) (ho : opcode < 0x2C)
    (hfm : fmtOf opcode o.f.toNat ((s.opCore st k).rdCfg k) = some m)
    (hd : m.d = .i) (hdu : m.du = .wr) (hwc : m.wc = false) (hl : m.lat = .fixed n)
    (hv : intRes (rowOp sl opcode o.f.toNat o) (s.opArgs st k opcode o.f.toNat o) = [resI o.d.toNat v]) :
    s.issueRow st trk sl opcode o.f.toNat o = s.intIssued st k sl opcode o n v := by
  have hop : ∀ t : State, t.opRes st (rowOp sl opcode o.f.toNat o) (s.opArgs st k opcode o.f.toNat o) = ([resI o.d.toNat v], 0) :=
    fun t => by rw [State.opRes, if_pos (show (rowOp sl opcode o.f.toNat o).x.o < 0x2C from ho), hv]
  have hwr : writeRefs (rowX opcode o.f.toNat o) m ((s.opCore st k).rdCfg k) = [iDest o.d.toNat] := by
    have h3 : ¬ (opcode = 0x3D ∨ opcode = 0x3E ∧ o.f.toNat = 1) := by omega
    simp [writeRefs, rowX, hd, hdu, hwc, h3, fieldRefs, intRef_eq_iDest]
  rw [issueRow_fixed hc (by omega) o.f.isLt (by omega) (by omega) hfm hl (commitAct_int ho), hwr]
  simp only [State.opArgs] at hop
  rw [hop]
  rfl

theorem clearAt_live {s : State} {st trk sl opcode f k : Nat} {o : Op} (hc : s.clearAt st trk sl opcode f o k) : s.live = true :=
  hc.1

theorem fmtOf_alu {f : Nat} {c : Vcfg} {m : Fmt} (h : fmtOf 0x00 f c = some m) :
    f < 14 ∧ m = fmt3 3 .i .wr .i .i (.fixed 1) := by
  by_cases hf : f < 14
  · exact ⟨hf, by simpa [fmtOf, hf] using h.symm⟩
  · simp [fmtOf, hf] at h

/-- A clear ALU row names an assigned function, and leaves its value with latency 1. -/
theorem exec_alu_clear {st : Stop} {trk : Fin 2} {sl : Fin 4} {o : Op} {s : State} {k : Nat} (ht : isTile st = true)
    (hc : s.clearAt st trk sl 0x00 o.f.toNat o k) :
    o.f.toNat < 14 ∧ exec (.alu st trk sl o) s =
      .next (s.intIssued st k sl 0x00 o 1 (aluVal o.f.toNat (s.opI st k o.a.toNat) (s.opI st k o.b.toNat))) := by
  obtain ⟨m, hm⟩ := clearAt_fmt hc (by decide) o.f.isLt
  obtain ⟨hf, rfl⟩ := fmtOf_alu hm
  refine ⟨hf, ?_⟩
  rw [exec_alu, execAlu, onTile_live ht (clearAt_live hc), issueRow_int hc (by decide) hm rfl rfl rfl rfl rfl]
  rfl

/-- A clear SHIFT row leaves its value with latency 1. -/
theorem exec_shift_clear {st : Stop} {trk : Fin 2} {sl : Fin 4} {o : Op} {s : State} {k : Nat} (ht : isTile st = true)
    (hc : s.clearAt st trk sl 0x01 o.f.toNat o k) :
    exec (.shift st trk sl o) s =
      .next (s.intIssued st k sl 0x01 o 1 (shiftVal o.f.toNat (s.opI st k o.a.toNat) (s.opI st k o.b.toNat))) := by
  rw [exec_shift, execShift, onTile_live ht (clearAt_live hc), issueRow_int hc (by decide) rfl rfl rfl rfl rfl rfl]
  rfl

/-! ### The obligations -/

/-- Settles O6: a clear row leaves `aluVal` of its function, and each function is the one R124 names. -/
theorem aluResult : Obligations.AluResult := by
  intro st trk sl o s k ht hc a b
  obtain ⟨hf, hexec⟩ := exec_alu_clear ht hc
  have hval : ∀ f, o.f = f → aluVal o.f.toNat a b = aluVal f.toNat a b := fun f h => by rw [h]
  refine ⟨_, hexec, hval 0, hval 1, hval 2, hval 3, hval 4, hval 5, hval 6, hval 7, ?_, ?_, ?_, ?_, ?_, ?_, hf⟩
  · exact fun h => (congrArg BitVec.toInt (hval 8 h)).trans (aluVal_min_toInt a b)
  · exact fun h => (congrArg BitVec.toInt (hval 9 h)).trans (aluVal_max_toInt a b)
  · exact fun h => (congrArg BitVec.toNat (hval 10 h)).trans (aluVal_minu_toNat a b)
  · exact fun h => (congrArg BitVec.toNat (hval 11 h)).trans (aluVal_maxu_toNat a b)
  · exact fun h => (hval 12 h).trans (aluVal_addw a b)
  · exact fun h => (hval 13 h).trans (aluVal_subw a b)

/-- Settles O7: a clear row leaves `shiftVal` of its function, and each function is the one R125 names. -/
theorem shiftResult : Obligations.ShiftResult := by
  intro st trk sl o s k ht hc a b n m w
  have hval : ∀ f, o.f = f → shiftVal o.f.toNat a b = shiftVal f.toNat a b := fun f h => by rw [h]
  refine ⟨_, exec_shift_clear ht hc, hval 0, hval 1, hval 2, ?_, ?_, hval 5, hval 6, hval 7, ?_, ?_, ?_, ?_,
    hval 12, hval 13, hval 14, hval 15⟩
  · exact fun h => (hval 3 h).trans (shiftVal_rol a b)
  · exact fun h => (hval 4 h).trans (shiftVal_ror a b)
  · exact fun h => hval 8 h ▸ shiftVal_clz a b
  · exact fun h => hval 9 h ▸ shiftVal_ctz a b
  · exact fun h => (congrArg BitVec.toNat (hval 10 h)).trans (shiftVal_popc a b)
  · exact fun h i hi => hval 11 h ▸ shiftVal_rev8 a b hi

end Sys2Proof.Machine
